-- ==== Sys2Proof/Word.lean ====
section
/-!
DEFINITION. Word types of the module and the plainest facts about bytes.
R7: fields are little-endian, bit 0 is the least significant bit.
-/

namespace Sys2Proof

/-- A byte. -/
abbrev Byte := BitVec 8
/-- A 16-bit value (type U16 of Table 16-1). -/
abbrev U16 := BitVec 16
/-- A 32-bit value (type U32), also the bits of an FP32 value. -/
abbrev U32 := BitVec 32
/-- A 64-bit value (type U64). -/
abbrev U64 := BitVec 64
/-- A 64-byte line; byte i is bits [8i+7:8i]. -/
abbrev Line := BitVec 512
/-- A 32-byte completion-ring slot. -/
abbrev Slot := BitVec 256
/-- A 128-bit core instruction (R203). -/
abbrev CoreWord := BitVec 128
/-- A 16-byte link message (R383). -/
abbrev Message := BitVec 128
/-- A SHAKE256 digest of 256 bits. -/
abbrev Digest := BitVec 256

/-- Sparse byte memory: (address, byte) pairs, addresses rising, no zero byte listed.
An address that is not listed reads as zero. -/
abbrev Mem := List (Nat × Byte)

/-- An exact value on its way to a rounding: a NaN or an infinity of a sign, or (−1)^sign · m · 2^e.
A zero has m = 0 and keeps its sign. -/
inductive Fp where
  | nan (neg : Bool)
  | inf (neg : Bool)
  | fin (neg : Bool) (m : Nat) (e : Int)
  deriving DecidableEq, Repr

end Sys2Proof
end

