-- ==== Sys2Proof/Syntax.lean ====
section
/-!
DEFINITION. The commands of the module: one constructor for each row of the opcode table, with the
row's operands. The table gives no row a bit pattern, so operands are typed here from the rules.
-/

namespace Sys2Proof

/-- A command record taken from command ring `ring` (R20): 64 bytes, byte i in bits [8i+7:8i]. -/
structure Record where
  ring : Nat
  bits : Line
  deriving DecidableEq, Repr

/-- What the collector reads on a source's dual-rail pair (R472). -/
inductive Rail where
  /-- The pair (1, 0). -/
  | asserted
  /-- An equal state held for two samples: counts as asserted. -/
  | equal
  /-- The pair (0, 1). -/
  | quiet
  /-- A memory controller asserts its pair for a line that a read found bad (R366): the channel, and whether the line
  was misdirected. -/
  | line (channel : Nat) (misdirected : Bool)
  deriving DecidableEq, Repr

/-- An Ethernet frame received on the management port (R460, R461). -/
structure MgmtFrame where
  dst : BitVec 48
  src : BitVec 48
  etherType : U16
  vlan : Bool
  fcsGood : Bool
  payload : List Byte
  deriving DecidableEq, Repr

/-- A flit of a Foilius link (R379): 272 bytes, with what the forward error correction reported. -/
structure Flit where
  bytes : List Byte
  /-- The codeword could be corrected. -/
  fecGood : Bool
  /-- Symbols corrected in its codeword. -/
  fecFixed : Nat
  deriving DecidableEq, Repr

/-- One update of a row sent by another rank for a `mirror` table (R139): the ROW_LOAD base, if any,
and the FP32 delta, or the value of an overwrite table. -/
structure RowDelta where
  table : Nat
  row : Nat
  base : Option (List U32)
  delta : Option (List U32)
  deriving DecidableEq, Repr

/-- A sealed bale as it crosses a peer port or lies in a seal area (R299): ciphertext, IV and tag. -/
structure SealedBale where
  kind : Nat
  stream : Nat
  bale : Nat
  digest : Digest
  iv : BitVec 96
  tag : BitVec 128
  cipher : List Byte
  deriving DecidableEq, Repr

/-- A session on its way between modules: what R311 and R306 send. -/
structure MovedSession where
  session : U64
  sealNo : U64
  /-- The session's state before the move: 1, 2, 3 or 4. -/
  state : Nat
  parkedFrom : Nat
  /-- Key identifier of the tenant on the sender (R440); local keys never match. -/
  keyId : U64
  keyImported : Bool
  /-- What the manifest lists, in order: kind, stream, bale, digest. -/
  listed : List (Nat × Nat × Nat × Digest)
  objects : List SealedBale
  /-- More objects of the seal follow: a bale crosses as one message (R382). -/
  more : Bool
  deriving DecidableEq, Repr

/-- BULK traffic (Table 13-7). `src` and `dst` are ranks. -/
inductive Bulk where
  /-- A member's parts of a collective (R415). -/
  | collective (barrier : Nat) (epoch : U64) (src : Nat) (partBytes parts : Nat) (data : List Byte)
  /-- Deltas of `mirror` tables for one boundary (R139). -/
  | deltas (src : Nat) (rows : List RowDelta)
  /-- A moved session (R311). -/
  | moved (src : Nat) (m : MovedSession)
  /-- Mirrored seal objects on port 0 (R306). -/
  | mirrored (m : MovedSession)
  deriving DecidableEq, Repr

/-- ACKP traffic (Table 13-7). -/
inductive AckMsg where
  /-- The target of a MOVE accepted (status 0) or refused it (R311). -/
  | moveAck (session : U64) (status : Nat)
  /-- The twin holds the objects of one message of the seal (status 0), refused them for space (NO_SPACE), or takes
  nothing because the keys differ (ACCESS_DENIED) (R305, R440). -/
  | twinReceipt (session : U64) (sealNo : U64) (status : Nat)
  deriving DecidableEq, Repr

/-- SYNC traffic (R413): an arrival of a rank at a barrier, or a release. -/
structure SyncMsg where
  barrier : Nat
  epoch : U64
  src : Nat
  release : Bool
  coreMask : U64
  ranks : List Nat
  deriving DecidableEq, Repr

/-- What start-up found (stages 2 and 3, R200, R370, R510). (Log entry 89: DESIGN CHOICE, safe.) -/
structure Found where
  /-- The boot ROM's tests of the partition's RAM and hash engine passed (R429 step 1). -/
  romOk : Bool
  /-- Slots of the partition image and of the main image whose flash no longer reads as it was written, so that no
  image verifies there (R429): 0 none, 1 the active slot, 2 both. -/
  spBoot : Nat
  mainBoot : Nat
  /-- Failing cube columns of each core, all four arrays together. -/
  bypass : Vector (BitVec 4) 64
  /-- Arrays in which a failing cube was found. -/
  badArrays : Vector (BitVec 4) 64
  /-- Channels that failed training twice (R370). -/
  failed : List Nat
  /-- Packages whose density or organisation is wrong (R360). -/
  mismatch : List Nat
  /-- What the pattern test of suspect channels found (R370): channel, an uncorrectable line, corrected symbols. -/
  pattern : List (Nat × Bool × Nat)
  /-- Quadrants whose crossbar works. -/
  crossbars : BitVec 4
  /-- Engines that passed self-test, in the form of `engines` of Table 1-11. -/
  engines : U16
  threshers : BitVec 2
  peerPorts : Byte
  /-- Milliseconds since reset release. -/
  ms : Nat
  /-- Random values of this boot: the encapsulation key's seed (R429). -/
  seed : Nat
  deriving DecidableEq, Repr

/-- What a read of a T1 line found (R364 to R366). -/
inductive LineRead where
  | clean
  | corrected
  | uncorrectable
  | misdirected
  /-- An error over three or more symbols: detected or miscorrected (R364). -/
  | wide
  deriving DecidableEq, Repr

/-- A place that the debug port reads and writes (R448). How it names a unit is not stated. (Log entry 145: DESIGN
CHOICE, unsafe.) -/
inductive DebugPlace where
  | sram (core addr : Nat)
  | reg (core reg : Nat)
  | loft (quadrant addr : Nat)
  /-- A byte of a T1 frame that holds a key-value bale. -/
  | frame (frame addr : Nat)
  /-- A byte of a tenant's host memory in T1, by virtual address. -/
  | host (tenant addr : Nat)
  /-- A setting of an object, which is how every other unit is described. -/
  | object (index sub : Nat)
  /-- A register of a unit whose layout is not stated. -/
  | other (unit addr : Nat)
  deriving DecidableEq, Repr

/-- What the debug port does while `debug` is 1 (R448). -/
inductive DebugAct where
  | read (p : DebugPlace)
  | write (p : DebugPlace) (v : U64)
  | halt
  deriving DecidableEq, Repr

/-- An access of the debug port. While the port is locked it passes the bit `tdi` as BYPASS does. -/
structure DebugAccess where
  tdi : Bool
  act : DebugAct
  deriving DecidableEq, Repr

/-- One constructor for each row of the opcode table. -/
inductive Instr where
  -- the coherent link
  | snpInv (tag : U16) (addr : U64)
  | data (tag : U16) (line : Line)
  | wrAck (tag : U16)
  | err (tag : U16)
  | winRd (tag : U16) (off : Nat)
  | winWr (tag : U16) (off : Nat) (line : Line)
  -- records
  | recordStart (ring : Nat)
  | indexCreate (r : Record)
  | indexLoad (r : Record)
  | indexDrop (r : Record)
  | indexSave (r : Record)
  | vecInsert (r : Record)
  | vecDelete (r : Record)
  | indexPublish (r : Record)
  | generationSwitch (slot tenant : Nat)
  | autoPublish (slot tenant : Nat)
  | search (r : Record)
  | topk (r : Record)
  | topkMerge (r : Record)
  | tableCreate (r : Record)
  | tableDrop (r : Record)
  | rowLoad (r : Record)
  | tableSave (r : Record)
  | gather (r : Record)
  | pool (r : Record)
  | scatter (r : Record)
  | tableBoundary
  | quietUsExpiry
  | tokenise (r : Record)
  | detokenise (r : Record)
  | grammarLoad (r : Record)
  | grammarDrop (r : Record)
  | templateLoad (r : Record)
  | templateDrop (r : Record)
  | passageLoad (r : Record)
  | passageDrop (r : Record)
  | pack (r : Record)
  | jobLoad (r : Record)
  | jobEnd (r : Record)
  | graceExpiry
  | request (r : Record)
  | embed (r : Record)
  | safeguardRead (r : Record)
  | modelLoad (r : Record)
  | modelRetire (r : Record)
  | modelCurrent (r : Record)
  | modelPin (r : Record)
  -- serving steps
  | stepOpen
  | epochOpen
  | stepEnd
  | slowWindowEnd
  -- sessions
  | openSession (r : Record)
  | append (r : Record)
  | generate (r : Record)
  | resume (r : Record)
  | park (r : Record)
  | revive (r : Record)
  | move (r : Record)
  | fork (r : Record)
  | close (r : Record)
  | sealSession (r : Record)
  | sealComplete (session : U64)
  | automaticSeal (session : U64)
  -- tiers
  | pageMap (r : Record)
  | pageUnmap (r : Record)
  | copyIn (r : Record)
  | copyOut (r : Record)
  | tierMode (r : Record)
  | windowOpen (r : Record)
  | windowFlush (r : Record)
  | windowClose (r : Record)
  | windowFill (window bale : Nat) (write : Option (Nat × Byte))
  | quarantineRelease (epoch : U32)
  -- tallies and diagnostics
  | tallyClaim (r : Record)
  | tallyRelease (r : Record)
  | tallySignal (r : Record)
  | tallyWait (r : Record)
  | tallyRead (r : Record)
  | tallyTimeout (tally : Nat) (ring : Nat) (seq : U32)
  | diagEcho (r : Record)
  | faultInject (r : Record)
  | faultRead (r : Record)
  -- core instructions: `vc` is the virtual core that issues, `w` the 128-bit word
  | mma (vc : Nat) (w : CoreWord)
  | jump (vc : Nat) (w : CoreWord)
  | branch (vc : Nat) (w : CoreWord)
  | loop (vc : Nat) (w : CoreWord)
  | halt (vc : Nat) (w : CoreWord)
  | drain (vc : Nat) (w : CoreWord)
  | tallyAdd (vc : Nat) (w : CoreWord)
  | tallyWaitInstruction (vc : Nat) (w : CoreWord)
  | barrier (vc : Nat) (w : CoreWord)
  | collect (vc : Nat) (w : CoreWord)
  | add (vc : Nat) (w : CoreWord)
  | sub (vc : Nat) (w : CoreWord)
  | mul (vc : Nat) (w : CoreWord)
  | and (vc : Nat) (w : CoreWord)
  | or (vc : Nat) (w : CoreWord)
  | xor (vc : Nat) (w : CoreWord)
  | shl (vc : Nat) (w : CoreWord)
  | shr (vc : Nat) (w : CoreWord)
  | loadi (vc : Nat) (w : CoreWord)
  | ld (vc : Nat) (w : CoreWord)
  | st (vc : Nat) (w : CoreWord)
  | moveInstruction (vc : Nat) (w : CoreWord)
  | rowget (vc : Nat) (w : CoreWord)
  | rowpool (vc : Nat) (w : CoreWord)
  | rowput (vc : Nat) (w : CoreWord)
  | attend (vc : Nat) (w : CoreWord)
  | writtenThroughMark (vc : Nat)
  | walkWaitTimeout (vc : Nat)
  | handoff (vc : Nat) (w : CoreWord)
  | vectorAdd (vc : Nat) (w : CoreWord)
  | vectorSub (vc : Nat) (w : CoreWord)
  | vectorMul (vc : Nat) (w : CoreWord)
  | fma (vc : Nat) (w : CoreWord)
  | max (vc : Nat) (w : CoreWord)
  | exp (vc : Nat) (w : CoreWord)
  | recip (vc : Nat) (w : CoreWord)
  | rsqrt (vc : Nat) (w : CoreWord)
  | silu (vc : Nat) (w : CoreWord)
  | gelu (vc : Nat) (w : CoreWord)
  | cvt (vc : Nat) (w : CoreWord)
  | rsum (vc : Nat) (w : CoreWord)
  | rmax (vc : Nat) (w : CoreWord)
  | softmax (vc : Nat) (w : CoreWord)
  | rmsnorm (vc : Nat) (w : CoreWord)
  | layernorm (vc : Nat) (w : CoreWord)
  | rope (vc : Nat) (w : CoreWord)
  | hadamard (vc : Nat) (w : CoreWord)
  | psum (vc : Nat) (w : CoreWord)
  -- dictionary requests: `route` 0 is the window, 1 the management port
  | commandRingEnable (route ring : Nat) (value : U64)
  | completionRingEnable (route ring : Nat) (value : U64)
  | dictionaryWrite (route index sub : Nat) (value : U64)
  | dictionaryFrame (f : MgmtFrame)
  | dictionaryCommit (index sub : Nat)
  | quote (route : Nat) (value : U64)
  | quoteWritten
  | keyImport (route : Nat) (value : U64)
  | keyErase (route : Nat) (value : U64)
  | installMainFirmware (route : Nat)
  | installPartitionFirmware (route : Nat)
  | rotateIdentity (route : Nat)
  | debugUnlock (route : Nat)
  | factoryReset (route : Nat)
  | trustOperationEnd
  | stageOff (route : Nat) (value : U64)
  | stageData (route : Nat) (value : U64)
  | stickyClear (route sub : Nat) (value : U64)
  | causeClear (route index sub : Nat) (value : U64)
  | sleep (route : Nat) (value : U64)
  | sleepExit
  | softReset (route : Nat) (value : U64)
  | peerPortEnable (route port : Nat) (value : U64)
  | pairEn (route : Nat) (value : U64)
  | detachPair (route : Nat) (value : U64)
  -- faults and links: link 0 is the coherent link, link 1 + p is peer port p
  | faultSourceAssert (source : Nat) (rail : Rail)
  | jobRestart
  | flit (link : Nat) (f : Flit)
  | acknowledgeInterval (link : Nat)
  | laneFailure (link : Nat) (working : U16)
  | linkTrained (base size : U64) (lanes : U16) (reqMsgs reqCells srspMsgs wrspMsgs wrspCells : Nat)
  | coherentLinkLost
  | linkTrainingRetry
  | watchPoll
  | peerPortTrained (port : Nat) (lanes : Byte) (serial : U64) (job : Option (U64 × Nat))
  | peerPortDown (port : Nat)
  | joinTimeout (port : Nat)
  | bulk (port dst : Nat) (b : Bulk)
  | ackp (port dst : Nat) (a : AckMsg)
  | barrierArrival (port dst : Nat) (m : SyncMsg)
  | barrierTimeout (barrier : Nat)
  | slackReport (port : Nat) (m : Message)
  | hello (port : Nat) (m : Message)
  | helloTimer
  | ready (port : Nat) (m : Message)
  | detach (port : Nat) (m : Message)
  | detached (port : Nat) (m : Message)
  | detachTimeout
  | fault (port : Nat) (m : Message)
  | twinSenseN (low : Bool)
  -- start-up, power and pins
  | startUpStage (f : Found)
  | powerOnReset
  | pinReset (low : Bool)
  | pmateN (closed : Bool)
  | vinFault
  | nvWriteInhibit
  | nvWriteResume
  | inputSagEnd
  | undervoltageLockout
  | throttleUpdate (vinMv inputW tj : Nat) (overCap : Bool)
  | droopDetection (quadrant : Nat)
  | droopRelease (quadrant : Nat)
  | thermalTrip (tj : Nat)
  | lpddr6Hot (package : Nat)
  | lpddr6HotFault (package : Nat)
  | rackAlert (low : Bool)
  | regulatorAlert (asserted : Bool)
  | alertHoldExpiry (regulator : Bool)
  | idleEntry
  | energyInterval (nanojoules : Nat)
  | clockFault
  -- memory
  | refresh (channel : Nat)
  | retrainInterval (channel : Nat) (beyond : Bool)
  | scrubRead (channel line : Nat) (found : LineRead)
  | correctionWriteBack (channel line : Nat)
  -- presence, test port, rest
  | presenceButton
  | presenceWindowExpiry
  | presenceJumper (fitted : Bool)
  | tamperBreak
  | idcode
  | bypass (tdi : Bool)
  | packageTemperatureReadout (package : Nat) (temp rated : Int)
  | fullRetrainEnd (channel : Nat) (ok : Bool)
  | managementLinkChange (up : Bool)
  | neighbourJobReport (port : Nat) (job : U64) (rank : Nat)
  | debugPortAccess (a : DebugAccess)
  deriving DecidableEq, Repr

end Sys2Proof
end

