-- ==== Sys2Proof/Decode.lean ====
section
/-!
DEFINITION. The command a word spells by the table's bits. The opcode table of this hardware gives no row
any bits, so no word spells a command. Records and core instructions are decoded where they are carried
out (their fields are read by Machine/Operands.lean and Machine/Encoding.lean).
-/

namespace Sys2Proof

/-- The command that a word spells: none, since no row of the table gives bits. (Log entry 2: DESIGN CHOICE, safe.) -/
def decodeTableWord (_nbits _w : Nat) : Option Instr := none

end Sys2Proof
end

