-- ==== Sys2Proof/Config.lean ====
section
/-!
DEFINITION. Free values: what the spec leaves open, or gives to things outside it. Each is a constant
without a body, so nothing can be proved of its value and a claim holds whatever it is.
The assumption log names every one.
-/

namespace Sys2Proof.Config

/-! ### Arithmetic known only to a bound (R214, R216) and quiet NaNs (R48) -/

/-- Errors of EXP, RSQRT and GELU for an operand, in ulps: only the remainder by 5, 5 and 9 enters, less 2, 2 and 4
(R214). (Log entry 15: DESIGN CHOICE, safe.) -/
opaque expUlp : U32 → Nat
opaque rsqrtUlp : U32 → Nat
opaque geluUlp : U32 → Nat
/-- EXP, RSQRT and GELU of operands for which no result is stated: infinities, and for RSQRT a value that is not
above 0. (Log entry 15: DESIGN CHOICE, safe.) -/
opaque expBits : U32 → U32
opaque rsqrtBits : U32 → U32
opaque geluBits : U32 → U32
/-- Cosine and sine of a phase φ[63:32] as fixed functions (R216). (Log entry 15: DESIGN CHOICE, safe.) -/
opaque cosTurn : U32 → U32
opaque sinTurn : U32 → U32
/-- Sign of the quiet NaN that a sum gives (R48), from its terms. (Log entry 16: DESIGN CHOICE, safe.) -/
opaque sumNanNeg : List Fp → Bool
/-- Low bits of an FP32 quiet NaN of a sign. (Log entry 16: DESIGN CHOICE, safe.) -/
opaque nanPayload : Bool → BitVec 22
/-- Correctly rounded division by zero and of non-finite values has no stated result. (Log entry 16: DESIGN CHOICE, safe.) -/
opaque divSpecial : U32 → U32 → U32

/-- An element of a vector operation whose result the spec does not state, from its source element. (Log entry 16: DESIGN CHOICE,
safe.) -/
opaque openElem : U32 → U32

/-- Which of the tokens that the mask allows a draw gives where R265 names none, from the seed, the handle and the
position. (Log entry 130: DESIGN CHOICE, safe.) -/
opaque openToken : (seed handle : U64) → (p : Nat) → Nat

/-- What a 32-bit result field reads when its count does not fit. (Log entry 19: DESIGN CHOICE, safe.) -/
opaque overflowCount : Nat → Nat

/-! ### What toolchain programs compute (R265, R266, R271, R273, R279) -/

/-- Logit of token `t` in the row of the last position: by firmware and image digest, the keys and values up to
that position as the steps have appended them, its token, the layers' modes, and the tables that the version's
programs read, as the step reads them. How the steps split the positions does not enter. (Log entry 51: DESIGN CHOICE, safe.) -/
opaque logit : (which : Nat × Nat) → (cache : List ((Nat × Nat) × List (Nat × BitVec 8))) →
  (token : Nat) → (modes : List (BitVec 2)) → (tables : List (Nat × List (Nat × List U32))) →
  (t : Nat) → U32
/-- Logit of a draft head for (draft number, token). (Log entry 51: DESIGN CHOICE, safe.) -/
opaque draftLogit : (which : Nat × Nat) → (cache : List ((Nat × Nat) × List (Nat × BitVec 8))) →
  (token : Nat) → (modes : List (BitVec 2)) → (tables : List (Nat × List (Nat × List U32))) →
  (draft : Nat × Nat) → U32
/-- Tokens of the output of an image without a vocabulary. (Log entry 51: DESIGN CHOICE, safe.) -/
opaque outTokens : List Byte → Nat
/-- Input width of an embedder, by image digest (R273). (Log entry 51: DESIGN CHOICE, safe.) -/
opaque inputWidth : Nat → Nat
/-- Element `j` of the embedding of an item given as bytes, by firmware and image digest (R273).
(Log entry 51: DESIGN CHOICE, safe.) -/
opaque embedding : (which : Nat × Nat) → (item : List Byte) → (j : Nat) → U32
/-- Re-rank score of a row (R271 step 4). (Log entry 51: DESIGN CHOICE, safe.) -/
opaque rerank : (which : Nat × Nat) → (row : List Nat) → U32

/-! ### Layouts that belong to the toolchain (R541: tensor table and program sections) -/

/-- Tensor descriptors: (number, layer, format, K, N), first bale, reserve, codebook. (Log entry 52: DESIGN CHOICE, safe.) -/
opaque parseTensors : List Byte → Option (List ((Nat × Nat × Nat × Nat × Nat) × Nat × Bool × List U16))
/-- Programs: virtual core, work area in bytes, constants, instructions. (Log entry 52: DESIGN CHOICE, safe.) -/
opaque parsePrograms : List Byte → Option (List (Nat × Nat × List U64 × List CoreWord))
/-- Layers: (format, FP8 conversions, activation limit, weight limit). -/
opaque parseLayers : List Byte → List (Nat × Bool × Option U32 × Option U32)
/-- Layers that are attention layers, ascending. -/
opaque attentionLayers : List Byte → List Nat
/-- A rotation size the image calls for (R52), and a layer marked for rescaling by hardware (R51). -/
opaque rotationSizes : List Byte → List Nat
opaque needsRescale : List Byte → Bool
/-- Every COLLECT of the programs has a core mask of one virtual core (R415), where a mask is worked out as the program
runs. -/
opaque collectMasks : List Byte → Bool
/-- Staging ranges that a program declares (R207): where is 0 loft of quadrant `n`, 1 virtual core `n`;
then start and length. -/
opaque stagingRanges : List Byte → List ((Nat × Nat) × Nat × Nat)
/-- The token embedding table of an image, if any: rows, width, format; and its element bits (R151). -/
opaque embedTable : List Byte → Option (Nat × Nat × Nat)
opaque embedElem : List Byte → (row elem : Nat) → U32
/-- A step of a version reads a weight bale (R258): model, version, step, bale. (Log entry 54: DESIGN CHOICE, safe.) -/
opaque readsBale : Nat → Nat → Nat → Nat → Bool

/-! ### Time and choice -/

/-- Which core in service a virtual core is placed on, by place in their list (R202). (Log entry 42: DESIGN CHOICE, safe.) -/
opaque placedOn : Nat → Nat

/-- Where the module places a module-region object: the 64 KiB page of its first bale, by space, kind and number (R330).
(Log entry 114: DESIGN CHOICE, safe.) -/
opaque objectPage : (space kind number : Nat) → Nat
/-- A byte of a bale of such an object whose layout in T1 is not stated. (Log entry 114: DESIGN CHOICE, safe.) -/
opaque objectByte : (kind number bale offset : Nat) → BitVec 8
/-- Frames of a quadrant that allocations without a stated placement take, from their counts (R333).
(Log entry 115: DESIGN CHOICE, safe.) -/
opaque framesElsewhere : (quadrant : Nat) → List Nat → Nat

/-- Where a bale of T1 lies: a pick among the quadrants in service, and one among the quadrant's frames. Kinds are those
of a placed object, with 8 a host page and 9 a key-value frame. (Log entry 70: DESIGN CHOICE, unsafe.) -/
opaque placeOf : (kind number bale : Nat) → Nat × Nat

/-- Data cells that a BULK message announces, less 1, from its 16 bytes: their field is not stated (R382).
(Log entry 73: DESIGN CHOICE, unsafe.) -/
opaque bulkCells : Nat → Nat

/-- The 16 bytes of SYNC, BULK and ACKP messages past their opcode, and the opcode, whose layouts are not stated, by
contents; of a BULK message by its place among those of one transfer too (R398, R413). (Log entry 73: DESIGN CHOICE, unsafe.) -/
opaque syncBytes : (dst : Nat) → SyncMsg → Nat
opaque ackBytes : (dst : Nat) → AckMsg → Nat
opaque bulkBytes : (dst : Nat) → Bulk → (place : Nat) → Nat
/-- The bytes that the deltas of mirrored tables take on a port (R139). (Log entry 73: DESIGN CHOICE, unsafe.) -/
opaque deltaBytes : Bulk → List (BitVec 8)

/-- Modelled duration of a step from its counts, in µs (R260). (Log entry 55: DESIGN CHOICE, safe.) -/
opaque modelledUs : List Nat → Nat
/-- The `n`th free number drawn. (Log entry 13: DESIGN CHOICE, safe.) -/
opaque draw : Nat → Nat
/-- The `n`th 256 random bits drawn by the safety partition. (Log entry 13: DESIGN CHOICE, safe.) -/
opaque random : Nat → BitVec 256

/-! ### Cryptography of other standards (FIPS 203, FIPS 205) -/

/-- Measurement of the image that the module shipped with, by target (R433, R537). (Log entry 9: DESIGN CHOICE, unsafe.) -/
opaque shippedDigest : Nat → BitVec 256
/-- SLH-DSA-SHAKE-256s signature check: public key, signature, message (R428). (Log entry 81: DESIGN CHOICE, safe.) -/
opaque slh256Valid : List Byte → List Byte → List Byte → Bool
/-- SLH-DSA-SHAKE-128f public key of a private key, and a signature (R432, R434). (Log entry 81: DESIGN CHOICE, safe.) -/
opaque slhPublic : BitVec 256 → BitVec 256
opaque slhSign : BitVec 256 → List Byte → List Byte
/-- ML-KEM-1024: encapsulation key of a boot's seed (R429), and decapsulation (R437). -/
opaque mlkemKey : BitVec 256 → List Byte
opaque mlkemDecaps : BitVec 256 → List Byte → List Byte

end Sys2Proof.Config
end

