-- ==== Sys2Proof/Machine/Bytes.lean ====
section
/-!
DEFINITION. Vectors, sparse memory in canonical form and little-endian fields (R7).
-/

namespace Sys2Proof.Machine

def sumOf {α : Type} (f : α → Nat) (l : List α) : Nat := (l.map f).foldl (· + ·) 0

/-! ### Vectors -/

def vGet {α : Type} {n : Nat} (v : Vector α n) (i : Nat) (d : α) : α := v[i]?.getD d

def countBits {w : Nat} (m : BitVec w) : Nat := ((List.range w).filter (fun i => m.getLsbD i)).length

def vMod {α : Type} {n : Nat} (v : Vector α n) (i : Nat) (f : α → α) : Vector α n :=
  match v[i]? with
  | some x => v.setIfInBounds i (f x)
  | none => v

/-! ### Memory -/

/-- The byte at an address; an address that is not listed reads as zero. (Log entry 11: DESIGN CHOICE, unsafe.) -/
def memGet : Mem → Nat → Byte
  | [], _ => 0
  | (k, v) :: m, a => if k = a then v else memGet m a

/-- Drops every entry of an address. -/
def memDrop (m : Mem) (a : Nat) : Mem := m.filter (fun c => c.1 != a)

/-- Inserts a listed byte in address order. (Log entry 12: DEDUCED, safe.) -/
def memPut : Mem → Nat → Byte → Mem
  | [], a, b => [(a, b)]
  | (k, v) :: m, a, b => if a < k then (a, b) :: (k, v) :: m else (k, v) :: memPut m a b

/-- Writes one byte, keeping the canonical form. -/
def memSet (m : Mem) (a : Nat) (b : Byte) : Mem :=
  if b = 0 then memDrop m a else memPut (memDrop m a) a b

/-- The canonical form: addresses rising, no zero byte listed. (Log entry 12: DEDUCED, safe.) -/
def memWf : Mem → Bool
  | [] => true
  | [(_, v)] => v != 0
  | (k, v) :: (k', v') :: m => v != 0 && decide (k < k') && memWf ((k', v') :: m)

/-- `n` bytes from an address. -/
def readBytes (m : Mem) (a n : Nat) : List Byte := (List.range n).map (fun i => memGet m (a + i))

/-- Writes bytes from an address on. -/
def writeBytes : Mem → Nat → List Byte → Mem
  | m, _, [] => m
  | m, a, b :: bs => writeBytes (memSet m a b) (a + 1) bs

/-- The number a little-endian byte string stands for. -/
def leNat : List Byte → Nat
  | [] => 0
  | b :: bs => b.toNat + 256 * leNat bs

/-- `k` bytes of a number, least significant first. -/
def toLe : Nat → Nat → List Byte
  | 0, _ => []
  | k + 1, n => BitVec.ofNat 8 n :: toLe k (n / 256)

/-- A little-endian field of `k` bytes in memory. -/
def readLe (m : Mem) (a k : Nat) : Nat := leNat (readBytes m a k)

def writeLe (m : Mem) (a k n : Nat) : Mem := writeBytes m a (toLe k n)

/-- Bytes [o, o + k) of a byte string, as a number; bytes past the end read as zero. -/
def bytesLe (bs : List Byte) (o k : Nat) : Nat := leNat ((bs.drop o).take k)

/-- The little-endian field of `k` bytes at byte `o` of a bit string. -/
def field {w : Nat} (x : BitVec w) (o k : Nat) : Nat := (x.extractLsb' (8 * o) (8 * k)).toNat

/-- Sets the field of `k` bytes at byte `o`. -/
def setField {w : Nat} (x : BitVec w) (o k v : Nat) : BitVec w :=
  let mask : BitVec w := BitVec.ofNat w (2 ^ (8 * k) - 1) <<< (8 * o)
  (x &&& ~~~mask) ||| (BitVec.ofNat w (v % 2 ^ (8 * k)) <<< (8 * o))

/-- Bits [hi:lo] of an encoded word, as a number. -/
def bitsOf {w : Nat} (x : BitVec w) (hi lo : Nat) : Nat := (x.extractLsb' lo (hi + 1 - lo)).toNat

def bitAt {w : Nat} (x : BitVec w) (i : Nat) : Bool := x.getLsbD i

/-- Sets or clears bit `i`. -/
def putBit {w : Nat} (x : BitVec w) (i : Nat) (b : Bool) : BitVec w :=
  if b then x ||| (1#w <<< i) else x &&& ~~~(1#w <<< i)

/-- The bytes of a line or slot, lowest first. -/
def lineBytes {w : Nat} (x : BitVec w) (n : Nat) : List Byte :=
  (List.range n).map (fun i => x.extractLsb' (8 * i) 8)

/-- A bit string from its bytes, lowest first. -/
def ofBytes (w : Nat) (bs : List Byte) : BitVec w := BitVec.ofNat w (leNat bs)

def signExtend32 (n : Nat) : U64 := (BitVec.ofNat 32 n).signExtend 64

/-- The least multiple of `d` that is at least `n`, divided by `d`. -/
def ceilDiv (n d : Nat) : Nat := (n + (d - 1)) / d

/-- Replaces the elements that satisfy `p`. -/
def updWhere {α : Type} (p : α → Bool) (f : α → α) (l : List α) : List α :=
  l.map (fun x => if p x then f x else x)

/-- The value of a key in an association list. -/
def lookupD {κ α : Type} [DecidableEq κ] (l : List (κ × α)) (k : κ) (d : α) : α :=
  match l.find? (fun e => decide (e.1 = k)) with
  | some e => e.2
  | none => d

/-- Sets a key of an association list, keeping one entry for each key. -/
def insertKey {κ α : Type} [DecidableEq κ] (l : List (κ × α)) (k : κ) (v : α) : List (κ × α) :=
  (k, v) :: l.filter (fun e => decide (e.1 ≠ k))

/-- Stable insertion sort: `le a b` says that `a` may stand before `b`. -/
def insertBy {α : Type} (le : α → α → Bool) (x : α) : List α → List α
  | [] => [x]
  | y :: ys => if le x y then x :: y :: ys else y :: insertBy le x ys

def sortBy {α : Type} (le : α → α → Bool) (l : List α) : List α := l.foldr (insertBy le) []

/-- Splits a list into pieces of `n`; `fuel` bounds the number of pieces. -/
def chunksFuel {α : Type} (n : Nat) : Nat → List α → List (List α)
  | 0, _ => []
  | f + 1, l => if l.isEmpty then [] else l.take n :: chunksFuel n f (l.drop n)

def chunks {α : Type} (n : Nat) (l : List α) : List (List α) := chunksFuel n l.length l

end Sys2Proof.Machine
end

