-- ==== Sys2Proof/Machine/Float.lean ====
section
/-!
DEFINITION. Number formats (02 R33 to R49): reading the stored formats, exact products and sums, and the
roundings. Every sum is formed exactly and rounded once.
-/

namespace Sys2Proof.Machine

/-- 2^k as a natural number for a non-negative exponent. -/
def pow2 (k : Int) : Nat := 2 ^ k.toNat

/-! ### Reading -/

/-- The value of sign, exponent field and mantissa field of a binary format (bias, mantissa bits),
subnormals at their value; the top exponent is not special here. -/
def finOf (neg : Bool) (ex man : Nat) (bias : Int) (mb : Nat) : Fp :=
  if ex = 0 then .fin neg man (1 - bias - mb)
  else .fin neg (man + 2 ^ mb) ((ex : Int) - bias - mb)

/-- FP32 bits. -/
def readFp32 (x : U32) : Fp :=
  let neg := x.getLsbD 31
  let ex := bitsOf x 30 23
  let man := bitsOf x 22 0
  if ex = 255 then (if man = 0 then .inf neg else .nan neg) else finOf neg ex man 127 23

/-- BF16 bits, subnormals at their value (codebook entries, R41). -/
def readBf16Full (x : U16) : Fp :=
  let neg := x.getLsbD 15
  let ex := bitsOf x 14 7
  let man := bitsOf x 6 0
  if ex = 255 then (if man = 0 then .inf neg else .nan neg) else finOf neg ex man 127 7

/-- BF16 bits as an arithmetic input: subnormals read as zero of their sign (R48). -/
def readBf16 (x : U16) : Fp :=
  if bitsOf x 14 7 = 0 then .fin (x.getLsbD 15) 0 0 else readBf16Full x

/-- FP8 E4M3 bits: no infinity; 0x7F and 0xFF are NaN. -/
def readE4m3 (x : Byte) : Fp :=
  let neg := x.getLsbD 7
  if bitsOf x 6 0 = 127 then .nan neg else finOf neg (bitsOf x 6 3) (bitsOf x 2 0) 7 3

/-- FP8 E5M2 bits. -/
def readE5m2 (x : Byte) : Fp :=
  let neg := x.getLsbD 7
  let ex := bitsOf x 6 2
  let man := bitsOf x 1 0
  if ex = 31 then (if man = 0 then .inf neg else .nan neg) else finOf neg ex man 15 2

/-- E2M1 element (Table 2-2). -/
def readE2m1 (c : Nat) : Fp :=
  let mag := [0, 1, 2, 3, 4, 6, 8, 12].getD (c % 8) 0
  .fin (c / 8 % 2 = 1) mag (-1)

/-! ### Exact arithmetic -/

def fpNeg : Fp → Fp
  | .nan s => .nan (!s)
  | .inf s => .inf (!s)
  | .fin s m e => .fin (!s) m e

def fpIsNan : Fp → Bool
  | .nan _ => true
  | _ => false

def fpFinite : Fp → Bool
  | .fin .. => true
  | _ => false

def fpIsZero : Fp → Bool
  | .fin _ 0 _ => true
  | _ => false

def fpSign : Fp → Bool
  | .nan s => s
  | .inf s => s
  | .fin s _ _ => s

/-- Exact product; an infinity times zero is a NaN. -/
def fpMul (a b : Fp) : Fp :=
  let s := Bool.xor (fpSign a) (fpSign b)
  match a, b with
  | .nan _, _ => .nan (fpSign a)
  | _, .nan _ => .nan (fpSign b)
  | .inf _, _ => if fpIsZero b then .nan s else .inf s
  | _, .inf _ => if fpIsZero a then .nan s else .inf s
  | .fin _ m e, .fin _ m' e' => .fin s (m * m') (e + e')

/-- Signed numerator at exponent `e0`, which is at most the value's own exponent. -/
def numeratorAt (e0 : Int) : Fp → Int
  | .fin s m e => (if s then -1 else 1) * ((m : Int) * (pow2 (e - e0) : Int))
  | _ => 0

/-- Exponent of a term; a zero term does not lower the common exponent. -/
def expOf : Fp → Option Int
  | .fin _ m e => if m = 0 then none else some e
  | _ => none

def minExp (l : List Fp) : Int :=
  l.foldl (fun a x => match expOf x with | some e => min a e | none => a)
    ((l.filterMap expOf).headD 0)

/-- Exact sum of terms (R48): a NaN term or opposite infinities give a quiet NaN; a zero sum is +0
unless every term is −0. (Log entry 17: DEDUCED, unsafe.) -/
def fpSum (l : List Fp) : Fp :=
  let pos := l.any (fun x => decide (x = .inf false))
  let neg := l.any (fun x => decide (x = .inf true))
  if l.any fpIsNan || (pos && neg) then .nan (Config.sumNanNeg l)
  else if pos then .inf false
  else if neg then .inf true
  else
    let e := minExp l
    let n := (l.map (numeratorAt e)).foldl (· + ·) 0
    if n = 0 then .fin (!l.isEmpty && l.all (fun x => fpIsZero x && fpSign x)) 0 0
    else .fin (decide (n < 0)) n.natAbs e

/-- Compares exact finite values: a < b. -/
def fpLt (a b : Fp) : Bool :=
  match a, b with
  | .inf s, .inf s' => s && !s'
  | .inf s, .fin .. => s
  | .fin .., .inf s => !s
  | .fin .., .fin .. =>
    let e := minExp [a, b]
    decide (numeratorAt e a < numeratorAt e b)
  | _, _ => false

/-! ### Rounding -/

/-- Rounds m · 2^e to `p` significant bits, to nearest with ties to even, the exponent unbounded. -/
def roundBits (p m : Nat) (e : Int) : Nat × Int :=
  let len := if m = 0 then 0 else Nat.log2 m + 1
  if len ≤ p then (m, e)
  else
    let sh := len - p
    let q := m / 2 ^ sh
    let r := m % 2 ^ sh
    let half := 2 ^ (sh - 1)
    let q' := if r > half || (r = half && q % 2 = 1) then q + 1 else q
    (q', e + sh)

/-- Exponent of the leading bit of m · 2^e. -/
def leadExp (m : Nat) (e : Int) : Int := e + Nat.log2 m

/-- Fields of a normal value with `mb` mantissa bits; `m` has at most mb + 1 bits. -/
def packNormal (bias : Int) (mb m : Nat) (e : Int) : Nat :=
  let le := leadExp m e
  let ex := (le + bias).toNat
  let full := if e ≥ le - mb then m * pow2 (e - (le - mb)) else m / pow2 ((le - mb) - e)
  ex * 2 ^ mb + (full - 2 ^ mb)

def quietNan32 (s : Bool) : U32 :=
  (BitVec.ofNat 1 s.toNat ++ 0xFF#8 ++ 1#1 ++ Config.nanPayload s)

def inf32 (s : Bool) : U32 := if s then 0xFF800000 else 0x7F800000

def zero32 (s : Bool) : U32 := if s then 0x80000000 else 0

/-- The one rounding to FP32 (R48): below 2^−126 to zero of its sign, beyond the range to infinity. (Log entry 17: DEDUCED, unsafe.) -/
def round32 : Fp → U32
  | .nan s => quietNan32 s
  | .inf s => inf32 s
  | .fin s m e =>
    if m = 0 then zero32 s
    else
      let (m', e') := roundBits 24 m e
      let le := leadExp m' e'
      if le < -126 then zero32 s
      else if le > 127 then inf32 s
      else BitVec.ofNat 32 (s.toNat * 2 ^ 31 + packNormal 127 23 m' e')

def zero16 (s : Bool) : U16 := if s then 0x8000 else 0

/-- Conversion to BF16 and whether it counts as clipped (R43). -/
def toBf16 : Fp → U16 × Bool
  | .nan s => (if s then 0xFFC0 else 0x7FC0, true)
  | .inf s => (if s then 0xFF7F else 0x7F7F, true)
  | .fin s m e =>
    if m = 0 then (zero16 s, false)
    else
      let (m', e') := roundBits 8 m e
      let le := leadExp m' e'
      if le < -126 then (zero16 s, false)
      else if le > 127 then (if s then 0xFF7F else 0x7F7F, true)
      else (BitVec.ofNat 16 (s.toNat * 2 ^ 15 + packNormal 127 7 m' e'), false)

/-- Rounds m · 2^e to a multiple of 2^q, to nearest even; answers the multiple. -/
def roundMultiple (q : Int) (m : Nat) (e : Int) : Nat :=
  if e ≥ q then m * pow2 (e - q)
  else
    let sh := (q - e).toNat
    let k := m / 2 ^ sh
    let r := m % 2 ^ sh
    let half := 2 ^ (sh - 1)
    if r > half || (r = half && k % 2 = 1) then k + 1 else k

/-- Conversion to an FP8 format with subnormals (R44): `mb` mantissa bits, bias, code of the largest
finite value and its leading exponent. -/
def toFp8 (bias : Int) (mb maxCode : Nat) (maxExp : Int) : Fp → Byte × Bool
  | .nan s => (if s then 0xFF else 0x7F, true)
  | .inf s => (BitVec.ofNat 8 (s.toNat * 128 + maxCode), true)
  | .fin s m e =>
    if m = 0 then (BitVec.ofNat 8 (s.toNat * 128), false)
    else
      let (m', e') := roundBits (mb + 1) m e
      let le := leadExp m' e'
      if le < 1 - bias then
        -- subnormal place: a multiple of the smallest subnormal, which may round up to normal
        (BitVec.ofNat 8 (s.toNat * 128 + roundMultiple (1 - bias - mb) m e), false)
      else
        let code := packNormal bias mb m' e'
        if le > maxExp || code > maxCode then (BitVec.ofNat 8 (s.toNat * 128 + maxCode), true)
        else (BitVec.ofNat 8 (s.toNat * 128 + code), false)

/-- To E4M3: largest finite value 448 = 0x7E. -/
def toE4m3 : Fp → Byte × Bool := toFp8 7 3 0x7E 8
/-- To E5M2: largest finite value 57,344 = 0x7B. -/
def toE5m2 : Fp → Byte × Bool := toFp8 15 2 0x7B 15

/-- BF16 bits of an FP8 or FP32 value that is exactly a BF16 value; widening only. -/
def widenE4m3 (x : Byte) : U32 := round32 (readE4m3 x)
def widenBf16 (x : U16) : U32 := x ++ 0#16

/-- A BF16 subnormal as zero of its sign; every other value as it is (R48). -/
def flushBf16 (x : U16) : U16 := if bitsOf x 14 7 = 0 then x &&& 0x8000 else x

/-! ### Correctly rounded division and square root -/

/-- Quotient of finite non-zero values with a sticky bit, ready for one rounding. -/
def divExact (s : Bool) (m : Nat) (e : Int) (m' : Nat) (e' : Int) : Fp :=
  let sh := 64 + Nat.log2 m'
  let q := m * 2 ^ sh / m'
  let st := if m * 2 ^ sh % m' = 0 then 0 else 1
  .fin s (2 * q + st) (e - e' - sh - 1)

/-- a / b, rounded once. Zero divided by a non-zero value is zero, a finite value divided by an infinity
is zero; the remaining special cases have no stated result. -/
def div32 (a b : U32) : U32 :=
  match readFp32 a, readFp32 b with
  | .fin s m e, .fin s' m' e' =>
    if m' = 0 then Config.divSpecial a b
    else if m = 0 then zero32 (Bool.xor s s')
    else round32 (divExact (Bool.xor s s') m e m' e')
  | .fin s _ _, .inf s' => zero32 (Bool.xor s s')
  | _, _ => Config.divSpecial a b

/-- Correctly rounded square root of a positive finite value. -/
def sqrt32 (a : U32) : U32 :=
  match readFp32 a with
  | .fin s m e =>
    if m = 0 then zero32 s
    else if s then quietNan32 s
    else
      let sh : Nat := if e % 2 = 0 then 80 else 81
      let n := m * 2 ^ sh
      let r := Nat.sqrt n
      let st := if r * r = n then 0 else 1
      round32 (.fin false (2 * r + st) ((e - (sh : Int)) / 2 - 1))
  | .inf s => if s then quietNan32 s else inf32 false
  | .nan s => quietNan32 s

/-! ### FP32 operations on bits -/

def add32 (a b : U32) : U32 := round32 (fpSum [readFp32 a, readFp32 b])
def sub32 (a b : U32) : U32 := round32 (fpSum [readFp32 a, fpNeg (readFp32 b)])
def mul32 (a b : U32) : U32 := round32 (fpMul (readFp32 a) (readFp32 b))
def recip32 (a : U32) : U32 := div32 0x3F800000 a

def nan32 (a : U32) : Bool := fpIsNan (readFp32 a)

/-! ### Fixed functions known to a bound (R214, R233) -/

/-- The value of 24 significant bits that `k` picks among those within `b` ulp of `n` · 2^e. -/
def ulpsFrom (neg : Bool) (n : Nat) (e : Int) (b k : Nat) : Fp :=
  if n = 0 then .fin neg 0 0
  else
    let n := n * 2 ^ 24
    let sh := Nat.log2 n - 23
    let above := if n % 2 ^ sh = 0 then 0 else 1
    let m := n / 2 ^ sh + above + k % (2 * b + 1 - above) - b
    .fin neg (if 2 ^ 24 ≤ m then m - m % 2 else m) (e - 24 + sh)

/-- Twice a magnitude known by a fraction just above or just below it. -/
def nearTwice (n : Nat) (above : Bool) : Nat := if above then 2 * n - 1 else 2 * n + 1

/-- Bits of the fraction in which EXP and GELU are worked out. -/
def fracBits : Nat := 512

/-- Σ r^k / k! for a fraction r, to `n` terms. -/
def expSeries (r : Nat) (n : Nat) : Nat :=
  ((List.range n).foldl (fun (a : Nat × Nat) k => (a.1 + a.2, a.2 * r / (k + 1) / 2 ^ fracBits)) (0, 2 ^ fracBits)).1

/-- e^x for a fraction x below 256: the series at x / 512, squared nine times. -/
def expFrac (x : Nat) : Nat :=
  (List.range 9).foldl (fun y _ => y * y / 2 ^ fracBits) (expSeries (x / 512) 100)

/-- A finite magnitude m · 2^e as a fraction. -/
def fracOf (m : Nat) (e : Int) : Nat :=
  if 0 ≤ e + fracBits then m * 2 ^ (e + fracBits).toNat else m / 2 ^ (-(e + fracBits)).toNat

/-- e^−x as a fraction. -/
def expNegFrac (x : Nat) : Nat := 2 ^ (2 * fracBits) / expFrac x

/-- EXP: R233 fixes it at ±0 and −∞, a NaN stays one (R48), and elsewhere it lies within 2 ulp of e^x. (Log entry 15: DESIGN CHOICE, safe.) -/
def exp32 (a : U32) : U32 :=
  match readFp32 a with
  | .nan s => quietNan32 s
  | .inf s => if s then 0 else Config.expBits a
  | .fin s m e =>
    if m = 0 then 0x3F800000
    else
      let x := fracOf m e
      if x < 128 * 2 ^ fracBits then
        round32 (ulpsFrom false (nearTwice (if s then expNegFrac x else expFrac x) s) (-(fracBits : Int) - 1) 2
          (Config.expUlp a))
      else if s then 0 else 0x7F800000

/-- RSQRT: within 2 ulp of 1 / √x for a finite x above 0. (Log entry 15: DESIGN CHOICE, safe.) -/
def rsqrt32 (a : U32) : U32 :=
  match readFp32 a with
  | .nan s => quietNan32 s
  | .fin false m e =>
    if m = 0 then Config.rsqrtBits a
    else
      let q := if e % 2 = 0 then (m, e) else (2 * m, e - 1)
      let k := 64 + Nat.log2 q.1
      let r := Nat.sqrt (2 ^ (2 * k) / q.1)
      round32 (ulpsFrom false (if r * r * q.1 = 2 ^ (2 * k) then 2 * r else 2 * r + 1) (-(k : Int) - q.2 / 2 - 1) 2
        (Config.rsqrtUlp a))
  | _ => Config.rsqrtBits a

/-- arctan (1 / n) as a fraction. -/
def arctanInv (n : Nat) : Nat :=
  let t (k : Nat) : Nat := 2 ^ fracBits / n ^ (2 * k + 1) / (2 * k + 1)
  ((List.range 130).map (fun k => t (2 * k))).foldl (· + ·) 0 -
    ((List.range 130).map (fun k => t (2 * k + 1))).foldl (· + ·) 0

/-- π as a fraction, by Machin's formula. -/
def piFrac : Nat := 16 * arctanInv 5 - 4 * arctanInv 239

/-- Φ(x) − 1/2 for a fraction x at least 0: the density at x times x + x³/3 + x⁵/15 + …. -/
def halfPhi (x : Nat) : Nat :=
  let x2 := x * x / 2 ^ fracBits
  let sum := ((List.range 800).foldl (fun (a : Nat × Nat) k =>
    (a.1 + a.2, a.2 * x2 / (2 * k + 3) / 2 ^ fracBits)) (0, x)).1
  let root := Nat.sqrt (2 * piFrac * 2 ^ fracBits)
  expNegFrac (x2 / 2) * sum / root

/-- GELU: within 4 ulp of x · Φ(x), Φ the standard normal distribution function. (Log entry 124: PRESUMED, unsafe.) -/
def gelu32 (a : U32) : U32 :=
  match readFp32 a with
  | .nan s => quietNan32 s
  | .inf _ => Config.geluBits a
  | .fin s m e =>
    let x := fracOf m e
    if x < 16 * 2 ^ fracBits then
      let h := halfPhi x
      let phi := if s then 2 ^ (fracBits - 1) - h else 2 ^ (fracBits - 1) + h
      round32 (ulpsFrom s (if m = 0 then 0 else nearTwice (m * phi) s) (e - fracBits - 1) 4 (Config.geluUlp a))
    else if s then 0x80000000
    else round32 (ulpsFrom false (nearTwice (m * 2 ^ fracBits) true) (e - fracBits - 1) 4 (Config.geluUlp a))

def finite32 (a : U32) : Bool := fpFinite (readFp32 a)

/-- Adds the exact sum of each group of `g` terms to a running FP32 total, one rounding a group
(R47, R79, R215). -/
def groupSum (g : Nat) (acc : U32) (terms : List Fp) : U32 :=
  (chunks g terms).foldl (fun a grp => round32 (fpSum (readFp32 a :: grp))) acc

/-- MAX of Table 7-7: a NaN gives a NaN; −0 < +0. -/
def max32 (a b : U32) : U32 :=
  let x := readFp32 a
  let y := readFp32 b
  if fpIsNan x then quietNan32 (fpSign x)
  else if fpIsNan y then quietNan32 (fpSign y)
  else if fpIsZero x && fpIsZero y then (if fpSign x then b else a)
  else if fpLt x y then b else a

/-! ### Weight expansion (R40, R41) -/

/-- An element times 2^(X − 127), and whether it counts as an expansion clip. (Log entry 103: DESIGN CHOICE, unsafe.) -/
def expandWeight (elem : Fp) (scale : Nat) : U16 × Bool :=
  match elem with
  | .fin s m e =>
    if m = 0 then (zero16 s, false)
    else
      let e' := e + (scale : Int) - 127
      if leadExp m e' < -126 then (zero16 s, true)
      else if leadExp m e' > 127 then (if s then 0xFF7F else 0x7F7F, true)
      else ((toBf16 (.fin s m e')).1, false)
  | x => ((toBf16 x).1, false)

/-! ### Key-value scales (R45) -/

/-- amax · 2^(127 − X) ≤ 448, with amax = m · 2^e. -/
def kvScaleFits (m : Nat) (e : Int) (x : Nat) : Bool :=
  let e' := e + 127 - x
  if e' ≥ 0 then decide (m * pow2 e' ≤ 448) else decide (m ≤ 448 * pow2 (-e'))

/-- The scale byte of a group of 64 elements. -/
def kvScale (group : List Fp) : Nat :=
  let mags := group.filterMap (fun x => match x with | .fin _ m e => if m = 0 then none else some (m, e) | _ => none)
  if mags.isEmpty then 127
  else ((List.range 255).find? (fun x => mags.all (fun me => kvScaleFits me.1 me.2 x))).getD 254

/-- An element stored in E4M3 under a scale, and whether it is clipped. -/
def kvStore (x : Fp) (scale : Nat) : Byte × Bool :=
  match x with
  | .fin s m e => toE4m3 (.fin s m (e + 127 - scale))
  | y => toE4m3 y

/-- An entry read back: element · 2^(X − 127) in FP32; below 2^−126 zero of its sign. -/
def kvLoad (x : Byte) (scale : Nat) : U32 :=
  match readE4m3 x with
  | .fin s m e => round32 (.fin s m (e + scale - 127))
  | y => round32 y

end Sys2Proof.Machine
end

