-- ==== Sys2Proof/Machine/Keccak.lean ====
section
/-!
DEFINITION. SHAKE256 (FIPS 202), which the spec names for projections, digests and key identifiers.
-/

namespace Sys2Proof.Machine

/-- The shift register of FIPS 202 that makes the round constants: x⁸ + x⁶ + x⁵ + x⁴ + 1. -/
def rcShift (r : Nat) : Nat := if r < 128 then 2 * r else (2 * r) ^^^ 0x171

/-- Seven outputs of the register, set as bits 2ʲ − 1 of a round constant, and the register after them. -/
def rcDraw (r : Nat) : U64 × Nat :=
  (List.range 7).foldl (fun (p : U64 × Nat) j => (putBit p.1 (2 ^ j - 1) (p.2 % 2 == 1), rcShift p.2)) (0, r)

/-- Constants of `n` rounds from a register state on. -/
def rcFrom : Nat → Nat → List U64
  | 0, _ => []
  | n + 1, r => (rcDraw r).1 :: rcFrom n (rcDraw r).2

/-- The constants of the 24 rounds; the register starts at 1. -/
def keccakRc : List U64 := rcFrom 24 1

/-- Rotations of the lanes met on the walk of FIPS 202 from lane (x, y): the `t`th, triangular number of t + 1,
with the lane's index. -/
def rotWalk : Nat → Nat → Nat → Nat → List (Nat × Nat)
  | 0, _, _, _ => []
  | n + 1, t, x, y => (x + 5 * y, (t + 1) * (t + 2) / 2 % 64) :: rotWalk n (t + 1) y ((2 * x + 3 * y) % 5)

/-- Rotation of lane x + 5y; lane 0 is not on the walk and stays. -/
def keccakRot : List Nat := (List.range 25).map (fun i => lookupD (rotWalk 24 0 1 0) i 0)

def lane (a : List U64) (i : Nat) : U64 := a.getD i 0

/-- One round. Lane (x, y) is at index x + 5y. -/
def keccakRound (a : List U64) (rc : U64) : List U64 :=
  let c := (List.range 5).map (fun x =>
    lane a x ^^^ lane a (x + 5) ^^^ lane a (x + 10) ^^^ lane a (x + 15) ^^^ lane a (x + 20))
  let d := (List.range 5).map (fun x => lane c ((x + 4) % 5) ^^^ (lane c ((x + 1) % 5)).rotateLeft 1)
  let t := a.mapIdx (fun i v => (v ^^^ lane d (i % 5)).rotateLeft (keccakRot.getD i 0))
  -- lane (x, y) goes to (y, 2x + 3y)
  let b := (List.range 25).map (fun i =>
    let u := i % 5
    let v := i / 5
    lane t ((u + 3 * v) % 5 + 5 * u))
  let e := (List.range 25).map (fun i =>
    let x := i % 5
    let y := 5 * (i / 5)
    lane b i ^^^ (~~~(lane b ((x + 1) % 5 + y)) &&& lane b ((x + 2) % 5 + y)))
  e.mapIdx (fun i v => if i = 0 then v ^^^ rc else v)

def keccakF (a : List U64) : List U64 := keccakRc.foldl keccakRound a

/-- Lanes of a 136-byte block. -/
def blockLanes (b : List Byte) : List U64 := (List.range 17).map (fun i => BitVec.ofNat 64 (bytesLe b (8 * i) 8))

def absorbBlock (a : List U64) (b : List Byte) : List U64 :=
  let l := blockLanes b
  keccakF (a.mapIdx (fun i v => if i < 17 then v ^^^ lane l i else v))

/-- Padding 1111, then 10*1, to a multiple of 136 bytes. -/
def shakePad (m : List Byte) : List Byte :=
  let r := 136 - m.length % 136
  if r = 1 then m ++ [0x9F] else m ++ [0x1F] ++ List.replicate (r - 2) 0 ++ [0x80]

def laneBytes (a : List U64) : List Byte := ((a.take 17).map (fun v => toLe 8 v.toNat)).flatten

/-- Squeezes `n` blocks. -/
def squeeze : Nat → List U64 → List Byte
  | 0, _ => []
  | n + 1, a => laneBytes a ++ squeeze n (keccakF a)

/-- SHAKE256 of a message, `n` bytes out. -/
def shake256 (m : List Byte) (n : Nat) : List Byte :=
  let a := (chunks 136 (shakePad m)).foldl absorbBlock (List.replicate 25 0)
  (squeeze (ceilDiv n 136) a).take n

/-- SHAKE256-256 as a digest, byte i in bits [8i+7:8i]. -/
def digest256 (m : List Byte) : Digest := ofBytes 256 (shake256 m 32)

end Sys2Proof.Machine
end

