-- ==== Sys2Proof/Machine/State.lean ====
section
/-!
DEFINITION. The state of the module: plain data, holding every register, buffer, counter, mode and
pin the spec gives it, and the queue of commands that wait. Values the spec treats as bits or that
wrap are bit vectors; numbers, sizes and counts that do not wrap are natural numbers.
Free values (what the spec leaves open) come from Config, applied to `State.draws`.
-/

namespace Sys2Proof.Machine

/-! ### Identity, capability, start-up -/

/-- Object 0x1000 and the built-in values of the board (R1, R2, R426, R459). (Log entry 6: DESIGN CHOICE, unsafe.) -/
structure Ident where
  part : U16
  boardIssue : U16
  serial : U64
  fwGen : U32
  spFwGen : U32
  mac : BitVec 48
  nonceId : U32
  deriving DecidableEq, Repr

/-- Object 0x1010 and the `cols` of object 0x2100: fixed by stage 4 (R29, R200). -/
structure Capability where
  widthLo : U64
  widthHi : U64
  chan : Vector (BitVec 48) 4
  quadrants : BitVec 4
  engines : U16
  threshers : BitVec 2
  linkLanes : Nat
  peerPorts : Byte
  t1Gib : Nat
  /-- Data rate in force (object 0x2400.02). -/
  rate : Nat
  cols : Vector (BitVec 4) 64
  /-- The base set of R31 was present at stage 4. -/
  base : Bool
  deriving DecidableEq, Repr

/-- Start-up and resets (object 0x11C0, R509 to R515). -/
structure StartUp where
  /-- 0 to 7, 0xFE ended without the base set, 0xFF recovery. -/
  stage : Nat
  lastReset : Nat
  suWritten : Nat
  stMs : Nat
  st4Ms : Nat
  /-- RESET_N is low. -/
  resetLow : Bool
  /-- The input stage is on and not in lockout. -/
  powered : Bool
  /-- PMATE_N is closed (R526). -/
  mated : Bool
  /-- The boot chain stopped because no partition image verified (R429 step 2). -/
  noPartition : Bool
  /-- The boot ROM's own tests failed, so nothing further runs (R429 step 1). -/
  halted : Bool
  /-- `rate_req` and `retire_q0` to `retire_q3` as this start-up restored them (R361, R372). -/
  rateReq : Nat
  retire : List Nat
  /-- WR_FULLs of the start-up report whose WR_ACKs stage 5 waits for (R513). -/
  report : Option (List U16)
  /-- MGT_TERM_N is low; and the termination as it was connected at reset release (R529). -/
  termLow : Bool
  terminated : Bool
  deriving DecidableEq, Repr

/-! ### The dictionary and the management port -/

/-- The object dictionary (R450 to R456, R465 to R468). A setting that is not listed has the default of
its table; `store` holds committed persistent values, `queue` the subindices that wait for commit. -/
structure Dict where
  settings : List ((Nat × Nat) × Nat)
  /-- (route, index, sub) to the selector's value. -/
  selectors : List ((Nat × Nat × Nat) × Nat)
  store : List ((Nat × Nat) × Nat)
  queue : List ((Nat × Nat) × Nat)
  commits : U64
  abandoned : U32
  restoreFail : U16
  deriving DecidableEq, Repr

/-- The kept answer to a source's last frame (R463). -/
structure KeptFrame where
  src : BitVec 48
  xid : U32
  etherType : U16
  response : List Byte
  deriving DecidableEq, Repr

/-- The management port's counts (object 0x1100). -/
structure Mgmt where
  link : Nat
  rxFrames : U64
  badFrames : U64
  rxDrops : U64
  replays : U64
  /-- Most recently accepted source first, at most 8. -/
  kept : List KeptFrame
  deriving DecidableEq, Repr

/-! ### Links -/

/-- A message the module sent, for the outside to see. `State.sent` lists them newest first. (Log entry 14: DESIGN CHOICE, unsafe.) -/
inductive Sent where
  | rdShared (tag : U16) (addr : Nat)
  | rdOnce (tag : U16) (addr : Nat)
  | wrFull (tag : U16) (addr : Nat) (line : Line)
  | evict (addr : Nat)
  | invAck (tag : U16) (addr : U64)
  | winData (tag : U16) (line : Line)
  | winDone (tag : U16)
  | mgmtFrame (dst : BitVec 48) (etherType : U16) (payload : List Byte)
  /-- An acknowledgement in a flit header, with the credits that it returns for a channel (Table 13-2). -/
  | flitAck (link : Nat) (seq : BitVec 12) (nak : Bool) (crCh crN : Nat)
  | peer (port : Nat) (m : Message)
  | bulk (port dst : Nat) (b : Bulk)
  | ackp (port dst : Nat) (a : AckMsg)
  | sync (port dst : Nat) (m : SyncMsg)
  /-- What the module tells the other end of a peer port at training and when its job changes: serial, and
  `job_id` and rank while a job is loaded (R395, R397). -/
  | advertise (port : Nat) (serial : U64) (job : Option (U64 × Nat))
  | jtag (bits : U64)
  | refresh (channel : Nat)
  /-- The all-bank refresh of a channel before self refresh (R359, R497). -/
  | refreshAll (channel : Nat)
  /-- What the module tells the companion at training (R390): serial number, message and data-cell credits of RSP,
  message credits of SNP, message and data-cell credits of WIN, bytes of the dictionary window. -/
  | cohAdvertise (serial : U64) (rsp rspCells snp win winCells window : Nat)
  /-- The response of a dictionary request that came as a command of its own: route, status, value. -/
  | answer (route status : Nat) (value : U64)
  deriving DecidableEq, Repr

/-- What an outstanding read is for (R384 to R386). -/
inductive ReadUse where
  | producer (ring : Nat)
  | consumer (ring : Nat)
  | record (ring : Nat) (index : U32)
  /-- A source that a command names. -/
  | source
  /-- A watched line of a ring that was disabled since: its DATA is discarded. -/
  | dropped
  deriving DecidableEq, Repr

/-- A read that waits for its DATA. `addr` is an offset in the T2 window. -/
structure ReadOut where
  tag : U16
  addr : Nat
  use : ReadUse
  stale : Bool
  deriving DecidableEq, Repr

/-- A record for a completion ring: contiguous slots whose phase bit is still to be set (R26).
`parts` are the records inside it, each a list of slots that never wraps. -/
structure Post where
  cq : Nat
  parts : List (List Slot)
  /-- Command ring and number (R22) of the record that this completes, if any. -/
  done : Option (Nat × Nat)
  int : Bool
  /-- Source of a FAULT_INJECT that this completes: it asserts once the completion is written (R485). -/
  inject : Option Nat := none
  deriving DecidableEq, Repr

/-- A write that waits for the WR_ACKs of other writes (R387). -/
inductive WaitingWrite where
  /-- A completion waits for the command's own T2 writes. -/
  | completion (p : Post)
  /-- A completion ring's producer line waits for the slot lines it covers. -/
  | producer (ring : Nat) (index : U32)
  deriving DecidableEq, Repr

structure Deferred where
  needs : List U16
  write : WaitingWrite
  deriving DecidableEq, Repr

/-- One mailbox slot of the dictionary window (R392). -/
structure WinSlot where
  request : Line
  response : Line
  /-- The host has not read the response of the slot's last request. -/
  unread : Bool
  deriving DecidableEq, Repr

/-- A flit that the transmitter keeps until it is acknowledged: the message, which of the message's flits it is, and the
credits that its header returns (R379, R380). -/
structure KeptFlit where
  seq : BitVec 12
  msg : Sent
  part : Nat
  crCh : Nat
  crN : Nat
  deriving DecidableEq, Repr

/-- A message that has not wholly left: the credits that it takes, and how many of its flits have gone. -/
structure WaitingMsg where
  credits : Nat
  msg : Sent
  gone : Nat
  deriving DecidableEq, Repr

/-- The flit layer of one link (R379, R380). How a transmitter packs what it sends into flits is left open: the model
shares no flit between messages. (Log entry 118: DESIGN CHOICE, unsafe.) -/
structure FlitLayer where
  /-- `ack` last received. -/
  lastAck : BitVec 12
  /-- `seq` of the last flit formed. -/
  txSeq : BitVec 12
  /-- The flits not yet acknowledged, oldest first, at most 512. -/
  unacked : List KeptFlit
  /-- Messages that wait for credit or for room among the 512, in order. -/
  waiting : List WaitingMsg
  /-- `seq` of the last flit delivered in order. -/
  rxSeq : BitVec 12
  /-- Flits received since the last acknowledgement sent. -/
  sinceAck : Nat
  /-- Resends in a row without acknowledgement. -/
  resends : Nat
  /-- Message places and data cells that the other side grants, by channel; entry 5 of a peer port is the second set of
  BULK (R389, R396, R398). -/
  msgCredits : Vector Nat 8
  cellCredits : Vector Nat 8
  /-- The most that the other side grants of each. -/
  msgTop : Vector Nat 8
  cellTop : Vector Nat 8
  /-- Credits that the module is to return, by channel. -/
  owed : Vector Nat 8
  /-- Channels of messages that still wait for their data cell, oldest first. -/
  awaiting : List Nat
  deriving DecidableEq, Repr

/-- The coherent link controller (objects 0x1110, 0x1130; R378 to R394). -/
structure CohLink where
  /-- 0 down, 1 training, 2 up, 3 retraining. -/
  state : Nat
  /-- The link was lost or failed to come up, and has not come up since: the base set of R31 is absent (R390, R391). -/
  failed : Bool
  width : Nat
  lanesOk : U16
  /-- The width never increases before the next reset (R381). -/
  maxWidth : Nat
  reqCredits : Nat
  t2Base : U64
  t2Size : Nat
  fecCorrected : U64
  fecUncorr : U64
  replays : U64
  retrains : U32
  winOverruns : U32
  nextTag : U16
  reads : List ReadOut
  writes : List U16
  /-- Those of them that write completion slots (Table 11-9). -/
  slotWrites : List U16
  deferred : List Deferred
  /-- What the lines under outstanding writes held before, by tag: line address and contents (R476). -/
  undo : List (U16 × Nat × Line)
  /-- Lines of command sources still to be read: first line address and how many (R384). -/
  sources : List (Nat × Nat)
  /-- Line addresses held in shared state: the watch set (R384). -/
  shared : List Nat
  slots : Vector WinSlot 32
  deriving DecidableEq, Repr

/-- Peer port p (object 0x1120 + p; R395 to R402). -/
structure PeerPort where
  /-- 0 down, 1 training, 2 up, 3 foreign, 4 disabled. -/
  state : Nat
  lanesOk : Byte
  maxWidth : Nat
  nbrSerial : U64
  nbrRank : Nat
  nbrJob : U64
  txBytes : U64
  rxBytes : U64
  relayed : U64
  replays : U64
  /-- Watts received less watts granted (R503). -/
  balance : Int
  /-- The neighbour's last slack report since the last grant: slack, take (R502). -/
  report : Option (Nat × Nat)
  /-- The next slack report carries `reset` (R503). -/
  resetDue : Bool
  /-- Traffic that waits for the neighbour to report the job (R397), oldest first. -/
  waiting : List Sent
  deriving DecidableEq, Repr

/-- Traffic of a peer port that has arrived and is still to be taken: it waits in Hold and in Sleep (Table 18-5), and a
sealed object waits while no invocation can be reserved (R441). -/
inductive PeerIn where
  | sync (dst : Nat) (m : SyncMsg)
  | bulk (dst : Nat) (b : Bulk)
  | ackp (dst : Nat) (a : AckMsg)
  | slack (m : Message)
  /-- A pairing message of the row 0x60 + `row`. -/
  | pair (row : Nat) (m : Message)
  deriving DecidableEq, Repr

/-! ### Rings and records -/

/-- Command ring n, beside its dictionary settings (R15 to R23). -/
structure CmdRing where
  enabled : Bool
  consumer : U32
  producer : U32
  /-- Index of the next record line to read. -/
  fetched : U32
  /-- Record lines that have arrived, by index, waiting to be taken in order. -/
  arrived : List (U32 × Line)
  /-- Records taken but not started, oldest first, at most 64. -/
  taken : List Record
  /-- `seq` of the last record accepted since `enable` was set (R23). -/
  lastSeq : Option U32
  /-- Unstarted records from before `enable` was last set, oldest first: how many, and the kept value their
  `seq` is held against (R17, R23). -/
  former : List (Nat × Option U32)
  overrun : Bool
  deriving DecidableEq, Repr

/-- Completion ring n (R15, R18, R26). -/
structure CqRing where
  enabled : Bool
  /-- Slots written. -/
  producer : U32
  /-- Slots consumed, as last read. -/
  consumer : U32
  held : List Post
  deriving DecidableEq, Repr

/-- A record that has started and has not completed. `id` is its start number. -/
structure Running where
  id : Nat
  record : Record
  quadrant : Nat
  /-- Versions that the request pins while it waits for a park seal (R255). -/
  pins : List (Nat × Nat)
  /-- Token units to return at its completion (R100). -/
  refund : Nat
  deriving DecidableEq, Repr

/-! ### Jobs and tenants -/

/-- Counts of the tenant reports (objects 0x4140, 0x5300, 0x3031, 0x5401, 0x6010, 0x3050, 0x2020). -/
structure Counts where
  rows : U64
  elements : U64
  nanExcluded : U64
  shortRows : U64
  dups : U64
  conflicts : U64
  radixRows : U64
  bytesIn : U64
  tokensOut : U64
  offending : U64
  bytesOut : U64
  masks : U64
  empties : U64
  eosForced : U64
  packs : U64
  units : U64
  genTokens : U64
  inTokens : U64
  drafted : U64
  accepted : U64
  held : U64
  slowdown : Nat
  slowMax : Nat
  rolledBack : U64
  rollbackBales : U64
  cowCopies : U64
  kvStops : U64
  seals : U64
  autoSeals : U64
  sealFail : U64
  written : U64
  read : U64
  reused : U64
  peakT1 : Nat
  refused : U64
  energyNj : Nat
  energyUnits : U64
  deriving DecidableEq, Repr

/-- A tenant key (R436, R438). -/
structure TenantKey where
  bits : BitVec 256
  imported : Bool
  deriving DecidableEq, Repr

/-- A tenant of the job (R248, R274, R286). -/
structure Tenant where
  number : Nat
  prio : Nat
  pad : Bool
  rate : U32
  burst : U32
  slowAlert : Nat
  qT0 : Nat
  qT1 : Nat
  qT2 : Nat
  /-- Present level of token units. -/
  level : Int
  /-- Fraction of a unit gained, in units of 1/65,536, and the remainder of the clock division. -/
  frac : Nat
  eosOnEmpty : Bool
  showSpecials : Bool
  key : Option TenantKey
  keySrc : U64
  /-- Units charged and bales handled since the last energy interval (R505). -/
  recentUnits : Nat
  /-- Actual and modelled durations of the present slowdown window (R277). -/
  slowActual : Nat
  slowModelled : Nat
  counts : Counts
  deriving DecidableEq, Repr

/-- The job (R247 to R251). -/
structure Job where
  state : Nat
  jobId : U64
  rank : Nat
  ranks : Nat
  /-- The JOB_END record in progress. -/
  ending : Option Nat
  /-- Records started since job load (R22). -/
  started : U64
  steps : U64
  tokens : U64
  nanLogits : U64
  restarts : U32
  /-- Steps of the present slowdown window, and its `slow_window` as the last step found it (R277, R283). -/
  slowSteps : Nat
  slowWindow : Nat
  /-- Settings in force since the last job load (R217, R257, R401). -/
  workMib : Nat
  loftMib : Nat
  dims : Nat × Nat × Nat
  deriving DecidableEq, Repr

/-- Object 0x3040 of one tenant: kept over job restart and JOB_END (R304, R318). (Log entry 64: DEDUCED, unsafe.) -/
structure SealArea where
  tenant : Nat
  base : U64
  bales : Nat
  cursor : Nat
  floor : Nat
  sealMs : Nat
  implicitRevive : Bool
  retain : Bool
  deriving DecidableEq, Repr

/-! ### The Gleaner -/

/-- Index slot s (R65, R93, R107). `proj` are the entries of a learned projection, BF16 bits. -/
structure IndexSlot where
  /-- 0 empty, 1 dimension unset, 2 ready. -/
  state : Nat
  /-- Owning tenant; 0xFFFF shared. -/
  owner : Nat
  dim : Nat
  /-- 1 E4M3, 2 BF16. -/
  format : Nat
  /-- 0 inner product, 1 cosine, 2 squared Euclidean. -/
  metric : Nat
  homeBits : Nat
  echoTables : Nat
  echoBits : Nat
  learned : Bool
  seed : U64
  proj : List U16
  probes : Nat
  k : Nat
  exactBelow : Nat
  bucketTarget : Nat
  publishMs : Nat
  deltaMax : Nat
  deriving DecidableEq, Repr

/-- A stored vector: number, attribute word and elements in the index format (R74). -/
structure Vec where
  vnum : Nat
  value : U32
  tags : U64
  elems : List U16
  deriving DecidableEq, Repr

inductive DeltaEntry where
  | insert (v : Vec)
  | delete (vnum : Nat)
  deriving DecidableEq, Repr

/-- A publish in progress (R86, R87): the delta taken, and the record that asked, if any. -/
structure Merge where
  delta : List DeltaEntry
  run : Option Nat
  newBales : Nat
  deriving DecidableEq, Repr

/-- Generations at which the bales of one chain were written, in chain order (Table 3-2). -/
structure Stamp where
  table : Nat
  key : Nat
  gens : List Nat
  deriving DecidableEq, Repr

/-- A T2 range that holds an index image: one that a load named, or one that a save wrote. -/
structure ImageRange where
  base : Nat
  bytes : Nat
  /-- Slot and tenant of the partition that was saved there. -/
  saved : Option (Nat × Nat)
  deriving DecidableEq, Repr

/-- The partition of one tenant in one slot (R68). -/
structure Partition where
  slot : Nat
  tenant : Nat
  generation : U64
  /-- 0 no vectors, 1 exact, 2 bucketed. -/
  mode : Nat
  homeBits : Nat
  /-- Live vectors, ascending vector number. -/
  live : List Vec
  stamps : List Stamp
  /-- Oldest first. -/
  delta : List DeltaEntry
  merge : Option Merge
  clippedIn : U64
  absentDel : U64
  searches : U64
  probed : U64
  deriving DecidableEq, Repr

/-! ### The Sheaf units -/

structure TableCounts where
  tenant : Nat
  lookups : U64
  updates : U64
  clipped : U64
  skipped : U64
  deriving DecidableEq, Repr

/-- Lookups of one row over the last boundaries and its replica standing (R141 to R144). -/
structure HotRow where
  row : Nat
  /-- Lookups per boundary, newest first. -/
  hist : List Nat
  hot : Bool
  /-- The standing that takes effect at the next boundary. -/
  migrating : Option Bool
  deriving DecidableEq, Repr

/-- A table (R127 to R131). A row that is not listed holds +0 in every element. -/
structure Table where
  number : Nat
  owner : Nat
  rows : Nat
  width : Nat
  /-- 1 E4M3, 2 BF16, 3 FP32. -/
  format : Nat
  /-- Bit 0 additive, 1 static, 2 mirror, 3 shared, 4 no_hot. -/
  flags : Byte
  hotThreshold : Nat
  hotWindow : Nat
  /-- Row number and element bits, ascending row number. -/
  data : List (Nat × List U32)
  /-- Element bits of the rows' inactive slots; one not listed holds +0. -/
  other : List (Nat × List U32)
  /-- Rows whose active slot is B (R131). -/
  slotB : List Nat
  loaded : Bool
  hot : List HotRow
  counts : List TableCounts
  deriving DecidableEq, Repr

/-- One update entry of a batch: FP32 element values, the record that carried it, if any. -/
structure RowUpdate where
  table : Nat
  row : Nat
  vals : List U32
  run : Option Nat
  tenant : Nat
  /-- Session of a program update (R137). -/
  session : U64
  deriving DecidableEq, Repr

/-- A SCATTER or ROW_LOAD that waits for its boundary (R148). -/
structure BatchRecord where
  run : Nat
  tenant : Nat
  table : Nat
  load : Bool
  applied : Nat
  skipped : Nat
  deriving DecidableEq, Repr

/-- An update batch (R136, R137): row loads, scatter entries, program updates, each in order. -/
structure Batch where
  loads : List RowUpdate
  scatters : List RowUpdate
  programs : List RowUpdate
  records : List BatchRecord
  deriving DecidableEq, Repr

/-- What a dropped table, or a replica that a row lost, holds until the lookups that began before have retired
(R143, R151): bales of T1 and bytes in each loft. -/
structure Leaving where
  tenant : Nat
  bales : Nat
  loft : Nat
  deriving DecidableEq, Repr

/-- The Sheaf units' state. -/
structure Sheaf where
  tables : List Table
  tstep : U64
  /-- The batch whose deltas have gone to the other ranks (R139). -/
  closing : Option Batch
  /-- The open batch, then those that follow it (R136). -/
  batches : List Batch
  /-- Deltas of other ranks, oldest first, with their rank (R139). -/
  remote : List (Nat × List RowDelta)
  /-- A boundary fell due and waits (Hold, R133; the barrier of a mirror table). -/
  due : Bool
  /-- A step ended while a boundary was due: its own boundary follows. -/
  again : Bool
  /-- Updates of the open step's programs: they join the open batch at the step's end. -/
  puts : List (List RowUpdate)
  /-- Numbers of tables dropped since the open step's lookups started. -/
  gone : List Nat
  /-- The tables as they stood when the open serving step started (R134). -/
  view : Option (List Table)
  leaving : List Leaving
  deriving DecidableEq, Repr

/-! ### The Threshers -/

/-- A vocabulary as loaded (R159). -/
structure Vocab where
  byteLevel : Bool
  size : Nat
  byteBase : Nat
  eos : Nat
  /-- Bytes and `special` of each token. -/
  tokens : List (List Byte × Bool)
  merges : List (Nat × Nat × Nat)
  chars : List (Nat × Nat)
  /-- 256 entries a state: next and cut. -/
  splitter : List (Nat × Bool)
  digest : Digest
  deriving DecidableEq, Repr

structure GEdge where
  first : Nat
  last : Nat
  next : Nat
  top : Byte
  push : Byte
  action : BitVec 3
  deriving DecidableEq, Repr

/-- A grammar (R172, R173). `dropped` grammars stay while a run holds them (R179). -/
structure Grammar where
  number : Nat
  /-- Tells a grammar from a dropped one of the same number. -/
  serial : Nat
  owner : Nat
  shared : Bool
  states : List (List GEdge × Bool)
  start : Nat
  digest : Digest
  bales : Nat
  dropped : Bool
  deriving DecidableEq, Repr

structure TemplateItem where
  kind : Nat
  part : Nat
  trunc : Nat
  priority : Nat
  budget : Nat
  min : Nat
  literal : List Nat
  perPassage : Nat
  deriving DecidableEq, Repr

structure Template where
  number : Nat
  owner : Nat
  shared : Bool
  /-- V of its vocabulary. -/
  vocab : Nat
  items : List TemplateItem
  digest : Digest
  bales : Nat
  deriving DecidableEq, Repr

structure PassageStore where
  slot : Nat
  tenant : Nat
  passages : List (Nat × List Nat)
  digest : Digest
  bales : Nat
  deriving DecidableEq, Repr

/-- The automaton of a sequence (R174). `stack` has its top first. -/
structure Automaton where
  grammar : Nat
  /-- Serial of the grammar, 0 when the number names none that the session may use. -/
  serial : Nat
  state : Nat
  stack : List Byte
  deriving DecidableEq, Repr

/-! ### Models and the hot model cache -/

/-- A weight tensor's descriptor as the tensor table gives it (R541, R197). -/
structure Tensor where
  number : Nat
  layer : Nat
  format : Nat
  k : Nat
  n : Nat
  /-- First bale of the tensor in the weight bale section. -/
  firstBale : Nat
  reserve : Bool
  codebook : List U16
  deriving DecidableEq, Repr

/-- An attention descriptor (Table 8-2). -/
structure AttDesc where
  layer : Nat
  headsQ : Nat
  headsKv : Nat
  /-- 1 E4M3, 2 BF16. -/
  kvFmt : Nat
  headDim : Nat
  mask : Nat
  bias : Nat
  span : Nat
  parts : Nat
  deriving DecidableEq, Repr

/-- A program of one virtual core, as its section gives it (R202, R211). -/
structure Program where
  vc : Nat
  code : List CoreWord
  workBytes : Nat
  consts : List U64
  deriving DecidableEq, Repr

/-- A layer of a version and its safeguard figures (R54 to R63). -/
structure Layer where
  format : Nat
  staticClip : U64
  weights : U64
  actLimit : U32
  wtLimit : U32
  hasReserve : Bool
  /-- Narrowing conversions are to FP8 (a fallback changes them). -/
  fp8 : Bool
  route : Bool
  /-- Per tenant: narrowed, clipped, fallbacks, reserve_seqs. -/
  counts : List (Nat × U64 × U64 × U32 × U32)
  deriving DecidableEq, Repr

/-- A model version (R252 to R258). -/
structure Version where
  model : Nat
  version : Nat
  owner : Nat
  shared : Bool
  /-- 1 loading, 2 standby, 3 current, 4 retiring. -/
  state : Nat
  role : Nat
  draftMax : Nat
  maxLen : Nat
  outDim : Nat
  /-- Tokens of the model's output when it has no vocabulary. -/
  outTokens : Nat
  bales : Nat
  params : U64
  /-- Bit 0 fallback, bit 1 reserve routing: `enable` of object 0x5200 at load. -/
  safeguard : BitVec 2
  layers : List Layer
  tensors : List Tensor
  weights : Mem
  attention : List AttDesc
  bias : List (Nat × List U32)
  programs : List Program
  /-- Staging ranges the programs declare (R207): (0 loft or 1 virtual core, number), start, length. -/
  staging : List ((Nat × Nat) × Nat × Nat)
  vocab : Option Vocab
  /-- Token embedding table made by the load (R151). -/
  embedTable : Option Nat
  pinned : Bool
  /-- Digest of the image: what its results depend on. -/
  digest : Digest
  deriving DecidableEq, Repr

/-- A bale in the hot model cache: model, version, bale, step of last use (R258). -/
structure CachedBale where
  model : Nat
  version : Nat
  bale : Nat
  used : Nat
  deriving DecidableEq, Repr

structure Models where
  versions : List Version
  /-- Highest version of each model loaded since job load or restart (R254). -/
  highest : List (Nat × Nat)
  /-- `shared` of each model number, fixed by its first load: model, owner, shared. -/
  known : List (Nat × Nat × Bool)
  cache : List CachedBale
  hits : U64
  misses : U64
  evictions : U64
  swapBytes : U64
  deriving DecidableEq, Repr

/-! ### Sessions -/

/-- A run in progress or kept (R263 to R269, R294). -/
structure Run where
  /-- The record that started it, none for a kept run. -/
  id : Option Nat
  cq : Nat
  params : Line
  /-- Tokens emitted. -/
  emitted : Nat
  /-- Text bytes released. -/
  released : Nat
  lastAcc : Nat
  /-- No verify step of the run has ended. -/
  first : Bool
  implicit : Bool
  /-- For REQUEST: result bytes 12 to 19 and 24 to 31 of its completion (R271). -/
  front : Option (List Byte × List Byte)
  /-- For REQUEST: the other versions that it pins, embedder and cross-encoder (R255). -/
  pins : List (Nat × Nat)
  deriving DecidableEq, Repr

/-- A prefill in progress: its place in the queue, tokens still to prefill, all its tokens, its record. -/
structure Prefill where
  order : Nat
  todo : List Nat
  total : Nat
  id : Nat
  deriving DecidableEq, Repr

/-- A mapped key-value bale: stream σ, bale number, and the frame that holds it (R226). -/
structure KvBale where
  stream : Nat
  bale : Nat
  frame : Nat
  /-- A slot was written since the last seal that listed it (R298). -/
  dirty : Bool
  deriving DecidableEq, Repr

/-- A frame that holds a key-value bale: its 64 KiB (R222). -/
structure KvFrame where
  frame : Nat
  tenant : Nat
  data : Mem
  deriving DecidableEq, Repr

/-- One entry of a manifest (Table 10-6). -/
structure SealEntry where
  digest : Digest
  iv : BitVec 96
  tag : BitVec 128
  place : Nat
  kind : Nat
  stream : Nat
  bale : Nat
  deriving DecidableEq, Repr

/-- A completed seal of a session. -/
structure SealInfo where
  number : U64
  root : Nat
  mirrored : Bool
  entries : List SealEntry
  /-- Area positions of the manifest parts. -/
  parts : List Nat
  deriving DecidableEq, Repr

/-- Why a seal was asked for (R294, R296, R307, R310, R311); `state` is the state recorded in it. A park seal may
answer several PARKs; `born` stands in a FORK's child while its source's seal is in progress. -/
inductive SealCause where
  | park (ids : List Nat) (drop : Bool) (state : Nat)
  | seal (id : Nat) (full : Bool)
  | automatic
  | move (id : Nat) (rank : Nat) (state : Nat)
  | fork (id : Nat) (child : U64)
  | born
  deriving DecidableEq, Repr

/-- A seal in progress: waiting for its snapshot, or written and waiting to complete (R297, R305). -/
structure Sealing where
  cause : SealCause
  /-- It holds one of the module's 64 places for seals in progress (R316). -/
  started : Bool
  taken : Option SealInfo
  /-- The child's seal, for a FORK. -/
  child : Option SealInfo
  written : Nat
  /-- Area positions that it has written (R303). -/
  places : List Nat
  /-- T2 writes of its objects. -/
  writes : List U16
  /-- Seals (session, number) whose receipt the twin still owes. -/
  awaits : List (U64 × U64)
  /-- Bales that were dirty at the snapshot: they are again when the seal fails. -/
  dirtied : List (Nat × Nat)
  /-- Epoch of the seal's walk (R234). -/
  epoch : U32
  /-- A MOVE has sent its objects and waits for the target. -/
  sent : Bool
  /-- The twin was PAIRED at the snapshot and has stayed so. -/
  mirror : Bool
  /-- Its session was closed meanwhile: what becomes of the handle is no matter of this seal. -/
  ended : Bool
  /-- The state that the handle of a FORK's child had before. -/
  was : Nat
  deriving DecidableEq, Repr

/-- A session of the directory (R287 to R296, Table 10-4). -/
structure Session where
  handle : U64
  /-- Table 10-1. -/
  state : Nat
  parkedFrom : Nat
  model : Nat
  version : Nat
  maxLen : Nat
  length : Nat
  pending : Option Nat
  prefixLen : Nat
  run : Option Run
  automaton : Option Automaton
  heldBytes : List Byte
  /-- Per layer: bit 0 fallback, bit 1 reserve. -/
  modes : List (BitVec 2)
  fbPos : List Nat
  clipTotal : List U64
  lastStep : List (U64 × U64)
  /-- Narrowing counts of the accounting step in progress: (layer, position), values, clipped. -/
  stepCounts : List ((Nat × Nat) × Nat × Nat)
  /-- A mark to report in the next output entry (R61). -/
  marks : BitVec 2
  kvBase : Nat
  /-- Bytes of the key-value range. -/
  kvBytes : Nat
  kv : List KvBale
  /-- What the step has appended: stream and position. They give the written-through marks (R230). -/
  through : List (Nat × Nat)
  latest : Option SealInfo
  nextSeal : U64
  changed : Bool
  sealing : List Sealing
  /-- PARKs (record, drop) or CLOSEs accepted while RUNNING, in order (R291, R294). -/
  parkAtEnd : List (Nat × Bool)
  closeAtEnd : List Nat
  /-- Order of closing, for R289. -/
  closedAt : Nat
  prefill : Option Prefill
  /-- Records that start when the park seal completes (R296). -/
  after : List Nat
  /-- Steps since the sequence last ran (R259). -/
  waited : Nat
  deriving DecidableEq, Repr

/-- A bale held for a parked session (R309). -/
structure Retained where
  tenant : Nat
  session : U64
  order : Nat
  stream : Nat
  bale : Nat
  digest : Digest
  frame : Nat
  deriving DecidableEq, Repr

structure MirrorEntry where
  session : U64
  root : Nat
  sealNo : U64
  entries : List SealEntry
  /-- Area positions of the manifest parts. -/
  parts : List Nat
  deriving DecidableEq, Repr

/-- The Granary engines (objects 0x6000; R287 to R319). -/
structure Granary where
  directory : List Session
  frames : List KvFrame
  nextFrame : Nat
  retained : List Retained
  mirror : List MirrorEntry
  seals : U64
  sealBales : U64
  reviveBales : U64
  movesOut : U64
  movesIn : U64
  closes : Nat
  parks : Nat
  admissions : Nat
  deriving DecidableEq, Repr

/-- One sequence of an open step that draws tokens at the step's end (R264 to R267): its pending token, which
the step appends, and the drafts proposed. -/
structure StepSeq where
  session : U64
  pending : Option Nat
  drafts : List Nat
  /-- Stop status, 0 for none; a sequence that stops draws nothing. -/
  stop : Nat
  reserved : Nat
  deriving DecidableEq, Repr

/-- The prefill chunk of an open step. `sample` is the first token's draw, after the last chunk. -/
structure Chunk where
  session : U64
  length : Nat
  last : Bool
  sample : Option StepSeq
  stop : Nat
  reserved : Nat
  deriving DecidableEq, Repr

/-- Front-end work (R259 item 3, R271, R273): a REQUEST or EMBED whose encoder rows run in serving steps. -/
structure FrontWork where
  id : Nat
  record : Record
  /-- Embedder and cross-encoder versions that it was admitted with (R255). -/
  embedder : Nat × Nat
  ranker : Option (Nat × Nat)
  /-- Its rows are re-rank rows. -/
  ranking : Bool
  /-- Encoder tokens of the rows that no step has carried, in order. -/
  rows : List Nat
  /-- Encoder tokens, and units in all, charged so far. -/
  encoder : Nat
  units : Nat
  /-- Of a REQUEST: the query's tokens, the search result (vector number, score), buckets probed, generation. -/
  query : List Nat
  best : List (Nat × Nat)
  probed : Nat
  generation : U64
  /-- Of a REQUEST that generates: prefix length of its session before it. -/
  prefixLen : Nat
  deriving DecidableEq, Repr

/-- A serving step in progress (R220, R259). -/
structure OpenStep where
  number : U64
  decode : List StepSeq
  prefill : Option Chunk
  /-- The front-end batch: work, and the encoder tokens of its rows. -/
  front : List (Nat × List Nat)
  /-- The epoch opened for the step. -/
  epoch : Option U32
  /-- Its opening has waited for the epoch span, and for the quarantine (R236). -/
  spanWait : Bool
  quarWait : Bool
  /-- Modelled durations: tenant, µs (R260, R277). -/
  modelled : List (Nat × Nat)
  /-- Tenants with `show_specials`, and with `eos_on_empty`, when the step opened (R187). -/
  specials : List Nat
  eosEmpty : List Nat
  deriving DecidableEq, Repr

/-- Frames in quarantine: whose, how many, the epoch of removal, and whether they held key-value bales. -/
structure Quarantined where
  tenant : Nat
  frames : Nat
  epoch : U32
  kv : Bool
  deriving DecidableEq, Repr

/-- An object that the module places: space, kind, number and bales. Kinds: 0 partition, 1 table, 2 grammar,
3 template, 4 passage store, 5 model version, 6 retained bale, 7 descriptor of a shared index. -/
structure PlacedObject where
  space : Nat
  kind : Nat
  number : Nat
  bales : Nat
  deriving DecidableEq, Repr

/-- Mappings as the epoch's opening left them: an edit made while it is current takes effect for programs of the next
epoch (R334). -/
structure EpochView where
  objects : List PlacedObject
  partitions : List Partition
  slots : Vector IndexSlot 16
  sessions : List Session
  frames : List KvFrame
  deriving DecidableEq, Repr

/-- Epochs and quarantine (object 0x5400; R234 to R236). -/
structure Epochs where
  epoch : U32
  /-- Epochs of unretired walks. -/
  walks : List U32
  quarantine : List Quarantined
  epochStalls : U64
  quarStalls : U64
  kvRead : U64
  rowsWalked : U64
  /-- Beside the pages and windows, what programs of the open step's epoch see. -/
  view : Option EpochView
  deriving DecidableEq, Repr

/-! ### Tiers -/

/-- A host-region page (R333), or a bale that a window holds. An edit takes effect for programs of the next
epoch (R334): `since` is the epoch current when the page was mapped, and a page unmapped in epoch E stays,
with `left` E and its bytes in `old`, until the next epoch opens. -/
structure Page where
  tenant : Nat
  va : Nat
  big : Bool
  /-- The quadrant of its frames (R333). -/
  quadrant : Nat
  window : Option Nat
  since : U32
  left : Option U32
  old : Mem
  deriving DecidableEq, Repr

/-- A bale held by a window: bale, dirty, last use (R341). -/
structure HeldBale where
  bale : Nat
  dirty : Bool
  used : Nat
  deriving DecidableEq, Repr

structure Window where
  number : Nat
  tenant : Nat
  t2 : Nat
  va : Nat
  bales : Nat
  frames : Nat
  held : List HeldBale
  clock : Nat
  /-- The epoch that was current when it opened (R334). -/
  since : U32
  deriving DecidableEq, Repr

/-- Memory tiers (objects 0x2200, 0x3050). -/
structure Tiers where
  mode : Nat
  pages : List Page
  /-- Bytes of each tenant's host region. -/
  host : List (Nat × Mem)
  windows : List Window
  /-- Windows closed in an epoch, which its programs still see (R334). -/
  leftWindows : List (U32 × Window)
  fills : U64
  writebacks : U64
  deriving DecidableEq, Repr

/-! ### Cores -/

/-- A row tag (R195): the sequence, its position, the row's mode in each layer (bit 0 fallback, bit 1
reserve), its tenant and the sequence slot of the step. -/
structure RowTag where
  session : U64
  pos : Nat
  modes : List (BitVec 2)
  tenant : Nat
  seqSlot : Nat
  deriving DecidableEq, Repr

/-- What a virtual core waits for. -/
inductive CoreWait where
  | none
  | halted
  | tally (t : Nat)
  | barrier (b : Nat)
  | collect (b : Nat) (w : CoreWord)
  deriving DecidableEq, Repr

/-- A virtual core (R202 to R206). Row tags that are not listed name no sequence. (Log entry 43: DEDUCED, safe.) -/
structure VCore where
  model : Nat
  version : Nat
  pc : Nat
  regs : Vector U64 32
  sram : Mem
  workBytes : Nat
  consts : List U64
  code : List CoreWord
  tags : List (Nat × RowTag)
  wait : CoreWait
  /-- Unfinished instructions: ATTENDs whose walk waits for written-through marks, oldest first (R204, R230). -/
  walks : List CoreWord
  deriving DecidableEq, Repr

/-- Counts of a physical core (object 0x2100). -/
structure CoreCounts where
  steps : U64
  rowSplits : U64
  stalls : U64
  deriving DecidableEq, Repr

structure Cores where
  vcores : List (Nat × VCore)
  /-- Programs of the step that start when the program before them on their virtual core has ended (R202). -/
  queued : List (Nat × VCore)
  lofts : Vector Mem 4
  counts : Vector CoreCounts 64
  /-- Ranges handed over in the open step: virtual core, operation, and the range's bytes (R209). -/
  handoffs : List (Nat × Nat × List Byte)
  /-- Virtual core whose turn it is on each core (R202, R410). -/
  turns : Vector Nat 64
  deriving DecidableEq, Repr

/-! ### Tallies and barriers -/

inductive Waiter where
  /-- A TALLY_WAIT record. -/
  | record (id : Nat) (timeoutMs : Nat)
  | core (vc : Nat)
  deriving DecidableEq, Repr

/-- A tally that is not unclaimed with value 0 and no waiters (R403, R404). -/
structure Tally where
  number : Nat
  owner : Option Nat
  value : U64
  waiters : List Waiter
  deriving DecidableEq, Repr

/-- A member's parts in a collective (R415). -/
structure Parts where
  epoch : U64
  rank : Nat
  partBytes : Nat
  parts : Nat
  data : List Byte
  deriving DecidableEq, Repr

/-- A barrier number (R411 to R413). -/
structure Barrier where
  /-- Core mask and member ranks, fixed at the first arrival of the job. -/
  group : Option (U64 × List Nat)
  epoch : U64
  cores : List Nat
  ranks : List Nat
  held : List SyncMsg
  parts : List Parts
  /-- Timestamp of the module's own arrival. -/
  since : U64
  deriving DecidableEq, Repr

structure Sync where
  tallies : List Tally
  barriers : Vector Barrier 64
  ops : U64
  /-- Longest wait of the step so far, in µs (R501). -/
  slackUs : Nat
  deriving DecidableEq, Repr

/-! ### The safety partition -/

/-- What a firmware slot holds (R428, R444, R537): nothing, the image that the module shipped with, whose bytes are not
known here, or an installed image. (Log entry 9: DESIGN CHOICE, unsafe.) -/
inductive Firmware where
  | empty
  | shipped
  | image (bytes : List Byte)
  deriving DecidableEq, Repr

structure Partn where
  spState : Nat
  bootSlot : BitVec 2
  pendingSlot : BitVec 2
  rollback : Nat
  opened : Bool
  /-- The `opened` fuse still has to be blown (R447). -/
  fusePending : Bool
  /-- The value that `rollback` is to reach once the input is back at 62 V, 0 for none (R430, R488). -/
  fusesDue : Nat
  debug : Bool
  button : Bool
  /-- Timestamp of the last press: `presence_s` counts from it. -/
  buttonAt : U64
  jumper : Bool
  idGen : U16
  ivReserve : U64
  /-- The invocation counter of R441. -/
  ivNext : U64
  /-- Identity key pair, public and private, by generation's draw. -/
  idPub : BitVec 256
  idPriv : BitVec 256
  signerDigest : Digest
  mRom : Digest
  mSp : Digest
  mMain : Digest
  /-- Encapsulation key of this boot and its secret. -/
  ek : List Byte
  ekSecret : BitVec 256
  /-- Main firmware slots A and B, then partition firmware slots A and B. -/
  mainSlots : Vector Firmware 2
  spSlots : Vector Firmware 2
  qstate : Nat
  quote : List Byte
  /-- `dest` as the quote in progress took it. -/
  quoteDest : Nat
  /-- `result` of object 0x8100, the operation in progress, and `src`, `len` and `dest` as it took them. -/
  result : Nat
  op : Nat
  opSrc : Nat
  opLen : Nat
  opDest : Nat
  staged : Nat
  stageOff : Nat
  staging : Mem
  deriving DecidableEq, Repr

/-! ### Faults, power, memory, pairing -/

structure Faults where
  sticky : BitVec 96
  live : BitVec 96
  rail : BitVec 96
  faultStates : U64
  injected : U32
  /-- `job_state` when the fault state was entered, and whether a restart is owed (R478, R479). -/
  owed : Bool
  /-- Sources of FAULT_INJECTs whose completions have been written and that are still to assert (R485). -/
  due : List Nat
  deriving DecidableEq, Repr

/-- Cause objects (R482). -/
structure Causes where
  cq : U64
  overrun : U64
  link : U16
  slow : BitVec 4096
  sys : U16
  deriving DecidableEq, Repr

/-- The power and thermal manager (objects 0x2000, 0x2010). -/
structure Power where
  /-- 0 Run, 1 Idle, 2 Hold, 3 Sleep. -/
  pstate : Nat
  holdWhy : BitVec 5
  throttle : Nat
  droop : BitVec 4
  vinMv : Nat
  pInW : Nat
  tjMax : Nat
  moduleNj : Nat
  jobNj : Nat
  unassignedNj : Nat
  droops : U64
  holds : U64
  cappedUs : U64
  memHot : U32
  /-- Non-volatile writes are inhibited (R488). -/
  nvInhibit : Bool
  /-- The input has been below 62 V and has not held 63 V for 1 ms since (R487). -/
  sag : Bool
  rackLow : Bool
  regulator : Bool
  /-- Temperature that each package last reported (R369). -/
  pkgTemps : Vector Int 24
  /-- Packages last read less than 5 °C below their rating, and those whose 1 s condition raised the fault. -/
  hotPackages : List Nat
  hotFault : List Nat
  /-- Level bits of `sys` bit 5: a throttle level above 0 set for cap or temperature. -/
  capping : Bool
  /-- Input power in W and current in mA at the last updates, newest first, at most 1,000: 10 ms (R499). -/
  samples : List (Nat × Nat)
  /-- A wake event has come and Sleep is about to end (R497). -/
  waking : Bool
  deriving DecidableEq, Repr

/-- Channel h (object 0x2410). -/
structure Channel where
  trained : Bool
  /-- Named in `retire_q` when the channels last trained. -/
  retired : Bool
  corrected : U64
  uncorrected : U32
  misdirected : U32
  retrains : U64
  refreshes : U64
  scrubbed : U64
  late : U64
  /-- Corrected symbols of the present interval (R367). -/
  recent : Nat
  retraining : Bool
  /-- Lines corrected whose write-back is owed (R365). -/
  owed : List Nat
  deriving DecidableEq, Repr

/-- Twin pairing (object 0x11C8). -/
structure Pairing where
  /-- 0 ALONE, 1 PAIRING, 2 PAIRED, 3 DETACHING. -/
  state : Nat
  twinSerial : U64
  fail : Nat
  pairings : U32
  readySent : Bool
  /-- TWIN_SENSE_N is low. -/
  cabled : Bool
  /-- Sessions mirrored since the pair became PAIRED (R306). -/
  mirroredOnce : List U64
  /-- Mirrored seals sent whose receipt has not come, with their bales (R316). -/
  unreceipted : List ((U64 × U64) × Nat)
  /-- Objects stored for the partner's seals whose root is not recorded yet (R518). -/
  incoming : List ((U64 × U64) × List SealEntry)
  /-- Mirrored seals that wait for receipts: seal, bales and message, oldest first (R316). -/
  mirrorQueue : List (((U64 × U64) × Nat) × Sent)
  deriving DecidableEq, Repr

/-! ### The machine -/

/-- The whole module. `pending` is the queue of commands that wait, first in, first out. -/
structure State where
  pending : List Instr
  ident : Ident
  cap : Capability
  startUp : StartUp
  dict : Dict
  mgmt : Mgmt
  /-- Companion memory as the module reads it, by offset in the T2 window. -/
  t2 : Mem
  link : CohLink
  layers : Vector FlitLayer 9
  ports : Vector PeerPort 8
  /-- Peer traffic that has arrived and waits to be taken, oldest first, with its port (R495). -/
  inbox : List (Nat × PeerIn)
  sent : List Sent
  cmdRings : Vector CmdRing 64
  cqRings : Vector CqRing 64
  running : List Running
  job : Job
  tenants : List Tenant
  areas : List SealArea
  slots : Vector IndexSlot 16
  partitions : List Partition
  images : List ImageRange
  sheaf : Sheaf
  grammars : List Grammar
  /-- Grammars loaded since reset: the source of serials (R179). -/
  grammarSerial : Nat
  templates : List Template
  stores : List PassageStore
  models : Models
  granary : Granary
  step : Option OpenStep
  /-- Front-end work in admission order (R259). -/
  front : List FrontWork
  epochs : Epochs
  tiers : Tiers
  cores : Cores
  sync : Sync
  part : Partn
  faults : Faults
  causes : Causes
  power : Power
  channels : Vector Channel 192
  /-- Deadline-first arbitration is in force (R374). -/
  deadlineFirst : Bool
  pairing : Pairing
  timestamp : U64
  /-- The model's own: how many free values have been drawn. -/
  draws : Nat
  deriving DecidableEq, Repr

/-! ### Reset -/

def Ident.reset : Ident :=
  { part := 0x0600, boardIssue := 1, serial := 1, fwGen := 1, spFwGen := 1,
    mac := 0x020000000001#48, nonceId := 1 }

def Capability.reset : Capability :=
  { widthLo := 0, widthHi := 0, chan := Vector.replicate 4 0, quadrants := 0, engines := 0,
    threshers := 0, linkLanes := 0, peerPorts := 0, t1Gib := 0, rate := 0, cols := Vector.replicate 64 0,
    base := false }

def StartUp.reset : StartUp :=
  { stage := 0, lastReset := 0, suWritten := 0, stMs := 0, st4Ms := 0, resetLow := false,
    powered := true, mated := true, noPartition := false, halted := false, rateReq := 0, retire := [], report := none,
    termLow := false, terminated := false }

def Dict.reset : Dict :=
  { settings := [], selectors := [], store := [], queue := [], commits := 0, abandoned := 0,
    restoreFail := 0 }

def Mgmt.reset : Mgmt :=
  { link := 0, rxFrames := 0, badFrames := 0, rxDrops := 0, replays := 0, kept := [] }

def CohLink.reset : CohLink :=
  { state := 0, failed := false, width := 0, lanesOk := 0, maxWidth := 16, reqCredits := 0, t2Base := 0, t2Size := 0,
    fecCorrected := 0, fecUncorr := 0, replays := 0, retrains := 0, winOverruns := 0,
    nextTag := 0, reads := [], writes := [], slotWrites := [], deferred := [], undo := [], sources := [], shared := [],
    slots := Vector.replicate 32 ⟨0, 0, false⟩ }

def FlitLayer.reset : FlitLayer :=
  { lastAck := 4095, txSeq := 4095, unacked := [], waiting := [], rxSeq := 4095, sinceAck := 0, resends := 0,
    msgCredits := Vector.replicate 8 0, cellCredits := Vector.replicate 8 0, msgTop := Vector.replicate 8 0,
    cellTop := Vector.replicate 8 0, owed := Vector.replicate 8 0, awaiting := [] }

def PeerPort.reset : PeerPort :=
  { state := 0, lanesOk := 0, maxWidth := 8, nbrSerial := 0, nbrRank := 0xFFFF, nbrJob := 0, txBytes := 0,
    rxBytes := 0, relayed := 0, replays := 0, balance := 0, report := none, resetDue := false, waiting := [] }

def CmdRing.reset : CmdRing :=
  { enabled := false, consumer := 0, producer := 0, fetched := 0, arrived := [], taken := [],
    lastSeq := none, former := [], overrun := false }

def CqRing.reset : CqRing :=
  { enabled := false, producer := 0, consumer := 0, held := [] }

def Counts.zero : Counts :=
  { rows := 0, elements := 0, nanExcluded := 0, shortRows := 0, dups := 0, conflicts := 0,
    radixRows := 0, bytesIn := 0, tokensOut := 0, offending := 0, bytesOut := 0, masks := 0,
    empties := 0, eosForced := 0, packs := 0, units := 0, genTokens := 0, inTokens := 0,
    drafted := 0, accepted := 0, held := 0, slowdown := 1024, slowMax := 1024, rolledBack := 0,
    rollbackBales := 0, cowCopies := 0, kvStops := 0, seals := 0, autoSeals := 0, sealFail := 0,
    written := 0, read := 0, reused := 0, peakT1 := 0, refused := 0, energyNj := 0,
    energyUnits := 0 }

def Job.reset : Job :=
  { state := 0, jobId := 0, rank := 0, ranks := 1, ending := none, started := 0, steps := 0,
    tokens := 0, nanLogits := 0, restarts := 0, slowSteps := 0, slowWindow := 1024, workMib := 4, loftMib := 64, dims := (1, 1, 1) }

def IndexSlot.empty : IndexSlot :=
  { state := 0, owner := 0, dim := 0, format := 0, metric := 0, homeBits := 0, echoTables := 0,
    echoBits := 0, learned := false, seed := 0, proj := [], probes := 0, k := 0, exactBelow := 0,
    bucketTarget := 0, publishMs := 0, deltaMax := 0 }

def Batch.empty : Batch := { loads := [], scatters := [], programs := [], records := [] }

def Sheaf.reset : Sheaf :=
  { tables := [], tstep := 0, closing := none, batches := [], remote := [], due := false, again := false,
    puts := [], gone := [], view := none, leaving := [] }

def Models.reset : Models :=
  { versions := [], highest := [], known := [], cache := [], hits := 0, misses := 0,
    evictions := 0, swapBytes := 0 }

def Granary.reset : Granary :=
  { directory := [], frames := [], nextFrame := 0, retained := [], mirror := [], seals := 0,
    sealBales := 0, reviveBales := 0, movesOut := 0, movesIn := 0, closes := 0, parks := 0,
    admissions := 0 }

def Epochs.reset : Epochs :=
  { epoch := 0, walks := [], quarantine := [], epochStalls := 0, quarStalls := 0, kvRead := 0,
    rowsWalked := 0, view := none }

def Tiers.reset : Tiers :=
  { mode := 1, pages := [], host := [], windows := [], leftWindows := [], fills := 0, writebacks := 0 }

def VCore.idle : VCore :=
  { model := 0, version := 0, pc := 0, regs := Vector.replicate 32 0, sram := [], workBytes := 0,
    consts := [], code := [], tags := [], wait := .halted, walks := [] }

def Cores.reset : Cores :=
  { vcores := [], queued := [], lofts := Vector.replicate 4 [], counts := Vector.replicate 64 ⟨0, 0, 0⟩,
    handoffs := [], turns := Vector.replicate 64 0 }

def Barrier.reset : Barrier :=
  { group := none, epoch := 0, cores := [], ranks := [], held := [], parts := [], since := 0 }

def Sync.reset : Sync :=
  { tallies := [], barriers := Vector.replicate 64 Barrier.reset, ops := 0, slackUs := 0 }

/-- A board as it ships: the shipped images in slot A, `rollback` their counter, no keys (R537). (Log entry 9: DESIGN CHOICE, unsafe.) -/
def Partn.reset : Partn :=
  { spState := 0, bootSlot := 0, pendingSlot := 0, rollback := 0, opened := false,
    fusePending := false, fusesDue := 0, debug := false, button := false, buttonAt := 0, jumper := false,
    idGen := 0, ivReserve := 0, ivNext := 0, idPub := 0, idPriv := 0, signerDigest := 0,
    mRom := 0, mSp := 0, mMain := 0, ek := [], ekSecret := 0,
    mainSlots := #v[.shipped, .empty], spSlots := #v[.shipped, .empty], qstate := 0,
    quote := [], quoteDest := 0, result := 0, op := 0, opSrc := 0, opLen := 0, opDest := 0, staged := 0, stageOff := 0, staging := [] }

def Faults.reset : Faults :=
  { sticky := 0, live := 0, rail := 0, faultStates := 0, injected := 0, owed := false, due := [] }

def Causes.reset : Causes := { cq := 0, overrun := 0, link := 0, slow := 0, sys := 0 }

def Power.reset : Power :=
  { pstate := 0, holdWhy := 0, throttle := 0, droop := 0, vinMv := 72000, pInW := 180, tjMax := 40,
    moduleNj := 0, jobNj := 0, unassignedNj := 0, droops := 0, holds := 0, cappedUs := 0,
    memHot := 0, nvInhibit := false, sag := false, rackLow := false, regulator := false, pkgTemps := Vector.replicate 24 40, hotPackages := [],
    hotFault := [], capping := false, samples := [], waking := false }

def Channel.reset : Channel :=
  { trained := false, retired := false, corrected := 0, uncorrected := 0, misdirected := 0, retrains := 0,
    refreshes := 0, scrubbed := 0, late := 0, recent := 0, retraining := false, owed := [] }

def Pairing.reset : Pairing :=
  { state := 0, twinSerial := 0, fail := 0, pairings := 0, readySent := false, cabled := false,
    mirroredOnce := [], unreceipted := [], incoming := [], mirrorQueue := [] }

/-- The module at the release of a power-on reset: stage 0, memory mode 1, no job, every setting at its
default, nothing trained (R509, R514, R323). (Log entry 5: DESIGN CHOICE, unsafe.) -/
def State.reset : State :=
  { pending := [], ident := Ident.reset, cap := Capability.reset, startUp := StartUp.reset,
    dict := Dict.reset, mgmt := Mgmt.reset, t2 := [], link := CohLink.reset,
    layers := Vector.replicate 9 FlitLayer.reset, ports := Vector.replicate 8 PeerPort.reset,
    inbox := [], sent := [], cmdRings := Vector.replicate 64 CmdRing.reset,
    cqRings := Vector.replicate 64 CqRing.reset, running := [], job := Job.reset, tenants := [],
    areas := [], slots := Vector.replicate 16 IndexSlot.empty, partitions := [], images := [],
    sheaf := Sheaf.reset, grammars := [], grammarSerial := 0, templates := [], stores := [], models := Models.reset,
    granary := Granary.reset, step := none, front := [], epochs := Epochs.reset, tiers := Tiers.reset,
    cores := Cores.reset, sync := Sync.reset, part := Partn.reset, faults := Faults.reset,
    causes := Causes.reset, power := Power.reset, channels := Vector.replicate 192 Channel.reset, deadlineFirst := false,
    pairing := Pairing.reset, timestamp := 0, draws := 0 }

/-! ### Outcomes that are no next state -/

/-- Faults of the model. The module's own faults are sticky bits of `State.faults`, not these. (Log entry 4: DESIGN CHOICE, safe.) -/
inductive Fault where
  /-- Nothing happens: the module has no power and no command acts on it. Raised by no meaning at
  present; it is kept so that the type is not empty. Safe. -/
  | noPower
  deriving DecidableEq, Repr

/-- Why a command has no meaning. (Log entry 4: DESIGN CHOICE, safe.) -/
inductive Refusal where
  /-- The command is not modelled yet: raised only by an arm of `exec`. Safe. -/
  | notModelled (mnemonic : String)
  deriving DecidableEq, Repr

end Sys2Proof.Machine
end

