-- ==== Sys2Proof/Machine/Flags.lean ====
section
/-!
DEFINITION. Status codes (Table 1-10 and the chapters' own), fault sources (Table 17-1), interrupt causes
(Table 17-6) and the levels that follow from them: INT_N and FAULT_N.
-/

namespace Sys2Proof.Machine

/-! ### Status codes -/

abbrev stOk : Nat := 0x0000
abbrev stBadParam : Nat := 0x0101
abbrev stNotSupported : Nat := 0x0102
abbrev stWrongState : Nat := 0x0103
abbrev stNoSpace : Nat := 0x0104
abbrev stBudget : Nat := 0x0105
abbrev stVersionGone : Nat := 0x0106
abbrev stDeltaFull : Nat := 0x0110
abbrev stIndexFull : Nat := 0x0111
abbrev stGrammarEmpty : Nat := 0x0210
abbrev stPackOver : Nat := 0x0211
abbrev stFewer : Nat := 0x0301
abbrev stRowRange : Nat := 0x0310
abbrev stPresence : Nat := 0x0401
abbrev stDenied : Nat := 0x0402
abbrev stJobEnded : Nat := 0x0410
abbrev stTextFull : Nat := 0x0411
abbrev stJobRestarted : Nat := 0x0501
abbrev stDirFull : Nat := 0x0510
abbrev stSealBad : Nat := 0x0511
abbrev stMoveRefused : Nat := 0x0512
abbrev stTallyGone : Nat := 0x0710
abbrev stTallyTimeout : Nat := 0x0711

/-! ### Fault sources (Table 17-1) -/

def srcCore (c : Nat) : Nat := c % 64
def srcMem (q : Nat) : Nat := 64 + q % 4
abbrev srcClProto : Nat := 78
abbrev srcClErr : Nat := 79
abbrev srcClLost : Nat := 80
abbrev srcPeer : Nat := 81
abbrev srcSync : Nat := 82
abbrev srcClock : Nat := 85
abbrev srcRegulator : Nat := 86
abbrev srcThermal : Nat := 87
abbrev srcTamper : Nat := 88
abbrev srcSp : Nat := 89
abbrev srcVin : Nat := 91
abbrev srcDebugHalt : Nat := 93

/-- The module is in the fault state (R475). -/
def State.faulted (s : State) : Bool := s.faults.sticky != 0

/-! ### Causes (Table 17-6) -/

abbrev sysCapability : Nat := 0
abbrev sysRestart : Nat := 1
abbrev sysTwin : Nat := 2
abbrev sysBoot : Nat := 3
abbrev sysSuspect : Nat := 4
abbrev sysCap : Nat := 5

def State.setSys (s : State) (b : Nat) : State :=
  { s with causes := { s.causes with sys := putBit s.causes.sys b true } }

def State.setLinkCause (s : State) (b : Nat) : State :=
  { s with causes := { s.causes with link := putBit s.causes.link b true } }

def State.setOverrun (s : State) (ring : Nat) : State :=
  { s with causes := { s.causes with overrun := putBit s.causes.overrun ring true } }

def State.setCq (s : State) (cq : Nat) : State :=
  { s with causes := { s.causes with cq := putBit s.causes.cq cq true } }

def State.setSlow (s : State) (tenant : Nat) : State :=
  { s with causes := { s.causes with slow := putBit s.causes.slow tenant true } }

/-- The base set of R31 is absent: it was not found at start-up (stage 0xFE), or the coherent link was lost or failed
to come up, in which case the module serves as for a missing base set (R390, R391). -/
def State.baseAbsent (s : State) : Bool := s.startUp.stage == 0xFE || s.link.failed

/-- A cause of Hold, or a throttle level above 0 for the cap or the temperature, is in force: the level
behind `sys` bit 5 (R495). -/
def State.capInForce (s : State) : Bool := s.power.capping || s.power.holdWhy != 0

/-- The `sys` bits whose condition holds now (level causes of Table 17-6). -/
def State.sysLevels (s : State) : U16 :=
  putBit (putBit 0 sysCapability s.baseAbsent) sysCap s.capInForce

/-- Level causes are set while their condition holds. -/
def State.refreshSys (s : State) : State :=
  { s with causes := { s.causes with sys := s.causes.sys ||| s.sysLevels } }

/-- `pending` of object 0x7000 (Table 17-5). -/
def State.intPending (s : State) : U32 :=
  let b (i : Nat) (p : Bool) (x : U32) : U32 := putBit x i p
  b 0 s.faulted (b 1 (s.causes.cq != 0) (b 2 (s.causes.overrun != 0) (b 3 (s.causes.link != 0)
    (b 4 (s.causes.slow != 0) (b 5 (s.causes.sys != 0) 0)))))

end Sys2Proof.Machine
end

