-- ==== Sys2Proof/Machine/Flits.lean ====
section
/-!
DEFINITION. The transmitters of the links: channels, credits and the flits that a message takes (13 R379, R380, R382,
R389, R396, R398). How a transmitter packs its cells is left open. (Log entry 118: DESIGN CHOICE, unsafe.)
-/

namespace Sys2Proof.Machine

/-- The link that a message leaves by: 0 the coherent link, 1 + p peer port p. Acknowledgements lie in flit headers. -/
def Sent.link : Sent → Option Nat
  | .rdShared _ _ | .rdOnce _ _ | .wrFull _ _ _ | .evict _ | .invAck _ _ | .winData _ _ | .winDone _ => some 0
  | .peer p _ | .bulk p _ _ | .ackp p _ _ | .sync p _ _ => some (1 + p)
  | _ => none

/-- The bytes that a BULK message brings: sealed objects cross with their ciphertext (R311). -/
def bulkData (b : Bulk) : List Byte :=
  match b with
  | .collective _ _ _ _ _ data => data
  | .deltas _ _ => Config.deltaBytes b
  | .moved _ m => m.objects.flatMap (·.cipher)
  | .mirrored m => m.objects.flatMap (·.cipher)

/-- Data cells of a BULK transfer, at least one; a bale takes 1,024 (R382). -/
def bulkDataCells (b : Bulk) : Nat :=
  match b with
  | .moved _ m => max 1 (1024 * m.objects.length)
  | .mirrored m => max 1 (1024 * m.objects.length)
  | b => max 1 (ceilDiv (bulkData b).length 64)

/-- Channel of a message on its link, and its data cells (Tables 13-4 and 13-7). -/
def Sent.channel : Sent → Nat × Nat
  | .wrFull _ _ _ => (0, 1)
  | .invAck _ _ => (3, 0)
  | .winData _ _ => (5, 1)
  | .winDone _ => (5, 0)
  | .bulk _ _ b => (1, bulkDataCells b)
  | .ackp _ _ _ => (2, 0)
  | .peer _ m => (if field m 0 1 < 0x60 then 3 else 4, 0)
  | _ => (0, 0)

/-- Messages that bring `cells` data cells: one announces at most 1,024 (R382). -/
def messagesOf (cells : Nat) : Nat := max 1 (ceilDiv cells 1024)

/-- Flits of `cells` data cells: each message lies in a flit with up to three of its data cells, and the others follow
four to a flit, so that a message with 1,024 takes 257. -/
def flitsOf (cells : Nat) : Nat :=
  257 * (cells / 1024) + (if cells % 1024 = 0 then 0 else 1 + ceilDiv (cells % 1024 - 3) 4)

/-- Number of flits that a message takes. -/
def Sent.flits (m : Sent) : Nat := max 1 (flitsOf m.channel.2)

/-- The flit numbered `k` of a message: the message that lies in it, if any; its first data cell; its data cells. -/
def Sent.flitAt (m : Sent) (k : Nat) : Option Nat × Nat × Nat :=
  let n := m.channel.2 - 1024 * (k / 257)
  if k % 257 = 0 then (some (k / 257), 1024 * (k / 257), min 3 n)
  else (none, 1024 * (k / 257) + 4 * (k % 257) - 1, min 4 (min 1024 n - (4 * (k % 257) - 1)))

/-- Cells of a message on its link: message cells and data cells. -/
def Sent.cells (m : Sent) : Nat := messagesOf m.channel.2 + m.channel.2

/-- Coordinates of a rank in a geometry (R396). -/
def coordsOf (dims : Nat × Nat × Nat) (r : Nat) : Nat × Nat × Nat :=
  (r % dims.1, r / dims.1 % dims.2.1, r / (dims.1 * dims.2.1))

/-- The way around a ring of `n` from `a` to `b`, ties going to +. -/
def goesUp (n a b : Nat) : Bool := decide (2 * ((b + n - a) % n) ≤ n)

/-- A message from `a` on its way to `d` has crossed between coordinate 0 and the highest one when it stands at `b`. -/
def crossed (n a b d : Nat) : Bool := a != d && (if goesUp n a d then decide (b < a) else decide (a < b))

/-- Neighbour coordinate along a dimension of size n. -/
def stepCoord (n c : Nat) (up : Bool) : Nat := if up then (c + 1) % n else (c + n - 1) % n

/-- The rank that R396 expects on ports 1 to 6; the module's own for the others. -/
def expectedRank (dims : Nat × Nat × Nat) (self p : Nat) : Nat :=
  let c := coordsOf dims self
  let x := if p == 1 || p == 2 then stepCoord dims.1 c.1 (p == 1) else c.1
  let y := if p == 3 || p == 4 then stepCoord dims.2.1 c.2.1 (p == 3) else c.2.1
  let z := if p == 5 || p == 6 then stepCoord dims.2.2 c.2.2 (p == 5) else c.2.2
  x + dims.1 * (y + dims.2.1 * z)

/-- Rank that sent BULK traffic. -/
def bulkSource : Bulk → Option Nat
  | .collective _ _ r _ _ _ | .deltas r _ | .moved r _ => some r
  | .mirrored _ => none

/-- The credits that a message takes: its channel's, or the second set of BULK from where it has crossed between
coordinate 0 and the highest coordinate of a dimension (R396). -/
def State.creditsOf (s : State) (m : Sent) : Nat :=
  match m with
  | .bulk p d b => (match bulkSource b with
    | some r =>
      let dims := s.job.dims
      let a := coordsOf dims r
      let n := coordsOf dims (expectedRank dims s.job.rank p)
      let d := coordsOf dims d
      if crossed dims.1 a.1 n.1 d.1 || crossed dims.2.1 a.2.1 n.2.1 d.2.1 || crossed dims.2.2 a.2.2 n.2.2 d.2.2 then 5
      else 1
    | none => 1)
  | m => m.channel.1

def State.modPort (s : State) (p : Nat) (f : PeerPort → PeerPort) : State :=
  { s with ports := vMod s.ports p f }

def State.port (s : State) (p : Nat) : PeerPort := vGet s.ports p PeerPort.reset

/-! ### What may leave -/

/-- What the link controller may still send: nothing but acknowledgements and dictionary lines in Hold and in Sleep
(Table 18-5), and no more requests than Table 11-9 lets it have outstanding (R389). -/
structure Room where
  stopped : Bool
  reads : Nat
  posted : Nat
  slots : Nat
  /-- Tags of the writes that write completion slots. -/
  slotTags : List U16

def Sent.isRead (m : Sent) : Bool :=
  match m with
  | .rdShared _ _ => true
  | .rdOnce _ _ => true
  | _ => false

/-- A write of a completion slot, or any other (`slot` false). -/
def Sent.isWrite (tags : List U16) (slot : Bool) (m : Sent) : Bool :=
  match m with
  | .wrFull tag _ _ => tags.contains tag == slot
  | _ => false

/-- A message may leave as far as the link controller's limits go. -/
def Room.lets (r : Room) (m : Sent) : Bool :=
  match m with
  | .invAck _ _ => true
  | .winData _ _ => true
  | .winDone _ => true
  | m => !r.stopped && (!m.isRead || decide (0 < r.reads)) && (!m.isWrite r.slotTags false || decide (0 < r.posted)) &&
      (!m.isWrite r.slotTags true || decide (0 < r.slots))

def Room.less (r : Room) (m : Sent) : Room :=
  { r with
    reads := if m.isRead then r.reads - 1 else r.reads,
    posted := if m.isWrite r.slotTags false then r.posted - 1 else r.posted,
    slots := if m.isWrite r.slotTags true then r.slots - 1 else r.slots }

/-- The next flit of a message may leave: room among the 512 unacknowledged flits (R380), credit (R389, R398), and the
link controller's limits. -/
def FlitLayer.takes (y : FlitLayer) (r : Room) (m : WaitingMsg) : Bool :=
  let f := m.msg.flitAt m.gone
  decide (y.unacked.length < 512) && (f.1.isNone || decide (1 ≤ vGet y.msgCredits m.credits 0)) &&
    decide (f.2.2 ≤ vGet y.cellCredits m.credits 0) && r.lets m.msg

/-- The lowest channel to which the module owes credits, 0 for none. -/
def FlitLayer.owing (y : FlitLayer) : Nat := ((List.range 8).find? (fun c => vGet y.owed c 0 != 0)).getD 0

/-- The credits that one header returns. -/
def FlitLayer.owingN (y : FlitLayer) : Nat := min 4095 (vGet y.owed y.owing 0)

/-- They are returned. -/
def FlitLayer.repaid (y : FlitLayer) : FlitLayer := { y with owed := vMod y.owed y.owing (· - y.owingN) }

/-- The next flit of a message leaves, takes its credits, and returns credits of the module's own. -/
def FlitLayer.push (y : FlitLayer) (m : WaitingMsg) : FlitLayer :=
  let f := m.msg.flitAt m.gone
  { y.repaid with
    txSeq := y.txSeq + 1, unacked := y.unacked ++ [KeptFlit.mk (y.txSeq + 1) m.msg m.gone y.owing y.owingN],
    msgCredits := if f.1.isNone then y.msgCredits else vMod y.msgCredits m.credits (· - 1),
    cellCredits := vMod y.cellCredits m.credits (· - f.2.2) }

/-- As many flits of a message leave as may; the number bounds them. -/
def FlitLayer.run (y : FlitLayer) (r : Room) (m : WaitingMsg) : Nat → FlitLayer × Room × WaitingMsg
  | 0 => (y, r, m)
  | k + 1 =>
    if y.takes r m then (y.push m).run (r.less m.msg) { m with gone := m.gone + 1 } k else (y, r, m)

/-- A barrier message waits for the BULK messages before it (R412). -/
def Sent.afterBulk (m : Sent) : Bool :=
  match m with
  | .sync _ _ _ => true
  | _ => false

/-- Messages leave in order; a channel without credit is held, and the others go on (R389). -/
def pumpFlits : Room → List WaitingMsg → List Nat → FlitLayer → FlitLayer
  | _, [], _, y => y
  | r, m :: ms, held, y =>
    if held.contains m.credits || (m.msg.afterBulk && (held.contains 1 || held.contains 5)) then
      pumpFlits r ms (m.credits :: held) { y with waiting := y.waiting ++ [m] }
    else
      let x := y.run r m (m.msg.flits - m.gone)
      if x.2.2.gone = m.msg.flits then pumpFlits x.2.1 ms held x.1
      else pumpFlits x.2.1 ms (m.credits :: held) { x.1 with waiting := x.1.waiting ++ [x.2.2] }

def FlitLayer.pump (y : FlitLayer) (r : Room) : FlitLayer := pumpFlits r y.waiting [] { y with waiting := [] }

/-- A message goes to its link's layer. -/
def FlitLayer.offer (y : FlitLayer) (r : Room) (credits : Nat) (m : Sent) : FlitLayer :=
  ({ y with waiting := y.waiting ++ [WaitingMsg.mk credits m 0] }).pump r

/-- What the link controller may still send. Requests that still wait for credit are not outstanding. -/
def State.room (s : State) : Room :=
  let w := (vGet s.layers 0 FlitLayer.reset).waiting.map (·.msg)
  let n (p : Sent → Bool) : Nat := (w.filter p).length
  let tags := s.link.slotWrites
  { stopped := decide (2 ≤ s.power.pstate), slotTags := tags,
    reads := 8192 - (s.link.reads.length - n (·.isRead)),
    posted := 4096 - ((s.link.writes.filter (fun t => !tags.contains t)).length - n (·.isWrite tags false)),
    slots := 256 - ((s.link.writes.filter tags.contains).length - n (·.isWrite tags true)) }

/-- The layers after a message was given to its link. -/
def layersWith (ls : Vector FlitLayer 9) (r : Room) (credits : Nat) (m : Sent) : Vector FlitLayer 9 :=
  match m.link with
  | some l => vMod ls l (fun y => y.offer r credits m)
  | none => ls

/-- A message leaves for a link, the management port or the memory. -/
def State.send (s : State) (m : Sent) : State :=
  { s with sent := m :: s.sent, layers := layersWith s.layers s.room (s.creditsOf m) m }

/-- What waits on a link leaves as far as room and credit allow. -/
def State.pumpLink (s : State) (link : Nat) : State :=
  { s with layers := vMod s.layers link (fun y => y.pump s.room) }

/-- What waits on any link leaves as far as room and credit allow. -/
def State.pumpAll (s : State) : State := (List.range 9).foldl State.pumpLink s

/-- A message leaves by a peer port; its cells are counted (Table 13-11). -/
def State.sendPeer (s : State) (p : Nat) (m : Sent) : State :=
  (s.modPort p (fun x => { x with txBytes := x.txBytes + BitVec.ofNat 64 (64 * m.cells) })).send m

/-- Cells of a peer port's messages that have been handed over and have not left. -/
def FlitLayer.unsent (y : FlitLayer) : Nat :=
  (y.waiting.map (fun m => m.msg.cells - ((List.range m.gone).map (fun k =>
    (m.msg.flitAt k).2.2 + (if (m.msg.flitAt k).1.isSome then 1 else 0))).foldl (· + ·) 0)).foldl (· + ·) 0

end Sys2Proof.Machine
end

