-- ==== Sys2Proof/Machine/Objects.lean ====
section
/-!
DEFINITION. The object dictionary's map (R450, R452, R470): for each index its subindices, their types,
access classes, defaults, and the marks "persistent" and "route" of Table 16-9.
-/

namespace Sys2Proof.Machine

/-- Table 16-2. -/
inductive Access where
  | ro | rw | wo | rwp | sp
  deriving DecidableEq, Repr

/-- One subindex: width in bits (Table 16-1), class and default. -/
structure SubInfo where
  width : Nat
  access : Access
  dflt : Nat
  deriving DecidableEq, Repr

/-- The index that stands for a range of like objects. -/
def objectKind (i : Nat) : Nat :=
  if 0x1120 ≤ i ∧ i ≤ 0x1127 then 0x1120
  else if 0x1140 ≤ i ∧ i ≤ 0x117F then 0x1140
  else if 0x1180 ≤ i ∧ i ≤ 0x11BF then 0x1180
  else if 0x4010 ≤ i ∧ i ≤ 0x401F then 0x4010
  else i

/-- Number of an object within its range. -/
def objectNumber (i : Nat) : Nat := i - objectKind i

def roN (w : Nat) : SubInfo := ⟨w, .ro, 0⟩
def rwN (w d : Nat) : SubInfo := ⟨w, .rw, d⟩
def woN (w : Nat) : SubInfo := ⟨w, .wo, 0⟩
def spN (w : Nat) : SubInfo := ⟨w, .sp, 0⟩

/-- Subindices 0x01 and up of an object, in order; none for an index that names nothing. -/
def objectSubs (kind : Nat) : Option (List SubInfo) :=
  match kind with
  | 0x1000 => some [roN 32, roN 16, roN 16, roN 64, roN 32, roN 32]
  | 0x1010 => some [roN 64, roN 64, roN 64, roN 64, roN 64, roN 64, roN 8, roN 16, roN 8, roN 8, roN 8,
      roN 32]
  | 0x1020 => some [rwN 64 0, rwN 64 0, rwN 64 0, rwN 64 0, rwN 64 0, woN 8, roN 8, rwN 16 0, roN 64]
  | 0x1100 => some [rwN 8 1, roN 64, rwN 16 0x88B5, rwN 8 255, rwN 8 8, rwN 8 32, rwN 8 0, rwN 8 128,
      roN 8, roN 64, roN 64, roN 64, roN 64]
  | 0x1101 => some [roN 16, roN 64, roN 32, roN 16, roN 8]
  | 0x1110 => some [roN 8, roN 8, roN 16, roN 16, rwN 16 0, roN 64, roN 64, roN 64, roN 32, roN 32,
      roN 32]
  | 0x1118 => some [rwN 16 1, rwN 16 1, rwN 16 1, rwN 16 1000, roN 64]
  | 0x1120 => some [rwN 8 1, roN 8, roN 8, roN 8, roN 64, roN 16, roN 64, roN 64, roN 64, roN 64, roN 64]
  | 0x1130 => some [roN 64, roN 64, roN 32]
  | 0x1140 => some [rwN 8 0, rwN 64 0, rwN 8 10, rwN 64 0, rwN 8 0, rwN 16 0xFFFF, roN 8]
  | 0x1180 => some [rwN 8 0, rwN 64 0, rwN 8 11, rwN 64 0, roN 16]
  | 0x11C0 => some [roN 8, roN 8, woN 8, rwN 64 0, roN 8, roN 32]
  | 0x11C8 => some [rwN 8 1, roN 8, roN 64, roN 8, woN 8, roN 32]
  | 0x2000 => some [rwN 16 2000, rwN 8 95, rwN 16 10, rwN 16 200, rwN 8 1, rwN 16 200, rwN 8 25,
      rwN 16 50, woN 8]
  | 0x2010 => some [roN 8, roN 8, roN 8, roN 16, roN 64, roN 32, roN 16, roN 8, roN 64, roN 64, roN 64,
      roN 64, roN 64, roN 64, roN 32]
  | 0x2020 => some [roN 64, roN 64]
  | 0x2100 => some [rwN 8 4, rwN 8 0, roN 8, roN 64, roN 64, roN 64]
  | 0x2200 => some [roN 8, roN 16, roN 32, roN 32, roN 32, roN 64, roN 64]
  | 0x2300 => some [rwN 8 0, rwN 8 1, rwN 8 1, rwN 8 1, rwN 8 1, rwN 8 2, rwN 8 2, rwN 8 2, rwN 8 2,
      rwN 8 3, rwN 8 4, rwN 8 7, rwN 8 8]
  | 0x2400 => some [rwN 8 0, roN 8, rwN 8 0, rwN 16 100, rwN 8 24, rwN 32 256, rwN 64 0, rwN 64 0,
      rwN 64 0, rwN 64 0, roN 64, roN 64, roN 64, roN 64]
  | 0x2401 => some [rwN 16 64, rwN 16 128, rwN 16 256, rwN 16 512, rwN 16 1024, rwN 16 2048,
      rwN 16 4096, rwN 16 8192]
  | 0x2410 => some [rwN 8 0, roN 8, roN 64, roN 32, roN 32, roN 64, roN 64, roN 64, roN 64]
  | 0x2500 => some [rwN 16 0, roN 64, rwN 8 0, roN 64, rwN 16 100, roN 64, roN 64, roN 32]
  | 0x3000 => some [rwN 16 0, roN 16]
  | 0x3010 => some [roN 8, roN 64, rwN 64 0, woN 8, woN 8]
  | 0x3020 => some [rwN 8 0, rwN 8 0]
  | 0x3030 => some [rwN 32 0, rwN 32 0, rwN 8 0, rwN 8 0, rwN 16 0]
  | 0x3031 => some [roN 64, roN 64, roN 64, roN 64, roN 64, roN 64, roN 64, roN 32, roN 32]
  | 0x3040 => some [rwN 64 0, rwN 32 0, roN 32, rwN 32 0, rwN 32 0, rwN 8 0, rwN 8 1]
  | 0x3050 => some [rwN 32 0, rwN 32 0, rwN 32 0, roN 64, roN 32, roN 32, roN 32, roN 64, roN 32]
  | 0x4000 => some [rwN 8 2, rwN 8 1, rwN 32 1000000, rwN 16 2048, rwN 16 32, rwN 32 10, rwN 16 50]
  | 0x4010 => some [roN 8, roN 16, roN 16, roN 8, roN 8, roN 8, roN 8, roN 8, roN 8, rwN 16 0, rwN 32 0,
      roN 32, rwN 16 0, roN 32]
  | 0x4100 => some [rwN 8 0, roN 64, roN 32, roN 32, roN 32, roN 8, roN 8, roN 32, roN 64, roN 64,
      roN 64, roN 64]
  | 0x4140 => some [roN 64, roN 64, roN 64, roN 64, roN 64, roN 64, roN 64]
  | 0x4200 => some [rwN 32 256, rwN 16 64, rwN 8 32, rwN 16 100]
  | 0x4210 => some [rwN 16 0, roN 32, roN 16, roN 8, roN 8, roN 32, roN 32, roN 64, roN 64, roN 64,
      roN 64, roN 64]
  | 0x5000 => some [rwN 16 2000, rwN 16 8192, rwN 16 4096, rwN 32 32768, rwN 32 32768, rwN 16 1024,
      roN 8, roN 64, roN 64, roN 64, roN 64, roN 32]
  | 0x5010 => some [rwN 8 64, roN 16, roN 16, roN 64, roN 64, roN 64, roN 64, roN 8]
  | 0x5020 => some [rwN 64 0, roN 8, roN 16, roN 32, roN 32, roN 32, roN 8, roN 32, roN 64]
  | 0x5200 => some [rwN 32 0x10000, rwN 32 0x100000, rwN 8 3]
  | 0x5210 => some [rwN 64 0, rwN 16 0, roN 8, roN 64, roN 64, roN 8, roN 64, roN 64, roN 32, roN 32]
  | 0x5300 => some [roN 64, roN 64, roN 64, roN 64, roN 64, roN 64, roN 64, roN 64]
  | 0x5310 => some [rwN 64 0, roN 32, roN 32, roN 32, roN 8, roN 64, roN 64, roN 64, roN 64]
  | 0x5400 => some [roN 32, roN 32, roN 32, roN 64, rwN 16 100, roN 64, roN 64, roN 64]
  | 0x5401 => some [roN 32, roN 64, roN 64, roN 64, roN 64]
  | 0x6000 => some [rwN 8 0, roN 32, roN 32, roN 64, roN 64, roN 64, roN 64, roN 64, roN 32, roN 32]
  | 0x6010 => some [roN 32, roN 32, roN 64, roN 64, roN 64, roN 64, roN 64, roN 32, roN 64]
  | 0x6020 => some [rwN 64 0, roN 8, roN 8, roN 32, roN 64, roN 64, roN 32, roN 8]
  | 0x7000 => some [roN 32, rwN 32 0x3F]
  | 0x7010 => some [rwN 64 0]
  | 0x7011 => some [rwN 64 0]
  | 0x7012 => some [rwN 16 0]
  | 0x7013 => some (List.replicate 64 (rwN 64 0))
  | 0x7014 => some [rwN 16 0]
  | 0x7100 => some [rwN 64 0, rwN 64 0, roN 64, roN 64, roN 64, roN 64, roN 64]
  | 0x8000 => some [spN 8, spN 8, spN 8, spN 8, spN 8, spN 8, spN 8, spN 32, spN 16, spN 64]
  | 0x8010 => some [⟨16, .rwp, 2400⟩, ⟨8, .rwp, 105⟩, ⟨8, .rwp, 1⟩]
  | 0x8100 => some [⟨8, .rwp, 0⟩, ⟨64, .rwp, 0⟩, ⟨32, .rwp, 0⟩, ⟨64, .rwp, 0⟩, spN 8, spN 8]
  | 0x8110 => some [rwN 32 0, woN 64, roN 32]
  | 0xF000 => some [⟨8, .rwp, 0⟩, roN 32]
  | _ => none

/-- A subindex that exists (step 2 of Table 16-3). Subindex 0 is `entries`, U8 and RO. -/
def subInfo (index sub : Nat) : Option SubInfo :=
  match objectSubs (objectKind index) with
  | none => none
  | some l => if sub = 0 then some ⟨8, .ro, l.length⟩ else l[sub - 1]?

/-- Default of a subindex; rings and slots whose default depends on their number are given apart. (Log entry 5: DESIGN CHOICE, unsafe.) -/
def settingDefault (index sub : Nat) : Nat :=
  match index, sub with
  | 0x1140, 1 => 1
  | 0x1140, 4 => 0x20000
  | 0x1180, 1 => 1
  | 0x1180, 2 => 0x10000
  | 0x1180, 4 => 0x20080
  | _, _ => match subInfo index sub with
    | some i => i.dflt
    | none => 0

/-- "Persistent" of Table 16-9, and of R506, R515, R522, R427. -/
def persistentSub (index sub : Nat) : Bool :=
  match index with
  | 0x1100 => sub == 1 || (3 ≤ sub && sub ≤ 8)
  | 0x1110 => sub == 5
  | 0x11C0 => sub == 4
  | 0x11C8 => sub == 1
  | 0x2000 => 1 ≤ sub && sub ≤ 8
  | 0x2100 => sub == 1
  | 0x2300 => 1 ≤ sub && sub ≤ 13
  | 0x2400 => sub == 1 || (3 ≤ sub && sub ≤ 14)
  | 0x2401 => 1 ≤ sub && sub ≤ 8
  | 0x2500 => sub == 5
  | 0x4000 => 1 ≤ sub && sub ≤ 7
  | 0x4200 => 1 ≤ sub && sub ≤ 4
  | 0x5000 => 1 ≤ sub && sub ≤ 6
  | 0x5010 => sub == 1
  | 0x5200 => 1 ≤ sub && sub ≤ 3
  | 0x5400 => sub == 5
  | 0x6000 => sub == 1
  | 0x8010 => 1 ≤ sub && sub ≤ 3
  | _ => false

/-- Selectors kept for each route (R455). -/
def routeSub (index sub : Nat) : Bool :=
  match index, sub with
  | 0x1020, 8 | 0x2100, 2 | 0x2410, 1 | 0x2500, 1 | 0x2500, 3 | 0x3000, 1 | 0x4100, 1 | 0x4210, 1
  | 0x5020, 1 | 0x5210, 1 | 0x5210, 2 | 0x5310, 1 | 0x6020, 1 => true
  | _, _ => false

/-- Objects that address the tenant selected on the route (R456). -/
def tenantObject (index : Nat) : Bool :=
  (0x3001 ≤ index && index ≤ 0x30FF) ||
  [0x2020, 0x4100, 0x4140, 0x4210, 0x5020, 0x5210, 0x5300, 0x5401, 0x6010, 0x6020].contains index

/-- The on/off settings of R538. -/
def onOffSub (index sub : Nat) : Bool :=
  match objectKind index, sub with
  | 0x1100, 1 | 0x1120, 1 | 0x1140, 1 | 0x1180, 1 | 0x3030, 4 | 0x3020, 1 | 0x3020, 2 | 0x3040, 6
  | 0x3040, 7 | 0x2400, 3 | 0x2000, 5 | 0x8010, 3 | 0xF000, 1 | 0x11C8, 1 => true
  | _, _ => false

/-- Trigger subindices: WO, accepting only 1 (R452). -/
def triggerSub (index sub : Nat) : Bool :=
  match index, sub with
  | 0x1020, 6 | 0x11C0, 3 | 0x11C8, 5 | 0x2000, 9 | 0x3010, 4 | 0x3010, 5 => true
  | _, _ => false

/-- Ranges and alignments of a subindex that depend on nothing else: what step 5 of Table 16-3 and a
restore (R467) check. `v` already has the subindex's width. -/
def rangeOk (index sub v : Nat) : Bool :=
  if onOffSub index sub || triggerSub index sub then (if triggerSub index sub then v == 1 else v ≤ 1)
  else match objectKind index, sub with
    | 0x1020, 8 => v ≤ 2367
    | 0x1100, 3 => 0x600 ≤ v && v != 0x800 && v != 0x806 && v != 0x86DD
    | 0x1100, 5 | 0x1100, 6 | 0x1100, 8 => 1 ≤ v
    | 0x1110, 5 => v == 0 || (10 ≤ v && v ≤ 10000)
    | 0x1118, 1 | 0x1118, 2 | 0x1118, 3 => 1 ≤ v && v ≤ 4096
    | 0x1118, 4 => 10 ≤ v && v ≤ 60000
    | 0x1140, 2 | 0x1180, 2 => v % 4096 == 0
    | 0x1140, 3 => 4 ≤ v && v ≤ 16
    | 0x1180, 3 => 5 ≤ v && v ≤ 17
    | 0x1140, 4 | 0x1180, 4 => v % 128 == 0
    | 0x1140, 5 => v ≤ 63
    | 0x1140, 6 => v ≤ 4095 || v == 0xFFFF
    | 0x2000, 1 => 600 ≤ v && v ≤ 2400
    | 0x2000, 2 => 85 ≤ v && v ≤ 110
    | 0x2000, 3 => 1 ≤ v && v ≤ 10000
    | 0x2000, 4 => 20 ≤ v && v ≤ 60000
    | 0x2000, 6 => v ≤ 800
    | 0x2000, 7 => 5 ≤ v && v ≤ 100
    | 0x2000, 8 => v ≤ 10000
    | 0x2100, 1 => 2 ≤ v && v ≤ 8
    | 0x2100, 2 => v ≤ 63
    | 0x2300, 13 => 2 ≤ v && v ≤ 64
    | 0x2300, _ => v ≤ 7
    | 0x2400, 1 => v ≤ 3
    | 0x2400, 4 => 10 ≤ v && v ≤ 1000
    | 0x2400, 5 => v ≤ 168
    | 0x2401, _ => 1 ≤ v
    | 0x2410, 1 => v ≤ 191
    | 0x2500, 3 => v ≤ 63
    | 0x2500, 5 => 1 ≤ v && v ≤ 60000
    | 0x3000, 1 => v ≤ 4095
    | 0x3010, 3 => v % 64 == 0
    | 0x3030, 2 => 1 ≤ v
    | 0x3030, 3 => v ≤ 7
    | 0x3040, 1 => v % 65536 == 0
    | 0x3040, 5 => v == 0 || (10 ≤ v && v ≤ 86400000)
    | 0x4000, 1 => v == 1 || v == 2
    | 0x4000, 2 => v ≤ 2
    | 0x4000, 4 => 256 ≤ v && v ≤ 16384
    | 0x4000, 5 => 1 ≤ v && v ≤ 4096
    | 0x4000, 6 => 1 ≤ v && v ≤ 1048576
    | 0x4000, 7 => v ≤ 60000
    | 0x4010, 10 => 1 ≤ v && v ≤ 4096
    | 0x4010, 11 => 1 ≤ v && v ≤ 1048576
    | 0x4010, 13 => v ≤ 60000
    | 0x4100, 1 => v ≤ 15
    | 0x4200, 1 => 1 ≤ v
    | 0x4200, 2 => 1 ≤ v && v ≤ 4096
    | 0x4200, 3 => v ≤ 48
    | 0x4200, 4 => 10 ≤ v && v ≤ 1000
    | 0x4210, 1 => v ≤ 4095
    | 0x5000, 1 => 200 ≤ v && v ≤ 60000
    | 0x5000, 2 => 64 ≤ v && v ≤ 32768 && v % 64 == 0
    | 0x5000, 3 => 1 ≤ v && v ≤ 16384
    | 0x5000, 4 => 1024 ≤ v && v ≤ 262144
    | 0x5000, 5 => 64 ≤ v && v ≤ 2097152
    | 0x5000, 6 => 16 ≤ v
    | 0x5010, 1 => v ≤ 96
    | 0x5400, 5 => 1 ≤ v && v ≤ 10000
    | 0x6000, 1 => v ≤ 63
    | 0x8010, 1 => 600 ≤ v && v ≤ 2400
    | 0x8010, 2 => 95 ≤ v && v ≤ 115
    | 0x8100, 1 => 1 ≤ v && v ≤ 5
    | 0x8100, 2 => v % 65536 == 0
    | 0x8100, 4 => v % 64 == 0
    | 0x8110, 1 => v % 8 == 0
    | _, _ => true

end Sys2Proof.Machine
end

