-- ==== Sys2Proof/Machine/Ops.lean ====
section
/-!
DEFINITION. Shared operations over the state: settings, tenants, free values, messages sent, companion
memory (T2), command and completion rings, and the fault state (R14 to R26, R384 to R387, R471 to R480).
-/

namespace Sys2Proof

/-! ### The record header (R20) -/

/-- The little-endian field of `k` bytes at byte `o` of a record. -/
def Record.fieldN (r : Record) (o k : Nat) : Nat := (r.bits.extractLsb' (8 * o) (8 * k)).toNat
def Record.opcode (r : Record) : Nat := r.fieldN 0 2
def Record.tenant (r : Record) : Nat := (r.bits.extractLsb' 16 12).toNat
def Record.int (r : Record) : Bool := r.bits.getLsbD 28
def Record.quiet (r : Record) : Bool := r.bits.getLsbD 29
def Record.fence (r : Record) : Bool := r.bits.getLsbD 30
def Record.seq (r : Record) : U32 := r.bits.extractLsb' 32 32
def Record.handle (r : Record) : U64 := r.bits.extractLsb' 64 64

end Sys2Proof

namespace Sys2Proof.Machine

/-! ### Settings -/

/-- The value now held by a module setting. -/
def State.setting (s : State) (index sub : Nat) : Nat :=
  lookupD s.dict.settings (index, sub) (settingDefault index sub)

def State.putSetting (s : State) (index sub v : Nat) : State :=
  { s with dict := { s.dict with settings := insertKey s.dict.settings (index, sub) v } }

/-- A selector of a route (R455). -/
def State.selector (s : State) (route index sub : Nat) : Nat :=
  lookupD s.dict.selectors (route, index, sub) (settingDefault index sub)

/-- INT_N is low (R481); it is released while the processor is in reset (R431, R529). -/
def State.intN (s : State) : Bool :=
  s.startUp.stage != 0 && s.startUp.stage != 0xFF && (s.intPending &&& BitVec.ofNat 32 (s.setting 0x7000 2)) != 0

/-- FAULT_N is low (R473, R529): a sticky bit, stage 0, recovery, or an input stage that is off. -/
def State.faultN (s : State) : Bool :=
  s.faulted || !s.startUp.powered || !s.startUp.mated || s.startUp.stage == 0 || s.startUp.stage == 0xFF

/-! ### Free values -/

/-- The `i`th free number not yet drawn. -/
def State.free (s : State) (i : Nat) : Nat := Config.draw (s.draws + i)

def State.drew (s : State) (n : Nat) : State := { s with draws := s.draws + n }

/-! ### Components by number -/

def State.cmdRing (s : State) (n : Nat) : CmdRing := vGet s.cmdRings n CmdRing.reset

def State.modCmd (s : State) (n : Nat) (f : CmdRing → CmdRing) : State :=
  { s with cmdRings := vMod s.cmdRings n f }

def State.cqRing (s : State) (n : Nat) : CqRing := vGet s.cqRings n CqRing.reset

def State.modCq (s : State) (n : Nat) (f : CqRing → CqRing) : State :=
  { s with cqRings := vMod s.cqRings n f }

def State.modLink (s : State) (f : CohLink → CohLink) : State := { s with link := f s.link }

def State.modPower (s : State) (f : Power → Power) : State := { s with power := f s.power }

def State.modTiers (s : State) (f : Tiers → Tiers) : State := { s with tiers := f s.tiers }

def State.tenant? (s : State) (t : Nat) : Option Tenant :=
  s.tenants.find? (fun x => x.number == t)

def State.modTenant (s : State) (t : Nat) (f : Tenant → Tenant) : State :=
  { s with tenants := updWhere (fun x => x.number == t) f s.tenants }

/-- Units are reserved out of a tenant's level (R276). -/
def State.reserve (s : State) (t units : Nat) : State :=
  s.modTenant t (fun x => { x with level := x.level - units })

/-- A reservation returns; the level never passes `burst`. -/
def State.giveBack (s : State) (t units : Nat) : State :=
  s.modTenant t (fun x => { x with level := min (x.level + units) (max x.level x.burst.toNat) })

/-- Front-end work leaves before it is done: rows that the open step carries for it go too, and what they reserved
returns. -/
def State.dropWork (s : State) (w : FrontWork) : State :=
  let rows := (s.step.map (fun o => sumOf (fun (e : Nat × List Nat) => if e.1 == w.id then sumOf (fun x => x) e.2 else 0) o.front)).getD 0
  ({ s with
    front := s.front.filter (fun x => x.id != w.id),
    step := s.step.map (fun (o : OpenStep) => { o with front := o.front.filter (fun e => e.1 != w.id) }) }).giveBack
      w.record.tenant rows

/-- Adds to the counts of a tenant's reports. -/
def State.count (s : State) (t : Nat) (f : Counts → Counts) : State :=
  s.modTenant t (fun x => { x with counts := f x.counts })

/-- Links and ports train: from stage 2 on, and not while the processor is in reset (R431, R509). -/
def State.linksRun (s : State) : Bool := decide (2 ≤ s.startUp.stage) && s.startUp.stage != 0xFF

/-- The coherent link is up and carries requests. -/
def State.linkUp (s : State) : Bool := s.link.state == 2

/-- Ring traffic moves: the link is up and the module is in neither Hold nor Sleep (Table 18-5). -/
def State.traffic (s : State) : Bool := s.linkUp && s.power.pstate < 2

/-- Work begins: Idle is left (R494). -/
def State.leaveIdle (s : State) : State :=
  s.modPower (fun p => { p with pstate := if p.pstate == 1 then 0 else p.pstate })

/-- A wake event: Sleep ends within 1 ms (R497). -/
def State.wake (s : State) : State :=
  s.modPower (fun p => { p with waking := p.waking || p.pstate == 3 })

/-! ### Companion memory -/

/-- A tag that no outstanding request holds, from `t` on. -/
def freeTagFrom (used : List U16) : Nat → U16 → U16
  | 0, t => t
  | k + 1, t => if used.contains t then freeTagFrom used k (t + 1) else t

def State.freeTag (s : State) : U16 :=
  let used := s.link.reads.map (·.tag) ++ s.link.writes
  freeTagFrom used used.length s.link.nextTag

/-- Sends WR_FULL of one whole line as `t2` now holds it; the tag waits for its WR_ACK. Lines of completion slots have
room of their own (Table 11-9). -/
def State.sendLineOf (slot : Bool) (s : State) (addr : Nat) : State :=
  let tag := s.freeTag
  let line : Line := ofBytes 512 (readBytes s.t2 addr 64)
  (s.modLink (fun l => { l with
    nextTag := tag + 1, writes := l.writes ++ [tag],
    slotWrites := if slot then l.slotWrites ++ [tag] else l.slotWrites })).send
      (.wrFull tag (s.link.t2Base.toNat + addr) line)

abbrev State.sendLine (s : State) (addr : Nat) : State := s.sendLineOf false addr

/-- Sends the `n` lines from line address `a` on. -/
def State.sendLines (s : State) (a : Nat) : Nat → State
  | 0 => s
  | n + 1 => (s.sendLine a).sendLines (a + 64) n

/-- A line of T2. -/
def State.lineAt (s : State) (a : Nat) : Line := ofBytes 512 (readBytes s.t2 a 64)

/-- Keeps what the lines under the writes issued since `s0` held before: `n` lines from address `a` on. -/
def State.keepOld (s s0 : State) (a n : Nat) : State :=
  s.modLink (fun l => { l with undo := l.undo ++
    (l.writes.drop s0.link.writes.length).zip ((List.range n).map (fun i => (a + 64 * i, s0.lineAt (a + 64 * i)))) })

/-- Writes bytes of T2: whole lines are sent, the other bytes of a line keep their value. -/
def State.writeT2 (s : State) (addr : Nat) (bs : List Byte) : State :=
  if bs.isEmpty then s
  else
    let a := 64 * (addr / 64)
    let n := (addr + bs.length - 1) / 64 + 1 - addr / 64
    ({ s with t2 := writeBytes s.t2 addr bs }.sendLines a n).keepOld s a n

/-- Tags of the writes that were issued between two states. -/
def newWrites (s0 s : State) : List U16 :=
  s.link.writes.filter (fun t => !s0.link.writes.contains t)

/-- A read of one line: RD_SHARED for a watched line, RD_ONCE for a record or a source. -/
def State.sendRead (s : State) (addr : Nat) (use : ReadUse) : State :=
  let tag := s.freeTag
  let phys := s.link.t2Base.toNat + addr
  let m : Sent := match use with
    | .record _ _ | .source => .rdOnce tag phys
    | _ => .rdShared tag phys
  (s.modLink (fun l => { l with nextTag := tag + 1, reads := l.reads ++ [ReadOut.mk tag addr use false] })).send m

/-- The next line of the commands' sources is read, one line at a time: how many reads the module keeps outstanding is
a matter of time. (Log entry 119: DESIGN CHOICE, unsafe.) -/
def State.readSource (s : State) : State :=
  if s.traffic && !s.link.reads.any (fun x => decide (x.use = .source)) then
    match s.link.sources with
    | (a, n + 1) :: rest =>
      (s.sendRead a .source).modLink (fun l => { l with sources := if n = 0 then rest else (a + 64, n) :: rest })
    | _ => s
  else s

/-- The lines of a command's sources are to be read (R384): ranges by address and bytes. -/
def State.readSources (s : State) (l : List (Nat × Nat)) : State :=
  let lines := (l.filter (fun e => e.2 != 0)).map (fun e =>
    (64 * (e.1 / 64), (e.1 + e.2 - 1) / 64 + 1 - e.1 / 64))
  if lines.isEmpty then s else (s.modLink (fun k => { k with sources := k.sources ++ lines })).readSource

/-- A T2 range lies wholly below `size` (R325). -/
def State.t2Ok (s : State) (a n : Nat) : Bool := decide (a + n ≤ s.link.t2Size)

def overlap (a n b m : Nat) : Bool := decide (a < b + m) && decide (b < a + n)

/-- A T2 range overlaps an open window (R343). -/
def State.inWindow (s : State) (a n : Nat) : Bool :=
  s.tiers.windows.any (fun w => overlap a n w.t2 (w.bales * 65536))

/-! ### Command rings -/

def cmdObj (n : Nat) : Nat := 0x1140 + n
def cqObj (n : Nat) : Nat := 0x1180 + n

def State.ringSize (s : State) (n : Nat) : Nat := 2 ^ s.setting (cmdObj n) 3
def State.cqSize (s : State) (n : Nat) : Nat := 2 ^ s.setting (cqObj n) 3

/-- The completion ring of a command ring. -/
def State.cqOf (s : State) (ring : Nat) : Nat := s.setting (cmdObj ring) 5

def State.takenTotal (s : State) : Nat :=
  (s.cmdRings.toList.map (fun r => r.taken.length)).foldl (· + ·) 0

/-- Completions that wait for ring `c`: held, or stalled because `held` is 256 (R18). -/
def State.stalledFor (s : State) (c : Nat) : Bool :=
  s.link.deferred.any (fun d => match d.write with
    | .completion p => p.cq == c && d.needs.isEmpty
    | _ => false)

/-- The completion of a record that a fault ended (R476). -/
def Post.restarted (p : Post) : Bool :=
  p.done.isSome && p.parts.any (fun l => l.any (fun x => field x 2 2 == stJobRestarted))

/-- A completion ring still holds a JOB_RESTARTED completion (R476). -/
def State.holdsRestarted (s : State) (c : Nat) : Bool :=
  (s.cqRing c).held.any Post.restarted ||
    s.link.deferred.any (fun d => match d.write with
      | .completion p => p.cq == c && p.restarted
      | _ => false)

/-- The fetcher takes records of a ring (R16, R17, R18, R476, R477). -/
def State.fetches (s : State) (n : Nat) : Bool :=
  let r := s.cmdRing n
  let q := s.cqRing (s.cqOf n)
  r.enabled && !r.overrun && q.enabled && q.held.length < 256 && r.taken.length < 64 &&
    s.takenTotal < 1024 && !s.holdsRestarted (s.cqOf n) &&
    (!s.faulted || (q.held.isEmpty && !s.stalledFor (s.cqOf n)))

/-- Reads the record lines between `fetched` and the producer index, as far as places allow. -/
def State.fetchRecords (s : State) (n : Nat) : Nat → State
  | 0 => s
  | k + 1 =>
    let r := s.cmdRing n
    if s.traffic && s.fetches n && r.fetched != r.producer &&
        (r.fetched - r.consumer).toNat + r.taken.length < 64 then
      let addr := s.setting (cmdObj n) 2 + 64 * (r.fetched.toNat % s.ringSize n)
      ((s.sendRead addr (.record n r.fetched)).modCmd n
        (fun r => { r with fetched := r.fetched + 1 })).fetchRecords n k
    else s

def State.fetch (s : State) (n : Nat) : State := s.fetchRecords n 64

/-- Writes the consumer index line of a command ring; it waits for nothing (R387). -/
def State.writeConsumer (s : State) (n : Nat) : State :=
  s.writeT2 (s.setting (cmdObj n) 4 + 64) (toLe 64 (s.cmdRing n).consumer.toNat)

/-- Takes arrived records in index order (R16), but not in Hold or Sleep (Table 18-5). `fuel` bounds their number. -/
def State.takeArrived (s : State) (n : Nat) : Nat → State
  | 0 => s
  | k + 1 =>
    let r := s.cmdRing n
    match r.arrived.find? (fun e => e.1 == r.consumer) with
    | some e =>
      if s.traffic && s.fetches n then
        ((s.modCmd n (fun r => { r with
          consumer := r.consumer + 1,
          arrived := r.arrived.filter (fun x => x.1 != e.1),
          taken := r.taken ++ [Record.mk n e.2] })).writeConsumer n).takeArrived n k
      else s
    | none => s

/-- Takes what has arrived and fetches more. -/
def State.serveRing (s : State) (n : Nat) : State := (s.takeArrived n 64).fetch n

/-- Serves every command ring that completes into completion ring `c` (R18). -/
def State.serveFor (s : State) (c : Nat) : State :=
  (List.range 64).foldl (fun s n => if (s.cmdRing n).enabled && s.cqOf n == c then s.serveRing n else s) s

/-- Serves every command ring. -/
def State.serveAll (s : State) : State := (List.range 64).foldl (fun s n => s.serveRing n) s

/-- A place of unstarted records has freed (R17): its ring is served again, and every ring where all 1,024
places were taken. -/
def State.placeFreed (s : State) (ring : Nat) : State :=
  if s.takenTotal + 1 < 1024 then s.serveRing ring else s.serveAll

/-- A producer index read from a command ring's control area (R16). -/
def State.takeProducer (s : State) (n : Nat) (idx : U32) : State :=
  let r := s.cmdRing n
  if !r.enabled || r.overrun then s
  else if (idx - r.consumer).toNat > s.ringSize n then
    (s.modCmd n (fun r => { r with overrun := true })).setOverrun n
  else (s.modCmd n (fun r => { r with producer := idx })).serveRing n

/-! ### Completion rings -/

/-- Sets the phase bit of a record's first slot by the pass (R26). -/
def withPhase (slot : Slot) (pass : Nat) : Slot := putBit slot 79 (pass % 2 == 0)

/-- A filler record of `n` slots (R539): opcode, status, `seq`, `ring`, `tenant` zero. -/
def filler (n : Nat) : List Slot :=
  BitVec.ofNat 256 ((n - 1) * 2 ^ 92) :: List.replicate (n - 1) 0

/-- The slots a record takes in a ring of `size` slots from index `p`: a filler first if it would wrap. -/
def placeRecord (size p : Nat) (rec : List Slot) : List Slot :=
  let left := size - p % size
  if left < rec.length then
    (filler left).mapIdx (fun i x => if i = 0 then withPhase x (p / size) else x) ++
      rec.mapIdx (fun i x => if i = 0 then withPhase x ((p + left) / size) else x)
  else rec.mapIdx (fun i x => if i = 0 then withPhase x (p / size) else x)

/-- The slots of all parts of a post, one after another. -/
def placeParts (size : Nat) : Nat → List (List Slot) → List Slot
  | _, [] => []
  | p, r :: rs =>
    let l := placeRecord size p r
    l ++ placeParts size (p + l.length) rs

/-- Writes slots into a completion ring's companion memory, without sending. -/
def writeSlots (m : Mem) (base size : Nat) : Nat → List Slot → Mem
  | _, [] => m
  | p, x :: xs =>
    writeSlots (writeBytes m (base + 32 * (p % size)) (lineBytes x 32)) base size (p + 1) xs

/-- Line addresses of slots [p, p + n) of a ring, each once. -/
def slotLines (base size p n : Nat) : List Nat :=
  ((List.range n).map (fun i => (base + 32 * ((p + i) % size)) / 64 * 64)).eraseDups

/-- A record has completed: it leaves the running records, and units that it did not use return (R100). -/
def State.endRecord (s : State) (done : Option (Nat × Nat)) : State :=
  match done with
  | none => s
  | some (ring, id) =>
    let gone (r : Running) : Bool := r.record.ring == ring && r.id == id
    (s.running.filter gone).foldl (fun s r => if r.refund = 0 then s else s.giveBack r.record.tenant r.refund)
      { s with running := s.running.filter (fun r => !gone r) }

/-- Space for a post in a completion ring now. -/
def State.postFits (s : State) (p : Post) : Bool :=
  let q := s.cqRing p.cq
  let size := s.cqSize p.cq
  decide ((q.producer - q.consumer).toNat + (placeParts size q.producer.toNat p.parts).length ≤ size)

/-- A producer line waits for every slot line that its index covers, so also for those of the ring's
earlier waiting producer lines (R387). -/
def State.producerNeeds (s : State) (c : Nat) : List U16 :=
  (s.link.deferred.filterMap (fun d => match d.write with
    | .producer c' _ => if c' == c then some d.needs else none
    | _ => none)).flatten

/-- Writes a post's slots (WR_FULL of their lines) and leaves the producer line waiting for their
WR_ACKs (R387). The source of a FAULT_INJECT asserts from then on (R485). (Log entry 23: DEDUCED, safe.) -/
def State.writePost (s : State) (p : Post) : State :=
  let q := s.cqRing p.cq
  let size := s.cqSize p.cq
  let base := s.setting (cqObj p.cq) 2
  let slots := placeParts size q.producer.toNat p.parts
  let s1 := { s with t2 := writeSlots s.t2 base size q.producer.toNat slots }
  let s2 := (slotLines base size q.producer.toNat slots.length).foldl (State.sendLineOf true) s1
  let idx := q.producer + BitVec.ofNat 32 slots.length
  let s3 := (s2.modCq p.cq (fun q => { q with producer := idx })).modLink (fun l => { l with
    deferred := l.deferred ++ [Deferred.mk (newWrites s s2 ++ s.producerNeeds p.cq) (.producer p.cq idx)] })
  let s4 := if p.int then s3.setCq p.cq else s3
  match p.inject with
  | some n => { s4 with faults := { s4.faults with due := s4.faults.due ++ [n] } }
  | none => s4

/-- Hands a post to its completion ring: written, or held while there is no space (R18). A post with no
parts writes nothing (a quiet record). A disabled ring receives nothing: what comes for it is held until it is
enabled. While 256 are held the completion stalls. (Log entry 23: DEDUCED, safe.) -/
def State.post (s : State) (p : Post) : State :=
  let q := s.cqRing p.cq
  if p.parts.isEmpty then s.endRecord p.done
  else if q.held.length < 256 then
    let s := s.endRecord p.done
    if q.enabled && q.held.isEmpty && s.traffic && s.postFits p then s.writePost p
    else s.modCq p.cq (fun q => { q with held := q.held ++ [p] })
  else s.modLink (fun l => { l with deferred := l.deferred ++ [Deferred.mk [] (.completion p)] })

/-- Writes held posts while there is space. -/
def State.drainHeld (s : State) (c : Nat) : Nat → State
  | 0 => s
  | k + 1 =>
    match (s.cqRing c).held with
    | [] => s
    | p :: rest =>
      if (s.cqRing c).enabled && s.traffic && s.postFits p then
        ((s.modCq c (fun q => { q with held := rest })).writePost p).drainHeld c k
      else s

/-- Stalled completions of a ring come back when places free. -/
def State.unstall (s : State) (c : Nat) : State :=
  let stalled := s.link.deferred.filter (fun d => match d.write with
    | .completion p => p.cq == c && d.needs.isEmpty
    | _ => false)
  let s := s.modLink (fun l => { l with deferred := l.deferred.filter (fun d => !stalled.contains d) })
  stalled.foldl (fun s d => match d.write with
    | .completion p => s.post p
    | _ => s) s

/-- A completion ring may have space again. -/
def State.drainCq (s : State) (c : Nat) : State :=
  (((s.drainHeld c 256).unstall c).drainHeld c 256).serveFor c

/-- A consumer index read from a completion ring's control area. -/
def State.takeConsumer (s : State) (c : Nat) (idx : U32) : State :=
  if (s.cqRing c).enabled then (s.modCq c (fun q => { q with consumer := idx })).drainCq c else s

/-- What a line address is watched for (R384). -/
def State.watchUses (s : State) (off : Nat) : List ReadUse :=
  ((List.range 64).filter (fun n => (s.cmdRing n).enabled && s.setting (cmdObj n) 4 == off)).map
      ReadUse.producer ++
    ((List.range 64).filter (fun n => (s.cqRing n).enabled && s.setting (cqObj n) 4 + 64 == off)).map
      ReadUse.consumer

/-- Every line that an enabled ring watches, with its use. -/
def State.watchSet (s : State) : List (Nat × ReadUse) :=
  ((List.range 64).filter (fun n => (s.cmdRing n).enabled)).map
      (fun n => (s.setting (cmdObj n) 4, ReadUse.producer n)) ++
    ((List.range 64).filter (fun n => (s.cqRing n).enabled)).map
      (fun n => (s.setting (cqObj n) 4 + 64, ReadUse.consumer n))

/-- Reads every watched line for which `p` holds and no read is outstanding. -/
def State.rewatch (s : State) (p : Nat → Bool) : State :=
  s.watchSet.foldl (fun s w =>
    if p w.1 && !(s.link.reads.any (fun x => decide (x.use = w.2))) then
      (s.modLink (fun l => { l with shared := l.shared.filter (· != w.1) })).sendRead w.1 w.2
    else s) s

/-- Rings move again: watched lines are read, what is held is written, and records are fetched. -/
def State.resumeRings (s : State) : State :=
  let s := (if s.traffic then s.rewatch (fun a => !s.link.shared.contains a) else s).readSource
  ((List.range 64).foldl (fun s c => if (s.cqRing c).enabled then s.drainCq c else s) s.pumpAll).serveAll

/-- Carries out a write whose WR_ACKs have all come. -/
def State.releaseWrite (s : State) (w : WaitingWrite) : State :=
  match w with
  | .completion p => s.post p
  | .producer c idx => s.writeT2 (s.setting (cqObj c) 4) (toLe 64 idx.toNat)

/-- Releases the deferred writes that wait for nothing more, in order. A producer line goes out only
when no earlier producer line of its ring still waits. -/
def State.releaseAll (s : State) : State :=
  let ready := s.link.deferred.filter (fun d => d.needs.isEmpty)
  let s := s.modLink (fun l => { l with deferred := l.deferred.filter (fun d => !d.needs.isEmpty) })
  ready.foldl (fun s d => s.releaseWrite d.write) s

/-! ### Completions of records -/

/-- A completion slot without its phase (Table 1-8); `results` are bytes 12 to 31. -/
def completionSlot (r : Record) (status : Nat) (results : List Byte) : Slot :=
  ofBytes 256 (toLe 2 r.opcode ++ toLe 2 status ++ toLe 4 r.seq.toNat ++ toLe 2 (r.ring % 64) ++
    toLe 2 (r.tenant % 4096) ++ (results ++ List.replicate (20 - results.length) 0).take 20)

/-- The post that completes record `r`, started as number `id`, in the completion ring that `cq` of its ring names when it
completes. A quiet record with OK writes nothing. (Log entry 123: DESIGN CHOICE, unsafe.) -/
def State.completionPost (s : State) (r : Record) (id status : Nat) (results : List Byte) : Post :=
  { cq := s.cqOf r.ring,
    parts := if r.quiet && status == stOk then [] else [[completionSlot r status results]],
    done := some (r.ring, id),
    int := r.int }

/-- Completes a record once the T2 writes `needs` are acknowledged (R387). (Log entry 22: DEDUCED, safe.) -/
def State.completeAfter (s : State) (needs : List U16) (r : Record) (id status : Nat)
    (results : List Byte) : State :=
  let p := s.completionPost r id status results
  if needs.isEmpty then s.post p
  else s.modLink (fun l => { l with deferred := l.deferred ++ [Deferred.mk needs (.completion p)] })

/-- Completes a record that made no T2 write. (Log entry 22: DEDUCED, safe.) -/
def State.complete (s : State) (r : Record) (id status : Nat) (results : List Byte) : State :=
  s.completeAfter [] r id status results

/-- The running record of a start number. -/
def State.running? (s : State) (id : Nat) : Option Running := s.running.find? (fun r => r.id == id)

/-- Completes the running record of a start number. -/
def State.completeId (s : State) (id status : Nat) (results : List Byte) : State :=
  match s.running? id with
  | some r => s.complete r.record id status results
  | none => s

/-! ### Ring enables (R15, R384, R385) -/

/-- Line address that the module watches for a ring. -/
def State.cmdWatch (s : State) (n : Nat) : Nat := s.setting (cmdObj n) 4
def State.cqWatch (s : State) (n : Nat) : Nat := s.setting (cqObj n) 4 + 64

/-- Sets `enable` of a command ring: the first record taken from now on is accepted whatever its `seq`, and
those taken before are held against the value kept until now (R17, R23). -/
def CmdRing.enable (r : CmdRing) : CmdRing :=
  let n := r.taken.length - (r.former.map (·.1)).foldl (· + ·) 0
  { r with
    enabled := true, consumer := 0, producer := 0, fetched := 0, arrived := [], lastSeq := none,
    former := if n = 0 then r.former else r.former ++ [(n, r.lastSeq)], overrun := false }

/-- How many records of each group of `former` stay when only those with `p` do. -/
def keepFormer (p : Record → Bool) : List Record → List (Nat × Option U32) → List (Nat × Option U32)
  | _, [] => []
  | l, (n, k) :: gs =>
    let m := ((l.take n).filter p).length
    if m = 0 then keepFormer p (l.drop n) gs else (m, k) :: keepFormer p (l.drop n) gs

/-- Keeps only the unstarted records with `p`. -/
def CmdRing.keepTaken (r : CmdRing) (p : Record → Bool) : CmdRing :=
  { r with taken := r.taken.filter p, former := keepFormer p r.taken r.former }

def State.enableCmd (s : State) (n : Nat) : State :=
  let s := s.modCmd n CmdRing.enable
  let s := s.putSetting (cmdObj n) 1 1
  if s.linkUp then (s.writeConsumer n).sendRead (s.cmdWatch n) (.producer n) else s

def State.enableCq (s : State) (n : Nat) : State :=
  let s := s.modCq n (fun q => { q with enabled := true, producer := 0, consumer := 0 })
  let s := s.putSetting (cqObj n) 1 1
  if s.linkUp then
    (s.writeT2 (s.setting (cqObj n) 4) (List.replicate 64 0)).sendRead (s.cqWatch n) (.consumer n)
  else s

/-- Drops the watched copy of a line that no ring watches any more. -/
def State.dropWatch (s : State) (addr : Nat) : State :=
  if s.link.shared.contains addr then
    (s.modLink (fun l => { l with shared := l.shared.filter (· != addr) })).send
      (.evict (s.link.t2Base.toNat + addr))
  else s

/-- Reads of a ring's watched line that were issued before it was disabled bring nothing (R15). -/
def State.dropReads (s : State) (use : ReadUse) : State :=
  s.modLink (fun l => { l with reads := l.reads.map (fun x => if x.use = use then { x with use := .dropped } else x) })

/-- Record reads of a ring that were issued before now bring nothing (their DATA is discarded). -/
def State.staleRecords (s : State) (p : Nat → Bool) : State :=
  s.modLink (fun l => { l with reads := l.reads.map (fun x => match x.use with
    | .record n _ => if p n then { x with stale := true } else x
    | _ => x) })

/-- Records that were posted and not taken are read anew. -/
def CmdRing.refetch (r : CmdRing) : CmdRing := { r with arrived := [], fetched := r.consumer }

def State.disableCmd (s : State) (n : Nat) : State :=
  let a := s.cmdWatch n
  let s := (s.staleRecords (· == n)).dropReads (.producer n)
  ((s.modCmd n (fun r => { r with
    enabled := false, overrun := false, arrived := [], fetched := r.consumer,
    producer := r.consumer })).putSetting (cmdObj n) 1 0).dropWatch a

def State.disableCq (s : State) (n : Nat) : State :=
  let a := s.cqWatch n
  let s := s.dropReads (.consumer n)
  ((s.modCq n (fun q => { q with enabled := false })).putSetting (cqObj n) 1 0).dropWatch a

/-! ### The job's contents and the fault state -/

/-- Pairing traffic, which belongs to no job. -/
def PeerIn.pairs (x : PeerIn) : Bool :=
  match x with
  | .pair _ _ => true
  | _ => false

/-- What a job restart ends (R91, R130, R185, R251, R312, R344, R476): partitions, tables, texts, models,
sessions, mapped memory, programs, tallies, barriers, peer traffic, mirrored seals in progress (R305). The manifest, keys, reports, the index slots
without their partitions (R91), the mirror index and the seal areas stay. -/
def State.endObjects (s : State) : State :=
  { s with
    partitions := [],
    sheaf := { Sheaf.reset with tstep := s.sheaf.tstep },
    grammars := [], templates := [], stores := [],
    models := { s.models with versions := [], highest := [], known := [], cache := [] },
    granary := { s.granary with directory := [], frames := [], retained := [] },
    step := none, front := [],
    epochs := { s.epochs with walks := [], quarantine := [], view := none },
    tiers := { s.tiers with pages := [], host := [], windows := [], leftWindows := [] },
    cores := { s.cores with vcores := [], queued := [], lofts := Vector.replicate 4 [], handoffs := [] },
    ports := s.ports.map (fun (p : PeerPort) => { p with waiting := [] }),
    inbox := s.inbox.filter (fun e => e.2.pairs),
    pairing := { s.pairing with unreceipted := [], mirrorQueue := [], incoming := [] },
    sync := { s.sync with
      tallies := [], slackUs := 0,
      barriers := s.sync.barriers.map (fun b => { Barrier.reset with epoch := b.epoch }) } }

/-- Completes with `status` every record of a list that `keep` does not hold back. -/
def State.completeAll (s : State) (status : Nat) (l : List (Nat × Record)) : State :=
  l.foldl (fun s e =>
    let p := { s.completionPost e.2 e.1 status [] with int := e.2.int }
    s.post p) s

/-- Records taken and not completed, in ascending command ring number and, within a ring, in ring order
(R476): running ones by start number, then unstarted ones. -/
def State.outstanding (s : State) : List (Nat × Record) :=
  (List.range 64).flatMap (fun n =>
    ((s.running.filter (fun r => r.record.ring == n)).map (fun r => (r.id, r.record))) ++
      ((s.cmdRing n).taken.map (fun r => (0, r))))

/-- A pairing message (Table 19-6). -/
def State.pairMessage (s : State) (op : Nat) : Message :=
  ofBytes 128 (toLe 1 op ++ toLe 1 (if s.startUp.stage == 0xFF then 1 else 0) ++ [0, 0] ++
    toLe 4 s.ident.fwGen.toNat ++ toLe 8 s.ident.serial.toNat)

/-- A line under an outstanding write of a command that ends here holds the value before or after it: a free value
(R476). -/
def State.undoLine (s : State) (e : U16 × Nat × Line) : State :=
  if s.free 0 % 2 = 1 then { (s.drew 1) with t2 := writeBytes s.t2 e.2.1 (lineBytes e.2.2 64) } else s.drew 1

/-- The unacknowledged writes of commands whose completion waits for them, undone or not (R476). (Log entry 121: DESIGN
CHOICE, safe.) -/
def State.unsettle (s : State) : State :=
  let ids := s.running.map (fun r => (r.record.ring, r.id))
  let tags := s.link.deferred.flatMap (fun d => match d.write with
    | .completion p => if p.done.any ids.contains then d.needs else []
    | .producer _ _ => [])
  (s.link.undo.filter (fun e => tags.contains e.1)).foldl State.undoLine s

/-- Enters the fault state: every unit stops, every record taken and not completed completes with
JOB_RESTARTED except a JOB_END in progress, and the job's objects end. Records posted and not taken are read anew, to
be turned away (R477). The tell-tale message goes to the twin (R475, R476). -/
def State.enterFault (s : State) : State :=
  let s := s.unsettle
  let hold := s.job.ending
  let out := s.outstanding.filter (fun e => !(decide (hold = some e.1) && e.2.opcode == 0x0401))
  -- completions of running records that still wait are replaced by JOB_RESTARTED
  let ids := s.running.map (fun r => (r.record.ring, r.id))
  let s := s.modLink (fun l => { l with sources := [], deferred := l.deferred.filter (fun d => match d.write with
    | .completion p => !(p.done.any ids.contains)
    | .producer _ _ => true) })
  let s := s.staleRecords (fun _ => true)
  let s := { s with
    cmdRings := s.cmdRings.map (fun (r : CmdRing) => { r.refetch with taken := [], former := [] }) }
  let s := s.endObjects
  let s := { s with
    startUp := { s.startUp with report := none },
    faults := { s.faults with
      faultStates := s.faults.faultStates + 1,
      owed := s.job.state == 1 || s.job.state == 2 } }
  let s := (s.completeAll stJobRestarted out).serveAll
  if (s.port 0).state == 2 then s.sendPeer 0 (.peer 0 (s.pairMessage 0x64)) else s

/-- Pairing leaves PAIRED when a sticky bit sets (Table 19-7). -/
def State.pairFaulted (s : State) : State :=
  if s.pairing.state == 2 then
    { s with pairing := { s.pairing with state := 1, readySent := false } }.setSys sysTwin
  else s

/-- Asserts a source for as long as the condition lasts; sets its sticky bit (R471, R475). -/
def State.raiseFault (s : State) (source : Nat) : State :=
  let was := s.faulted
  let s := { s with faults := { s.faults with sticky := putBit s.faults.sticky source true } }
  if was || !s.faulted then s else s.enterFault.pairFaulted

/-- `live` and `rail` of a source (R472, R474). -/
def State.setLive (s : State) (source : Nat) (live rail : Bool) : State :=
  { s with faults := { s.faults with
    live := putBit s.faults.live source live, rail := putBit s.faults.rail source rail } }

/-- The sources of FAULT_INJECTs whose completions are written assert (R485). -/
def State.injectDue (s : State) : State :=
  s.faults.due.foldl (fun s n => s.raiseFault n) { s with faults := { s.faults with due := [] } }

/-- Rings move again after Hold, Sleep or the link's return. -/
def State.resumeTraffic (s : State) : State := s.resumeRings.injectDue

/-- A source asserted while its condition holds. -/
def State.holdFault (s : State) (source : Nat) : State := (s.setLive source true false).raiseFault source

/-- Levels of the tenants back to `burst` (R274). -/
def State.fillLevels (s : State) : State :=
  { s with tenants := s.tenants.map (fun t => { t with level := t.burst.toNat, frac := 0 }) }

/-- The restart of R478: levels, `restarts`, memory mode 4, restart cause. (Log entries 30: DEDUCED, unsafe; 65: DEDUCED, safe.) -/
def State.restartJob (s : State) : State :=
  let s := s.fillLevels
  ({ s with
    job := { s.job with restarts := s.job.restarts + 1 },
    tiers := { s.tiers with mode := 4 },
    sheaf := Sheaf.reset,
    ports := s.ports.map (fun (p : PeerPort) => { p with balance := 0, report := none, resetDue := true }),
    faults := { s.faults with owed := false } }).setSys sysRestart

end Sys2Proof.Machine
end

