-- ==== Sys2Proof/Machine/Index.lean ====
section
/-!
DEFINITION. What an index computes from a vector and what it occupies: preparation, projections, bucket
keys, scores, the probe order, bales of partitions and deltas (03 R70 to R85).
-/

namespace Sys2Proof.Machine

/-! ### Slots and partitions -/

def State.slot (s : State) (i : Nat) : IndexSlot := vGet s.slots i IndexSlot.empty

def Partition.empty (slot tenant : Nat) : Partition :=
  { slot := slot, tenant := tenant, generation := 0, mode := 0, homeBits := 0, live := [], stamps := [], delta := [],
    merge := none, clippedIn := 0, absentDel := 0, searches := 0, probed := 0 }

/-- The partition of a tenant in a slot; one that has held nothing is empty at generation 0 (R68). -/
def State.partition (s : State) (slot tenant : Nat) : Partition :=
  (s.partitions.find? (fun p => p.slot == slot && p.tenant == tenant)).getD (Partition.empty slot tenant)

/-- The slot of an index handle (R66). -/
def indexSlotOf (h : U64) : Nat := bitsOf h 3 0

/-! ### Preparation of vectors and queries (R78) -/

/-- A source element of a format (0 FP32, 1 BF16, 2 E4M3) widened to FP32. A subnormal FP32 or BF16 element enters at
its value. (Log entry 106: DEDUCED, unsafe.) -/
def sourceElem (m : Mem) (fmt a i : Nat) : U32 :=
  match fmt with
  | 0 => BitVec.ofNat 32 (readLe m (a + 4 * i) 4)
  | 1 => widenBf16 (BitVec.ofNat 16 (readLe m (a + 2 * i) 2))
  | _ => widenE4m3 (memGet m (a + i))

/-- Bytes of an element of a source format. -/
def sourceSize (fmt : Nat) : Nat := match fmt with
  | 0 => 4
  | 1 => 2
  | _ => 1

/-- The format of `src_fmt` on an index of a format: 2 names the index's own. -/
def sourceFormat (srcFmt idxFmt : Nat) : Nat :=
  if srcFmt == 2 then (if idxFmt == 1 then 2 else 1) else srcFmt

def sourceVec (m : Mem) (fmt a d : Nat) : List U32 := (List.range d).map (sourceElem m fmt a)

/-- s = Σ x² in groups of 64, each group rounded once with the running total. -/
def sumSquares (xs : List U32) : U32 :=
  groupSum 64 0 (xs.map (fun x => fpMul (readFp32 x) (readFp32 x)))

/-- The prepared FP32 values; none for a source that R78 refuses. -/
def prepare (metric : Nat) (xs : List U32) : Option (List U32) :=
  if !xs.all finite32 then none
  else if metric == 1 then
    let s := sumSquares xs
    if !finite32 s || fpIsZero (readFp32 s) then none
    else
      let n := sqrt32 s
      some (xs.map (fun x => div32 x n))
  else some xs

/-- A stored vector's elements in the index format (1 E4M3, 2 BF16), and its clips. -/
def storeElems (fmt : Nat) (xs : List U32) : List U16 × Nat :=
  let c := xs.map (fun x =>
    if fmt == 1 then
      let y := toE4m3 (readFp32 x)
      (y.1.setWidth 16, y.2)
    else toBf16 (readFp32 x))
  (c.map (·.1), (c.filter (·.2)).length)

/-- A query in BF16. -/
def queryElems (xs : List U32) : List U16 := xs.map (fun x => (toBf16 (readFp32 x)).1)

/-- The value of a stored element as a scoring and projection input. -/
def elemValue (fmt : Nat) (x : U16) : Fp :=
  if fmt == 1 then readE4m3 (x.setWidth 8) else readBf16 x

/-! ### Projections and keys (R70, R71) -/

/-- Column j of table t: its entries as BF16 values. -/
def projColumn (sl : IndexSlot) (t j : Nat) : List Fp :=
  if sl.learned then
    (List.range sl.dim).map (fun i => readBf16 (sl.proj.getD ((24 * t + j) * sl.dim + i) 0))
  else
    let h := shake256 (toLe 8 sl.seed.toNat ++ [BitVec.ofNat 8 t, BitVec.ofNat 8 j]) (ceilDiv sl.dim 8)
    (List.range sl.dim).map (fun i => .fin ((h.getD (i / 8) 0).getLsbD (i % 8)) 1 0)

/-- p_j of a vector: groups of 8, as a core accumulates in BF16-activation mode (R47). -/
def projValue (sl : IndexSlot) (xs : List Fp) (t j : Nat) : U32 :=
  groupSum 8 0 (List.zipWith fpMul xs (projColumn sl t j))

def positive32 (x : U32) : Bool :=
  match readFp32 x with
  | .fin s m _ => !s && m != 0
  | .inf s => !s
  | .nan _ => false

/-- The key of b bits from the projections. -/
def keyOf (ps : List U32) : Nat :=
  (ps.mapIdx (fun j p => if positive32 p then 2 ^ j else 0)).foldl (· + ·) 0

/-- Projections of table t with b bits. -/
def tableProj (sl : IndexSlot) (xs : List Fp) (t b : Nat) : List U32 :=
  (List.range b).map (projValue sl xs t)

/-- Bits of table t: the home table's in use, or the echo tables'. -/
def tableBits (sl : IndexSlot) (homeBits t : Nat) : Nat := if t == 0 then homeBits else sl.echoBits

/-- Key of a stored vector in table t. -/
def vecKey (sl : IndexSlot) (homeBits t : Nat) (v : Vec) : Nat :=
  keyOf (tableProj sl (v.elems.map (elemValue sl.format)) t (tableBits sl homeBits t))

/-! ### Scores (R79) -/

def scoreTerm (metric : Nat) (q v : Fp) : Fp :=
  if metric == 2 then
    let d := fpSum [q, fpNeg v]
    fpMul d d
  else fpMul q v

/-- The score of a stored vector for a prepared query. -/
def score (sl : IndexSlot) (q : List U16) (v : Vec) : U32 :=
  groupSum 64 0 (List.zipWith (scoreTerm sl.metric) (q.map readBf16) (v.elems.map (elemValue sl.format)))

/-! ### Probing (R81, R82) -/

/-- Magnitude bits of an FP32 value. -/
def absBits (x : U32) : Nat := bitsOf x 30 0

/-- Bit numbers by ascending |p_j|, ties to the lower number. -/
def weakOrder (ps : List U32) : List Nat :=
  sortBy (fun a b => decide (absBits (ps.getD a 0) < absBits (ps.getD b 0)) ||
    (absBits (ps.getD a 0) == absBits (ps.getD b 0) && decide (a ≤ b))) (List.range ps.length)

/-- Probe i of a table: the exact key with bit w[t] flipped for every bit t of i. -/
def probeKey (k0 : Nat) (w : List Nat) (i : Nat) : Nat :=
  (w.mapIdx (fun t b => if i.testBit t then 2 ^ b else 0)).foldl Nat.xor k0

/-- The first `limit` buckets of the sequence, as (table, key). -/
def probeSequence (sl : IndexSlot) (homeBits : Nat) (q : List Fp) (limit : Nat) : List (Nat × Nat) :=
  let tabs := (List.range (1 + sl.echoTables)).map (fun t =>
    let ps := tableProj sl q t (tableBits sl homeBits t)
    (t, ps.length, keyOf ps, weakOrder ps))
  ((List.range limit).flatMap (fun i => tabs.filterMap (fun e =>
    if i < 2 ^ e.2.1 then some (e.1, probeKey e.2.2.1 e.2.2.2 i) else none))).take limit

/-! ### Filter (R84) -/

structure Filter where
  mask : Nat
  tag : Nat
  lo : Nat
  hi : Nat
  deriving DecidableEq, Repr

def Filter.passes (f : Filter) (v : Vec) : Bool :=
  v.tags.toNat &&& f.mask == f.tag && decide (f.lo ≤ v.value.toNat) && decide (v.value.toNat ≤ f.hi)

/-! ### Bales (R74 to R76, R85) -/

/-- Bytes of a vector in a bale. -/
def vecBytes (sl : IndexSlot) : Nat := if sl.format == 1 then sl.dim else 2 * sl.dim
/-- Vectors of a home bucket bale. -/
def vecsPerBale (sl : IndexSlot) : Nat := 65472 / (vecBytes sl + 16)
/-- Entries of an echo bucket bale. -/
def echoPerBale : Nat := 16368

/-- Buckets of table t: (key, its vectors in ascending number), in ascending key order. -/
def buckets (sl : IndexSlot) (homeBits t : Nat) (live : List Vec) : List (Nat × List Vec) :=
  let keyed := live.map (fun v => (vecKey sl homeBits t v, v))
  let keys := sortBy (fun a b => decide (a ≤ b)) (keyed.map (·.1)).eraseDups
  keys.map (fun k => (k, (keyed.filter (fun e => e.1 == k)).map (·.2)))

/-- Every chain of a partition of a mode: (table, key, vectors). -/
def chains (sl : IndexSlot) (mode homeBits : Nat) (live : List Vec) : List (Nat × Nat × List Vec) :=
  match mode with
  | 0 => []
  | 1 => [(0, 0, live)]
  | _ => (List.range (1 + sl.echoTables)).flatMap (fun t =>
      (buckets sl homeBits t live).map (fun b => (t, b.1, b.2)))

/-- Entries of a bale of table t. -/
def perBale (sl : IndexSlot) (t : Nat) : Nat := if t == 0 then vecsPerBale sl else echoPerBale

def bucketBales (sl : IndexSlot) (mode homeBits : Nat) (live : List Vec) : Nat :=
  ((chains sl mode homeBits live).map (fun c => ceilDiv c.2.2.length (perBale sl c.1))).foldl (· + ·) 0

/-- Packs one more entry of `n` bytes: (bales, bytes used of the last). A delta bale has no header.
(Log entry 107: DESIGN CHOICE, unsafe.) -/
def packEntry (st : Nat × Nat) (n : Nat) : Nat × Nat :=
  if st.1 == 0 || st.2 + n > 65536 then (st.1 + 1, n) else (st.1, st.2 + n)

def entrySize (sl : IndexSlot) : DeltaEntry → Nat
  | .insert _ => vecBytes sl + 16
  | .delete _ => 16

/-- Bales of the partition's image: the descriptor and its buckets' bales (R77). -/
def imageBales (sl : IndexSlot) (p : Partition) : Nat := 1 + bucketBales sl p.mode p.homeBits p.live

/-- Delta bales that entries take (R85): no entry spans two bales. -/
def deltaBales (sl : IndexSlot) (l : List DeltaEntry) : Nat :=
  (l.foldl (fun st e => packEntry st (entrySize sl e)) (0, 0)).1

/-- T1 bales a partition holds (Table 3-10). -/
def Partition.bales (p : Partition) (sl : IndexSlot) : Nat :=
  bucketBales sl p.mode p.homeBits p.live + deltaBales sl p.delta +
    (match p.merge with
     | some m => deltaBales sl m.delta + m.newBales
     | none => 0)

/-! ### Placement (R101) -/

/-- Place of bucket (t, K) in the list of the search quadrants, by its length Q. -/
def bucketPlace (t key q : Nat) : Nat := (key * 0x9E3779B1 % 2 ^ 32 / 2 ^ 16 + t) % q

/-- Places in that list of the bales of a chain: a bucket lies in one quadrant, an exact-mode chain is spread bale by
bale. -/
def chainPlaces (sl : IndexSlot) (mode q : Nat) (c : Nat × Nat × List Vec) : List Nat :=
  (List.range (ceilDiv c.2.2.length (perBale sl c.1))).map (fun i =>
    if mode == 1 then i % q else bucketPlace c.1 c.2.1 q)

/-- Bales of a partition's generation at each place of the list. -/
def Partition.balesAt (p : Partition) (sl : IndexSlot) (q i : Nat) : Nat :=
  (((chains sl p.mode p.homeBits p.live).flatMap (chainPlaces sl p.mode q)).filter (· == i)).length

/-! ### Tables (R131) -/

def elemSize (fmt : Nat) : Nat := match fmt with
  | 1 => 1
  | 2 => 2
  | _ => 4

/-- Slot size S. -/
def Table.slotBytes (t : Table) : Nat := 64 * ceilDiv (t.width * elemSize t.format) 64

def Table.static (t : Table) : Bool := t.flags.getLsbD 1
def Table.additive (t : Table) : Bool := t.flags.getLsbD 0
def Table.mirror (t : Table) : Bool := t.flags.getLsbD 2
def Table.shared (t : Table) : Bool := t.flags.getLsbD 3
def Table.noHot (t : Table) : Bool := t.flags.getLsbD 4

def Table.rowsPerBale (t : Table) : Nat :=
  65408 / (if t.static then t.slotBytes else 2 * t.slotBytes)

def Table.bales (t : Table) : Nat := ceilDiv t.rows t.rowsPerBale

/-- Place of a table's bale in the list of the Sheaf quadrants, by its length Q (R132). -/
def Table.balePlace (t : Table) (q b : Nat) : Nat := (b + t.number) % q

end Sys2Proof.Machine
end

