-- ==== Sys2Proof/Machine/Operands.lean ====
section
/-!
DEFINITION. Records: operand fields, the checks of Table 1-7 in their order, admission to a quadrant, and
the start of a record (R20 to R25, R31, R477, R250).
-/

namespace Sys2Proof.Machine

/-! ### Operand checks -/

/-- Bytes [a, b) of a record are zero. -/
def zeroBytes (r : Record) (a b : Nat) : Bool := r.fieldN a (b - a) == 0

/-- `addr` names T2 bytes that a command may read or write: below `size`, aligned, in no window. -/
def t2Arg (s : State) (addr len align : Nat) : Bool :=
  addr % align == 0 && s.t2Ok addr len && !s.inWindow addr len

/-- Bits [47:36] of a session handle are its tenant; [63:48] are reserved (R24). -/
def handleTenant (h : U64) : Nat := bitsOf h 47 36
def handleReserved (h : U64) : Bool := bitsOf h 63 48 == 0

/-! ### Services (Table 1-12) -/

def bitList (x : BitVec 4) : List Nat := (List.range 4).filter (fun i => x.getLsbD i)

def State.inService (s : State) (q : Nat) : Bool := s.cap.quadrants.getLsbD q
def State.engine (s : State) (q e : Nat) : Bool := s.cap.engines.getLsbD (4 * q + e)

/-- Quadrants in service with a working Gleaner and Winnow (R101). -/
def State.searchQuadrants (s : State) : List Nat :=
  (List.range 4).filter (fun q => s.inService q && s.engine q 0 && s.engine q 1)

def State.sheafQuadrants (s : State) : List Nat :=
  (List.range 4).filter (fun q => s.inService q && s.engine q 2)

def State.serviceBase (s : State) : Bool := s.cap.base
def State.serviceSearch (s : State) : Bool := s.cap.base && !s.searchQuadrants.isEmpty
def State.serviceText (s : State) : Bool := s.cap.base && s.cap.threshers != 0
def State.serviceTables (s : State) : Bool := s.cap.base && !s.sheafQuadrants.isEmpty
def State.serviceTwin (s : State) : Bool := s.cap.base && s.cap.peerPorts.getLsbD 0

/-! ### A record's plan -/

/-- What an opcode checks beside the common checks of Table 1-7, and what it does. -/
structure Plan where
  /-- Its reserved operand bits and bytes are zero (step 2); bytes with no field are taken as reserved. (Log entry 122:
  DEDUCED, unsafe.) -/
  reserved : Bool
  /-- It is implemented and its service offered (step 3). -/
  served : Bool
  /-- Step 4. -/
  tenantOk : Bool
  /-- Steps 5 on and the checks placed among them: condition and status of its failure. -/
  checks : List (Bool × Nat)
  /-- The effect, of the record started under a number. -/
  run : Nat → State → State
  /-- T2 ranges that it reads, by address and bytes (R326, R384). -/
  sources : List (Nat × Nat) := []

/-- Step 4 as Table 1-7 gives it; with no job, only JOB_LOAD and diagnostics pass (R247). -/
def State.tenantOk (s : State) (r : Record) : Bool :=
  let t := s.setting (cmdObj r.ring) 6
  (t == 0xFFFF || t == r.tenant) && s.job.state != 0 && (s.tenant? r.tenant).isSome

/-- Step 4 of JOB_LOAD, JOB_END and diagnostic records (R248, R485). -/
def State.moduleRing (s : State) (r : Record) : Bool :=
  s.setting (cmdObj r.ring) 6 == 0xFFFF && r.tenant == 0 && r.handle == 0

/-- A diagnostic opcode. -/
def diagnostic (op : Nat) : Bool := decide (0x0F00 ≤ op) && decide (op ≤ 0x0FFF)

/-- Serial-number arithmetic of RFC 1982 on 32 bits: `a` is after `b` (R23). -/
def seqAfter (a b : U32) : Bool :=
  let d := (a - b).toNat
  decide (0 < d) && decide (d < 2 ^ 31)

/-- Step 1 of Table 1-7; a record taken before its ring was last enabled is held against what the ring kept then. (Log
entry 144: DEDUCED, unsafe.) -/
def State.seqOk (s : State) (r : Record) : Bool :=
  match (s.cmdRing r.ring).lastSeq with
  | none => true
  | some k => seqAfter r.seq k

/-- The checks of Table 1-7 after `seq`, in order. (Log entry 25: DEDUCED, unsafe.) -/
def planChecks (s : State) (r : Record) (p : Plan) : List (Bool × Nat) :=
  [(!(bitAt r.bits 31) && p.reserved, stBadParam),
   (p.served && (!s.baseAbsent || diagnostic r.opcode), stNotSupported),
   (p.tenantOk, stDenied)] ++ p.checks

/-- Status of the first check that fails; OK when none does. (Log entry 25: DEDUCED, unsafe.) -/
def firstFailure : List (Bool × Nat) → Nat
  | [] => stOk
  | (c, st) :: l => if c then firstFailure l else st

/-- Admission at step 10 (R276): a level of at least 8 units, or `rate` unlimited. (Log entry 26: DEDUCED, unsafe.) -/
def State.budgetOk (s : State) (t need : Nat) : Bool :=
  match s.tenant? t with
  | some x => x.rate == 0xFFFFFFFF || decide (x.level ≥ (need : Int))
  | none => false

/-- Charges token units (R275). (Log entry 26: DEDUCED, unsafe.) -/
def State.charge (s : State) (t units : Nat) : State :=
  s.modTenant t (fun x => { x with
    level := x.level - units, recentUnits := x.recentUnits + units,
    counts := { x.counts with
      units := x.counts.units + BitVec.ofNat 64 units,
      energyUnits := x.counts.energyUnits + BitVec.ofNat 64 units } })

/-- Apportioning units of R505 for bales sealed, revived, moved or mirrored. -/
def State.baleUnits (s : State) (t n : Nat) : State :=
  s.modTenant t (fun x => { x with
    recentUnits := x.recentUnits + n,
    counts := { x.counts with energyUnits := x.counts.energyUnits + BitVec.ofNat 64 n } })

/-- A refusal for a quota is counted in `refused` (R337). -/
def State.countRefusal (s : State) (t status : Nat) : State :=
  if status == stNoSpace then s.count t (fun c => { c with refused := c.refused + 1 }) else s

/-- The quadrant that admits a record (R22): s is the count of the records started before it, so that the first
record of a job has s = 0. (Log entry 126: DESIGN CHOICE, unsafe.) -/
def State.admitTo (s : State) (op : Nat) : Nat :=
  let l := if op == 0x0120 || op == 0x0410 || op == 0x0141 then s.searchQuadrants
    else (List.range 4).filter s.inService
  l.getD (s.job.started.toNat % l.length) 0

def State.session? (s : State) (h : U64) : Option Session :=
  s.granary.directory.find? (fun x => x.handle == h)

/-- Table 10-1 code of a handle. -/
def State.sessionState (s : State) (h : U64) : Nat := ((s.session? h).map (·.state)).getD 0

/-- Result bytes of a record that is refused. Byte 12 of a session command holds the session's present state (R315);
a handle of another tenant shows nothing (R422). An INDEX_SAVE whose image needs more bales than it allows tells how
many (R96). (Log entry 96: DEDUCED, safe.) -/
def State.refusalResult (s : State) (r : Record) (status : Nat) : List Byte :=
  let sl := s.slot (indexSlotOf r.handle)
  let n := imageBales sl (s.partition (indexSlotOf r.handle) r.tenant)
  if r.opcode == 0x0103 then
    (if status == stBadParam && sl.state == 2 && handleTenant r.handle == r.tenant && decide (r.fieldN 24 4 < n)
     then toLe 4 n else [])
  else if 0x0500 ≤ r.opcode && r.opcode ≤ 0x0509 && handleTenant r.handle == r.tenant then
    toLe 1 (s.sessionState r.handle)
  else []

/-- A record that is not carried out because of the fault state (R477) or JOB_END (R250). A JOB_LOAD taken
while a job ends is held against the checks, which refuse it at step 8 (R248). -/
def State.turnedAway (s : State) (r : Record) : Option Nat :=
  if diagnostic r.opcode then none
  else if s.faulted then some stJobRestarted
  else if s.job.state == 3 && r.opcode != 0x0400 then some stJobEnded
  else none

/-- A start number above that of every running record. -/
def State.newId (s : State) : Nat := 1 + (s.running.map (·.id)).foldl max s.job.started.toNat

/-- Starts a record: admission, the checks of Table 1-7, then its effect or the completion with the
status of the first check that fails (R22, R23, R25). -/
def State.startRecord (s : State) (r : Record) (plan : Record → State → Plan) : State :=
  match s.turnedAway r with
  | some st => s.complete r 0 st (s.refusalResult r st)
  | none =>
    let id := s.newId
    let s := { s with
      running := s.running ++ [Running.mk id r (s.admitTo r.opcode) [] 0],
      job := { s.job with started := s.job.started + 1 } }.leaveIdle
    if !s.seqOk r then s.complete r id stBadParam (s.refusalResult r stBadParam)
    else
      let s := s.modCmd r.ring (fun c => { c with lastSeq := some r.seq })
      let p := plan r s
      let st := firstFailure (planChecks s r p)
      if st == stOk then p.run id (s.readSources p.sources)
      else (s.countRefusal r.tenant st).complete r id st (s.refusalResult r st)

/-- Records wait until the default job loads (Table 11-5) and between the last sticky bit's clearing and the job's
restart (R478), but not in the fault state (R477); and in Hold and in Sleep. -/
def State.mayStart (s : State) : Bool :=
  s.power.pstate < 2 && (s.faulted || (!(s.tiers.mode == 1 && s.startUp.stage != 0xFE) && !s.faults.owed))

/-- A record with `fence` waits until every earlier record of its ring has completed (R21). -/
def State.fenceOk (s : State) (r : Record) : Bool :=
  !r.fence || !(s.running.any (fun x => x.record.ring == r.ring))

/-- Command waits queued at all tallies. -/
def State.cmdWaits (s : State) : Nat :=
  (s.sync.tallies.flatMap (fun t => t.waiters.filter (fun w => match w with
    | .record _ _ => true
    | .core _ => false))).length

/-- The quadrant whose Granary serves a session (R290): serial mod Q in the list of those in service. -/
def State.granaryOf (s : State) (h : U64) : Nat :=
  let l := (List.range 4).filter s.inService
  l.getD (bitsOf h 35 0 % l.length) 0

/-- A session command that a Granary carries out, or one that waits for a park seal. -/
def State.atGranary (s : State) (x : Running) : Bool :=
  (decide (0x0504 ≤ x.record.opcode) && decide (x.record.opcode ≤ 0x0509)) ||
    s.granary.directory.any (fun y => y.after.contains x.id)

/-- Session commands queued at the Granary that serves a session. -/
def State.granaryQueue (s : State) (h : U64) : Nat :=
  (s.running.filter (fun x => s.atGranary x && s.granaryOf x.record.handle == s.granaryOf h)).length

/-- A depth holds a further record of the opcode back: searches, session commands, command waits (R103, R316,
R418). (Log entry 98: DEDUCED, unsafe.) -/
def State.depthHolds (s : State) (r : Record) : Bool :=
  if r.opcode == 0x0120 then decide (8192 ≤ (s.running.filter (fun x => x.record.opcode == 0x0120)).length)
  else if r.opcode == 0x0703 then decide (16384 ≤ s.cmdWaits)
  else decide (0x0500 ≤ r.opcode) && decide (r.opcode ≤ 0x0509) && decide (256 ≤ s.granaryQueue r.handle)

/-- The oldest unstarted record of a ring may start. (Log entry 24: DESIGN CHOICE, unsafe.) -/
def State.canStart (s : State) (r : Record) : Bool := s.mayStart && s.fenceOk r && !s.depthHolds r

/-- A record taken from its ring: it starts at once when it is its ring's oldest unstarted record and
may start, and waits otherwise (R17, R21). A ring from which nothing is taken gives no record. (Log entry 21: DEDUCED, safe.) -/
def State.offer (s : State) (r : Record) (plan : Record → State → Plan) : State :=
  if !s.fetches r.ring then s
  else if (s.cmdRing r.ring).taken.isEmpty && s.canStart r then s.startRecord r plan
  else s.modCmd r.ring (fun c => { c with taken := c.taken ++ [r] })

/-- The record as the row's own opcode. -/
def withOpcode (r : Record) (op : Nat) : Record := { r with bits := setField r.bits 0 2 op }

/-- A record row: the record with the row's opcode is taken from its ring. (Log entry 21: DEDUCED, safe.) -/
def State.record (s : State) (r : Record) (op : Nat) (plan : Record → State → Plan) : State :=
  s.offer (withOpcode r op) plan

/-- An opcode outside Table 1-9's assignments (R27). -/
def unassigned (r : Record) (s : State) : Plan :=
  { reserved := true, served := false, tenantOk := s.tenantOk r, checks := [], run := fun _ s => s }

/-- A count in a 32-bit result field; what a larger count reads as is not stated. (Log entry 19: DESIGN CHOICE, safe.) -/
def count32 (n : Nat) : Nat := if n < 2 ^ 32 then n else Config.overflowCount n % 2 ^ 32

end Sys2Proof.Machine
end

