-- ==== Sys2Proof/Machine/Route.lean ====
section
/-!
DEFINITION. Routes between the modules of a job and traffic sent on peer ports (13 R396, R397, R540).
-/

namespace Sys2Proof.Machine

/-- A port's fields change; a change of its state sets its link cause (Table 17-6). -/
def State.movePort (s : State) (p : Nat) (f : PeerPort → PeerPort) : State :=
  let t := s.modPort p f
  if (t.port p).state == (s.port p).state then t else t.setLinkCause (1 + p)

/-- The port that corrects one coordinate in the shorter direction; ties go to the + port. -/
def ringPort (n a b plus minus : Nat) : Option Nat :=
  if a = b then none else if 2 * ((b + n - a) % n) ≤ n then some plus else some minus

/-- The port that corrects x first, then y, then z. -/
def meshPort (dims : Nat × Nat × Nat) (self dst : Nat) : Option Nat :=
  let a := coordsOf dims self
  let b := coordsOf dims dst
  match ringPort dims.1 a.1 b.1 1 2 with
  | some p => some p
  | none => match ringPort dims.2.1 a.2.1 b.2.1 3 4 with
    | some p => some p
    | none => ringPort dims.2.2 a.2.2 b.2.2 5 6

/-- The rank of the job that port 7 reports, if any. -/
def State.expressRank (s : State) : Option Nat :=
  let p := s.port 7
  if p.state == 2 && p.nbrRank != 0xFFFF && p.nbrJob == s.job.jobId && p.nbrRank < s.job.ranks
  then some p.nbrRank else none

/-- The port by which a message to rank `d` leaves. -/
def State.routePort (s : State) (d : Nat) : Option Nat :=
  if d = s.job.rank then none
  else if s.expressRank = some d then some 7 else meshPort s.job.dims s.job.rank d

/-- Port `p` lies on a route of the loaded job (R540). -/
def State.onRoute (s : State) (p : Nat) : Bool :=
  s.job.state != 0 && decide (1 < s.job.ranks) && p != 0 &&
    (List.range s.job.ranks).any (fun d => decide (s.routePort d = some p))

/-- The neighbour on a port has reported the job. -/
def State.nbrInJob (s : State) (p : Nat) : Bool :=
  let x := s.port p
  s.job.state != 0 && x.state == 2 && x.nbrRank != 0xFFFF && x.nbrJob == s.job.jobId

/-- Puts a message on a port. -/
def State.putOnPort (s : State) (p : Nat) (m : Sent) : State := s.sendPeer p m

/-- Sends job traffic on a port, or lets it wait for the neighbour to report the job (R397). -/
def State.sendOnPort (s : State) (p : Nat) (m : Sent) : State :=
  if s.nbrInJob p then s.putOnPort p m
  else s.modPort p (fun x => { x with waiting := x.waiting ++ [m] })

/-- Sends job traffic to a rank by its route. -/
def State.sendTo (s : State) (d : Nat) (mk : Nat → Sent) : State :=
  match s.routePort d with
  | some p => s.sendOnPort p (mk p)
  | none => s

/-- Ranks of the job other than the module's own, ascending. -/
def State.otherRanks (s : State) : List Nat :=
  (List.range s.job.ranks).filter (· != s.job.rank)

end Sys2Proof.Machine
end

