-- ==== Sys2Proof/Machine/Barrier.lean ====
section
/-!
DEFINITION. Barriers between ranks (14 R411 to R413): groups, arrivals, epochs. What a completed barrier
does to virtual cores stands with the core instructions; barrier 63 closes table boundaries (R133).
-/

namespace Sys2Proof.Machine

def State.barrierAt (s : State) (b : Nat) : Barrier := vGet s.sync.barriers b Barrier.reset

def State.modBarrier (s : State) (b : Nat) (f : Barrier → Barrier) : State :=
  { s with sync := { s.sync with barriers := vMod s.sync.barriers b f } }

/-- The masks of an arrival agree with the group, or no arrival has fixed it (R412). -/
def Barrier.agrees (x : Barrier) (mask : U64) (ranks : List Nat) : Bool :=
  match x.group with
  | none => true
  | some g => g.1 == mask && g.2 == ranks

def Barrier.fixed (x : Barrier) (mask : U64) (ranks : List Nat) : Barrier :=
  { x with group := some (mask, ranks) }

/-- Every member rank has arrived. -/
def Barrier.allIn (x : Barrier) : Bool :=
  match x.group with
  | none => false
  | some g => g.2.all (fun r => x.ranks.contains r)

/-- The module's own rank arrives: every other member rank is told (R413). (Log entry 72: DEDUCED, unsafe.) -/
def State.ownArrival (s : State) (b : Nat) : State :=
  let x := s.barrierAt b
  match x.group with
  | none => s
  | some g =>
    let s := s.modBarrier b (fun x => { x with ranks := x.ranks ++ [s.job.rank], since := s.timestamp })
    (g.2.filter (· != s.job.rank)).foldl (fun s d => s.sendTo d (fun p => .sync p d
      { barrier := b, epoch := x.epoch, src := s.job.rank, release := false, coreMask := g.1,
        ranks := g.2 })) s

/-- The barrier has completed here: every other member rank is told (R413). (Log entry 72: DEDUCED, unsafe.) -/
def State.tellRelease (s : State) (b : Nat) : State :=
  let x := s.barrierAt b
  match x.group with
  | none => s
  | some g => (g.2.filter (· != s.job.rank)).foldl (fun s d => s.sendTo d (fun p => .sync p d
      { barrier := b, epoch := x.epoch, src := s.job.rank, release := true, coreMask := g.1, ranks := g.2 })) s

/-- An arrival message of the present epoch; masks that differ raise the synchronisation fault. (Log entry 72: DEDUCED, unsafe.) -/
def State.takeArrival (s : State) (m : SyncMsg) : State :=
  let x := s.barrierAt m.barrier
  if !x.agrees m.coreMask m.ranks then s.raiseFault srcSync
  else s.modBarrier m.barrier (fun x => { x.fixed m.coreMask m.ranks with
    ranks := if x.ranks.contains m.src then x.ranks else x.ranks ++ [m.src] })

/-- A release: its sender's members have arrived. The others count by their own messages, behind which their BULK
messages lie (R412). (Log entry 72: DEDUCED, unsafe.) -/
def State.takeRelease (s : State) (m : SyncMsg) : State := s.takeArrival m

/-- The instance is over: the other members are told, the epoch advances, and messages held for it count (R413). -/
def State.nextEpoch (s : State) (b : Nat) : State :=
  let s := s.tellRelease b
  let x := s.barrierAt b
  let e := x.epoch + 1
  let now := x.held.filter (fun m => m.epoch == e)
  let s := s.modBarrier b (fun x => { x with
    epoch := e, cores := [], ranks := [], parts := x.parts.filter (fun p => p.epoch != x.epoch), held := x.held.filter (fun m => m.epoch != e) })
  now.foldl (fun s m => if m.release then s.takeRelease m else s.takeArrival m) s

/-- Barrier 63 for a table boundary (R411): the group is every rank of the job and no virtual core. (Log entry 36: DEDUCED, unsafe.) -/
def State.boundaryArrival (s : State) : State :=
  let ranks := List.range s.job.ranks
  let x := s.barrierAt 63
  if x.ranks.contains s.job.rank then s
  else if !x.agrees 0 ranks then s.raiseFault srcSync
  else (s.modBarrier 63 (fun x => x.fixed 0 ranks)).ownArrival 63

end Sys2Proof.Machine
end

