-- ==== Sys2Proof/Machine/Quota.lean ====
section
/-!
DEFINITION. Tier capacities, use and quotas (11 R322, R336 to R338).
-/

namespace Sys2Proof.Machine

/-- The tenant a shared or private object is charged to (R336). -/
def chargedTo (shared : Bool) (owner : Nat) : Nat := if shared then 0 else owner

def Page.frames (p : Page) : Nat := if p.big then 32 else 1

/-- Frames of T1 that a tenant uses, quarantine included (R336). -/
def State.usedT1 (s : State) (t : Nat) : Nat :=
  sumOf Page.frames (s.tiers.pages.filter (fun p => p.tenant == t && p.window.isNone && p.left.isNone)) +
  sumOf (·.frames) (s.tiers.windows.filter (fun w => w.tenant == t)) +
  sumOf (fun p => p.bales (vGet s.slots p.slot IndexSlot.empty))
    (s.partitions.filter (fun p => p.tenant == t)) +
  sumOf Table.bales (s.sheaf.tables.filter (fun x => chargedTo x.shared x.owner == t)) +
  sumOf (·.bales) (s.grammars.filter (fun x => chargedTo x.shared x.owner == t)) +
  sumOf (·.bales) (s.templates.filter (fun x => chargedTo x.shared x.owner == t)) +
  sumOf (·.bales) (s.stores.filter (fun x => x.tenant == t)) +
  sumOf (·.bales) (s.models.versions.filter (fun x => chargedTo x.shared x.owner == t)) +
  (s.granary.frames.filter (fun f => f.tenant == t)).length +
  sumOf (·.bales) (s.sheaf.leaving.filter (fun x => x.tenant == t)) +
  sumOf (·.frames) (s.epochs.quarantine.filter (fun q => q.tenant == t))

/-- Rows of a table that hold replicas: hot now, or about to be. -/
def Table.replicas (t : Table) : Nat :=
  (t.hot.filter (fun h => h.hot || h.migrating == some true)).length

/-- Bytes of T0 that a tenant uses (R336). -/
def State.usedT0 (s : State) (t : Nat) : Nat :=
  sumOf (fun x => 2 * x.slotBytes * x.replicas * s.sheafQuadrants.length) (s.sheaf.tables.filter (fun x => x.owner == t)) +
  s.sheafQuadrants.length * sumOf (·.loft) (s.sheaf.leaving.filter (fun x => x.tenant == t)) +
  sumOf (fun v => 65536 * v.bales)
    (s.models.versions.filter (fun v => v.pinned && chargedTo v.shared v.owner == t))

/-- Object 0x3040 of a tenant. -/
def State.area (s : State) (t : Nat) : SealArea :=
  (s.areas.find? (fun a => a.tenant == t)).getD
    { tenant := t, base := 0, bales := 0, cursor := 0, floor := 0, sealMs := 0,
      implicitRevive := false, retain := true }

/-- Bales of T2 that a tenant uses (R336). -/
def State.usedT2 (s : State) (t : Nat) : Nat :=
  (s.area t).bales + sumOf (·.bales) (s.tiers.windows.filter (fun w => w.tenant == t))

/-- A session maps a key-value frame. -/
def State.frameMapped (s : State) (f : Nat) : Bool :=
  s.granary.directory.any (fun x => x.kv.any (fun b => b.frame == f))

/-- Frames that only the tenant's retained set holds (R309). -/
def State.releasable (s : State) (t : Nat) : Nat :=
  (s.granary.frames.filter (fun f => f.tenant == t && !s.frameMapped f.frame)).length

/-- Use plus need stays within the T1 quota (R337); retained bales give way to an allocation (R309). -/
def State.t1Fits (s : State) (t need : Nat) : Bool :=
  match s.tenant? t with
  | some x => decide (s.usedT1 t + need ≤ x.qT1 + s.releasable t)
  | none => decide (need = 0)

/-- The same for a revive, which maps the frames `keep` of the retained set, so that they give way to nothing
(R308, R309). -/
def State.t1FitsKeeping (s : State) (t need : Nat) (keep : List Nat) : Bool :=
  match s.tenant? t with
  | some x => decide (s.usedT1 t + need ≤ x.qT1 + (s.granary.frames.filter (fun f =>
      f.tenant == t && !s.frameMapped f.frame && !keep.contains f.frame)).length)
  | none => decide (need = 0)

/-- Order in which retained bales are released: the oldest park first, then descending stream, then
descending bale number. -/
def Retained.before (a b : Retained) : Bool :=
  if a.order == b.order then
    if a.stream == b.stream then decide (b.bale ≤ a.bale) else decide (b.stream < a.stream)
  else decide (a.order < b.order)

/-- Frees the key-value frames that nothing maps and nothing retains. -/
def State.freeFrames (s : State) : State :=
  { s with granary := { s.granary with
      frames := s.granary.frames.filter (fun f =>
        s.frameMapped f.frame || s.granary.retained.any (fun x => x.frame == f.frame)) } }

/-- Releases retained bales of a tenant while its use exceeds its quota. -/
def State.trimRetained (s : State) (t : Nat) : Nat → State
  | 0 => s
  | k + 1 =>
    match s.tenant? t, sortBy Retained.before (s.granary.retained.filter (fun r => r.tenant == t)) with
    | some x, r :: _ =>
      if s.usedT1 t ≤ x.qT1 then s
      else
        (({ s with granary := { s.granary with
            retained := s.granary.retained.filter (fun y => y != r) } }).freeFrames).trimRetained t k
    | _, _ => s

def State.t0Fits (s : State) (t need : Nat) : Bool :=
  match s.tenant? t with
  | some x => decide (s.usedT0 t + need ≤ x.qT0 * 65536)
  | none => decide (need = 0)

def State.t2Fits (s : State) (t need : Nat) : Bool :=
  match s.tenant? t with
  | some x => decide (s.usedT2 t + need ≤ x.qT2)
  | none => decide (need = 0)

/-- After an allocation of a tenant: its retained bales give way (R309), and the highest T1 use of every tenant is
recorded (`peak_t1`). -/
def State.notePeaks (s : State) (t : Nat) : State :=
  let s := s.trimRetained t s.granary.retained.length
  { s with tenants := s.tenants.map (fun t =>
      { t with counts := { t.counts with peakT1 := max t.counts.peakT1 (s.usedT1 t.number) } }) }

/-- T1 capacity in service, in frames (Table 11-1). -/
def State.t1Capacity (s : State) : Nat := s.cap.t1Gib * 16384 - 393216

/-- Frames whose last mapping is removed while epoch E is current pass through quarantine while any walk
of epoch E or older is unretired (R235, R334); they stay charged until then. (Log entry 66: DEDUCED, unsafe.) -/
def State.quarantineFrames (s : State) (t n : Nat) (kv : Bool) : State :=
  if n = 0 || s.epochs.walks.isEmpty then s
  else { s with epochs := { s.epochs with
    quarantine := s.epochs.quarantine ++ [Quarantined.mk t n s.epochs.epoch kv] } }

def State.toQuarantine (s : State) (t n : Nat) : State := s.quarantineFrames t n false

/-- Cores in service. -/
def State.coresInService (s : State) : List Nat :=
  (List.range 64).filter (fun c =>
    let w := if c < 32 then bitsOf s.cap.widthLo (2 * c + 1) (2 * c)
      else bitsOf s.cap.widthHi (2 * (c - 32) + 1) (2 * (c - 32))
    w != 0)

/-- The core that a virtual core is placed on: the module's choice among the cores in service (R202). (Log entry 42: DESIGN CHOICE, safe.) -/
def State.coreOf (s : State) (vc : Nat) : Nat :=
  let cs := s.coresInService
  cs.getD (Config.placedOn vc % cs.length) vc

/-- Width of a core in column groups (R200). -/
def State.coreWidth (s : State) (c : Nat) : Nat :=
  (if c < 32 then bitsOf s.cap.widthLo (2 * c + 1) (2 * c)
   else bitsOf s.cap.widthHi (2 * (c - 32) + 1) (2 * (c - 32))) + 1

def State.quadrantCount (s : State) : Nat := ((List.range 4).filter s.inService).length

/-- Size of the hot model cache in MiB (R257): the share of each loft in service and what the cores'
work areas leave of their 8 MiB. -/
def State.cacheMib (s : State) : Nat :=
  min 768 (s.job.loftMib * s.quadrantCount + (8 - s.job.workMib) * s.coresInService.length)

/-- T0 capacity in service, in bales (Table 11-1). -/
def State.t0Capacity (s : State) : Nat :=
  (s.cacheMib + s.setting 0x4200 3 * s.quadrantCount) * 16

/-- T2 capacity: `t2_cap` of object 0x1130. -/
def State.t2Capacity (s : State) : Nat := min (s.link.t2Size / 65536) 0xFFFFFFFF

end Sys2Proof.Machine
end

