-- ==== Sys2Proof/Machine/Winnow.lean ====
section
/-!
DEFINITION. Selection and ordering (04): order keys, the k best of a row, duplicates, TOPK, TOPK_MERGE.
-/

namespace Sys2Proof.Machine

/-! ### The order (R109 to R113) -/

/-- Size in bytes of a key format (Table 4-1). -/
def keySize (fmt : Nat) : Nat := if fmt == 2 then 2 else 4

/-- Steps 1 to 3 of Table 4-1; none for an excluded NaN. -/
def orderKey (fmt : Nat) (smallest : Bool) (key : Nat) : Option Nat :=
  match fmt with
  | 1 =>
    let x : U32 := BitVec.ofNat 32 key
    if bitsOf x 30 0 > 0x7F800000 then none
    else
      let x := if x == 0x80000000 then 0 else x
      let u := if x.getLsbD 31 then ~~~x else x ||| 0x80000000
      some (if smallest then ~~~u else u).toNat
  | 2 =>
    let x : U16 := BitVec.ofNat 16 key
    if bitsOf x 14 0 > 0x7F80 then none
    else
      let x := if x == 0x8000 then 0 else x
      let u := if x.getLsbD 15 then ~~~x else x ||| 0x8000
      some (if smallest then ~~~u else u).toNat
  | 3 =>
    let u : U32 := BitVec.ofNat 32 key ^^^ 0x80000000
    some (if smallest then ~~~u else u).toNat
  | _ =>
    let u : U32 := BitVec.ofNat 32 key
    some (if smallest then ~~~u else u).toNat

/-- Table 4-2. -/
def padKey (fmt : Nat) (smallest : Bool) : Nat :=
  match fmt, smallest with
  | 1, false => 0xFF800000
  | 1, true => 0x7F800000
  | 2, false => 0xFF80
  | 2, true => 0x7F80
  | 3, false => 0x80000000
  | 3, true => 0x7FFFFFFF
  | _, false => 0
  | _, true => 0xFFFFFFFF

/-- The pad index (R114). -/
def padIndex : Nat := 0xFFFFFFFF

/-- An entry of a row: order key, index, and the key as received (R112). -/
structure WEntry where
  u : Nat
  index : Nat
  key : Nat
  deriving DecidableEq, Repr

/-- `a` ranks before `b` or is `b` (R110). -/
def ranksFirst (a b : WEntry) : Bool :=
  decide (a.u > b.u) || (a.u == b.u && decide (a.index ≤ b.index))

/-- The k entries that rank first, best first (R109). -/
def selectBest (k : Nat) (l : List WEntry) : List WEntry := (sortBy ranksFirst l).take k

/-- The valid entries of (index, key) pairs and how many NaN keys were excluded (R111). -/
def validEntries (fmt : Nat) (smallest : Bool) (l : List (Nat × Nat)) : List WEntry × Nat :=
  let v := l.filterMap (fun e => (orderKey fmt smallest e.2).map (fun u => WEntry.mk u e.1 e.2))
  (v, l.length - v.length)

/-- What the duplicate rule keeps and counts (R116). -/
structure Dedup where
  kept : List WEntry
  dups : Nat
  conflicts : Nat
  deriving DecidableEq, Repr

/-- Takes one copy of an index and compares it with the copy kept so far. -/
def dedupStep (d : Dedup) (e : WEntry) : Dedup :=
  match d.kept.find? (fun x => x.index == e.index) with
  | none => { d with kept := d.kept ++ [e] }
  | some x =>
    if x.u == e.u then { d with dups := d.dups + 1 }
    else if e.u > x.u then
      { d with
        kept := updWhere (fun y => y.index == e.index) (fun _ => e) d.kept,
        conflicts := d.conflicts + 1 }
    else { d with conflicts := d.conflicts + 1 }

def dedup (l : List WEntry) : Dedup := l.foldl dedupStep ⟨[], 0, 0⟩

/-- The radix structure serves the row (R115). -/
def usesRadix (k n : Nat) : Bool := !(decide (k ≤ 4096) && decide (n ≤ 1048576))

def sat32 (n : Nat) : Nat := min n 0xFFFFFFFF

/-! ### The row form (R120) -/

/-- Bytes of an output row. -/
def rowBytes (k : Nat) : Nat := 64 * ceilDiv (8 + 8 * k) 64

/-- Eight bytes of an entry. -/
def entryBytes (fmt index key : Nat) : List Byte :=
  toLe 4 index ++ (if fmt == 2 then toLe 2 key ++ [0, 0] else toLe 4 key)

/-- An output row of the best entries, padded to k entries and zeros to the line's end. -/
def outputRow (fmt : Nat) (smallest : Bool) (k nan : Nat) (best : List WEntry) : List Byte :=
  let body := toLe 4 best.length ++ toLe 4 (sat32 nan) ++
    (best.map (fun e => entryBytes fmt e.index e.key)).flatten ++
    (List.replicate (k - best.length) (entryBytes fmt padIndex (padKey fmt smallest))).flatten
  body ++ List.replicate (rowBytes k - body.length) 0

/-! ### TOPK (R119, R120) -/

/-- Operands of Table 4-4. -/
structure TopkArgs where
  src : Nat
  fmt : Nat
  smallest : Bool
  dest : Nat
  n : Nat
  rows : Nat
  k : Nat
  base : Nat
  stride : Nat
  deriving DecidableEq, Repr

def topkArgs (r : Record) : TopkArgs :=
  { src := r.fieldN 16 6, fmt := r.fieldN 22 1, smallest := r.fieldN 23 1 % 2 == 1,
    dest := r.fieldN 24 6, n := r.fieldN 32 4, rows := r.fieldN 36 4, k := r.fieldN 40 4,
    base := r.fieldN 44 4, stride := r.fieldN 48 8 }

/-- Step 6 for TOPK. -/
def topkOperandsOk (s : State) (a : TopkArgs) : Bool :=
  decide (1 ≤ a.fmt ∧ a.fmt ≤ 4) && decide (1 ≤ a.n ∧ a.n ≤ 268435456) &&
    decide (1 ≤ a.rows ∧ a.rows ≤ 65536) && decide (1 ≤ a.k ∧ a.k ≤ 1048576) &&
    decide (a.base + a.n - 1 ≤ 0xFFFFFFFE) && a.src % 64 == 0 && a.dest % 64 == 0 &&
    a.stride % 64 == 0 && decide (a.n * keySize a.fmt ≤ a.stride) &&
    t2Arg s a.dest (a.rows * rowBytes a.k) 64 &&
    (List.range a.rows).all (fun i =>
      let row := a.src + i * a.stride
      t2Arg s row (a.n * keySize a.fmt) 64 &&
        !overlap row (a.n * keySize a.fmt) a.dest (a.rows * rowBytes a.k))

/-- The (index, key) pairs of row `i`. -/
def topkRow (m : Mem) (a : TopkArgs) (i : Nat) : List (Nat × Nat) :=
  (List.range a.n).map (fun e =>
    (a.base + e, readLe m (a.src + i * a.stride + e * keySize a.fmt) (keySize a.fmt)))

/-- Best entries and NaN count of row `i`. -/
def topkResult (m : Mem) (a : TopkArgs) (i : Nat) : List WEntry × Nat :=
  let v := validEntries a.fmt a.smallest (topkRow m a i)
  (selectBest a.k v.1, v.2)

/-- Adds a row's figures to the tenant's Winnow report (R125). -/
def Counts.winnow (c : Counts) (rows elements nan short dups conflicts radix : Nat) : Counts :=
  { c with
    rows := c.rows + BitVec.ofNat 64 rows, elements := c.elements + BitVec.ofNat 64 elements,
    nanExcluded := c.nanExcluded + BitVec.ofNat 64 nan,
    shortRows := c.shortRows + BitVec.ofNat 64 short,
    dups := c.dups + BitVec.ofNat 64 dups, conflicts := c.conflicts + BitVec.ofNat 64 conflicts,
    radixRows := c.radixRows + BitVec.ofNat 64 radix }

def runTopk (r : Record) (id : Nat) (s : State) : State :=
  let a := topkArgs r
  let res := (List.range a.rows).map (topkResult s.t2 a)
  let nan := (res.map (·.2)).foldl (· + ·) 0
  let short := (res.filter (fun x => decide (x.1.length < a.k))).length
  let minCount := (res.map (fun x => x.1.length)).foldl min a.k
  let radix := if usesRadix a.k a.n then a.rows else 0
  let s1 := s.writeT2 a.dest ((res.map (fun x => outputRow a.fmt a.smallest a.k x.2 x.1)).flatten)
  let s2 := s1.count r.tenant (fun c => c.winnow a.rows (a.n * a.rows) nan short 0 0 radix)
  s2.completeAfter (newWrites s s1) r id (if short == 0 then stOk else stFewer)
    (toLe 4 short ++ toLe 4 (sat32 nan) ++ toLe 4 minCount ++ toLe 4 radix)

def planTopk (r : Record) (s : State) : Plan :=
  { reserved := r.handle == 0 && r.fieldN 23 1 / 2 == 0 && zeroBytes r 30 32 && zeroBytes r 56 64,
    served := s.serviceSearch, tenantOk := s.tenantOk r,
    checks := [(topkOperandsOk s (topkArgs r), stBadParam)],
    run := runTopk r,
    sources := (List.range (topkArgs r).rows).map (fun i =>
      ((topkArgs r).src + i * (topkArgs r).stride, (topkArgs r).n * keySize (topkArgs r).fmt)) }

def execTopk (r : Record) (s : State) : Host.Outcome State Fault Refusal :=
  .next (s.record r 0x0140 planTopk)

/-! ### TOPK_MERGE (R121) -/

/-- Operands of Table 4-5. -/
structure MergeArgs where
  src : Nat
  fmt : Nat
  smallest : Bool
  dest : Nat
  lists : Nat
  k : Nat
  stride : Nat
  deriving DecidableEq, Repr

def mergeArgs (r : Record) : MergeArgs :=
  { src := r.fieldN 16 6, fmt := r.fieldN 22 1, smallest := r.fieldN 23 1 % 2 == 1,
    dest := r.fieldN 24 6, lists := r.fieldN 32 4, k := r.fieldN 40 4, stride := r.fieldN 48 8 }

/-- `count` of list `j`. -/
def listCount (m : Mem) (a : MergeArgs) (j : Nat) : Nat := readLe m (a.src + j * a.stride) 4

def mergeOperandsOk (s : State) (a : MergeArgs) : Bool :=
  decide (1 ≤ a.fmt ∧ a.fmt ≤ 4) && decide (1 ≤ a.lists ∧ a.lists ≤ 1024) &&
    decide (1 ≤ a.k ∧ a.k ≤ 1048576) && a.src % 64 == 0 && a.stride % 64 == 0 &&
    decide (8 ≤ a.stride) && t2Arg s a.dest (rowBytes a.k) 64 &&
    (List.range a.lists).all (fun j => t2Arg s (a.src + j * a.stride) 8 64)

/-- The list headers, and no overlap of the output row with a list (after step 6). -/
def mergeListsOk (s : State) (a : MergeArgs) : Bool :=
  (List.range a.lists).all (fun j =>
    decide (listCount s.t2 a j ≤ (a.stride - 8) / 8) &&
      t2Arg s (a.src + j * a.stride) (8 + 8 * listCount s.t2 a j) 64 &&
      !overlap (a.src + j * a.stride) (8 + 8 * listCount s.t2 a j) a.dest (rowBytes a.k))

/-- Entries of all lists in list order, pads skipped. -/
def mergeEntries (m : Mem) (a : MergeArgs) : List (Nat × Nat) :=
  ((List.range a.lists).flatMap (fun j => (List.range (listCount m a j)).map (fun e =>
    let o := a.src + j * a.stride + 8 + 8 * e
    (readLe m o 4, readLe m (o + 4) (keySize a.fmt))))).filter (fun x => x.1 != padIndex)

/-- TOPK_MERGE (R121). An entry skipped for the pad index is not among the keys taken in. (Log entries 143: DESIGN
CHOICE, unsafe; 19: DESIGN CHOICE, safe.) -/
def runTopkMerge (r : Record) (id : Nat) (s : State) : State :=
  let a := mergeArgs r
  let all := mergeEntries s.t2 a
  let v := validEntries a.fmt a.smallest all
  let d := dedup v.1
  let best := selectBest a.k d.kept
  let size := ((List.range a.lists).map (listCount s.t2 a)).foldl (· + ·) 0
  let short := if best.length < a.k then 1 else 0
  let s1 := s.writeT2 a.dest (outputRow a.fmt a.smallest a.k v.2 best)
  let s2 := s1.count r.tenant (fun c => c.winnow 1 all.length v.2 short d.dups d.conflicts
    (if usesRadix a.k size then 1 else 0))
  s2.completeAfter (newWrites s s1) r id (if short == 0 then stOk else stFewer)
    (toLe 4 best.length ++ toLe 4 (count32 d.dups) ++ toLe 4 (count32 d.conflicts) ++ toLe 4 (count32 v.2))

def planTopkMerge (r : Record) (s : State) : Plan :=
  { reserved := r.handle == 0 && r.fieldN 23 1 / 2 == 0 && zeroBytes r 30 32 && zeroBytes r 36 40 &&
      zeroBytes r 44 48 && zeroBytes r 56 64,
    served := s.serviceSearch, tenantOk := s.tenantOk r,
    checks := [(mergeOperandsOk s (mergeArgs r), stBadParam), (mergeListsOk s (mergeArgs r), stBadParam)],
    run := runTopkMerge r,
    sources := (List.range (mergeArgs r).lists).map (fun j =>
      ((mergeArgs r).src + j * (mergeArgs r).stride, 8 + 8 * listCount s.t2 (mergeArgs r) j)) }

def execTopkMerge (r : Record) (s : State) : Host.Outcome State Fault Refusal :=
  .next (s.record r 0x0141 planTopkMerge)

end Sys2Proof.Machine
end

