-- ==== Sys2Proof/Machine/Sheaf.lean ====
section
/-!
DEFINITION. Tables (05): creation, lookups, update batches, boundaries, hot rows.
-/

namespace Sys2Proof.Machine

/-! ### Tables and rows -/

def State.modSheaf (s : State) (f : Sheaf → Sheaf) : State := { s with sheaf := f s.sheaf }

def findTable (ts : List Table) (n : Nat) : Option Table := ts.find? (fun t => t.number == n)

def State.table? (s : State) (n : Nat) : Option Table := findTable s.sheaf.tables n

def Table.blank : Table :=
  { number := 0, owner := 0, rows := 0, width := 0, format := 1, flags := 0, hotThreshold := 0,
    hotWindow := 0, data := [], other := [], slotB := [], loaded := false, hot := [], counts := [] }

/-- The table a handle names; a blank one when it names none. -/
def State.tableOf (s : State) (h : U64) : Table := (s.table? (bitsOf h 11 0)).getD Table.blank

def State.modTable (s : State) (n : Nat) (f : Table → Table) : State :=
  s.modSheaf (fun x => { x with tables := updWhere (fun t => t.number == n) f x.tables })

/-- Element bits of a row; a row never written holds +0 (R128). -/
def Table.rowBits (t : Table) (row : Nat) : List U32 :=
  match t.data.find? (fun e => e.1 == row) with
  | some e => e.2
  | none => List.replicate t.width 0

/-- An element of a table format widened to FP32; FP32 bits stay as they are. -/
def widenElem (fmt : Nat) (x : U32) : U32 :=
  match fmt with
  | 1 => widenE4m3 (x.setWidth 8)
  | 2 => widenBf16 (x.setWidth 16)
  | _ => x

def Table.rowValues (t : Table) (row : Nat) : List U32 := (t.rowBits row).map (widenElem t.format)

/-- An infinity becomes the largest finite FP32 value of its sign. (Log entry 34: DEDUCED, unsafe.) -/
def clampInf (x : U32) : U32 × Bool :=
  match readFp32 x with
  | .inf s => (if s then 0xFF7FFFFF else 0x7F7FFFFF, true)
  | _ => (x, false)

/-- An FP32 value converted to a format (R43, R44, R140), and whether it was clipped. -/
def narrowElem (fmt : Nat) (x : U32) : U32 × Bool :=
  match fmt with
  | 1 => let y := toE4m3 (readFp32 x); (y.1.setWidth 32, y.2)
  | 2 => let y := toBf16 (readFp32 x); (y.1.setWidth 32, y.2)
  | _ => clampInf x

/-- The update of a row: its inactive slot takes the new value and the version bit flips (R134), so that the value
before stays in the slot that is now inactive. -/
def Table.putRow (t : Table) (row : Nat) (bits : List U32) : Table :=
  { t with
    data := sortBy (fun a b => decide (a.1 ≤ b.1)) (insertKey t.data row bits),
    other := if t.static then t.other
      else sortBy (fun a b => decide (a.1 ≤ b.1)) (insertKey t.other row (t.rowBits row)),
    slotB := if t.static then t.slotB
      else if t.slotB.contains row then t.slotB.filter (· != row) else t.slotB ++ [row] }

def TableCounts.zero (t : Nat) : TableCounts :=
  { tenant := t, lookups := 0, updates := 0, clipped := 0, skipped := 0 }

def Table.countsOf (t : Table) (tenant : Nat) : TableCounts :=
  (t.counts.find? (fun c => c.tenant == tenant)).getD (TableCounts.zero tenant)

/-- Adds a tenant's own contributions (R156). -/
def Table.count (t : Table) (tenant lookups updates clipped skipped : Nat) : Table :=
  let c := t.countsOf tenant
  { t with counts := { c with
      lookups := c.lookups + BitVec.ofNat 64 lookups, updates := c.updates + BitVec.ofNat 64 updates,
      clipped := c.clipped + BitVec.ofNat 64 clipped,
      skipped := c.skipped + BitVec.ofNat 64 skipped } :: t.counts.filter (fun c => c.tenant != tenant) }

/-- A lookup of a row counts in the open interval (R141). -/
def Table.noteLookup (t : Table) (row : Nat) : Table :=
  if t.shared || t.static || t.noHot then t
  else
    let h := (t.hot.find? (fun h => h.row == row)).getD ⟨row, [0], false, none⟩
    let hist := match h.hist with
      | x :: xs => (x + 1) :: xs
      | [] => [1]
    { t with hot := { h with hist := hist } :: t.hot.filter (fun h => h.row != row) }

/-! ### Handles and operands (R127, R128, R147) -/

def tableReserved (h : U64) : Bool := bitsOf h 63 48 == 0 && bitsOf h 35 12 == 0

/-- Step 5 for a table that exists: the tenant's own or shared. -/
def tableHandleOk (s : State) (r : Record) : Bool :=
  handleTenant r.handle == r.tenant &&
    (match s.table? (bitsOf r.handle 11 0) with
     | some t => t.shared || t.owner == r.tenant
     | none => false)

/-- A shared table is changed only from a module ring (R128). -/
def tableWriter (s : State) (r : Record) : Bool :=
  !(s.tableOf r.handle).shared || s.setting (cmdObj r.ring) 6 == 0xFFFF

/-- Bytes of a row moved in a format. -/
def rowStride (width fmt : Nat) : Nat := 64 * ceilDiv (width * elemSize fmt) 64

/-- Format of a row command: 0 names the table's own. -/
def rowFormat (t : Table) (raw : Nat) : Nat := if raw == 0 then t.format else raw

/-- Source format codes of a row in companion memory as `sourceElem` numbers them. -/
def rowSource (fmt : Nat) : Nat := match fmt with
  | 1 => 2
  | 2 => 1
  | _ => 0

/-- FP32 values of a row in companion memory. -/
def readRow (m : Mem) (fmt a width : Nat) : List U32 := sourceVec m (rowSource fmt) a width

/-- Bytes of a row in a format, padded to its stride. -/
def rowImage (fmt width : Nat) (bits : List U32) : List Byte :=
  let b := bits.flatMap (fun x => toLe (elemSize fmt) x.toNat)
  b ++ List.replicate (rowStride width fmt - b.length) 0

/-! ### Row bales (R131, R132) -/

/-- Element bits of a row's inactive slot. -/
def Table.otherBits (t : Table) (row : Nat) : List U32 :=
  match t.other.find? (fun e => e.1 == row) with
  | some e => e.2
  | none => List.replicate t.width 0

/-- A slot's bytes: elements from its start, then zero. -/
def Table.slotImage (t : Table) (bits : List U32) : List Byte :=
  let b := bits.flatMap (fun x => toLe (elemSize t.format) x.toNat)
  b ++ List.replicate (t.slotBytes - b.length) 0

/-- The bytes of a row in its bale: slots A and B, or the one slot of a static table. -/
def Table.rowSlots (t : Table) (row : Nat) : List Byte :=
  let act := t.slotImage (t.rowBits row)
  let oth := t.slotImage (t.otherBits row)
  if t.static then act else if t.slotB.contains row then oth ++ act else act ++ oth

/-- Bale `b` of a table (Table 5-1). -/
def Table.rowBale (t : Table) (b : Nat) : List Byte :=
  let first := b * t.rowsPerBale
  let n := min t.rowsPerBale (t.rows - first)
  let ver := sumOf (fun i => if !t.static && t.slotB.contains (first + i) then 2 ^ i else 0) (List.range n)
  let head := toLe 2 (if t.static then 0x32 else 0x31) ++ toLe 1 t.format ++ toLe 1 t.flags.toNat ++
    toLe 2 t.number ++ toLe 2 t.owner ++ toLe 4 first ++ toLe 2 n ++ toLe 2 t.slotBytes ++ List.replicate 48 0
  let body := head ++ toLe 64 ver ++ (List.range n).flatMap (fun i => t.rowSlots (first + i))
  body ++ List.replicate (65536 - body.length) 0

/-! ### TABLE_CREATE and TABLE_DROP (R146, R151) -/

def newTable (s : State) (r : Record) : Table :=
  { Table.blank with
    number := bitsOf r.handle 11 0, owner := r.tenant, rows := r.fieldN 16 4, width := r.fieldN 20 2,
    format := r.fieldN 22 1, flags := BitVec.ofNat 8 (r.fieldN 23 1),
    hotThreshold := if r.fieldN 24 4 == 0 then s.setting 0x4200 1 else r.fieldN 24 4,
    hotWindow := if r.fieldN 28 2 == 0 then s.setting 0x4200 2 else r.fieldN 28 2 }

def createTableOk (r : Record) (t : Table) : Bool :=
  decide (1 ≤ t.rows) && decide (1 ≤ t.format ∧ t.format ≤ 3) && decide (32 ≤ t.width) &&
    t.width % 32 == 0 && decide (t.width ≤ if t.format == 3 then 4096 else 8192) &&
    decide (r.fieldN 28 2 ≤ 4096) && !(t.static && t.additive) && (!t.shared || t.static)

def runTableCreate (r : Record) (id : Nat) (s : State) : State :=
  let t := newTable s r
  ((s.modSheaf (fun x => { x with tables := x.tables ++ [t] })).notePeaks (chargedTo t.shared r.tenant)).complete r id stOk (toLe 4 t.bales)

def planTableCreate (r : Record) (s : State) : Plan :=
  let t := newTable s r
  { reserved := tableReserved r.handle && r.fieldN 23 1 / 32 == 0 && zeroBytes r 30 64,
    served := s.serviceTables, tenantOk := s.tenantOk r,
    checks := [(handleTenant r.handle == r.tenant, stDenied),
      (!t.shared || s.setting (cmdObj r.ring) 6 == 0xFFFF, stDenied),
      (createTableOk r t, stBadParam),
      ((s.table? t.number).isNone, stWrongState),
      (s.t1Fits (chargedTo t.shared r.tenant) t.bales, stNoSpace)],
    run := runTableCreate r }

def execTableCreate (r : Record) (s : State) : Host.Outcome State Fault Refusal :=
  .next (s.record r 0x0300 planTableCreate)

/-- A batch without the entries and records of a table. -/
def Batch.without (b : Batch) (n : Nat) : Batch :=
  { loads := b.loads.filter (fun u => u.table != n), scatters := b.scatters.filter (fun u => u.table != n),
    programs := b.programs.filter (fun u => u.table != n),
    records := b.records.filter (fun r => r.table != n) }

/-- Every batch not yet applied. -/
def Sheaf.allBatches (x : Sheaf) : List Batch := x.closing.toList ++ x.batches

/-- A table is read by the lookups of the open serving step, which began with it (R134). -/
def State.tableInUse (s : State) (n : Nat) : Bool := (s.sheaf.view.getD []).any (fun t => t.number == n)

/-- Bytes in each loft that the replicas of a table take (R142). -/
def Table.loftBytes (t : Table) : Nat := 2 * t.slotBytes * t.replicas

/-- The bales and replicas of a dropped table are freed, or kept while lookups that began with it have not retired
(R151). -/
def State.freeTable (s : State) (t : Table) : State :=
  let who := chargedTo t.shared t.owner
  if s.tableInUse t.number then
    s.modSheaf (fun x => { x with leaving := x.leaving ++ [⟨who, t.bales, t.loftBytes⟩] })
  else s.toQuarantine who t.bales

/-- The lookups of the step have retired: what they held is freed (R143, R151). -/
def State.freeLeaving (s : State) : State :=
  let l := s.sheaf.leaving
  l.foldl (fun s x => s.toQuarantine x.tenant x.bales)
    (s.modSheaf (fun x => { x with view := none, leaving := [], gone := [] }))

/-- Drops a table: unused at once, its unapplied updates discarded, their records WRONG_STATE (R151). -/
def State.dropTable (s : State) (n : Nat) : State :=
  match s.table? n with
  | none => s
  | some t =>
    let waiting := (s.sheaf.allBatches.flatMap (·.records)).filter (fun b => b.table == n)
    let s := (s.freeTable t).modSheaf (fun x => { x with
      tables := x.tables.filter (fun t => t.number != n),
      closing := x.closing.map (fun b => b.without n),
      batches := x.batches.map (fun b => b.without n),
      puts := x.puts.map (fun l => l.filter (fun u => u.table != n)),
      gone := if x.view.isSome then x.gone ++ [n] else x.gone })
    waiting.foldl (fun s b => s.completeId b.run stWrongState []) s

def planTableDrop (r : Record) (s : State) : Plan :=
  { reserved := tableReserved r.handle && zeroBytes r 16 64,
    served := s.serviceTables, tenantOk := s.tenantOk r,
    checks := [(tableHandleOk s r, stDenied), (tableWriter s r, stDenied)],
    run := fun id s => (s.dropTable (bitsOf r.handle 11 0)).complete r id stOk [] }

def execTableDrop (r : Record) (s : State) : Host.Outcome State Fault Refusal :=
  .next (s.record r 0x0301 planTableDrop)

/-! ### Row commands: operands of Table 5-5 -/

structure RowArgs where
  /-- Bytes 16 to 21: the list, or the rows of ROW_LOAD and TABLE_SAVE. -/
  a : Nat
  fmtRaw : Nat
  fmt : Nat
  /-- Bytes 24 to 29 of GATHER and SCATTER. -/
  b : Nat
  count : Nat
  first : Nat
  stride : Nat
  deriving DecidableEq, Repr

def rowArgs (r : Record) (t : Table) : RowArgs :=
  let fmt := rowFormat t (r.fieldN 22 1)
  { a := r.fieldN 16 6, fmtRaw := r.fieldN 22 1, fmt := fmt, b := r.fieldN 24 6, count := r.fieldN 32 4,
    first := r.fieldN 36 4, stride := rowStride t.width fmt }

/-- Step 6 for the commands with a list. -/
def listOperandsOk (s : State) (a : RowArgs) : Bool :=
  decide (a.fmtRaw ≤ 3) && decide (1 ≤ a.count ∧ a.count ≤ 1048576) && t2Arg s a.a (4 * a.count) 64 &&
    t2Arg s a.b (a.count * a.stride) 64

/-- Step 6 for the commands with a range. -/
def rangeOperandsOk (s : State) (a : RowArgs) (top : Nat) : Bool :=
  decide (a.fmtRaw ≤ 3) && decide (1 ≤ a.count ∧ a.count ≤ top) && t2Arg s a.a (a.count * a.stride) 64

/-- Index `e` of a list. -/
def listIndex (m : Mem) (a : RowArgs) (e : Nat) : Nat := readLe m (a.a + 4 * e) 4

/-- "No row" (R147). -/
abbrev noRow : Nat := 0xFFFFFFFF

def listInRange (m : Mem) (t : Table) (a : RowArgs) : Bool :=
  (List.range a.count).all (fun e => listIndex m a e == noRow || decide (listIndex m a e < t.rows))

def listReserved (r : Record) : Bool :=
  tableReserved r.handle && zeroBytes r 23 24 && zeroBytes r 30 32 && zeroBytes r 36 64

def rangeReserved (r : Record) : Bool :=
  tableReserved r.handle && zeroBytes r 23 32 && zeroBytes r 40 64

/-! ### GATHER, TABLE_SAVE (R148) -/

/-- A row converted to a format, with its clips. -/
def gatherRow (t : Table) (fmt row : Nat) : List U32 × Nat :=
  if fmt == t.format then (t.rowBits row, 0)
  else
    let c := (t.rowValues row).map (narrowElem fmt)
    (c.map (·.1), (c.filter (·.2)).length)

def runGather (r : Record) (id : Nat) (s : State) : State :=
  let t := s.tableOf r.handle
  let a := rowArgs r t
  let idx := (List.range a.count).map (listIndex s.t2 a)
  let rows := idx.map (fun i => if i == noRow then none else some (gatherRow t a.fmt i))
  let skipped := (rows.filter Option.isNone).length
  let clips := sumOf (fun x => match x with
    | some g => g.2
    | none => 0) rows
  let bytes := rows.flatMap (fun x => match x with
    | some g => rowImage a.fmt t.width g.1
    | none => List.replicate a.stride 0)
  let s1 := s.writeT2 a.b bytes
  let s2 := s1.modTable t.number (fun t =>
    (idx.foldl (fun t i => if i == noRow then t else t.noteLookup i) t).count r.tenant
      (a.count - skipped) 0 clips skipped)
  s2.completeAfter (newWrites s s1) r id stOk
    (toLe 4 (a.count - skipped) ++ toLe 4 skipped ++ toLe 4 (count32 clips) ++ toLe 8 s.sheaf.tstep.toNat)

def planGather (r : Record) (s : State) : Plan :=
  let t := s.tableOf r.handle
  let a := rowArgs r t
  { reserved := listReserved r, served := s.serviceTables, tenantOk := s.tenantOk r,
    checks := [(tableHandleOk s r, stDenied), (listOperandsOk s a, stBadParam),
      (listInRange s.t2 t a, stRowRange)],
    run := runGather r,
    sources := [(a.a, 4 * a.count)] }

def execGather (r : Record) (s : State) : Host.Outcome State Fault Refusal :=
  .next (s.record r 0x0310 planGather)

def runTableSave (r : Record) (id : Nat) (s : State) : State :=
  let t := s.tableOf r.handle
  let a := rowArgs r t
  let bytes := (List.range a.count).flatMap (fun i =>
    rowImage a.fmt t.width (gatherRow t a.fmt (a.first + i)).1)
  let s1 := s.writeT2 a.a bytes
  s1.completeAfter (newWrites s s1) r id stOk
    (toLe 4 a.count ++ List.replicate 8 0 ++ toLe 8 s.sheaf.tstep.toNat)

def planTableSave (r : Record) (s : State) : Plan :=
  let t := s.tableOf r.handle
  let a := rowArgs r t
  { reserved := rangeReserved r, served := s.serviceTables, tenantOk := s.tenantOk r,
    checks := [(tableHandleOk s r, stDenied), (rangeOperandsOk s a 16777216, stBadParam),
      (decide (a.first + a.count ≤ t.rows), stRowRange)],
    run := runTableSave r }

def execTableSave (r : Record) (s : State) : Host.Outcome State Fault Refusal :=
  .next (s.record r 0x0303 planTableSave)

/-! ### Batches (R136, R137) -/

def Batch.size (b : Batch) : Nat := b.loads.length + b.scatters.length + b.programs.length

/-- Joins the entries of one record or program update to the last batch whole, or to a new one when it
would overflow (R136). (Log entry 33: DEDUCED, safe.) -/
def joinBatch (n : Nat) (add : Batch → Batch) : List Batch → List Batch
  | [] => [add Batch.empty]
  | [b] => if b.size + n ≤ 1048576 then [add b] else [b, add Batch.empty]
  | b :: bs => b :: joinBatch n add bs

def State.join (s : State) (n : Nat) (add : Batch → Batch) : State :=
  s.modSheaf (fun x => { x with batches := joinBatch n add x.batches })

/-! ### SCATTER, ROW_LOAD (R138, R148) -/

/-- Entry `e` of a source, as FP32 values. -/
def sourceRow (m : Mem) (t : Table) (a : RowArgs) (base e : Nat) : List U32 :=
  readRow m a.fmt (base + e * a.stride) t.width

def runScatter (r : Record) (id : Nat) (s : State) : State :=
  let t := s.tableOf r.handle
  let a := rowArgs r t
  let ups := (List.range a.count).filterMap (fun e =>
    let i := listIndex s.t2 a e
    if i == noRow then none
    else some (RowUpdate.mk t.number i (sourceRow s.t2 t a a.b e) (some id) r.tenant 0))
  let skipped := a.count - ups.length
  let s := s.modTable t.number (fun t => t.count r.tenant 0 0 0 skipped)
  s.join ups.length (fun b => { b with
    scatters := b.scatters ++ ups,
    records := b.records ++ [BatchRecord.mk id r.tenant t.number false ups.length skipped] })

def scatterFinite (m : Mem) (t : Table) (a : RowArgs) : Bool :=
  (List.range a.count).all (fun e => listIndex m a e == noRow || (sourceRow m t a a.b e).all finite32)

def planScatter (r : Record) (s : State) : Plan :=
  let t := s.tableOf r.handle
  let a := rowArgs r t
  { reserved := listReserved r, served := s.serviceTables, tenantOk := s.tenantOk r,
    checks := [(tableHandleOk s r, stDenied), (tableWriter s r, stDenied),
      (listOperandsOk s a, stBadParam), (listInRange s.t2 t a, stRowRange),
      (scatterFinite s.t2 t a, stBadParam), (!(t.static && t.loaded), stWrongState)],
    run := runScatter r,
    sources := (a.a, 4 * a.count) :: ((List.range a.count).filter (fun e => listIndex s.t2 a e != noRow)).map
      (fun e => (a.b + e * a.stride, a.stride)) }

def execScatter (r : Record) (s : State) : Host.Outcome State Fault Refusal :=
  .next (s.record r 0x0320 planScatter)

def runRowLoad (r : Record) (id : Nat) (s : State) : State :=
  let t := s.tableOf r.handle
  let a := rowArgs r t
  let ups := (List.range a.count).map (fun e =>
    RowUpdate.mk t.number (a.first + e) (sourceRow s.t2 t a a.a e) (some id) r.tenant 0)
  s.join ups.length (fun b => { b with
    loads := b.loads ++ ups,
    records := b.records ++ [BatchRecord.mk id r.tenant t.number true ups.length 0] })

def planRowLoad (r : Record) (s : State) : Plan :=
  let t := s.tableOf r.handle
  let a := rowArgs r t
  { reserved := rangeReserved r, served := s.serviceTables, tenantOk := s.tenantOk r,
    checks := [(tableHandleOk s r, stDenied), (tableWriter s r, stDenied),
      (rangeOperandsOk s a 1048576, stBadParam), (decide (a.first + a.count ≤ t.rows), stRowRange),
      ((List.range a.count).all (fun e => (sourceRow s.t2 t a a.a e).all finite32), stBadParam),
      (!(t.static && t.loaded), stWrongState)],
    run := runRowLoad r,
    sources := [(a.a, a.count * a.stride)] }

def execRowLoad (r : Record) (s : State) : Host.Outcome State Fault Refusal :=
  .next (s.record r 0x0302 planRowLoad)

/-! ### POOL (R149, R150) -/

structure PoolArgs where
  list : Nat
  outFmt : Nat
  mode : Nat
  dest : Nat
  entries : Nat
  bags : Nat
  offsets : Nat
  deriving DecidableEq, Repr

def poolArgs (r : Record) : PoolArgs :=
  { list := r.fieldN 16 6, outFmt := r.fieldN 22 1, mode := r.fieldN 23 1, dest := r.fieldN 24 6,
    entries := r.fieldN 32 4, bags := r.fieldN 36 4, offsets := r.fieldN 40 6 }

/-- Table format code of `out_fmt`. -/
def poolFormat (a : PoolArgs) : Nat := a.outFmt + 1

def poolOperandsOk (s : State) (t : Table) (a : PoolArgs) : Bool :=
  (a.outFmt == 1 || a.outFmt == 2) && decide (a.mode ≤ 2) &&
    decide (1 ≤ a.entries ∧ a.entries ≤ 16777216) && decide (1 ≤ a.bags ∧ a.bags ≤ 1048576) &&
    t2Arg s a.list (8 * a.entries) 64 && t2Arg s a.offsets (4 * a.bags) 64 &&
    t2Arg s a.dest (a.bags * rowStride t.width (poolFormat a)) 64

def poolOffset (m : Mem) (a : PoolArgs) (b : Nat) : Nat :=
  if b < a.bags then readLe m (a.offsets + 4 * b) 4 else a.entries

def poolOffsetsOk (m : Mem) (a : PoolArgs) : Bool :=
  poolOffset m a 0 == 0 &&
    (List.range a.bags).all (fun b => decide (poolOffset m a b ≤ poolOffset m a (b + 1)))

/-- Entry `e`: row index and weight bits. -/
def poolEntry (m : Mem) (a : PoolArgs) (e : Nat) : Nat × U32 :=
  (readLe m (a.list + 8 * e) 4, BitVec.ofNat 32 (readLe m (a.list + 8 * e + 4) 4))

def poolInRange (m : Mem) (t : Table) (a : PoolArgs) : Bool :=
  (List.range a.entries).all (fun e =>
    (poolEntry m a e).1 == noRow || decide ((poolEntry m a e).1 < t.rows))

def poolWeightsOk (m : Mem) (a : PoolArgs) : Bool :=
  a.mode == 0 || (List.range a.entries).all (fun e =>
    (poolEntry m a e).1 == noRow || finite32 (poolEntry m a e).2)

/-- acc + w · x as one exact sum, rounded once. (Log entry 34: DEDUCED, unsafe.) -/
def poolAdd (w : U32) (acc x : U32) : U32 :=
  round32 (fpSum [readFp32 acc, fpMul (readFp32 w) (readFp32 x)])

/-- A count as an FP32 value; counts to 2^24 are exact. -/
def fp32OfNat (n : Nat) : U32 := round32 (.fin false n 0)

/-- Quotient of the mean; an infinity that a sum gave stays one. -/
def poolDivide (x : U32) (n : Nat) : U32 :=
  match readFp32 x with
  | .inf s => inf32 s
  | _ => div32 x (fp32OfNat n)

/-- One bag: the pooled FP32 row of the entries not skipped (R150). -/
def poolBag (width mode : Nat) (es : List (List U32 × U32)) : List U32 :=
  let acc := es.foldl (fun a e => List.zipWith (poolAdd (if mode == 0 then 0x3F800000 else e.2)) a e.1)
    (List.replicate width 0)
  if mode == 2 && !es.isEmpty then acc.map (fun x => poolDivide x es.length) else acc

/-- A bag's output row: bits, clips, rows read. -/
def poolRow (m : Mem) (t : Table) (a : PoolArgs) (b : Nat) : List U32 × Nat × Nat :=
  let lo := poolOffset m a b
  let es := (List.range (poolOffset m a (b + 1) - lo)).map (fun i => poolEntry m a (lo + i))
  let used := es.filter (fun e => e.1 != noRow)
  let c := (poolBag t.width a.mode (used.map (fun e => (t.rowValues e.1, e.2)))).map
    (narrowElem (poolFormat a))
  (c.map (·.1), (c.filter (·.2)).length, used.length)

def runPool (r : Record) (id : Nat) (s : State) : State :=
  let t := s.tableOf r.handle
  let a := poolArgs r
  let rows := (List.range a.bags).map (poolRow s.t2 t a)
  let pooled := sumOf (fun x => x.2.2) rows
  let clips := sumOf (fun x => x.2.1) rows
  let empty := (rows.filter (fun x => x.2.2 == 0)).length
  let idx := ((List.range a.entries).map (fun e => (poolEntry s.t2 a e).1)).filter (· != noRow)
  let s1 := s.writeT2 a.dest (rows.flatMap (fun x => rowImage (poolFormat a) t.width x.1))
  let s2 := s1.modTable t.number (fun t =>
    (idx.foldl (fun t i => t.noteLookup i) t).count r.tenant pooled 0 clips (a.entries - pooled))
  s2.completeAfter (newWrites s s1) r id stOk
    (toLe 4 pooled ++ toLe 4 (a.entries - pooled) ++ toLe 4 empty ++ toLe 8 s.sheaf.tstep.toNat)

def planPool (r : Record) (s : State) : Plan :=
  let t := s.tableOf r.handle
  let a := poolArgs r
  { reserved := tableReserved r.handle && zeroBytes r 30 32 && zeroBytes r 46 64,
    served := s.serviceTables, tenantOk := s.tenantOk r,
    checks := [(tableHandleOk s r, stDenied), (poolOperandsOk s t a, stBadParam),
      (poolOffsetsOk s.t2 a, stBadParam), (poolInRange s.t2 t a, stRowRange),
      (poolWeightsOk s.t2 a, stBadParam)],
    run := runPool r,
    sources := [(a.list, 8 * a.entries), (a.offsets, 4 * a.bags)] }

def execPool (r : Record) (s : State) : Host.Outcome State Fault Refusal :=
  .next (s.record r 0x0311 planPool)

/-! ### Applying a batch (R137 to R140) -/

/-- Entries of one row of a batch: the ROW_LOAD values, then the others in the order of R137. -/
structure RowEntries where
  loads : List RowUpdate
  others : List RowUpdate
  deriving DecidableEq, Repr

/-- Program updates in ascending session handle, each session's in program order. -/
def Batch.ordered (b : Batch) : List RowUpdate :=
  b.scatters ++ sortBy (fun x y => decide (x.session.toNat ≤ y.session.toNat)) b.programs

def Batch.row (b : Batch) (t row : Nat) : RowEntries :=
  ⟨b.loads.filter (fun u => u.table == t && u.row == row),
   b.ordered.filter (fun u => u.table == t && u.row == row)⟩

/-- D: the FP32 sum of the entries in order, from the first (R138). -/
def deltaSum : List RowUpdate → Option (List U32)
  | [] => none
  | u :: us => some (us.foldl (fun a v => List.zipWith add32 a v.vals) u.vals)

/-- What this rank contributes to a row (R138, R139): base and delta, or the overwrite value. -/
def contribution (additive : Bool) (t row : Nat) (e : RowEntries) : RowDelta :=
  if additive then
    { table := t, row := row, base := e.loads.getLast?.map (·.vals), delta := deltaSum e.others }
  else
    { table := t, row := row, base := none, delta := (e.loads ++ e.others).getLast?.map (·.vals) }

/-- An addition of deltas. Opposite infinities have no stated result: a free value. -/
def addDelta (a b : U32) : U32 := if nan32 (add32 a b) then Config.divSpecial a b else add32 a b

/-- The combined value of R139 from the contributions in ascending rank order. -/
def combine (additive : Bool) (cur : List U32) (cs : List RowDelta) : List U32 :=
  if additive then
    let base := (cs.filterMap (·.base)).getLast?.getD cur
    (cs.filterMap (·.delta)).foldl (fun a d => List.zipWith addDelta a d) base
  else (cs.filterMap (·.delta)).getLast?.getD cur

/-- The stored element: converted once and finite (R129, R140). A NaN can come only from the free value
above, and is stored as a finite value of its sign. -/
def applyElem (fmt : Nat) (x : U32) : U32 × Bool :=
  match readFp32 x with
  | .nan s => ((narrowElem fmt (if s then 0xFF7FFFFF else 0x7F7FFFFF)).1, true)
  | _ => narrowElem fmt x

/-- Rows that a batch or the other ranks' deltas touch, each once: (table, row). -/
def touchedRows (b : Batch) (remote : List (Nat × List RowDelta)) : List (Nat × Nat) :=
  ((b.loads ++ b.ordered).map (fun u => (u.table, u.row)) ++
    remote.flatMap (fun e => e.2.map (fun d => (d.table, d.row)))).eraseDups

/-- The first message of every other rank. -/
def firstRemote (ranks : List Nat) (remote : List (Nat × List RowDelta)) : List (Nat × List RowDelta) :=
  ranks.filterMap (fun r => remote.find? (fun e => e.1 == r))

/-- The messages after the first of each rank. -/
def laterRemote : List Nat → List (Nat × List RowDelta) → List (Nat × List RowDelta)
  | [], l => l
  | r :: rs, l => laterRemote rs (match l.find? (fun e => e.1 == r) with
    | some e => l.erase e
    | none => l)

/-- What applying has done so far: the tables, and the clips of each row. -/
structure Applied where
  tables : List Table
  clips : List ((Nat × Nat) × Nat)
  deriving DecidableEq, Repr

/-- Applies one row: contributions of all ranks, one conversion, the flip (R139, R140). -/
def applyRow (rank : Nat) (b : Batch) (remote : List (Nat × List RowDelta)) (a : Applied)
    (tr : Nat × Nat) : Applied :=
  match findTable a.tables tr.1 with
  | none => a
  | some t =>
    let e := b.row tr.1 tr.2
    let own := (rank, contribution t.additive tr.1 tr.2 e)
    let others := if t.mirror then remote.flatMap (fun x =>
      (x.2.filter (fun d => d.table == tr.1 && d.row == tr.2)).map (fun d => (x.1, d))) else []
    let cs := sortBy (fun x y => decide (x.1 ≤ y.1)) (own :: others)
    let vals := combine t.additive (t.rowValues tr.2) (cs.map (·.2))
    if tr.2 < t.rows && vals.length == t.width && (!e.loads.isEmpty || !e.others.isEmpty || !others.isEmpty)
    then
      let c := vals.map (applyElem t.format)
      let clips := (c.filter (·.2)).length
      let t' := t.putRow tr.2 (c.map (·.1))
      -- clips count once for each tenant with an entry, or for the owner of a row changed from outside
      let who := (e.loads ++ e.others).map (·.tenant) |>.eraseDups
      let who := if who.isEmpty then [t.owner] else who
      let t' := who.foldl (fun t w => t.count w 0
        ((e.loads ++ e.others).filter (fun u => u.tenant == w)).length clips 0) t'
      let t' := if e.loads.isEmpty then t' else { t' with loaded := true }
      { tables := updWhere (fun x => x.number == tr.1) (fun _ => t') a.tables,
        clips := (tr, clips) :: a.clips }
    else a

/-- Clips of the rows that a record updated, each row once. -/
def recordClips (b : Batch) (clips : List ((Nat × Nat) × Nat)) (run : Nat) : Nat :=
  let rows := (((b.loads ++ b.scatters).filter (fun u => u.run == some run)).map
    (fun u => (u.table, u.row))).eraseDups
  sumOf (fun tr => lookupD clips tr 0) rows

/-! ### Hot rows (R141 to R143, R155) -/

/-- Lookups of a row over the window. -/
def HotRow.lookups (h : HotRow) (window : Nat) : Nat := (h.hist.take window).foldl (· + ·) 0

/-- The standing a row will have: hot, or about to be. -/
def HotRow.standing (h : HotRow) : Bool := h.migrating.getD h.hot

/-- The migration decided at the boundary before takes effect (R143). -/
def HotRow.settle (h : HotRow) : HotRow := { h with hot := h.migrating.getD h.hot, migrating := none }

/-- A hot row below half its threshold becomes cold. -/
def HotRow.cool (threshold window : Nat) (h : HotRow) : HotRow :=
  if h.hot && decide (h.lookups window < threshold / 2) then { h with migrating := some false } else h

/-- A row as a candidate: tenant, table, row, lookups, bytes of one replica. -/
structure Candidate where
  tenant : Nat
  table : Nat
  row : Nat
  lookups : Nat
  bytes : Nat
  deriving DecidableEq, Repr

def Table.candidate (t : Table) (h : HotRow) : Candidate :=
  ⟨t.owner, t.number, h.row, h.lookups t.hotWindow, 2 * t.slotBytes⟩

/-- Ascending (tenant, table, row). (Log entry 35: DEDUCED, unsafe.) -/
def Candidate.before (a b : Candidate) : Bool :=
  decide (a.tenant < b.tenant) || (a.tenant == b.tenant &&
    (decide (a.table < b.table) || (a.table == b.table && decide (a.row ≤ b.row))))

/-- Rows whose standing is hot. -/
def standingHot (ts : List Table) : List Candidate :=
  ts.flatMap (fun t => (t.hot.filter (·.standing)).map t.candidate)

/-- Rows that reach their threshold and are cold, in ascending order. (Log entry 35: DEDUCED, unsafe.) -/
def promotions (ts : List Table) : List Candidate :=
  sortBy Candidate.before (ts.flatMap (fun t =>
    (t.hot.filter (fun h => !h.standing && decide (t.hotThreshold ≤ h.lookups t.hotWindow))).map t.candidate))

/-- Sets a row's standing from the next boundary on. -/
def setStanding (ts : List Table) (c : Candidate) (hot : Bool) : List Table :=
  updWhere (fun t => t.number == c.table) (fun t => { t with
    hot := updWhere (fun h => h.row == c.row) (fun h => { h with
      migrating := if h.hot == hot then none else some hot }) t.hot }) ts

/-- The coldest of a list: least lookups, ties ascending. -/
def coldest (l : List Candidate) : Option Candidate :=
  (sortBy (fun a b => decide (a.lookups < b.lookups) || (a.lookups == b.lookups && a.before b)) l).head?

/-- Replica copies pending in each quadrant: rows about to become hot (R143). -/
def pendingCopies (ts : List Table) : Nat :=
  sumOf (fun t => (t.hot.filter (fun h => h.migrating == some true)).length) ts

/-- Room in a loft that rows about to go cold take up to the next boundary (R143). -/
def goingCold (ts : List Table) : Nat :=
  sumOf (fun t => 2 * t.slotBytes * (t.hot.filter (fun h => h.hot && h.migrating == some false)).length) ts

/-- One candidate for promotion: it becomes hot where area and quota allow, rows going cold included, or replaces its
tenant's coldest hot row, whose room it takes, when it has more lookups (R142). While 4,096 copies are pending it waits
for a later boundary (R153). `area` is what the lofts have beside replicas that lookups still read. -/
def promote (area : Nat) (fits : List Table → Nat → Bool) (ts : List Table) (c : Candidate) : List Table :=
  let hot := standingHot ts
  let next := setStanding ts c true
  if 4096 ≤ pendingCopies ts then ts
  else if sumOf (·.bytes) hot + goingCold ts + c.bytes ≤ area && fits next c.tenant then next
  else match coldest (hot.filter (fun h => h.tenant == c.tenant)) with
    | some h =>
      let swapped := setStanding (setStanding ts h false) c true
      if h.lookups < c.lookups && sumOf (·.bytes) hot + goingCold ts - h.bytes + c.bytes ≤ area && fits swapped c.tenant
      then swapped else ts
    | none => ts

/-- Makes hot rows cold, coldest first, until the replicas fit the area (R155). -/
def shrinkHot (area : Nat) : Nat → List Table → List Table
  | 0, ts => ts
  | k + 1, ts =>
    let hot := standingHot ts
    if sumOf (·.bytes) hot ≤ area then ts
    else match coldest hot with
      | some c => shrinkHot area k (setStanding ts c false)
      | none => ts

/-- Starts a new interval; rows that are cold and were not looked up are not kept. -/
def Table.rollHistory (t : Table) : Table :=
  let rows := t.hot.map (fun (h : HotRow) => { h with hist := (0 :: h.hist).take t.hotWindow })
  { t with hot := rows.filter (fun h => h.hot || h.migrating.isSome || h.hist.any (· != 0)) }

/-- T0 use of a tenant with these tables stays within its quota, replicas counted at their standing. -/
def State.replicasFit (s : State) (ts : List Table) (t : Nat) : Bool :=
  let settled := ts.map (fun t => { t with hot := t.hot.map HotRow.settle })
  ({ s with sheaf := { s.sheaf with tables := settled } }).t0Fits t 0

/-- Rows of a table that lose their replicas at this boundary. -/
def Table.lost (t : Table) : Nat := (t.hot.filter (fun h => h.hot && h.migrating == some false)).length

/-- Replicas that this boundary drops, as kept for the lookups that began before it (R143). -/
def Sheaf.losing (x : Sheaf) : List Leaving :=
  if x.view.isNone then []
  else (x.tables.filter (fun t => t.lost != 0)).map (fun t => ⟨t.owner, 0, 2 * t.slotBytes * t.lost⟩)

/-- The hot-row work of a boundary. -/
def State.hotRows (s : State) : State :=
  let s := s.modSheaf (fun x => { x with leaving := x.leaving ++ x.losing })
  let area := s.setting 0x4200 3 * 1048576
  let ts := s.sheaf.tables.map (fun t => { t with
    hot := t.hot.map (fun h => (h.settle).cool t.hotThreshold t.hotWindow) })
  let ts := shrinkHot area (standingHot ts).length ts
  let ts := (promotions ts).foldl (promote (area - sumOf (·.loft) s.sheaf.leaving) (fun ts t => s.replicasFit ts t)) ts
  s.modSheaf (fun x => { x with tables := ts.map Table.rollHistory })

/-! ### Boundaries (R133, R135) -/

/-- The boundary is a barrier over the ranks. -/
def State.mirrored (s : State) : Bool :=
  decide (1 < s.job.ranks) && s.sheaf.tables.any Table.mirror

/-- A boundary falls due: with a `mirror` table the batch is frozen, the deltas go to the other ranks and
this rank arrives at barrier 63 (R133, R139, R411). In Hold it only waits. (Log entry 37: DEDUCED, safe.) -/
def State.boundaryDue (s : State) : State :=
  let s := s.modSheaf (fun x => { x with due := true })
  if s.power.pstate < 2 && s.mirrored && s.sheaf.closing.isNone then
    let b := s.sheaf.batches.headD Batch.empty
    let s := s.modSheaf (fun x => { x with closing := some b, batches := x.batches.tail })
    let rows := (touchedRows b []).filterMap (fun tr => match s.table? tr.1 with
      | some t => if t.mirror then some (contribution t.additive tr.1 tr.2 (b.row tr.1 tr.2)) else none
      | none => none)
    let s := s.otherRanks.foldl (fun s d => s.sendTo d (fun p => .bulk p d (.deltas s.job.rank rows))) s
    s.boundaryArrival
  else s

/-- The boundary of a step's end: where one is due already, another follows it (R133). -/
def State.stepBoundary (s : State) : State :=
  if s.sheaf.due then s.modSheaf (fun x => { x with again := true }) else s.boundaryDue

/-- Updates of a step's programs join the open batch (R137, R152). -/
def State.joinPuts (s : State) : State :=
  s.sheaf.puts.foldl (fun s ups => s.join ups.length (fun b => { b with programs := b.programs ++ ups }))
    (s.modSheaf (fun x => { x with puts := [] }))

/-- The batch that the next boundary applies. -/
def Sheaf.applying (x : Sheaf) : Batch := x.closing.getD (x.batches.headD Batch.empty)

/-- A row of the batch was flipped since the open step's lookups started, so the boundary waits (R135). -/
def State.rowsHeld (s : State) : Bool :=
  match s.sheaf.view with
  | none => false
  | some v => (touchedRows s.sheaf.applying s.sheaf.remote).any (fun tr =>
      match findTable v tr.1, s.table? tr.1 with
      | some a, some b => a.slotB.contains tr.2 != b.slotB.contains tr.2
      | _, _ => false)

/-- Every other rank's deltas for the boundary are here: a message sent before an arrival is delivered before the
release (R412). (Log entry 111: DESIGN CHOICE, unsafe.) -/
def State.deltasIn (s : State) : Bool := s.otherRanks.all (fun r => s.sheaf.remote.any (fun e => e.1 == r))

/-- The boundary can close now: with a `mirror` table, once the batch is frozen and the barrier has every arrival and
every delta. (Log entry 36: DEDUCED, unsafe.) -/
def State.boundaryReady (s : State) : Bool :=
  s.power.pstate < 2 && !s.rowsHeld &&
    (if s.sheaf.closing.isSome then (s.barrierAt 63).allIn && s.deltasIn else !s.mirrored)

/-- Closes a boundary: the batch takes effect at one instant, `tstep` advances, hot rows change standing
and the batch's records complete (R134, R148). -/
def State.flip (s : State) : State :=
  let b := s.sheaf.applying
  let ranks := if s.sheaf.closing.isSome then s.otherRanks else []
  let remote := firstRemote ranks s.sheaf.remote
  let a := (touchedRows b remote).foldl (applyRow s.job.rank b remote) ⟨s.sheaf.tables, []⟩
  let s := if s.sheaf.closing.isSome then s.nextEpoch 63 else s
  let step := s.sheaf.tstep + 1
  let s := (s.modSheaf (fun x => { x with
    tables := a.tables, tstep := step, due := false, remote := laterRemote ranks x.remote,
    closing := none, batches := if x.closing.isSome then x.batches else x.batches.tail })).hotRows
  b.records.foldl (fun s r => s.completeId r.run stOk
    (toLe 4 r.applied ++ toLe 4 r.skipped ++ toLe 4 (count32 (recordClips b a.clips r.run)) ++
      toLe 8 step.toNat)) s

/-- QUIET_US_EXPIRY (R133): no serving step has ended for `quiet_us`. (Log entry 37: DEDUCED, safe.) -/
def execQuietUsExpiry (s : State) : Host.Outcome State Fault Refusal :=
  .next (if s.job.state == 0 || s.faulted then s else s.boundaryDue)

end Sys2Proof.Machine
end

