-- ==== Sys2Proof/Machine/Encoding.lean ====
section
/-!
DEFINITION. Fields of the 128-bit core instructions (Tables 7-2, 7-6, 7-11 to 7-15, 8-5, 14-2) and the
checks of a program load that need only the word and the program (R193, R203, R205, R208, R211, R227,
R403, R411).
-/

namespace Sys2Proof.Machine

def wClass (w : CoreWord) : Nat := bitsOf w 127 124
def wOp (w : CoreWord) : Nat := bitsOf w 123 120

/-! ### Class 0x0 (Tables 7-11 and 14-2) -/

def wTarget (w : CoreWord) : Nat := bitsOf w 115 104
def wCond (w : CoreWord) : Nat := bitsOf w 119 116
def wBranchA (w : CoreWord) : Nat := bitsOf w 103 99
def wBranchB (w : CoreWord) : Nat := bitsOf w 98 94
def wLoopReg (w : CoreWord) : Nat := bitsOf w 103 99
def wTally (w : CoreWord) : Nat := bitsOf w 119 104
def wTallyReg (w : CoreWord) : Nat := bitsOf w 103 99
def wTallyImm (w : CoreWord) : Nat := bitsOf w 98 67
def wBarrier (w : CoreWord) : Nat := bitsOf w 119 114
def wScope (w : CoreWord) : Nat := bitsOf w 113 112
def wCoreMaskReg (w : CoreWord) : Nat := bitsOf w 111 107
def wRankMaskReg (w : CoreWord) : Nat := bitsOf w 106 102
def wRankWindow (w : CoreWord) : Nat := bitsOf w 101 96
def wReduce (w : CoreWord) : Bool := bitAt w 113
def wCollectSrc (w : CoreWord) : Nat := bitsOf w 112 96
def wCollectDst (w : CoreWord) : Nat := bitsOf w 95 79
def wCollectReg (w : CoreWord) : Nat := bitsOf w 78 74

/-! ### Class 0x1 (Table 7-12) -/

def wRd (w : CoreWord) : Nat := bitsOf w 119 115
def wRa (w : CoreWord) : Nat := bitsOf w 114 110
def wRb (w : CoreWord) : Nat := bitsOf w 109 105
def wImmEn (w : CoreWord) : Bool := bitAt w 104
def wImm (w : CoreWord) : U64 := signExtend32 (bitsOf w 103 72)
def wImm64 (w : CoreWord) : U64 := w.extractLsb' 40 64

/-! ### MMA (Table 7-2) -/

def mAmode (w : CoreWord) : Nat := bitsOf w 119 118
def mCont (w : CoreWord) : Bool := bitAt w 117
def mOut (w : CoreWord) : Nat := bitsOf w 116 115
def mRows (w : CoreWord) : Nat := bitsOf w 114 109 + 1
def mKg (w : CoreWord) : Nat := bitsOf w 108 96 + 1
def mLayer (w : CoreWord) : Nat := bitsOf w 95 80
def mCg (w : CoreWord) : Nat := bitsOf w 79 70 + 1
def mSreg (w : CoreWord) : Nat := bitsOf w 69 65
def mTensor (w : CoreWord) : Nat := bitsOf w 64 45
def mAct (w : CoreWord) : Nat := 64 * bitsOf w 44 28
def mDst (w : CoreWord) : Nat := 64 * bitsOf w 27 11

/-! ### Vector instructions (Table 7-6) -/

def vOp (w : CoreWord) : Nat := bitsOf w 123 118
def vSfmt (w : CoreWord) : Nat := bitsOf w 117 116
def vDfmt (w : CoreWord) : Nat := bitsOf w 115 114
def vN (w : CoreWord) : Nat := bitsOf w 113 98 + 1
def vRows (w : CoreWord) : Nat := bitsOf w 97 92 + 1
def vSreg (w : CoreWord) : Nat := bitsOf w 91 87
def vSrc (w : CoreWord) : Nat := 64 * bitsOf w 86 70
def vSrc2 (w : CoreWord) : Nat := 64 * bitsOf w 69 53
def vDst (w : CoreWord) : Nat := 64 * bitsOf w 52 36
def vLayer (w : CoreWord) : Nat := bitsOf w 35 20
def vPrm (w : CoreWord) : Nat := bitsOf w 19 8

/-! ### Tile register (Table 7-3) -/

/-- Bytes between rows. -/
def tPitch (x : U64) : Nat := 64 * bitsOf x 63 48
def tTag (x : U64) : Nat := bitsOf x 47 36
def tKb (x : U64) : Nat := bitsOf x 35 24
def tCg (x : U64) : Nat := bitsOf x 12 0

/-! ### MOVE, row port, ATTEND, HANDOFF (Tables 7-13, 7-14, 8-5, 7-15) -/

def xToFar (w : CoreWord) : Bool := bitAt w 119
def xUnit (w : CoreWord) : Nat := if bitAt w 118 then 65536 else 64
def xFar (w : CoreWord) : Nat := bitsOf w 117 116
def xLocal (w : CoreWord) : Nat := 64 * bitsOf w 115 99
def xFreg (w : CoreWord) : Nat := bitsOf w 98 94
def xCount (w : CoreWord) : Nat := bitsOf w 93 78 + 1
def xTag (w : CoreWord) : Nat := bitsOf w 77 66

def rTable (w : CoreWord) : Nat := bitsOf w 119 108
def rIdx (w : CoreWord) : Nat := 64 * bitsOf w 107 91
def rData (w : CoreWord) : Nat := 64 * bitsOf w 90 74
def rCount (w : CoreWord) : Nat := bitsOf w 73 58 + 1
def rFmt (w : CoreWord) : Nat := bitsOf w 57 56
def rMode (w : CoreWord) : Nat := bitsOf w 55 54
def rTag (w : CoreWord) : Nat := bitsOf w 53 42
def rBags (w : CoreWord) : Nat := bitsOf w 41 26 + 1
def rOffs (w : CoreWord) : Nat := 64 * bitsOf w 25 9

def aAppend (w : CoreWord) : Bool := bitAt w 119
def aWalk (w : CoreWord) : Bool := bitAt w 118
def aRows (w : CoreWord) : Nat := bitsOf w 117 112 + 1
def aLayer (w : CoreWord) : Nat := bitsOf w 111 96
def aKvHead (w : CoreWord) : Nat := bitsOf w 95 88
def aSreg (w : CoreWord) : Nat := bitsOf w 87 83
def aQ (w : CoreWord) : Nat := 64 * bitsOf w 82 66
def aKvNew (w : CoreWord) : Nat := 64 * bitsOf w 65 49
def aDst (w : CoreWord) : Nat := 64 * bitsOf w 48 32

def hSrc (w : CoreWord) : Nat := 64 * bitsOf w 119 103
def hLines (w : CoreWord) : Nat := bitsOf w 102 87 + 1
def hTag (w : CoreWord) : Nat := bitsOf w 86 75

/-- Bytes of an element: 0 FP32, 1 BF16, 2 E4M3, 3 E5M2. -/
def fmtBytes (f : Nat) : Nat := if f == 0 then 4 else if f == 1 then 2 else 1

/-- g of R47 for an `amode`: 8 BF16 activations, 16 of FP8; 16 bytes either way. -/
def groupSize (amode : Nat) : Nat := if amode == 0 then 8 else 16

/-! ### Checks at program load -/

/-- Bits outside the listed fields [hi:lo] are zero. -/
def onlyFields (w : CoreWord) (fs : List (Nat × Nat)) : Bool :=
  (List.range 128).all (fun i => !w.getLsbD i || fs.any (fun f => decide (f.2 ≤ i) && decide (i ≤ f.1)))

/-- Operations of Table 7-7. -/
def vectorOps : List Nat :=
  [0x00, 0x01, 0x02, 0x03, 0x04, 0x08, 0x09, 0x0A, 0x0B, 0x0C, 0x10, 0x18, 0x19, 0x1A, 0x1B, 0x1C,
   0x20, 0x21, 0x28]

/-- Operations that read a second source or parameter row at `src2`. -/
def usesSrc2 (op : Nat) : Bool := decide (op ≤ 0x04) || op == 0x1B || op == 0x1C

/-- A static range of core SRAM inside the work area. -/
def inWork (p : Program) (a n : Nat) : Bool := decide (a + n ≤ p.workBytes)

def classZeroOk (p : Program) (w : CoreWord) : Bool :=
  let top := (127, 120)
  let jump := decide (wTarget w < p.code.length)
  match wOp w with
  | 0 => onlyFields w [top, (115, 104)] && jump
  | 1 => onlyFields w [top, (119, 94)] && decide (wCond w ≤ 5) && jump
  | 2 => onlyFields w [top, (115, 99)] && wLoopReg w != 0 && jump
  | 3 => onlyFields w [top]
  | 4 => onlyFields w [top]
  | 5 => onlyFields w [top, (119, 67)] && decide (wTally w < 4096)
  | 6 => onlyFields w [top, (119, 104)] && decide (wTally w < 4096)
  | 7 => onlyFields w [top, (119, 96)] && decide (wBarrier w < 56) && decide (wScope w ≤ 2)
  | 8 => onlyFields w [top, (119, 74)] && decide (wBarrier w < 56) && inWork p (64 * wCollectSrc w) 0 &&
      inWork p (64 * wCollectDst w) 0
  | _ => false

def classOneOk (w : CoreWord) : Bool :=
  let top := (127, 120)
  if wOp w ≤ 7 then onlyFields w [top, (119, 72)]
  else match wOp w with
  | 8 => onlyFields w [top, (119, 115), (103, 40)]
  | 9 => onlyFields w [top, (119, 110), (103, 72)]
  | 10 => onlyFields w [top, (114, 105), (103, 72)]
  | _ => false

def mmaOk (p : Program) (tensors : List Nat) (w : CoreWord) : Bool :=
  wOp w == 0 && onlyFields w [(127, 11)] && mAmode w != 3 && (!mCont w || mOut w == 0) &&
    tensors.contains (mTensor w) &&
    inWork p (mAct w) (16 * mKg w) &&
    inWork p (mDst w) (8 * mCg w * fmtBytes (mOut w))

def vectorOk (p : Program) (w : CoreWord) : Bool :=
  vectorOps.contains (vOp w) && onlyFields w [(127, 8)] &&
    inWork p (vSrc w) (vN w * fmtBytes (vSfmt w)) &&
    (!usesSrc2 (vOp w) || inWork p (vSrc2 w) (vN w * fmtBytes (vSfmt w))) &&
    inWork p (vDst w) (if vOp w == 0x18 || vOp w == 0x19 then fmtBytes (vDfmt w) else vN w * fmtBytes (vDfmt w)) &&
    (vOp w != 0x21 ||
      (let m := (p.consts.getD (vPrm w) 0).toNat
       decide (6 ≤ m) && decide (m ≤ 12)))

def moveOk (p : Program) (w : CoreWord) : Bool :=
  wOp w == 0 && onlyFields w [(127, 66)] && xFar w != 3 && inWork p (xLocal w) (xCount w * xUnit w)

def rowPortOk (p : Program) (w : CoreWord) : Bool :=
  let entry := if wOp w == 1 then 8 else 4
  decide (wOp w ≤ 2) && onlyFields w [(127, 9)] && inWork p (rIdx w) (entry * rCount w) &&
    inWork p (rData w) 0 &&
    (if wOp w == 1 then decide (2 ≤ rFmt w) && decide (rMode w ≤ 2) && inWork p (rOffs w) (4 * rBags w)
     else rMode w == 0 && bitsOf w 41 26 == 0 && bitsOf w 25 9 == 0)

/-- R227, with the descriptors of the version. -/
def attendOk (p : Program) (att : List AttDesc) (w : CoreWord) : Bool :=
  wOp w == 0 && onlyFields w [(127, 32)] && (aAppend w || aWalk w) &&
    match att.find? (fun d => d.layer == aLayer w) with
    | none => false
    | some d =>
      decide (aKvHead w < d.headsKv) &&
        (!aWalk w || (inWork p (aQ w) (2 * d.headDim * (d.headsQ / d.headsKv)) &&
          inWork p (aDst w) (2 * d.headDim * (d.headsQ / d.headsKv)))) &&
        (!aAppend w || inWork p (aKvNew w) (8 * d.headDim))

def handoffOk (p : Program) (w : CoreWord) : Bool :=
  decide (wOp w ≤ 3) && onlyFields w [(127, 75)] && inWork p (hSrc w) (64 * hLines w)

/-- An instruction that a program load accepts (R211). -/
def wordOk (p : Program) (tensors : List Nat) (att : List AttDesc) (w : CoreWord) : Bool :=
  match wClass w with
  | 0 => classZeroOk p w
  | 1 => classOneOk w
  | 2 => mmaOk p tensors w
  | 3 => vectorOk p w
  | 4 => moveOk p w
  | 5 => rowPortOk p w
  | 6 => attendOk p att w
  | 7 => handoffOk p w
  | _ => false

/-- A program that a load accepts: at most 4,096 instructions, each of them in form. -/
def programOk (tensors : List Nat) (att : List AttDesc) (p : Program) : Bool :=
  decide (p.vc < 64) && decide (p.code.length ≤ 4096) && p.code.all (wordOk p tensors att)

/-- The virtual cores can be placed within work areas of the given sizes (R202). -/
def placeable : List Nat → List Nat → Bool
  | [], _ => true
  | w :: ws, areas => (List.range areas.length).any (fun i =>
      decide (w ≤ areas.getD i 0) && placeable ws (areas.set i (areas.getD i 0 - w)))

end Sys2Proof.Machine
end

