-- ==== Sys2Proof/Machine/Versions.lean ====
section
/-!
DEFINITION. Model handles, versions and vocabulary sections (09 R252, R255; 06 R159 to R161).
-/

namespace Sys2Proof.Machine

/-! ### Handles (R252) -/

def modelReserved (h : U64) : Bool := bitsOf h 63 48 == 0 && bitsOf h 35 26 == 0
def modelNumber (h : U64) : Nat := bitsOf h 25 16
def modelVersion (h : U64) : Nat := bitsOf h 15 0

def Version.is (v : Version) (model version : Nat) : Bool := v.model == model && v.version == version

def State.version? (s : State) (model version : Nat) : Option Version :=
  s.models.versions.find? (fun v => v.is model version)

def State.modVersion (s : State) (model version : Nat) (f : Version → Version) : State :=
  { s with models := { s.models with
      versions := updWhere (fun v => v.is model version) f s.models.versions } }

/-- The loaded version that a handle names; version 0 names the current one. -/
def State.resolve (s : State) (h : U64) : Option Version :=
  let v := if modelVersion h = 0 then
      s.models.versions.find? (fun v => v.model == modelNumber h && v.state == 3)
    else s.version? (modelNumber h) (modelVersion h)
  v.filter (fun v => v.state != 1)

/-- The model number holds a model that a tenant may use. -/
def State.modelFor (s : State) (tenant num : Nat) : Bool :=
  s.models.versions.any (fun v => v.model == num && (v.shared || v.owner == tenant))

/-- Step 5 for a model handle. -/
def modelHandleOk (s : State) (r : Record) : Bool :=
  handleTenant r.handle == r.tenant && modelNumber r.handle != 0 &&
    s.modelFor r.tenant (modelNumber r.handle)

/-- The model handle in operand bytes 32 to 39 of GRAMMAR_LOAD and TEMPLATE_LOAD. -/
def operandModel (r : Record) : U64 := BitVec.ofNat 64 (r.fieldN 32 8)

/-- The vocabulary that GRAMMAR_LOAD or TEMPLATE_LOAD names by its operand handle (R542). -/
def operandVocab (s : State) (r : Record) : Option Vocab :=
  let h := operandModel r
  if handleTenant h == r.tenant && modelNumber h != 0 && s.modelFor r.tenant (modelNumber h) then
    (s.resolve h).bind (·.vocab)
  else none

/-! ### Pins and freeing (R255) -/

/-- A session's run pins its version, and a REQUEST's the embedder and cross-encoder too. -/
def Session.pins (x : Session) (v : Version) : Bool :=
  x.state == 2 && x.run.any (fun r => v.is x.model x.version || r.pins.contains (v.model, v.version))

/-- Front-end work pins its embedder and cross-encoder. -/
def FrontWork.pins (w : FrontWork) (v : Version) : Bool :=
  w.embedder == (v.model, v.version) || w.ranker == some (v.model, v.version)

/-- A request that waits for a park seal pins what it was admitted with. -/
def State.waitPins (s : State) (k : Running) (v : Version) : Bool :=
  k.pins.contains (v.model, v.version) && s.granary.directory.any (fun x => x.after.contains k.id)

/-- Requests that pin a version (R255): runs, front-end work that has no run, and those that wait for a park seal. -/
def State.pinCount (s : State) (v : Version) : Nat :=
  (s.running.filter (fun k => s.waitPins k v)).length + (s.granary.directory.filter (fun x => x.pins v)).length +
    (s.front.filter (fun w => w.pins v && !(s.granary.directory.any (fun x =>
      x.pins v && x.run.any (fun r => r.id == some w.id))))).length

def State.pinned (s : State) (v : Version) : Bool := s.pinCount v != 0

/-- Frees a version: its bales, its hot-cache space and its token embedding table. -/
def State.freeVersion (s : State) (v : Version) : State :=
  let s := s.toQuarantine (chargedTo v.shared v.owner) v.bales
  let s := { s with cores := { s.cores with
    vcores := s.cores.vcores.filter (fun (c : Nat × VCore) => !v.is c.2.model c.2.version) } }
  { s with
    models := { s.models with
      versions := s.models.versions.filter (fun x => !x.is v.model v.version),
      cache := s.models.cache.filter (fun b => !(b.model == v.model && b.version == v.version)) },
    sheaf := { s.sheaf with
      tables := s.sheaf.tables.filter (fun t => !(v.embedTable == some t.number)) } }

/-- Frees every retiring version that nothing pins. -/
def State.freeRetired (s : State) : State :=
  (s.models.versions.filter (fun v => v.state == 4 && !s.pinned v)).foldl (fun s v => s.freeVersion v) s

/-! ### Vocabulary section (R159, R160) -/

/-- The least multiple of 64 at or above `n`. -/
def up64 (n : Nat) : Nat := 64 * ceilDiv n 64

/-- UTF-8 encoding of a code point. -/
def utf8 (cp : Nat) : List Byte :=
  let b (n : Nat) : Byte := BitVec.ofNat 8 n
  if cp < 0x80 then [b cp]
  else if cp < 0x800 then [b (0xC0 + cp / 64), b (0x80 + cp % 64)]
  else if cp < 0x10000 then [b (0xE0 + cp / 4096), b (0x80 + cp / 64 % 64), b (0x80 + cp % 64)]
  else [b (0xF0 + cp / 262144), b (0x80 + cp / 4096 % 64), b (0x80 + cp / 64 % 64), b (0x80 + cp % 64)]

/-- A code point that UTF-8 encodes. -/
def codePoint (cp : Nat) : Bool := decide (cp ≤ 0x10FFFF) && !(decide (0xD800 ≤ cp) && decide (cp ≤ 0xDFFF))

/-- Start offsets of the parts and the section's length, from the header. -/
structure VocabLayout where
  size : Nat
  pool : Nat
  merges : Nat
  chars : Nat
  states : Nat
  poolAt : Nat
  mergeAt : Nat
  charAt : Nat
  splitAt : Nat
  length : Nat
  deriving DecidableEq, Repr

def vocabLayout (m : Mem) (a : Nat) : VocabLayout :=
  let size := readLe m (a + 4) 4
  let merges := readLe m (a + 16) 4
  let chars := readLe m (a + 20) 4
  let states := readLe m (a + 24) 4
  let pool := readLe m (a + 28) 4
  let poolAt := 64 + up64 (8 * size)
  let mergeAt := poolAt + up64 pool
  let charAt := mergeAt + up64 (12 * merges)
  let splitAt := charAt + up64 (8 * chars)
  { size := size, pool := pool, merges := merges, chars := chars, states := states, poolAt := poolAt,
    mergeAt := mergeAt, charAt := charAt, splitAt := splitAt, length := splitAt + 1024 * states }

def zeroRange (m : Mem) (a n : Nat) : Bool := (List.range n).all (fun i => memGet m (a + i) == 0)

def vocabTokens (m : Mem) (a : Nat) (l : VocabLayout) : List (List Byte × Bool) :=
  (List.range l.size).map (fun t =>
    let e := a + 64 + 8 * t
    (readBytes m (a + l.poolAt + readLe m e 4) (readLe m (e + 4) 2), (memGet m (e + 6)).getLsbD 0))

/-- Fields of the header and the token table lie in range, and the space between parts is zero. -/
def vocabFormOk (m : Mem) (a : Nat) (l : VocabLayout) : Bool :=
  readLe m a 2 == 0x0070 && decide (readLe m (a + 2) 1 ≤ 1) && zeroRange m (a + 3) 1 &&
    zeroRange m (a + 32) 32 && decide (256 ≤ l.size ∧ l.size ≤ 262144) &&
    decide (1 ≤ l.states ∧ l.states ≤ 65536) &&
    zeroRange m (a + 64 + 8 * l.size) (up64 (8 * l.size) - 8 * l.size) &&
    zeroRange m (a + l.poolAt + l.pool) (up64 l.pool - l.pool) &&
    zeroRange m (a + l.mergeAt + 12 * l.merges) (up64 (12 * l.merges) - 12 * l.merges) &&
    zeroRange m (a + l.charAt + 8 * l.chars) (up64 (8 * l.chars) - 8 * l.chars) &&
    (List.range l.size).all (fun t =>
      let e := a + 64 + 8 * t
      decide (readLe m (e + 4) 2 ≤ 256) && decide (readLe m e 4 + readLe m (e + 4) 2 ≤ l.pool) &&
        decide (readLe m (e + 6) 1 ≤ 1) && zeroRange m (e + 7) 1)

def Vocab.bytes (v : Vocab) (t : Nat) : List Byte := (v.tokens.getD t ([], false)).1
def Vocab.special (v : Vocab) (t : Nat) : Bool := (v.tokens.getD t ([], false)).2

/-- Every `cp` is above the one before it. -/
def ascending : List Nat → Bool
  | a :: b :: l => decide (a < b) && ascending (b :: l)
  | _ => true

/-- The conditions of R160. -/
def Vocab.valid (v : Vocab) (states : Nat) : Bool :=
  (List.range 256).all (fun b => v.bytes (v.byteBase + b) == [BitVec.ofNat 8 b] &&
    !v.special (v.byteBase + b)) && decide (v.byteBase + 255 < v.size) &&
  decide (v.eos < v.size) && v.special v.eos &&
  v.merges.all (fun e => decide (e.1 < v.size) && decide (e.2.1 < v.size) && decide (e.2.2 < v.size) &&
    v.bytes e.2.2 == v.bytes e.1 ++ v.bytes e.2.1) &&
  (v.merges.map (fun e => (e.1, e.2.1))).eraseDups.length == v.merges.length &&
  (if v.byteLevel then v.chars.isEmpty
   else ascending (v.chars.map (·.1)) && v.chars.all (fun c => codePoint c.1 && decide (c.2 < v.size) &&
     v.bytes c.2 == utf8 c.1)) &&
  v.splitter.all (fun e => decide (e.1 < states))

/-- The vocabulary of a section of `len` bytes at `a`, when R159 and R160 accept it. -/
def parseVocab (m : Mem) (a len : Nat) : Option Vocab :=
  let l := vocabLayout m a
  if len < 64 || l.length != len || !vocabFormOk m a l then none
  else
    let split := (List.range (256 * l.states)).map (fun i => readLe m (a + l.splitAt + 4 * i) 4)
    let v : Vocab :=
      { byteLevel := readLe m (a + 2) 1 == 1, size := l.size, byteBase := readLe m (a + 8) 4,
        eos := readLe m (a + 12) 4, tokens := vocabTokens m a l,
        merges := (List.range l.merges).map (fun r =>
          let e := a + l.mergeAt + 12 * r
          (readLe m e 4, readLe m (e + 4) 4, readLe m (e + 8) 4)),
        chars := (List.range l.chars).map (fun i =>
          (readLe m (a + l.charAt + 8 * i) 4, readLe m (a + l.charAt + 8 * i + 4) 4)),
        splitter := split.map (fun w => (w % 65536, w / 65536 % 2 == 1)),
        digest := digest256 (readBytes m a len) }
    if split.all (fun w => decide (w < 131072)) && v.valid l.states then some v else none

end Sys2Proof.Machine
end

