-- ==== Sys2Proof/Machine/Kv.lean ====
section
/-!
DEFINITION. Key-value streams, bales and ranges (08 R222 to R226, R234 to R238), and sessions by handle.
-/

namespace Sys2Proof.Machine

/-! ### Sessions by handle -/

def State.modSession (s : State) (h : U64) (f : Session → Session) : State :=
  { s with granary := { s.granary with
      directory := updWhere (fun x => x.handle == h) f s.granary.directory } }

/-- OPEN, RUNNING or WAITING. -/
def Session.resident (x : Session) : Bool := decide (1 ≤ x.state ∧ x.state ≤ 3)

def State.versionOf (s : State) (x : Session) : Option Version := s.version? x.model x.version

/-! ### Streams (R224, R241) -/

/-- Key-value heads that the stream numbering counts in each layer. -/
def Version.kvHeads (v : Version) : Nat := (v.attention.map (·.headsKv)).foldl max 0

def Version.layerCount (v : Version) : Nat := v.layers.length

def Version.att? (v : Version) (layer : Nat) : Option AttDesc := v.attention.find? (fun d => d.layer == layer)

/-- Stream number; `values` is 0 for keys and 1 for values. -/
def Version.stream (v : Version) (layer head values : Nat) : Nat := (layer * v.kvHeads + head) * 2 + values

/-- Layer, head and keys or values of a stream. -/
def Version.streamParts (v : Version) (σ : Nat) : Nat × Nat × Nat :=
  (σ / 2 / v.kvHeads, σ / 2 % v.kvHeads, σ % 2)

def Version.streamCount (v : Version) : Nat := 2 * v.kvHeads * v.layerCount

/-- This module holds the streams of a head: all of them, or those of its partitions when the job splits
heads over ranks (R241). -/
def State.holdsHead (s : State) (d : AttDesc) (head : Nat) : Bool :=
  if s.job.ranks ≤ 1 || d.parts % s.job.ranks != 0 then true
  else head % d.parts % s.job.ranks == s.job.rank

/-- Streams that this module holds for a version, ascending. -/
def State.streams (s : State) (v : Version) : List Nat :=
  (List.range v.streamCount).filter (fun σ =>
    let p := v.streamParts σ
    match v.att? p.1 with
    | some d => decide (p.2.1 < d.headsKv) && s.holdsHead d p.2.1
    | none => false)

/-! ### Positions (R222, R225) -/

/-- Positions that a bale holds (Table 8-4). -/
def posPerBale (d : Nat) (bf16 : Bool) : Nat := if bf16 then 32760 / d else 64512 / d

/-- A layer of the session has entered fallback, so that its E4M3 streams go on in BF16. -/
def Session.fallen (x : Session) (d : AttDesc) : Bool :=
  d.kvFmt == 1 && ((x.modes.getD d.layer 0).getLsbD 0)

/-- Bale, slot and format of a position of a stream of a layer. -/
def Session.place (x : Session) (d : AttDesc) (p : Nat) : Nat × Nat × Bool :=
  let bf := d.kvFmt == 2
  let n := posPerBale d.headDim bf
  let fb := x.fbPos.getD d.layer 0
  if x.fallen d && fb ≤ p then
    let nb := posPerBale d.headDim true
    (ceilDiv fb n + (p - fb) / nb, (p - fb) % nb, true)
  else (p / n, p % n, bf)

/-- First position and format of a bale. -/
def Session.baleStart (x : Session) (d : AttDesc) (b : Nat) : Nat × Bool :=
  let bf := d.kvFmt == 2
  let n := posPerBale d.headDim bf
  let fb := x.fbPos.getD d.layer 0
  if x.fallen d && ceilDiv fb n ≤ b then
    (fb + (b - ceilDiv fb n) * posPerBale d.headDim true, true)
  else (b * n, bf)

/-! ### Bale contents (R222) -/

/-- Offset of an element of a slot. -/
def elemAt (d : Nat) (bf16 : Bool) (slot i : Nat) : Nat := if bf16 then slot * 2 * d + 2 * i else slot * d + i

/-- Offset of the scale of group `g` of a slot. -/
def scaleAt (d slot g : Nat) : Nat := posPerBale d false * d + slot * (d / 64) + g

/-- The trailer of Table 8-3. -/
def kvTrailer (values bf16 : Bool) (head layer tenant firstPos d : Nat) : List Byte :=
  toLe 2 (if values then 0x42 else 0x41) ++ toLe 1 (if bf16 then 2 else 1) ++ toLe 1 head ++ toLe 2 layer ++
    toLe 2 (tenant % 4096) ++ toLe 4 firstPos ++ toLe 2 d ++ [0, 0]

/-- A frame filled with zeros but for its trailer. -/
def newKvData (values bf16 : Bool) (head layer tenant firstPos d : Nat) : Mem :=
  writeBytes [] 0xFFF0 (kvTrailer values bf16 head layer tenant firstPos d)

/-- Stores a vector at a slot: the bytes, and how many elements were clipped (R43, R45, R229). -/
def putEntry (m : Mem) (d : Nat) (bf16 : Bool) (slot : Nat) (xs : List U32) : Mem × Nat :=
  if bf16 then
    let ys := xs.map (fun x => toBf16 (readFp32 x))
    (writeBytes m (elemAt d true slot 0) (ys.flatMap (fun y => toLe 2 y.1.toNat)),
     (ys.filter (·.2)).length)
  else
    let groups := chunks 64 (xs.map readFp32)
    let scales := groups.map kvScale
    let ys := (groups.zip scales).flatMap (fun gs => gs.1.map (fun x => kvStore x gs.2))
    (writeBytes (writeBytes m (elemAt d false slot 0) (ys.map (·.1))) (scaleAt d slot 0)
      (scales.map (BitVec.ofNat 8)), (ys.filter (·.2)).length)

/-- Reads a vector back, widened to FP32; a BF16 subnormal reads as zero of its sign (R48). -/
def getEntry (m : Mem) (d : Nat) (bf16 : Bool) (slot : Nat) : List U32 :=
  (List.range d).map (fun i =>
    if bf16 then widenBf16 (flushBf16 (BitVec.ofNat 16 (readLe m (elemAt d true slot i) 2)))
    else kvLoad (memGet m (elemAt d false slot i)) (memGet m (scaleAt d slot (i / 64))).toNat)

/-- Zeroes a slot and its scales. -/
def clearSlot (m : Mem) (d : Nat) (bf16 : Bool) (slot : Nat) : Mem :=
  if bf16 then writeBytes m (elemAt d true slot 0) (List.replicate (2 * d) 0)
  else writeBytes (writeBytes m (elemAt d false slot 0) (List.replicate d 0)) (scaleAt d slot 0)
    (List.replicate (d / 64) 0)

/-- What a bale's trailer says (Table 8-3). -/
structure KvTrailer where
  values : Bool
  bf16 : Bool
  head : Nat
  layer : Nat
  firstPos : Nat
  d : Nat
  deriving DecidableEq, Repr

def kvTrailerOf (m : Mem) : KvTrailer :=
  { values := readLe m 0xFFF0 2 == 0x42, bf16 := memGet m 0xFFF2 == 2, head := readLe m 0xFFF3 1,
    layer := readLe m 0xFFF4 2, firstPos := readLe m 0xFFF8 4, d := readLe m 0xFFFC 2 }

/-- A slot of a bale holds a position below the length that the stream keeps in that bale; the unused
slots of the last E4M3 bale before a fallback are dead (R223, R225). -/
def Session.liveSlot (x : Session) (k : KvTrailer) (slot : Nat) : Bool :=
  let p := k.firstPos + slot
  decide (p < x.length) && (k.bf16 || !((x.modes.getD k.layer 0).getLsbD 0) ||
    decide (p < x.fbPos.getD k.layer 0))

/-- A bale as it is sealed: dead slots and their scales zero (R223). -/
def Session.sealedData (x : Session) (m : Mem) : Mem :=
  let k := kvTrailerOf m
  ((List.range (posPerBale k.d k.bf16)).filter (fun i => !x.liveSlot k i)).foldl
    (fun m i => clearSlot m k.d k.bf16 i) m

/-! ### Frames -/

def State.kvFrame? (s : State) (f : Nat) : Option KvFrame := s.granary.frames.find? (fun x => x.frame == f)

def State.kvData (s : State) (f : Nat) : Mem := ((s.kvFrame? f).map (·.data)).getD []

def State.putKvData (s : State) (f : Nat) (m : Mem) : State :=
  { s with granary := { s.granary with
      frames := updWhere (fun (x : KvFrame) => x.frame == f) (fun (x : KvFrame) => { x with data := m })
        s.granary.frames } }

/-- A frame of a tenant with given contents. -/
def State.newFrame (s : State) (tenant : Nat) (m : Mem) : State × Nat :=
  ({ s with granary := { s.granary with
      frames := s.granary.frames ++ [KvFrame.mk s.granary.nextFrame tenant m],
      nextFrame := s.granary.nextFrame + 1 } }, s.granary.nextFrame)

/-- Keys and values of a session as they stand, by stream and bale. -/
def State.kvCache (s : State) (x : Session) : List ((Nat × Nat) × Mem) :=
  (sortBy (fun (a b : KvBale) => if a.stream == b.stream then decide (a.bale ≤ b.bale)
    else decide (a.stream < b.stream)) x.kv).map (fun k =>
      ((k.stream, k.bale), x.sealedData (s.kvData k.frame)))

/-- How many sessions and retained bales hold a frame. -/
def State.holders (s : State) (f : Nat) : Nat :=
  (s.granary.directory.filter (fun x => x.kv.any (fun b => b.frame == f))).length +
    (s.granary.retained.filter (fun r => r.frame == f)).length

/-- The bale of a session's stream. -/
def Session.bale? (x : Session) (σ b : Nat) : Option KvBale :=
  x.kv.find? (fun k => k.stream == σ && k.bale == b)

/-- Maps a frame at a bale of a session. -/
def Session.mapBale (x : Session) (σ b f : Nat) (dirty : Bool) : Session :=
  { x with kv := x.kv.filter (fun k => !(k.stream == σ && k.bale == b)) ++ [KvBale.mk σ b f dirty] }

/-- Frames that no session maps and nothing retains leave for quarantine or the free list (R235). -/
def State.dropFrames (s : State) (tenant : Nat) : State :=
  let gone := (s.granary.frames.filter (fun f => f.tenant == tenant && s.holders f.frame == 0)).length
  (s.quarantineFrames tenant gone true).freeFrames

/-- Unmaps the bales of a session for which `p` holds. -/
def State.unmapKv (s : State) (h : U64) (p : KvBale → Bool) : State :=
  (s.modSession h (fun x => { x with kv := x.kv.filter (fun k => !p k) })).dropFrames (handleTenant h)

/-! ### The key-value range (R224) -/

/-- s of R224 for a length limit. -/
def Version.kvShift (v : Version) (maxLen : Nat) : Nat :=
  let need := (v.attention.map (fun d =>
    ceilDiv maxLen (posPerBale d.headDim true) + (if d.kvFmt == 1 then 1 else 0))).foldl max 0
  ((List.range 49).find? (fun k => decide (need ≤ 2 ^ k))).getD 48

/-- Bytes of a range. -/
def Version.kvBytes (v : Version) (maxLen : Nat) : Nat := v.streamCount * 2 ^ v.kvShift maxLen * 65536

/-- Start and bytes of a session's range; parked and closed sessions have none. -/
def Session.kvRange (x : Session) : Nat × Nat :=
  if x.state == 7 || x.state == 4 then (0, 0) else (x.kvBase, x.kvBytes)

/-- The least multiple of 2 MiB in the module region at which a range of the tenant fits. -/
def State.kvPlace (s : State) (tenant bytes : Nat) : Option Nat :=
  let used := (s.granary.directory.filter (fun x => handleTenant x.handle == tenant)).map Session.kvRange
  let starts := 0x800000000000 :: used.map (fun r => 2097152 * ceilDiv (r.1 + r.2) 2097152)
  let fits (a : Nat) : Bool := decide (0x800000000000 ≤ a ∧ a + bytes ≤ 2 ^ 48) &&
    used.all (fun r => !overlap a bytes r.1 r.2)
  (starts.filter fits).min?

/-! ### Ranges by bale -/

/-- The parts of [va, va + n) by bale: start and length. -/
def balePieces (va n : Nat) : List (Nat × Nat) :=
  (List.range ((va % 65536 + n + 65535) / 65536)).map (fun i =>
    let a := max va (va / 65536 * 65536 + 65536 * i)
    let b := min (va + n) (va / 65536 * 65536 + 65536 * (i + 1))
    (a, b - a))

/-! ### What an open step carries -/

/-- Positions that a sequence appends: the pending token's and the drafts'. -/
def StepSeq.appends (q : StepSeq) : Nat := q.pending.toList.length + q.drafts.length

/-- Positions that a chunk appends. -/
def Chunk.appends (c : Chunk) : Nat := c.length + (match c.sample with
  | some q => q.appends
  | none => 0)

/-- Sequences of a step in order, with the positions that each appends. -/
def OpenStep.sequences (o : OpenStep) : List (U64 × Nat) :=
  o.decode.map (fun q => (q.session, q.appends)) ++ o.prefill.toList.map (fun c => (c.session, c.appends))

/-- Positions that the step appends to a session. -/
def State.stepAppends (s : State) (h : U64) : Nat :=
  match s.step with
  | some o => ((o.sequences.find? (fun q => q.1 == h)).map (·.2)).getD 0
  | none => 0

/-- Model and version of everything that a step runs: its sequences' and its front-end rows'. -/
def State.stepKeys (s : State) (o : OpenStep) : List (Nat × Nat) :=
  let hs := o.decode.map (·.session) ++ o.prefill.toList.map (·.session)
  ((hs.filterMap (fun h => (s.session? h).map (fun x => (x.model, x.version)))) ++
    (s.front.filter (fun w => o.front.any (fun e => e.1 == w.id))).map (fun w =>
      if w.ranking then w.ranker.getD w.embedder else w.embedder)).eraseDups

end Sys2Proof.Machine
end

