-- ==== Sys2Proof/Machine/Vcore.lean ====
section
/-!
DEFINITION. Virtual cores by number, their registers and work areas (07 R202 to R206), and a core's range
violation (R212).
-/

namespace Sys2Proof.Machine

def State.vcore? (s : State) (vc : Nat) : Option VCore :=
  (s.cores.vcores.find? (fun c => c.1 == vc)).map (·.2)

/-- A virtual core; one without a program is idle. -/
def State.vcore (s : State) (vc : Nat) : VCore := (s.vcore? vc).getD VCore.idle

def State.putVcore (s : State) (vc : Nat) (c : VCore) : State :=
  { s with cores := { s.cores with
      vcores := sortBy (fun (a b : Nat × VCore) => decide (a.1 ≤ b.1))
        ((vc, c) :: s.cores.vcores.filter (fun e => e.1 != vc)) } }

def State.modVcore (s : State) (vc : Nat) (f : VCore → VCore) : State := s.putVcore vc (f (s.vcore vc))

/-- s0 reads zero (R203). -/
def VCore.reg (c : VCore) (i : Nat) : U64 := if i = 0 then 0 else vGet c.regs i 0

/-- A write to s0 is discarded (R206). -/
def VCore.putReg (c : VCore) (i : Nat) (v : U64) : VCore :=
  if i = 0 then c else { c with regs := vMod c.regs i (fun _ => v) }

/-- A byte range lies in the program's work area. -/
def VCore.inArea (c : VCore) (a n : Nat) : Bool := decide (a + n ≤ c.workBytes)

/-- Cores run: the job is not stopped and the module is in neither Hold nor Sleep (R475, R484). -/
def State.coresRun (s : State) : Bool := !s.faulted && decide (s.power.pstate < 2)

/-- The core raises the core program fault (R212). -/
def State.violation (s : State) (vc : Nat) : State := s.raiseFault (srcCore (s.coreOf vc))

/-- The word is operation `op` of class `cls`. -/
def isOp (w : CoreWord) (cls op : Nat) : Bool := wClass w == cls && wOp w == op

/-- The version whose program a virtual core runs. -/
def State.coreVersion (s : State) (c : VCore) : Option Version := s.version? c.model c.version

/-! ### Row tags (R195) -/

/-- The row tag of an entry; an entry that is not listed names no sequence. -/
def VCore.tag? (c : VCore) (i : Nat) : Option RowTag := (c.tags.find? (fun e => e.1 == i)).map (·.2)

/-- Narrowing conversions of a tagged row are counted for its sequence, position and layer (R46, R54). -/
def State.noteNarrow (s : State) (tag : Option RowTag) (layer values clipped : Nat) : State :=
  match tag with
  | none => s
  | some t =>
    if layer = 0xFFFF || values = 0 then s
    else s.modSession t.session (fun x => { x with
      stepCounts := x.stepCounts ++ [((layer, t.pos), values, clipped)] })

/-- The layer's conversions for the row are BF16: it is in fallback or reserve routing for the sequence
(R57, R58), or routed for every sequence (R59). -/
def State.wideRow (s : State) (c : VCore) (tag : Option RowTag) (layer : Nat) : Bool :=
  match tag with
  | none => false
  | some t => layer != 0xFFFF && (t.modes.getD layer 0 != 0 ||
      ((s.coreVersion c).bind (fun v => v.layers[layer]?)).any (·.route))

/-! ### Rows of numbers in core SRAM -/

/-- Element `i` of a row in a format of Table 7-6. -/
def readElem (m : Mem) (fmt a i : Nat) : Fp :=
  match fmt with
  | 0 => readFp32 (BitVec.ofNat 32 (readLe m (a + 4 * i) 4))
  | 1 => readBf16 (BitVec.ofNat 16 (readLe m (a + 2 * i) 2))
  | 2 => readE4m3 (memGet m (a + i))
  | _ => readE5m2 (memGet m (a + i))

/-- An FP32 element keeps its bits; the others are widened to FP32 exactly (R214). -/
def readWide (m : Mem) (fmt a i : Nat) : U32 :=
  if fmt = 0 then BitVec.ofNat 32 (readLe m (a + 4 * i) 4) else round32 (readElem m fmt a i)

/-- A row of `n` elements widened to FP32. -/
def readWideRow (m : Mem) (fmt a n : Nat) : List U32 := (List.range n).map (readWide m fmt a)

/-- Bytes of an FP32 value converted to a format, and whether it was clipped (R43, R44). -/
def convertElem (fmt : Nat) (x : U32) : List Byte × Bool :=
  match fmt with
  | 0 => (toLe 4 x.toNat, false)
  | 1 => let y := toBf16 (readFp32 x); (toLe 2 y.1.toNat, y.2)
  | 2 => let y := toE4m3 (readFp32 x); ([y.1], y.2)
  | _ => let y := toE5m2 (readFp32 x); ([y.1], y.2)

/-- Bytes of a converted row, and its clips. -/
def convertRow (fmt : Nat) (xs : List U32) : List Byte × Nat :=
  let ys := xs.map (convertElem fmt)
  (ys.flatMap (·.1), (ys.filter (·.2)).length)

/-- Rows to write: address and bytes, in order. -/
def writeRows (m : Mem) (rows : List (Nat × List Byte)) : Mem :=
  rows.foldl (fun m r => writeBytes m r.1 r.2) m

end Sys2Proof.Machine
end

