-- ==== Sys2Proof/Machine/Interlock.lean ====
section
/-!
DEFINITION. Interlocks of the sequencer (07 R204, R205; 08 R244; 14 R410): the ranges of each instruction, the turns
of virtual cores that share a core (R202), and issue (R203). Beside them what the ranges rest on: tile fields, the
rows and keys of an ATTEND, the tables of the row port, the group of a COLLECT, the operands of a MOVE.
-/

namespace Sys2Proof.Machine

/-! ### Tile fields -/

/-- The Table 7-3 fields that a register gives an instruction. -/
structure Tile where
  pitch : Nat
  tag : Nat
  kb : Nat
  cg : Nat
  deriving DecidableEq, Repr

def VCore.tile (c : VCore) (sreg : Nat) : Tile :=
  let x := c.reg sreg
  ⟨tPitch x, tTag x, tKb x, tCg x⟩

/-! ### What an ATTEND works on -/

/-- One tagged row: its number, tag and session. -/
structure AttRow where
  index : Nat
  tag : RowTag
  x : Session
  deriving DecidableEq, Repr

/-- The version, the layer's descriptor and the tile fields. -/
structure AttCtx where
  v : Version
  d : AttDesc
  x : Tile
  deriving DecidableEq, Repr

def State.attCtx (s : State) (c : VCore) (w : CoreWord) : Option AttCtx :=
  match s.coreVersion c with
  | none => none
  | some v => (v.att? (aLayer w)).map (fun d => ⟨v, d, c.tile (aSreg w)⟩)

/-- Rows whose tag names a sequence, ascending. -/
def State.attRows (s : State) (c : VCore) (a : AttCtx) (w : CoreWord) : List AttRow :=
  (List.range (aRows w)).filterMap (fun i => match c.tag? (a.x.tag + i) with
    | none => none
    | some g => (s.session? g.session).map (fun x => ⟨i, g, x⟩))

/-- Query heads of a key-value head's group. -/
def AttDesc.group (d : AttDesc) : Nat := d.headsQ / d.headsKv

/-- Key and value streams of the instruction. -/
def AttCtx.stream (a : AttCtx) (w : CoreWord) (values : Nat) : Nat := a.v.stream (aLayer w) (aKvHead w) values

/-! ### Keys of a row (R231) -/

/-- k_end. -/
def State.kEnd (s : State) (x : Session) : Nat := x.length + s.stepAppends x.handle

/-- The mask admits key j for a row at position p. -/
def AttDesc.admits (d : AttDesc) (p prefixLen kEnd j : Nat) : Bool :=
  decide (j < kEnd) && (match d.mask with
    | 0 => decide (j ≤ p)
    | 1 => decide (p < j + d.span) && decide (j ≤ p)
    | 2 => decide (j ≤ p) || decide (j < prefixLen)
    | _ => true)

/-- Key positions that a row attends to. -/
def State.keysOf (s : State) (a : AttCtx) (r : AttRow) : List Nat :=
  (List.range (s.kEnd r.x)).filter (a.d.admits r.tag.pos r.x.prefixLen (s.kEnd r.x))

/-- Key-value bales that the walk of the rows reads, each once. -/
def State.walkBales (s : State) (a : AttCtx) (w : CoreWord) (rows : List AttRow) : List Nat :=
  (rows.flatMap (fun r => (s.keysOf a r).flatMap (fun j => [0, 1].filterMap (fun c =>
    (r.x.bale? (a.stream w c) (r.x.place a.d j).1).map (·.frame))))).eraseDups

/-! ### Tables as a step reads them (R134, R152) -/

/-- The table that a tenant's program reads: its own or a shared one, as it stood at the step's start; a table dropped
since is read to the step's end (R151). (Log entry 47: DEDUCED, unsafe.) -/
def State.tableForRead (s : State) (tenant n : Nat) : Option Table :=
  ((s.sheaf.view.bind (fun v => findTable v n)).orElse (fun _ => s.table? n)).filter (fun t =>
    t.shared || t.owner == tenant)

/-- The table that a tenant's program updates: its own private one. -/
def State.tableForWrite (s : State) (tenant n : Nat) : Option Table :=
  (s.table? n).filter (fun t => !t.shared && t.owner == tenant)

/-- A row format: the table's own for `fmt` 0. -/
def portFormat (t : Table) (w : CoreWord) : Nat := rowFormat t (rFmt w)

/-- The operands of POOL as a ROWPOOL gives them in core SRAM. -/
def portPool (w : CoreWord) : PoolArgs :=
  { list := rIdx w, outFmt := rFmt w - 1, mode := rMode w, dest := rData w, entries := rCount w,
    bags := rBags w, offsets := rOffs w }

/-! ### COLLECT: group and parts (R415) -/

/-- Group of a COLLECT: its barrier's, or, before any arrival has fixed it, the issuing virtual core on
every rank. (Log entry 49: DEDUCED, unsafe.) -/
def State.collectGroup (s : State) (vc : Nat) (w : CoreWord) : U64 × List Nat :=
  ((s.barrierAt (wBarrier w)).group).getD (1#64 <<< vc, List.range s.job.ranks)

/-- `part_bytes` and `parts`. -/
def VCore.partBytes (c : VCore) (w : CoreWord) : Nat := bitsOf (c.reg (wCollectReg w)) 63 32
def VCore.partCount (c : VCore) (w : CoreWord) : Nat := bitsOf (c.reg (wCollectReg w)) 15 0

/-- Bytes of a member's parts. -/
def VCore.partTotal (c : VCore) (w : CoreWord) : Nat := c.partBytes w * c.partCount w

/-- Bytes that a COLLECT writes. -/
def VCore.collectOut (c : VCore) (w : CoreWord) (members : Nat) : Nat :=
  if wReduce w then c.partBytes w else members * c.partTotal w

/-! ### MOVE: operands and key-value bales (R207) -/

/-- Stream and bale of an address in a session's key-value range. -/
def State.kvPlaceOf (s : State) (x : Session) (va : Nat) : Option (Nat × Nat) :=
  let r := x.kvRange
  match s.versionOf x with
  | some v => if r.1 ≤ va ∧ va < r.1 + r.2 then
      let n := (va - r.1) / 65536
      some (n / 2 ^ v.kvShift x.maxLen, n % 2 ^ v.kvShift x.maxLen)
    else none
  | none => none

/-- The mapped key-value bale at an address, as the open epoch sees it. (Log entry 134: DEDUCED, unsafe.) -/
def State.kvAt (s : State) (t va : Nat) : Option (U64 × KvBale) :=
  (((s.epochs.view.map (·.sessions)).getD s.granary.directory).filter (fun x => handleTenant x.handle == t)).findSome? (fun x =>
    ((s.kvPlaceOf x va).bind (fun p => x.bale? p.1 p.2)).map (fun k => (x.handle, k)))

structure MoveArgs where
  bytes : Nat
  far : Nat
  /-- Virtual address, loft offset or SRAM offset. -/
  addr : Nat
  /-- Quadrant of a loft or number of a virtual core. -/
  who : Nat
  /-- Tenant of the row tag. -/
  tenant : Option Nat
  deriving DecidableEq, Repr

def moveArgs (c : VCore) (w : CoreWord) : MoveArgs :=
  let x := c.reg (xFreg w)
  { bytes := xCount w * xUnit w, far := xFar w,
    addr := if xFar w = 0 then bitsOf x 47 0 else if xFar w = 1 then bitsOf x 26 0 else bitsOf x 22 0,
    who := if xFar w = 1 then bitsOf x 63 62 else bitsOf x 63 52,
    tenant := (c.tag? (xTag w)).map (·.tenant) }

/-- Key-value frames that a MOVE reaches at a far address of its tenant's space. -/
def State.farFrames (s : State) (c : VCore) (w : CoreWord) : List Nat :=
  let a := moveArgs c w
  match a.far, a.tenant with
  | 0, some t => (balePieces a.addr a.bytes).filterMap (fun p => (s.kvAt t p.1).map (fun k => k.2.frame))
  | _, _ => []

/-! ### Ranges (R204) -/

/-- What an instruction reads and writes: ranges of its core SRAM, start and bytes, and key-value frames of T1. -/
structure Footprint where
  reads : List (Nat × Nat)
  writes : List (Nat × Nat)
  readsT1 : List Nat
  writesT1 : List Nat
  deriving DecidableEq, Repr

/-- Ranges of core SRAM alone. -/
def Footprint.sram (reads writes : List (Nat × Nat)) : Footprint := ⟨reads, writes, [], []⟩

def anyOverlap (a b : List (Nat × Nat)) : Bool := a.any (fun x => b.any (fun y => overlap x.1 x.2 y.1 y.2))

/-- A new instruction waits for an unfinished one: it reads a range that one writes, or writes a range that one
reads or writes. -/
def Footprint.waitsFor (new old : Footprint) : Bool :=
  anyOverlap new.reads old.writes || anyOverlap new.writes (old.reads ++ old.writes) ||
    new.readsT1.any old.writesT1.contains || new.writesT1.any (old.readsT1 ++ old.writesT1).contains

/-- `n` bytes at `a` in each of `k` rows of a pitch. -/
def rowRanges (a n pitch k : Nat) : List (Nat × Nat) := (List.range k).map (fun r => (a + r * pitch, n))

/-- Address of an LD or ST. -/
def VCore.address (c : VCore) (w : CoreWord) : Nat := (c.reg (wRa w) + wImm w).toNat

/-- Partitions of a PSUM. -/
def VCore.partitions (c : VCore) (w : CoreWord) : Nat := (c.consts.getD (vPrm w) 0).toNat

/-- `n` bytes at `a` in each tagged row of an ATTEND. -/
def attRanges (rows : List AttRow) (a n pitch : Nat) : List (Nat × Nat) :=
  rows.map (fun r => (a + r.index * pitch, n))

/-- Footprint of an ATTEND's walk, after its append: queries and key-value bales read, outputs written. -/
def State.walkPrint (s : State) (c : VCore) (w : CoreWord) : Footprint :=
  match s.attCtx c w with
  | none => Footprint.sram [] []
  | some a =>
    let rows := s.attRows c a w
    let n := 2 * a.d.headDim * a.d.group
    if aWalk w then ⟨attRanges rows (aQ w) n a.x.pitch, attRanges rows (aDst w) n a.x.pitch, s.walkBales a w rows, []⟩
    else Footprint.sram [] []

/-- Footprint of a whole ATTEND; `appendHeld` judges the positions that it appends. -/
def State.attendPrint (s : State) (c : VCore) (w : CoreWord) : Footprint :=
  let q := s.walkPrint c w
  match s.attCtx c w with
  | none => q
  | some a => { q with
      reads := q.reads ++ (if aAppend w then attRanges (s.attRows c a w) (aKvNew w) (8 * a.d.headDim) a.x.pitch else []) }

/-- Footprint of a row port instruction: by the stride of the table that it names, if the row's tag may use it. -/
def State.portPrint (s : State) (c : VCore) (w : CoreWord) : Footprint :=
  match c.tag? (rTag w) with
  | none => Footprint.sram [] []
  | some g =>
    let rows (f : Table → Nat) (k : Nat) (t : Option Table) : List (Nat × Nat) :=
      t.toList.map (fun t => (rData w, k * rowStride t.width (f t)))
    match wOp w with
    | 0 => Footprint.sram [(rIdx w, 4 * rCount w)]
        (rows (fun t => portFormat t w) (rCount w) (s.tableForRead g.tenant (rTable w)))
    | 1 => Footprint.sram [(rIdx w, 8 * rCount w), (rOffs w, 4 * rBags w)]
        (rows (fun _ => poolFormat (portPool w)) (rBags w) (s.tableForRead g.tenant (rTable w)))
    | _ => Footprint.sram ((rIdx w, 4 * rCount w) ::
        rows (fun t => portFormat t w) (rCount w) (s.tableForWrite g.tenant (rTable w))) []

/-- Footprint of a MOVE: its local range, and its far range where that is key-value bales or the virtual core's own
SRAM. An unfinished walk has no other range in T1, in a loft or in another SRAM. -/
def State.movePrint (s : State) (vc : Nat) (c : VCore) (w : CoreWord) : Footprint :=
  let a := moveArgs c w
  let near := [(xLocal w, a.bytes)]
  let far := if 2 ≤ a.far && a.who == vc then [(a.addr, a.bytes)] else []
  if xToFar w then ⟨near, far, [], s.farFrames c w⟩ else ⟨far, near, s.farFrames c w, []⟩

/-- Footprint of a word. (Log entry 101: DEDUCED, safe.) -/
def State.footprint (s : State) (vc : Nat) (c : VCore) (w : CoreWord) : Footprint :=
  match wClass w with
  | 0 => if wOp w == 8 then Footprint.sram [(64 * wCollectSrc w, c.partTotal w)]
      [(64 * wCollectDst w, c.collectOut w (s.collectGroup vc w).2.length)] else Footprint.sram [] []
  | 1 => if wOp w == 9 then Footprint.sram [(c.address w, 8)] []
    else if wOp w == 10 then Footprint.sram [] [(c.address w, 8)] else Footprint.sram [] []
  | 2 =>
    let p := tPitch (c.reg (mSreg w))
    let out := rowRanges (mDst w) (8 * mCg w * (if mOut w == 0 then 4 else 2)) p (mRows w)
    Footprint.sram (rowRanges (mAct w) ((if mAmode w == 0 then 16 else 32) * mKg w) p (mRows w) ++
      (if mCont w then out else [])) out
  | 3 =>
    let p := tPitch (c.reg (vSreg w))
    let n := vN w * fmtBytes (vSfmt w)
    Footprint.sram (rowRanges (vSrc w) n p (if vOp w == 0x28 then vRows w * c.partitions w else vRows w) ++
        (if vOp w ≤ 0x04 then rowRanges (vSrc2 w) n p (vRows w)
         else if usesSrc2 (vOp w) then rowRanges (vSrc2 w) n p 2 else []))
      (rowRanges (vDst w) (vN w * max 2 (fmtBytes (vDfmt w))) p (vRows w))
  | 4 => s.movePrint vc c w
  | 5 => s.portPrint c w
  | 6 => s.attendPrint c w
  | 7 => Footprint.sram [(hSrc w, 64 * hLines w)] []
  | _ => Footprint.sram [] []

/-! ### Issue (R203) -/

/-- Virtual cores on a virtual core's core, itself among them. -/
def State.sharing (s : State) (vc : Nat) : List (Nat × VCore) :=
  s.cores.vcores.filter (fun e => s.coreOf e.1 == s.coreOf vc)

/-- Unfinished instructions of a core: the walks of its virtual cores. -/
def State.unfinished (s : State) (vc : Nat) : Nat := sumOf (fun (e : Nat × VCore) => e.2.walks.length) (s.sharing vc)

/-- The word waits to issue: HALT, DRAIN and TALLY_ADD for every unfinished instruction of the virtual core, classes 2
to 7 while 32 are unfinished on the core, an ATTEND while four queue for the core's walker (R244), and any word for
those of the virtual core that its ranges conflict with. (Log entry 101: DEDUCED, safe.) -/
def State.interlocked (s : State) (vc : Nat) (c : VCore) (w : CoreWord) : Bool :=
  (!c.walks.isEmpty && wClass w == 0 && (wOp w == 3 || wOp w == 4 || wOp w == 5)) ||
    (decide (2 ≤ wClass w) && decide (32 ≤ s.unfinished vc)) || (wClass w == 6 && decide (4 ≤ s.unfinished vc)) ||
    (!c.walks.isEmpty && c.walks.any (fun x => (s.footprint vc c w).waitsFor (s.walkPrint c x)))

/-- Place of a virtual core in its core's order of turns: numbers ascend from the one whose turn it is, and start
again below it. -/
def State.turnPlace (s : State) (vc : Nat) : Nat :=
  (vc + 4096 - (vGet s.cores.turns (s.coreOf vc) 0) % 4096) % 4096

/-- The virtual core has an instruction to issue and waits for nothing. -/
def VCore.runnable (c : VCore) : Bool := decide (c.wait = .none) && decide (c.pc < c.code.length)

/-- The virtual core has its core: no other on that core comes before it that could issue (R202, R410).
(Log entry 56: DEDUCED, safe.) -/
def State.hasCore (s : State) (vc : Nat) : Bool :=
  (s.sharing vc).all (fun e => e.1 == vc || !e.2.runnable || decide (s.turnPlace vc < s.turnPlace e.1))

/-- The virtual core goes on in its turn, past the instruction that issues. -/
def State.passed (s : State) (vc : Nat) (c : VCore) : State :=
  let t := s.putVcore vc { c with pc := c.pc + 1 }
  { t with cores := { t.cores with turns := vMod t.cores.turns (s.coreOf vc) (fun _ => vc) } }

/-- The sequencer issues the word at the program counter of a virtual core that waits for nothing and has its core
(R203): `f` is what the instruction does, given that the program counter has passed it. A word that is not the
one at the program counter, or not one of the instruction's, or that an unfinished instruction holds back, issues
nothing. (Log entries 41: DEDUCED, safe; 43: DEDUCED, safe.) -/
def State.issue (s : State) (vc : Nat) (w : CoreWord) (is : Bool) (f : VCore → State → State) : State :=
  match s.vcore? vc with
  | none => s
  | some c =>
    if s.coresRun && is && decide (c.wait = .none) && decide (c.code[c.pc]? = some w) && s.hasCore vc &&
        !s.interlocked vc c w then
      f c (s.passed vc c)
    else s

/-- An instruction whose ranges `ok` finds within bounds does `f`; otherwise it does not issue. (Log entry 41: DEDUCED, safe.) -/
def State.issueIn (s : State) (vc : Nat) (w : CoreWord) (is : Bool) (ok : VCore → State → Bool)
    (f : VCore → State → State) : State :=
  s.issue vc w is (fun c s' => if ok c s' then f c s' else s.violation vc)

end Sys2Proof.Machine
end

