-- ==== Sys2Proof/Machine/Models.lean ====
section
/-!
DEFINITION. Model images, the model commands and the hot model cache (09 R252 to R258, R541; 02 R33 to R42,
R51 to R59; 07 R197, R202, R211; 08 R221, R232). The layouts of the tensor table and of the program section
belong to the toolchain: Config reads them.
-/

namespace Sys2Proof.Machine

/-! ### The image's directory and sections (R253, R541) -/

structure Section where
  kind : Nat
  offset : Nat
  length : Nat
  deriving DecidableEq, Repr

structure ImageDir where
  role : Nat
  draftMax : Nat
  maxLen : Nat
  outDim : Nat
  bales : Nat
  params : U64
  sections : List Section
  deriving DecidableEq, Repr

def readDir (m : Mem) (a : Nat) : ImageDir :=
  { role := readLe m (a + 2) 1, draftMax := readLe m (a + 3) 1, maxLen := readLe m (a + 4) 4,
    outDim := readLe m (a + 8) 2, bales := readLe m (a + 12) 4,
    params := BitVec.ofNat 64 (readLe m (a + 16) 8),
    sections := (List.range (readLe m (a + 10) 2)).map (fun e =>
      let o := a + 64 + 32 * e
      Section.mk (readLe m o 2) (readLe m (o + 8) 8) (readLe m (o + 16) 8)) }

/-- Table 9-2. -/
def dirOk (m : Mem) (a : Nat) (d : ImageDir) : Bool :=
  readLe m a 2 == 0x0010 && decide (d.role ≤ 2) && decide (d.draftMax ≤ 7) &&
    (d.role == 0 || d.draftMax == 0) && decide (64 ≤ d.maxLen ∧ d.maxLen ≤ 2097152) &&
    (if d.role == 1 then decide (64 ≤ d.outDim ∧ d.outDim ≤ 2048) && d.outDim % 64 == 0
     else d.outDim == 0) && zeroRange m (a + 24) 40

def sectionKinds : List Nat := [0x0011, 0x0012, 0x0013, 0x0014, 0x0015, 0x0070]

def ImageDir.section? (d : ImageDir) (k : Nat) : Option Section := d.sections.find? (fun s => s.kind == k)

/-- Every pair of a list satisfies a relation. -/
def pairwise {α : Type} (p : α → α → Bool) : List α → Bool
  | [] => true
  | x :: xs => xs.all (p x) && pairwise p xs

/-- The section list's own conditions (R541), the required sections apart. -/
def sectionsOk (m : Mem) (a : Nat) (d : ImageDir) : Bool :=
  let head := 64 + 32 * d.sections.length
  (List.range d.sections.length).all (fun e =>
    zeroRange m (a + 64 + 32 * e + 2) 6 && zeroRange m (a + 64 + 32 * e + 24) 8) &&
  d.sections.all (fun s => sectionKinds.contains s.kind &&
    s.offset % (if s.kind == 0x0012 then 65536 else 64) == 0 && decide (head ≤ s.offset) &&
    decide (s.offset + s.length ≤ d.bales * 65536)) &&
  pairwise (fun s t => s.kind != t.kind && !overlap s.offset s.length t.offset t.length) d.sections

/-- Bytes of a section; none for an absent one. -/
def sectionBytes (m : Mem) (a : Nat) (d : ImageDir) (k : Nat) : List Byte :=
  match d.section? k with
  | some s => readBytes m (a + s.offset) s.length
  | none => []

/-! ### Weight tensors (R33 to R42, R197) -/

/-- Formats of Table 2-3: bytes of codes in a block, blocks in a bale, offset of the scales. -/
def weightFormat (f : Nat) : Option (Nat × Nat × Nat) :=
  match f with
  | 1 => some (16, 3840, 0xF000)
  | 2 => some (16, 3840, 0xF000)
  | 3 => some (12, 4992, 0xEA00)
  | 4 => some (8, 7232, 0xE200)
  | 8 => some (32, 1920, 0xF000)
  | _ => none

/-- Codebook entries that a format has. -/
def codebookSize (f : Nat) : Nat := if f == 2 then 16 else if f == 3 then 8 else if f == 4 then 4 else 0

/-- Width of a code in bits. -/
def codeBits (f : Nat) : Nat := if f == 3 then 3 else if f == 4 then 2 else if f == 8 then 8 else 4

def Tensor.kBlocks (t : Tensor) : Nat := ceilDiv t.k 32

def Tensor.blocks (t : Tensor) : Nat := t.kBlocks * t.n

def Tensor.bales (t : Tensor) : Nat :=
  match weightFormat t.format with
  | some f => ceilDiv t.blocks f.2.1
  | none => 0

/-- The element of weight `i` of a block whose codes lie at `c` (R34 to R36, R38). -/
def weightElem (m : Mem) (t : Tensor) (c i : Nat) : Fp :=
  if t.format == 8 then readE4m3 (memGet m (c + i))
  else
    let b := codeBits t.format
    let code := readLe m c (4 * b) / 2 ^ (b * i) % 2 ^ b
    if t.format == 1 then readE2m1 code else readBf16Full (t.codebook.getD code 0)

/-- Offsets, from the start of the weight bale section, of the codes and the scale of block `b`. -/
def Tensor.blockAt (t : Tensor) (b : Nat) : Nat × Nat :=
  match weightFormat t.format with
  | some f =>
    let bale := (t.firstBale + b / f.2.1) * 65536
    (bale + b % f.2.1 * f.1, bale + f.2.2 + b % f.2.1)
  | none => (0, 0)

/-- One bale of a tensor (R33, R35, R37, R39). -/
def baleOk (m : Mem) (a : Nat) (t : Tensor) (n : Nat) : Bool :=
  match weightFormat t.format with
  | none => false
  | some f =>
    let blocks := min f.2.1 (t.blocks - n * f.2.1)
    let tr := a + 0xFF00
    readLe m tr 2 == t.format && readLe m (tr + 2) 2 == blocks && readLe m (tr + 4) 4 == t.number &&
      readLe m (tr + 8) 4 == n * f.2.1 && zeroRange m (tr + 12) 4 && zeroRange m (tr + 0x30) 0xD0 &&
      (List.range 16).all (fun j =>
        readLe m (tr + 0x10 + 2 * j) 2 ==
          (if j < codebookSize t.format then (t.codebook.getD j 0).toNat else 0)) &&
      zeroRange m (a + f.1 * blocks) (f.2.2 - f.1 * blocks) &&
      zeroRange m (a + f.2.2 + blocks) (0xFF00 - f.2.2 - blocks) &&
      (List.range blocks).all (fun b => memGet m (a + f.2.2 + b) != 0xFF)

/-- A codebook holds no infinity and no NaN (R35). -/
def codebookOk (t : Tensor) : Bool :=
  t.codebook.all (fun x => fpFinite (readBf16Full x))

/-- A stored tensor is MXFP4, CB4, CB3 or CB2, a reserve copy FP8 E4M3 (Table 2-1, R32). -/
def formatFits (t : Tensor) : Bool :=
  if t.reserve then t.format == 8 else decide (1 ≤ t.format ∧ t.format ≤ 4)

/-- A tensor of the weight bale section, of `len` bytes at `a` (R39, R197). -/
def tensorOk (m : Mem) (a len : Nat) (t : Tensor) : Bool :=
  formatFits t && t.n % 8 == 0 && codebookOk t &&
    decide ((t.firstBale + t.bales) * 65536 ≤ len) &&
    (List.range t.bales).all (fun n => baleOk m (a + (t.firstBale + n) * 65536) t n)

/-- Narrow and reserve tensors of a layer, each in the table's order. -/
def layerTensors (ts : List Tensor) (layer : Nat) (reserve : Bool) : List Tensor :=
  ts.filter (fun t => t.layer == layer && t.reserve == reserve)

/-- A layer's reserve copy, where it has one, backs each of its narrow tensors with one of the same shape, and is its
only one (R36). -/
def reserveOk (ts : List Tensor) (layer : Nat) : Bool :=
  let shape (t : Tensor) : Nat × Nat := (t.k, t.n)
  let r := layerTensors ts layer true
  r.isEmpty || r.map shape == (layerTensors ts layer false).map shape

/-- Tensors follow one another in the section. -/
def tensorsFollow : Nat → List Tensor → Bool
  | _, [] => true
  | n, t :: ts => t.firstBale == n && tensorsFollow (n + t.bales) ts

/-- Expansion clips of a tensor whose bales lie at `a` (R41, R42). -/
def tensorClips (m : Mem) (a : Nat) (t : Tensor) : Nat :=
  sumOf (fun b =>
    let at_ := t.blockAt b
    let scale := (memGet m (a + at_.2)).toNat
    ((List.range 32).filter (fun i => (expandWeight (weightElem m t (a + at_.1) i) scale).2)).length)
    (List.range t.blocks)

def toTensor (x : (Nat × Nat × Nat × Nat × Nat) × Nat × Bool × List U16) : Tensor :=
  { number := x.1.1, layer := x.1.2.1, format := x.1.2.2.1, k := x.1.2.2.2.1, n := x.1.2.2.2.2,
    firstBale := x.2.1, reserve := x.2.2.1, codebook := x.2.2.2 }

/-- The tensors of a tensor table; a section of no bytes lists none. -/
def tensorsOf (bytes : List Byte) : Option (List Tensor) :=
  if bytes.isEmpty then some [] else (Config.parseTensors bytes).map (·.map toTensor)

/-! ### Layers and the safeguard's fixed part (R42, R56, R59) -/

/-- `clipped` · 2^32 exceeds limit · `values` (R55). -/
def shareExceeds (clipped values : Nat) (limit : U32) : Bool :=
  decide (clipped * 2 ^ 32 > limit.toNat * values)

def toLayer (s : State) (m : Mem) (weightsAt : Nat) (ts : List Tensor) (n : Nat)
    (x : Nat × Bool × Option U32 × Option U32) : Layer :=
  let mine := layerTensors ts n false
  let backed := !(layerTensors ts n true).isEmpty
  let clips := sumOf (tensorClips m weightsAt) mine
  let weights := sumOf (fun t => t.k * t.n) mine
  let wt := x.2.2.2.getD (BitVec.ofNat 32 (s.setting 0x5200 2))
  { format := x.1, staticClip := BitVec.ofNat 64 clips, weights := BitVec.ofNat 64 weights,
    actLimit := x.2.2.1.getD (BitVec.ofNat 32 (s.setting 0x5200 1)), wtLimit := wt,
    hasReserve := backed, fp8 := x.2.1, route := backed && shareExceeds clips weights wt, counts := [] }

/-! ### Attention descriptors and bias tables (R221, R232) -/

def attAt (m : Mem) (a layer : Nat) : AttDesc :=
  { layer := layer, headsQ := readLe m a 2, headsKv := readLe m (a + 2) 1, kvFmt := readLe m (a + 3) 1,
    headDim := readLe m (a + 4) 2, mask := readLe m (a + 6) 1, bias := readLe m (a + 7) 1,
    span := readLe m (a + 8) 4, parts := readLe m (a + 12) 1 }

def attOk (d : AttDesc) : Bool :=
  decide (1 ≤ d.headsQ ∧ d.headsQ ≤ 256) && decide (1 ≤ d.headsKv ∧ d.headsKv ≤ 64) &&
    (d.kvFmt == 1 || d.kvFmt == 2) && decide (64 ≤ d.headDim ∧ d.headDim ≤ 512) && d.headDim % 64 == 0 &&
    decide (d.mask ≤ 3) && decide (d.bias ≤ 2) &&
    (if d.mask == 1 then decide (1 ≤ d.span ∧ d.span ≤ 2097152) else d.span == 0) &&
    [1, 2, 4, 8].contains d.parts && d.headsQ % d.headsKv == 0 && decide (d.headsQ / d.headsKv ≤ 16) &&
    d.headsKv % d.parts == 0

def biasEntries (d : AttDesc) : Nat := if d.bias == 0 then 0 else d.headsQ * (256 * d.bias)

/-- Bias tables in layer order from address `a`. -/
def biasTables (m : Mem) : Nat → List AttDesc → List (Nat × List U32)
  | _, [] => []
  | a, d :: ds =>
    if d.bias == 0 then biasTables m a ds
    else (d.layer, (List.range (biasEntries d)).map (fun i => BitVec.ofNat 32 (readLe m (a + 4 * i) 4))) ::
      biasTables m (a + 4 * biasEntries d) ds

/-- No entry is NaN or +∞. -/
def biasOk (b : List (Nat × List U32)) : Bool :=
  b.all (fun t => t.2.all (fun x => match readFp32 x with
    | .nan _ => false
    | .inf s => s
    | .fin .. => true))

/-! ### Reading and checking an image -/

/-- Everything a load takes from an image. -/
structure Image where
  dir : ImageDir
  tensors : List Tensor
  weightsAt : Nat
  weightsLen : Nat
  attention : List AttDesc
  bias : List (Nat × List U32)
  programs : List Program
  vocab : Option Vocab
  deriving DecidableEq, Repr

def sectionAt (a : Nat) (d : ImageDir) (k : Nat) : Nat := a + ((d.section? k).map (·.offset)).getD 0
def sectionLen (d : ImageDir) (k : Nat) : Nat := ((d.section? k).map (·.length)).getD 0

def readAttention (m : Mem) (a : Nat) (d : ImageDir) : List AttDesc :=
  let table := sectionBytes m a d 0x0011
  let ls := if table.isEmpty then [] else Config.attentionLayers table
  ls.mapIdx (fun i l => attAt m (sectionAt a d 0x0013 + 16 * i) l)

/-- The programs of a program section; a section of no bytes lists none. -/
def readPrograms (bytes : List Byte) : Option (List Program) :=
  if bytes.isEmpty then some [] else (Config.parsePrograms bytes).map (·.map (fun x =>
    { vc := x.1, code := x.2.2.2, workBytes := x.2.1, consts := x.2.2.1 }))

/-- The image at `a`, when the conditions of R541 and of Table 9-2 hold and its sections can be read. -/
def readImage (m : Mem) (a : Nat) : Option Image :=
  let d := readDir m a
  let att := readAttention m a d
  let bias := biasTables m (sectionAt a d 0x0014) att
  let voc := d.section? 0x0070
  let vocab := voc.bind (fun s => parseVocab m (a + s.offset) s.length)
  if dirOk m a d && sectionsOk m a d && (d.section? 0x0011).isSome && (d.section? 0x0012).isSome &&
      (d.section? 0x0015).isSome && (att.isEmpty || (d.section? 0x0013).isSome) &&
      sectionLen d 0x0013 == 16 * att.length &&
      (bias.isEmpty || (d.section? 0x0014).isSome) &&
      sectionLen d 0x0014 == sumOf (fun x => 4 * biasEntries x) att &&
      (List.range att.length).all (fun i => zeroRange m (sectionAt a d 0x0013 + 16 * i + 13) 3) &&
      voc.isSome == vocab.isSome then
    match tensorsOf (sectionBytes m a d 0x0011), readPrograms (sectionBytes m a d 0x0015) with
    | some ts, some ps =>
      some { dir := d, tensors := ts, weightsAt := sectionAt a d 0x0012, weightsLen := sectionLen d 0x0012,
             attention := att, bias := bias, programs := ps, vocab := vocab }
    | _, _ => none
  else none

/-- An image whose tensor table and program section have no bytes calls for no rotation, no rescaling and no
embedding table. -/
def imageBare (m : Mem) (a : Nat) (d : ImageDir) : Bool :=
  (sectionBytes m a d 0x0011).isEmpty && (sectionBytes m a d 0x0015).isEmpty

/-- The layers that the tensor table describes. -/
def imageLayers (m : Mem) (a : Nat) (d : ImageDir) : List (Nat × Bool × Option U32 × Option U32) :=
  let table := sectionBytes m a d 0x0011
  if table.isEmpty then [] else Config.parseLayers table

/-- The value that a scalar register holds wherever the program reads it, where one LOADI alone writes it. -/
def Program.constantReg (p : Program) (r : Nat) : Option U64 :=
  match p.code.filter (fun w => (wClass w == 1 && decide (wOp w ≤ 9) && wRd w == r) ||
      (wClass w == 0 && wOp w == 2 && wLoopReg w == r)) with
  | [w] => if wClass w == 1 && wOp w == 8 then some (wImm64 w) else none
  | _ => none

/-- The word is a BARRIER or a COLLECT at barrier `b`. -/
def meetsAt (b : Nat) (w : CoreWord) : Bool := wClass w == 0 && (wOp w == 7 || wOp w == 8) && wBarrier w == b

/-- Every COLLECT is at a barrier number whose core mask names one virtual core, as far as the programs show: no other
program meets there, and a mask that a BARRIER there takes from a constant names one (R411, R412, R415).
(Log entry 27: DEDUCED, unsafe.) -/
def collectsAlone (ps : List Program) : Bool :=
  ps.all (fun p => (p.code.filter (fun w => wClass w == 0 && wOp w == 8)).all (fun w =>
    ps.all (fun q => q.vc == p.vc || !q.code.any (meetsAt (wBarrier w))) &&
      (p.code.filter (fun u => meetsAt (wBarrier w) u && wOp u == 7)).all (fun u =>
        (p.constantReg (wCoreMaskReg u)).all (fun m => ((List.range 64).filter m.getLsbD).length == 1))))

/-- Some program has a COLLECT. -/
def anyCollect (ps : List Program) : Bool := ps.any (fun p => p.code.any (fun w => wClass w == 0 && wOp w == 8))

/-- The load checks of the other chapters that answer BAD_PARAM. (Log entry 27: DEDUCED, unsafe.) -/
def modelImageOk (m : Mem) (a : Nat) (im : Image) : Bool :=
  let bytes := readBytes m a (im.dir.bales * 65536)
  im.tensors.all (tensorOk m im.weightsAt im.weightsLen) && tensorsFollow 0 im.tensors &&
    pairwise (fun x y => x.number != y.number) im.tensors &&
    im.tensors.all (fun t => reserveOk im.tensors t.layer) &&
    (imageLayers m a im.dir).all (fun l => decide (1 ≤ l.1 ∧ l.1 ≤ 4)) &&
    im.attention.all attOk && biasOk im.bias &&
    im.programs.all (programOk (im.tensors.map (·.number)) im.attention) &&
    pairwise (fun x y => x.vc != y.vc) im.programs &&
    collectsAlone im.programs &&
    (!anyCollect im.programs || Config.collectMasks (sectionBytes m a im.dir 0x0015)) &&
    (imageBare m a im.dir || (Config.rotationSizes bytes).all (fun n => (List.range 7).any (fun i => n == 2 ^ (6 + i))))

/-- The work areas and the placement of the programs, beside those of every version loaded; a staging range lies in
the loft of a quadrant in service (R30, R202, R211). (Log entry 102: DEDUCED, unsafe.) -/
def State.placesPrograms (s : State) (ps : List Program) (staging : List ((Nat × Nat) × Nat × Nat)) : Bool :=
  let area := s.job.workMib * 1048576
  let all := s.models.versions.flatMap (·.programs) ++ ps
  let need (vc : Nat) : Nat := sumOf (·.workBytes) (all.filter (fun p => p.vc == vc))
  ps.all (fun p => decide (p.workBytes ≤ area)) &&
    placeable (((all.map (·.vc)).eraseDups).map need) (s.coresInService.map (fun _ => area)) &&
    staging.all (fun g => g.1.1 != 0 || s.inService g.1.2)

/-- Staging ranges that the programs of an image declare (R207). -/
def imageStaging (m : Mem) (a : Nat) (im : Image) : List ((Nat × Nat) × Nat × Nat) :=
  if im.programs.isEmpty then [] else Config.stagingRanges (sectionBytes m a im.dir 0x0015)

/-! ### MODEL_LOAD (R254) -/

structure LoadModel where
  image : Nat
  shared : Bool
  standby : Bool
  bales : Nat

def loadModelArgs (r : Record) : LoadModel :=
  { image := r.fieldN 16 6, shared := bitAt r.bits (8 * 22), standby := bitAt r.bits (8 * 22 + 1),
    bales := r.fieldN 24 4 }

def State.ringModule (s : State) (ring : Nat) : Bool := s.setting (cmdObj ring) 6 == 0xFFFF

/-- `shared` and owner of a model number in use. -/
def State.modelUse (s : State) (n : Nat) : Option Version := s.models.versions.find? (fun v => v.model == n)

/-- Step 5 of MODEL_LOAD. -/
def loadModelHandle (s : State) (r : Record) : Bool :=
  let n := modelNumber r.handle
  let a := loadModelArgs r
  handleTenant r.handle == r.tenant && n != 0 &&
    match s.modelUse n with
    | none => !a.shared || s.ringModule r.ring
    | some v => if v.shared then s.ringModule r.ring
        else v.owner == r.tenant && (!a.shared || s.ringModule r.ring)

/-- `shared` agrees with the model's earlier versions. -/
def sharedAgrees (s : State) (n : Nat) (shared : Bool) : Bool :=
  match s.models.known.find? (fun k => k.1 == n) with
  | none => true
  | some k => k.2.2 == shared

/-- The lowest table number that no table has. (Log entry 53: DEDUCED, unsafe.) -/
def State.unusedTable (s : State) : Option Nat :=
  (List.range 4096).find? (fun n => (s.table? n).isNone)

/-- The token embedding table of an image (R151): a shared static table. (Log entry 53: DEDUCED, unsafe.) -/
def newEmbedTable (s : State) (owner a bales : Nat) : Option Table :=
  let bytes := readBytes s.t2 a (bales * 65536)
  match (if imageBare s.t2 a (readDir s.t2 a) then none else Config.embedTable bytes), s.unusedTable with
  | some e, some n =>
    let blank : Table :=
      { Table.blank with number := n, owner := owner, rows := e.1, width := e.2.1, format := e.2.2,
                         flags := 0x0A, loaded := true }
    some { blank with
      data := ((List.range e.1).map (fun row =>
        (row, (List.range e.2.1).map (Config.embedElem bytes row)))) }
  | _, _ => none

def newVersion (s : State) (r : Record) (a : LoadModel) (im : Image) (table : Option Table) : Version :=
  { model := modelNumber r.handle, version := modelVersion r.handle, owner := r.tenant,
    shared := a.shared, state := 2, role := im.dir.role, draftMax := im.dir.draftMax,
    maxLen := im.dir.maxLen, outDim := im.dir.outDim,
    outTokens := Config.outTokens (sectionBytes s.t2 a.image im.dir 0x0011), bales := im.dir.bales, params := im.dir.params,
    safeguard := BitVec.ofNat 2 (s.setting 0x5200 3),
    layers := (imageLayers s.t2 a.image im.dir).mapIdx (toLayer s s.t2 im.weightsAt im.tensors),
    tensors := im.tensors, weights := writeBytes [] 0 (readBytes s.t2 im.weightsAt im.weightsLen),
    attention := im.attention, bias := im.bias, programs := im.programs,
    staging := imageStaging s.t2 a.image im, vocab := im.vocab,
    embedTable := table.map (·.number), pinned := false,
    digest := digest256 (readBytes s.t2 a.image (a.bales * 65536)) }

/-- Makes a version current at one instant; the previous current version becomes retiring and is freed
when nothing pins it. -/
def State.makeCurrent (s : State) (model version : Nat) : State :=
  let vs := s.models.versions.map (fun (v : Version) =>
    if v.is model version then { v with state := 3 }
    else if v.model == model && v.state == 3 then { v with state := 4 } else v)
  ({ s with models := { s.models with versions := vs } }).freeRetired

/-- Places the programs of a version on virtual cores that hold none. -/
def State.placeCores (s : State) (v : Version) : State :=
  { s with cores := { s.cores with
      vcores := (v.programs.filter (fun p => s.cores.vcores.all (fun c => c.1 != p.vc))).foldl
        (fun l p => l ++ [(p.vc, { VCore.idle with
          model := v.model, version := v.version, workBytes := p.workBytes, consts := p.consts,
          code := p.code })]) s.cores.vcores } }

def runModelLoad (r : Record) (id : Nat) (s : State) : State :=
  let a := loadModelArgs r
  match readImage s.t2 a.image with
  | none => s.complete r id stBadParam []
  | some im =>
    let table := newEmbedTable s r.tenant a.image a.bales
    let v := newVersion s r a im table
    let s := s.modSheaf (fun x => { x with tables := x.tables ++ table.toList })
    let s := { s with
      models := { s.models with
        versions := s.models.versions ++ [v],
        highest := insertKey s.models.highest v.model v.version,
        known := if s.models.known.any (fun k => k.1 == v.model) then s.models.known
          else s.models.known ++ [(v.model, v.owner, v.shared)] } }
    let s := (s.placeCores v).notePeaks (chargedTo v.shared v.owner)
    let s := if a.standby then s else s.makeCurrent v.model v.version
    s.complete r id stOk []

/-- Operand bytes with no field are read as reserved (R8). (Log entry 122: DEDUCED, unsafe.) -/
def planModelLoad (r : Record) (s : State) : Plan :=
  let a := loadModelArgs r
  let im := readImage s.t2 a.image
  let bytes := readBytes s.t2 a.image (a.bales * 65536)
  let owner := chargedTo a.shared r.tenant
  { reserved := modelReserved r.handle && r.fieldN 22 1 / 4 == 0 && zeroBytes r 23 24 && zeroBytes r 28 64,
    served := s.serviceBase, tenantOk := s.tenantOk r,
    checks := [(loadModelHandle s r, stDenied),
      (t2Arg s a.image (a.bales * 65536) 65536, stBadParam),
      (modelVersion r.handle != 0, stBadParam),
      (decide (lookupD s.models.highest (modelNumber r.handle) 0 < modelVersion r.handle), stBadParam),
      (a.bales == readLe s.t2 (a.image + 12) 4, stBadParam),
      (sharedAgrees s (modelNumber r.handle) a.shared, stBadParam),
      (im.any (modelImageOk s.t2 a.image), stBadParam),
      (im.any (fun x => imageBare s.t2 a.image x.dir) || !Config.needsRescale bytes, stNotSupported),
      (im.any (fun x => s.placesPrograms x.programs (imageStaging s.t2 a.image x)), stNoSpace),
      (s.t1Fits owner (a.bales + ((newEmbedTable s r.tenant a.image a.bales).map Table.bales).getD 0), stNoSpace),
      (s.budgetOk r.tenant 8, stBudget)],
    run := runModelLoad r,
    sources := [(a.image, a.bales * 65536)] }

def execModelLoad (r : Record) (s : State) : Host.Outcome State Fault Refusal :=
  .next (s.record r 0x0640 planModelLoad)

/-! ### MODEL_RETIRE, MODEL_CURRENT (R254, R256) -/

/-- A shared model is changed only from a ring of the module, as R67 for indexes. -/
def modelRing (s : State) (r : Record) : Bool :=
  match s.modelUse (modelNumber r.handle) with
  | some v => !v.shared || s.ringModule r.ring
  | none => true

/-- The version that a model command names, whatever its state. -/
def named (s : State) (r : Record) : Option Version :=
  if modelVersion r.handle = 0 then s.resolve r.handle
  else s.version? (modelNumber r.handle) (modelVersion r.handle)

def runModelRetire (r : Record) (id : Nat) (s : State) : State :=
  let s := match named s r with
    | some v => (s.modVersion v.model v.version (fun v => { v with state := 4 })).freeRetired
    | none => s
  s.complete r id stOk []

def planModelRetire (r : Record) (s : State) : Plan :=
  { reserved := modelReserved r.handle && zeroBytes r 16 64, served := s.serviceBase,
    tenantOk := s.tenantOk r,
    checks := [(modelHandleOk s r && modelRing s r, stDenied),
      ((named s r).any (fun v => v.state != 1), stWrongState),
      (s.budgetOk r.tenant 8, stBudget)],
    run := runModelRetire r }

def execModelRetire (r : Record) (s : State) : Host.Outcome State Fault Refusal :=
  .next (s.record r 0x0641 planModelRetire)

def runModelCurrent (r : Record) (id : Nat) (s : State) : State :=
  let s := match named s r with
    | some v => s.makeCurrent v.model v.version
    | none => s
  s.complete r id stOk []

def planModelCurrent (r : Record) (s : State) : Plan :=
  { reserved := modelReserved r.handle && zeroBytes r 16 64, served := s.serviceBase,
    tenantOk := s.tenantOk r,
    checks := [(modelHandleOk s r && modelRing s r, stDenied),
      ((named s r).any (fun v => v.state == 2 || v.state == 4), stWrongState),
      (s.budgetOk r.tenant 8, stBudget)],
    run := runModelCurrent r }

def execModelCurrent (r : Record) (s : State) : Host.Outcome State Fault Refusal :=
  .next (s.record r 0x0642 planModelCurrent)

/-! ### The hot model cache (R257, R258) -/

/-- A version of the model handle that a cached bale belongs to is pinned. -/
def State.balePinned (s : State) (b : CachedBale) : Bool :=
  (s.version? b.model b.version).any (·.pinned)

/-- Least recently used first; equal ages by (model handle, bale number). -/
def State.baleBefore (s : State) (a b : CachedBale) : Bool :=
  let key (x : CachedBale) : Nat :=
    let owner := ((s.version? x.model x.version).map (·.owner)).getD 0
    ((owner * 2 ^ 36 + x.model * 65536 + x.version) * 2 ^ 32) + x.bale
  if a.used == b.used then decide (key a ≤ key b) else decide (a.used ≤ b.used)

/-- Bales that a step of a version reads. (Log entry 54: DESIGN CHOICE, safe.) -/
def stepBales (v : Version) (step : U64) : List Nat :=
  (List.range v.bales).filter (Config.readsBale v.model v.version step.toNat)

/-- A step of these versions uses the bale. -/
def usedBy (keys : List (Nat × Nat)) (step : U64) (b : CachedBale) : Bool :=
  keys.contains (b.model, b.version) && Config.readsBale b.model b.version step.toNat b.bale

/-- The open step uses the bale: it is not displaced (R258). -/
def State.inStep (s : State) (b : CachedBale) : Bool := match s.step with
  | some o => usedBy (s.stepKeys o) o.number b
  | none => false

/-- Bales enter the cache, displacing unpinned bales that `busy` does not hold. What does not fit stays
out. -/
def State.cacheIn (s : State) (news : List CachedBale) (busy : CachedBale → Bool) : State :=
  let cap := s.cacheMib * 16
  let excess := s.models.cache.length + news.length - cap
  let victims := (sortBy s.baleBefore
    (s.models.cache.filter (fun b => !s.balePinned b && !busy b))).take excess
  let kept := s.models.cache.filter (fun b => !victims.contains b)
  let entered := news.take (cap - kept.length)
  { s with models := { s.models with
      cache := kept ++ entered,
      misses := s.models.misses + BitVec.ofNat 64 entered.length,
      evictions := s.models.evictions + BitVec.ofNat 64 victims.length,
      swapBytes := s.models.swapBytes + BitVec.ofNat 64 (65536 * entered.length) } }

def Models.resident (m : Models) (v : Version) : List CachedBale :=
  m.cache.filter (fun b => b.model == v.model && b.version == v.version)

/-- The version's bales that are not on chip. -/
def State.absentBales (s : State) (v : Version) : List CachedBale :=
  ((List.range v.bales).filter (fun n => !(s.models.resident v).any (fun b => b.bale == n))).map
    (fun n => { model := v.model, version := v.version, bale := n, used := s.job.steps.toNat })

/-- Bales of pinned versions that a step's bales kept out enter the cache at the step's end (R258). (Log entry 132:
DEDUCED, safe.) -/
def State.fillPinned (s : State) : State :=
  (s.models.versions.filter (·.pinned)).foldl (fun s v => s.cacheIn (s.absentBales v) (fun _ => false)) s

def State.pinnedBales (s : State) : Nat := sumOf (·.bales) (s.models.versions.filter (·.pinned))

def runModelPin (r : Record) (id : Nat) (s : State) : State :=
  let pin := r.fieldN 16 1 == 1
  let s := match named s r with
    | some v =>
      let s := s.modVersion v.model v.version (fun v => { v with pinned := pin })
      if pin then s.cacheIn (s.absentBales v) s.inStep else s
    | none => s
  s.complete r id stOk []

def planModelPin (r : Record) (s : State) : Plan :=
  let v := named s r
  let pin := r.fieldN 16 1 == 1
  let grows := v.any (fun v => pin && !v.pinned)
  let need := (v.map (·.bales)).getD 0
  { reserved := modelReserved r.handle && zeroBytes r 17 64, served := s.serviceBase,
    tenantOk := s.tenantOk r,
    checks := [(modelHandleOk s r && modelRing s r, stDenied),
      (decide (r.fieldN 16 1 ≤ 1), stBadParam),
      (v.any (fun v => v.state != 1), stWrongState),
      (!grows || (decide (s.pinnedBales + need ≤ s.cacheMib * 16) &&
        s.t0Fits ((v.map (fun v => chargedTo v.shared v.owner)).getD 0) (65536 * need)), stNoSpace),
      (s.budgetOk r.tenant 8, stBudget)],
    run := runModelPin r }

def execModelPin (r : Record) (s : State) : Host.Outcome State Fault Refusal :=
  .next (s.record r 0x0643 planModelPin)

end Sys2Proof.Machine
end

