-- ==== Sys2Proof/Machine/Arrays.lean ====
section
/-!
DEFINITION. The MMA instruction (07 R190 to R201; 02 R40, R41, R43 to R48).
-/

namespace Sys2Proof.Machine

/-! ### Weights -/

/-- The tensor that backs a narrow tensor of a layer: the one at its place among the layer's reserve
tensors (R36). -/
def Version.reserveOf (v : Version) (t : Tensor) : Option Tensor :=
  let mine := v.tensors.filter (fun x => x.layer == t.layer)
  (mine.filter (·.reserve))[(mine.filter (fun x => !x.reserve)).idxOf t]?

/-- The expanded weight of K position `k` and column `n` (R40, R41, R197). -/
def Tensor.weight (t : Tensor) (m : Mem) (k n : Nat) : U16 :=
  let b := t.blockAt ((n / 8 * t.kBlocks + k / 32) * 8 + n % 8)
  (expandWeight (weightElem m t b.1 (k % 32)) (memGet m b.2).toNat).1

/-- The tile stays within the tensor (R192). -/
def Tensor.covers (t : Tensor) (x : Tile) (g kg cg : Nat) : Bool :=
  decide (32 * x.kb + g * kg ≤ 32 * t.kBlocks) && decide (8 * (x.cg + cg) ≤ t.n)

/-! ### Row modes (R57 to R59, R195) -/

/-- How the rows of an MMA run: narrow under `amode`, BF16 against the narrow weights, or BF16 against the
reserve copy. -/
inductive RowMode where
  | narrow | fallback | reserve
  deriving DecidableEq, Repr

/-- The row's sequence is in fallback or reserve routing in the layer before: its activations are BF16 (R57, R58). A
layer routed for every sequence (R59) puts nobody into fallback, so that the next layer keeps its own activation mode
and key-value entries stay in the version's format. (Log entry 105: DESIGN CHOICE, unsafe.) -/
def RowTag.bf16Before (t : RowTag) (layer : Nat) : Bool :=
  decide (0 < layer) && t.modes.getD (layer - 1) 0 != 0

def rowMode (v : Version) (t : RowTag) (layer : Nat) : RowMode :=
  let m := t.modes.getD layer 0
  if m.getLsbD 1 || (v.layers[layer]?).any (·.route) then .reserve
  else if m.getLsbD 0 || t.bf16Before layer then .fallback
  else .narrow

/-- Format of a row's activations: the instruction's, or BF16. (Log entry 44: DEDUCED, unsafe.) -/
def rowAmode (mode : RowMode) (amode : Nat) : Nat :=
  match mode with
  | .narrow => amode
  | _ => 0

/-- Format of a row's output: fallback and reserve rows convert to BF16 whatever `out` says, unless it is FP32
(R195). -/
def rowOut (v : Version) (t : RowTag) (layer out : Nat) : Nat :=
  if out = 0 then 0 else if rowMode v t layer = .narrow then out else 1

/-! ### One row (R47, R194) -/

/-- Element format code of an `amode`: BF16, E4M3, E5M2. -/
def amodeFmt (amode : Nat) : Nat := amode + 1

/-- One output element: the ascending-K sum in groups of g. -/
def mmaElem (sram weights : Mem) (t : Tensor) (x : Tile) (amode groups act : Nat) (acc : U32) (n : Nat) : U32 :=
  let count := groupSize amode * groups
  groupSum (groupSize amode) acc ((List.range count).map (fun k =>
    fpMul (readElem sram (amodeFmt amode) act k)
      (readBf16 (t.weight weights (32 * x.kb + k) (8 * x.cg + n)))))

/-- What an MMA needs of one row. -/
structure MmaRow where
  index : Nat
  tag : RowTag
  mode : RowMode
  deriving DecidableEq, Repr

/-- What an MMA reads beside the row: the version, the narrow tensor and its reserve copy. -/
structure MmaCtx where
  v : Version
  t : Tensor
  r : Option Tensor
  x : Tile
  deriving DecidableEq, Repr

def MmaCtx.tensor (a : MmaCtx) (mode : RowMode) : Tensor :=
  match mode with
  | .reserve => a.r.getD a.t
  | _ => a.t

/-- K groups of a row: the same K positions in groups of the row's own g. -/
def rowGroups (w : CoreWord) (mode : RowMode) : Nat :=
  groupSize (mAmode w) * mKg w / groupSize (rowAmode mode (mAmode w))

/-- FP32 results of a row, from the core SRAM as the instruction found it. -/
def MmaCtx.row (a : MmaCtx) (sram : Mem) (w : CoreWord) (r : MmaRow) : List U32 :=
  let dst := mDst w + r.index * a.x.pitch
  (List.range (8 * mCg w)).map (fun n =>
    mmaElem sram a.v.weights (a.tensor r.mode) a.x (rowAmode r.mode (mAmode w)) (rowGroups w r.mode)
      (mAct w + r.index * a.x.pitch)
      (if mCont w then BitVec.ofNat 32 (readLe sram (dst + 4 * n) 4) else 0) n)

/-! ### The instruction -/

/-- Tagged rows in ascending order. -/
def mmaRows (c : VCore) (v : Version) (t : Tensor) (x : Tile) (w : CoreWord) : List MmaRow :=
  (List.range (mRows w)).filterMap (fun i => (c.tag? (x.tag + i)).map (fun g =>
    ⟨i, g, rowMode v g t.layer⟩))

/-- The context of an MMA: none when the virtual core's version or the tensor is not there. -/
def State.mmaCtx (s : State) (c : VCore) (w : CoreWord) : Option MmaCtx :=
  match s.coreVersion c with
  | none => none
  | some v => (v.tensors.find? (fun t => t.number == mTensor w && !t.reserve)).map (fun t =>
      ⟨v, t, v.reserveOf t, c.tile (mSreg w)⟩)

/-- Bytes of activations and of output of row `i`, at the formats the row takes. -/
def MmaCtx.rowFits (a : MmaCtx) (c : VCore) (w : CoreWord) (i : Nat) : Bool :=
  let tag := c.tag? (a.x.tag + i)
  let am := (tag.map (fun g => rowAmode (rowMode a.v g a.t.layer) (mAmode w))).getD (mAmode w)
  let out := (tag.map (fun g => rowOut a.v g a.t.layer (mOut w))).getD (mOut w)
  c.inArea (mAct w + i * a.x.pitch) (groupSize (mAmode w) * mKg w * fmtBytes (amodeFmt am)) &&
    c.inArea (mDst w + i * a.x.pitch) (8 * mCg w * fmtBytes out)

def State.mmaOk (s : State) (c : VCore) (w : CoreWord) : Bool :=
  match s.mmaCtx c w with
  | none => false
  | some a => a.t.covers a.x (groupSize (mAmode w)) (mKg w) (mCg w) &&
      (List.range (mRows w)).all (a.rowFits c w)

/-- Sub-instructions of an MMA: the modes its rows have, in the order of R195. -/
def mmaModes (rows : List MmaRow) : List RowMode :=
  [RowMode.narrow, RowMode.fallback, RowMode.reserve].filter (fun m => rows.any (fun r => decide (r.mode = m)))

/-- Array steps of the sub-instructions on a core of width `width` (R194, R201). -/
def mmaSteps (w : CoreWord) (width : Nat) (modes : List RowMode) : Nat :=
  (modes.map (fun m => ceilDiv (mCg w) width * rowGroups w m)).foldl (· + ·) 0

def State.modCoreCounts (s : State) (n : Nat) (f : CoreCounts → CoreCounts) : State :=
  { s with cores := { s.cores with counts := vMod s.cores.counts n f } }

/-- Counts of the core that ran an MMA (object 0x2100). -/
def State.countMma (s : State) (vc : Nat) (w : CoreWord) (modes : List RowMode) : State :=
  let n := s.coreOf vc
  let k := mmaSteps w (s.coreWidth n) modes
  s.modCoreCounts n (fun x => { x with
    steps := x.steps + BitVec.ofNat 64 k,
    rowSplits := if 1 < modes.length then x.rowSplits + 1 else x.rowSplits })

/-- One row's output and its clips: where, bytes, tag, values and clips counted. -/
structure RowResult where
  addr : Nat
  bytes : List Byte
  tag : Option RowTag
  values : Nat
  clipped : Nat
  deriving DecidableEq, Repr

/-- Writes the rows' results and counts their narrowing conversions. -/
def State.putRows (s : State) (vc layer : Nat) (rows : List RowResult) : State :=
  let s := s.modVcore vc (fun c => { c with sram := writeRows c.sram (rows.map (fun r => (r.addr, r.bytes))) })
  rows.foldl (fun s r => s.noteNarrow r.tag layer r.values r.clipped) s

def MmaCtx.result (a : MmaCtx) (sram : Mem) (w : CoreWord) (r : MmaRow) : RowResult :=
  let out := rowOut a.v r.tag a.t.layer (mOut w)
  let y := convertRow out (a.row sram w r)
  { addr := mDst w + r.index * a.x.pitch, bytes := y.1, tag := some r.tag,
    values := if out = 0 then 0 else 8 * mCg w, clipped := y.2 }

def State.runMma (s : State) (vc : Nat) (c : VCore) (w : CoreWord) (a : MmaCtx) : State :=
  let rows := mmaRows c a.v a.t a.x w
  (s.putRows vc (mLayer w) (rows.map (a.result c.sram w))).countMma vc w (mmaModes rows)

/-- MMA: every element is read before any is written, so that passes and sub-instructions give the same
bits at every width (R201). -/
def execMma (vc : Nat) (w : CoreWord) (s : State) : Host.Outcome State Fault Refusal :=
  .next (s.issueIn vc w (isOp w 2 0) (fun c s => s.mmaOk c w) (fun c s =>
    match s.mmaCtx c w with
    | some a => s.runMma vc c w a
    | none => s))

end Sys2Proof.Machine
end

