-- ==== Sys2Proof/Machine/Gleaner.lean ====
section
/-!
DEFINITION. Vector search (03): indexes, partitions, deltas, publishes, images and SEARCH.
-/

namespace Sys2Proof.Machine

/-! ### Slots and partitions -/

def State.modSlot (s : State) (i : Nat) (f : IndexSlot → IndexSlot) : State :=
  { s with slots := vMod s.slots i f }

def State.putPartition (s : State) (p : Partition) : State :=
  { s with partitions :=
      s.partitions.filter (fun x => !(x.slot == p.slot && x.tenant == p.tenant)) ++ [p] }

/-- Index handle (R66). -/
def indexReserved (h : U64) : Bool := bitsOf h 63 48 == 0 && bitsOf h 35 4 == 0

/-- Step 5 for an index: the handle's tenant is the record's, and the slot holds that tenant's private
index or a shared one. -/
def indexHandleOk (s : State) (r : Record) : Bool :=
  let sl := s.slot (indexSlotOf r.handle)
  handleTenant r.handle == r.tenant && sl.state != 0 && (sl.owner == 0xFFFF || sl.owner == r.tenant)

def State.ringIsModule (s : State) (ring : Nat) : Bool := s.setting (cmdObj ring) 6 == 0xFFFF

/-! ### INDEX_CREATE (R93) -/

/-- Operands of Table 3-4. -/
structure CreateArgs where
  dim : Nat
  format : Nat
  metric : Nat
  homeBits : Nat
  echoTables : Nat
  echoBits : Nat
  shared : Bool
  learned : Bool
  seed : Nat
  proj : Nat
  probes : Nat
  k : Nat
  exactBelow : Nat
  bucketTarget : Nat
  publishMs : Nat
  deltaMax : Nat
  deriving DecidableEq, Repr

def createArgs (r : Record) : CreateArgs :=
  { dim := r.fieldN 16 2, format := r.fieldN 18 1, metric := r.fieldN 19 1, homeBits := r.fieldN 20 1,
    echoTables := r.fieldN 21 1, echoBits := r.fieldN 22 1, shared := r.fieldN 23 1 % 2 == 1,
    learned := r.fieldN 23 1 / 2 % 2 == 1, seed := r.fieldN 24 8, proj := r.fieldN 32 6,
    probes := r.fieldN 38 2, k := r.fieldN 40 4, exactBelow := r.fieldN 44 4,
    bucketTarget := r.fieldN 48 2, publishMs := r.fieldN 50 2, deltaMax := r.fieldN 52 4 }

def dimOk (d : Nat) : Bool := decide (64 ≤ d ∧ d ≤ 2048) && d % 64 == 0

/-- Entries of a learned projection. -/
def learnedCount (a : CreateArgs) : Nat := 24 * (1 + a.echoTables) * a.dim

def createOperandsOk (s : State) (a : CreateArgs) : Bool :=
  dimOk a.dim && (a.format == 1 || a.format == 2) && decide (a.metric ≤ 2) &&
    (a.homeBits == 0 || decide (12 ≤ a.homeBits ∧ a.homeBits ≤ 24)) && decide (a.echoTables ≤ 15) &&
    (if a.echoTables == 0 then a.echoBits == 0 else decide (12 ≤ a.echoBits ∧ a.echoBits ≤ 24)) &&
    (if a.learned then t2Arg s a.proj (2 * learnedCount a) 64 else a.proj == 0) &&
    decide (a.probes ≤ 4096) && decide (a.k ≤ 1048576) &&
    (a.bucketTarget == 0 || decide (256 ≤ a.bucketTarget ∧ a.bucketTarget ≤ 16384)) &&
    decide (a.publishMs ≤ 60000) && decide (65536 ≤ a.deltaMax ∧ a.deltaMax ≤ 16777216)

def learnedEntries (m : Mem) (a : CreateArgs) : List U16 :=
  if a.learned then
    (List.range (learnedCount a)).map (fun i => BitVec.ofNat 16 (readLe m (a.proj + 2 * i) 2))
  else []

def orDefault (v d : Nat) : Nat := if v == 0 then d else v

def runIndexCreate (r : Record) (id : Nat) (s : State) : State :=
  let a := createArgs r
  let sl : IndexSlot :=
    { state := 2, owner := if a.shared then 0xFFFF else r.tenant, dim := a.dim, format := a.format,
      metric := a.metric, homeBits := a.homeBits, echoTables := a.echoTables, echoBits := a.echoBits,
      learned := a.learned, seed := BitVec.ofNat 64 a.seed, proj := learnedEntries s.t2 a,
      probes := orDefault a.probes (s.setting 0x4000 5), k := orDefault a.k (s.setting 0x4000 6),
      exactBelow := a.exactBelow, bucketTarget := orDefault a.bucketTarget (s.setting 0x4000 4),
      publishMs := a.publishMs, deltaMax := a.deltaMax }
  (s.modSlot (indexSlotOf r.handle) (fun _ => sl)).complete r id stOk []

def planIndexCreate (r : Record) (s : State) : Plan :=
  let a := createArgs r
  { reserved := indexReserved r.handle && r.fieldN 23 1 / 4 == 0 && zeroBytes r 56 64,
    served := s.serviceSearch, tenantOk := s.tenantOk r,
    checks := [(handleTenant r.handle == r.tenant, stDenied),
      (!a.shared || s.ringIsModule r.ring, stDenied),
      (createOperandsOk s a, stBadParam),
      ((learnedEntries s.t2 a).all (fun x => bitsOf x 14 7 != 255), stBadParam),
      ((s.slot (indexSlotOf r.handle)).state == 0, stWrongState),
      (s.budgetOk r.tenant 8, stBudget)],
    run := runIndexCreate r,
    sources := if a.learned then [(a.proj, 2 * learnedCount a)] else [] }

def execIndexCreate (r : Record) (s : State) : Host.Outcome State Fault Refusal :=
  .next (s.record r 0x0100 planIndexCreate)

/-! ### INDEX_DROP (R97) -/

/-- An EMBED that will insert into a slot (R273). -/
def FrontWork.insertsInto (w : FrontWork) (i : Nat) : Bool :=
  w.record.opcode == 0x0420 && w.record.fieldN 23 1 % 2 == 1 && w.record.fieldN 30 1 == i

/-- Appends of EMBED that are not made yet are discarded, and their records complete with WRONG_STATE (R97). -/
def State.dropInserts (s : State) (i : Nat) : State :=
  (s.front.filter (fun w => w.insertsInto i)).foldl
    (fun s w => ((s.dropWork w).countRefusal w.record.tenant stWrongState).completeId w.id stWrongState []) s

/-- Ends a slot: its publishes in progress are abandoned and their records complete with WRONG_STATE, as do EMBEDs that
have not inserted yet; the partitions' bales are freed. -/
def State.dropSlot (s : State) (i : Nat) : State :=
  let s := s.dropInserts i
  let mine := s.partitions.filter (fun p => p.slot == i)
  let sl := s.slot i
  let s := mine.foldl (fun s p => s.toQuarantine p.tenant (p.bales sl)) s
  let s := { s with partitions := s.partitions.filter (fun p => p.slot != i) }
  let s := s.modSlot i (fun _ => IndexSlot.empty)
  mine.foldl (fun s p => match p.merge with
    | some m => (match m.run with
      | some id => s.completeId id stWrongState []
      | none => s)
    | none => s) s

def planIndexDrop (r : Record) (s : State) : Plan :=
  let i := indexSlotOf r.handle
  { reserved := indexReserved r.handle && zeroBytes r 16 64,
    served := s.serviceSearch, tenantOk := s.tenantOk r,
    checks := [(indexHandleOk s r, stDenied),
      ((s.slot i).owner != 0xFFFF || s.ringIsModule r.ring, stDenied),
      (s.budgetOk r.tenant 8, stBudget)],
    run := fun id s => (s.dropSlot i).complete r id stOk [] }

def execIndexDrop (r : Record) (s : State) : Host.Outcome State Fault Refusal :=
  .next (s.record r 0x0102 planIndexDrop)

/-! ### VEC_INSERT and VEC_DELETE (R94, R95) -/

structure InsertArgs where
  src : Nat
  fmt : Nat
  fmtRaw : Nat
  attrs : Nat
  dim : Nat
  count : Nat
  deriving DecidableEq, Repr

def insertArgs (r : Record) (sl : IndexSlot) : InsertArgs :=
  { src := r.fieldN 16 6, fmtRaw := r.fieldN 22 1, fmt := sourceFormat (r.fieldN 22 1) sl.format,
    attrs := r.fieldN 24 6, dim := r.fieldN 30 2, count := r.fieldN 32 4 }

def insertOperandsOk (s : State) (sl : IndexSlot) (a : InsertArgs) : Bool :=
  decide (a.fmtRaw ≤ 2) && (if sl.state == 1 then dimOk a.dim else a.dim == sl.dim) &&
    decide (1 ≤ a.count ∧ a.count ≤ 65536) &&
    t2Arg s a.src (a.count * a.dim * sourceSize a.fmt) 64 && t2Arg s a.attrs (16 * a.count) 64

/-- The prepared vector of entry `e` and its clips; none when R78 refuses the source. -/
def insertVec (m : Mem) (sl : IndexSlot) (a : InsertArgs) (e : Nat) : Option (Vec × Nat) :=
  let xs := sourceVec m a.fmt (a.src + e * a.dim * sourceSize a.fmt) a.dim
  let o := a.attrs + 16 * e
  match prepare sl.metric xs with
  | none => none
  | some p =>
    let st := storeElems sl.format p
    some ({ vnum := readLe m o 4, value := BitVec.ofNat 32 (readLe m (o + 4) 4),
            tags := BitVec.ofNat 64 (readLe m (o + 8) 8), elems := st.1 }, st.2)

def insertVecs (m : Mem) (sl : IndexSlot) (a : InsertArgs) : List (Option (Vec × Nat)) :=
  (List.range a.count).map (insertVec m sl a)

def vnumsOk (m : Mem) (a : InsertArgs) : Bool :=
  (List.range a.count).all (fun e => readLe m (a.attrs + 16 * e) 4 != 0xFFFFFFFF)

/-- Delta bales that `new` entries of one size add. -/
def addedDeltaBales (sl : IndexSlot) (delta new : List DeltaEntry) : Nat :=
  deltaBales sl (delta ++ new) - deltaBales sl delta

/-- Live vectors and pending inserts of the module (R69). -/
def pendingInserts (l : List DeltaEntry) : Nat :=
  (l.filter (fun e => match e with
    | .insert _ => true
    | .delete _ => false)).length

def State.vectorCount (s : State) : Nat :=
  sumOf (fun p => p.live.length + pendingInserts p.delta +
    (match p.merge with
     | some m => pendingInserts m.delta
     | none => 0)) s.partitions

/-- The slot as the insert will find or fix it (R106). -/
def fixedSlot (sl : IndexSlot) (dim : Nat) : IndexSlot :=
  if sl.state == 1 then { sl with dim := dim, state := 2 } else sl

def runVecInsert (r : Record) (id : Nat) (s : State) : State :=
  let i := indexSlotOf r.handle
  let sl := s.slot i
  let a := insertArgs r sl
  let sl := fixedSlot sl a.dim
  let got := (insertVecs s.t2 sl a).filterMap (fun x => x)
  let clips := sumOf (·.2) got
  let p := s.partition i r.tenant
  let delta := p.delta ++ got.map (fun x => DeltaEntry.insert x.1)
  let s := s.modSlot i (fun _ => sl)
  let s := s.putPartition { p with
    delta := delta, clippedIn := p.clippedIn + BitVec.ofNat 64 clips }
  (s.notePeaks r.tenant).complete r id stOk
    (toLe 4 got.length ++ toLe 4 clips ++ toLe 4 delta.length ++ toLe 8 p.generation.toNat)

/-- Operand bytes with no field are read as reserved (R8). (Log entry 122: DEDUCED, unsafe.) -/
def planVecInsert (r : Record) (s : State) : Plan :=
  let i := indexSlotOf r.handle
  let sl := s.slot i
  let a := insertArgs r sl
  let fx := fixedSlot sl a.dim
  let vs := insertVecs s.t2 fx a
  let p := s.partition i r.tenant
  let new := vs.filterMap (fun x => x.map (fun y => DeltaEntry.insert y.1))
  { reserved := indexReserved r.handle && zeroBytes r 23 24 && zeroBytes r 36 64,
    served := s.serviceSearch, tenantOk := s.tenantOk r,
    checks := [(indexHandleOk s r, stDenied),
      (insertOperandsOk s sl a, stBadParam),
      (vs.all (·.isSome) && vnumsOk s.t2 a, stBadParam),
      (s.t1Fits r.tenant (addedDeltaBales fx p.delta new), stNoSpace),
      (decide (p.delta.length < sl.deltaMax), stDeltaFull),
      (decide (s.vectorCount + a.count ≤ 2147483648), stIndexFull),
      (s.budgetOk r.tenant 8, stBudget)],
    run := runVecInsert r,
    sources := [(a.src, a.count * a.dim * sourceSize a.fmt), (a.attrs, 16 * a.count)] }

def execVecInsert (r : Record) (s : State) : Host.Outcome State Fault Refusal :=
  .next (s.record r 0x0110 planVecInsert)

/-- Vector numbers of a delete list. -/
def deleteList (m : Mem) (r : Record) : List DeltaEntry :=
  (List.range (r.fieldN 24 4)).map (fun e => .delete (readLe m (r.fieldN 16 6 + 4 * e) 4))

def runVecDelete (r : Record) (id : Nat) (s : State) : State :=
  let p := s.partition (indexSlotOf r.handle) r.tenant
  let new := deleteList s.t2 r
  let delta := p.delta ++ new
  ((s.putPartition { p with delta := delta }).notePeaks r.tenant).complete r id stOk
    (toLe 4 new.length ++ toLe 4 0 ++ toLe 4 delta.length)

def planVecDelete (r : Record) (s : State) : Plan :=
  let i := indexSlotOf r.handle
  let sl := s.slot i
  let p := s.partition i r.tenant
  let n := r.fieldN 24 4
  { reserved := indexReserved r.handle && zeroBytes r 22 24 && zeroBytes r 28 64,
    served := s.serviceSearch, tenantOk := s.tenantOk r,
    checks := [(indexHandleOk s r, stDenied),
      (decide (1 ≤ n ∧ n ≤ 65536) && t2Arg s (r.fieldN 16 6) (4 * n) 1, stBadParam),
      (s.t1Fits r.tenant (addedDeltaBales sl p.delta (deleteList s.t2 r)), stNoSpace),
      (decide (p.delta.length < sl.deltaMax), stDeltaFull),
      (s.budgetOk r.tenant 8, stBudget)],
    run := runVecDelete r,
    sources := [(r.fieldN 16 6, 4 * n)] }

def execVecDelete (r : Record) (s : State) : Host.Outcome State Fault Refusal :=
  .next (s.record r 0x0111 planVecDelete)

/-! ### Publishing (R86 to R90) -/

def entryNum : DeltaEntry → Nat
  | .insert v => v.vnum
  | .delete n => n

/-- The last entry of each vector number decides its fate (R85). -/
def lastEntries : List DeltaEntry → List DeltaEntry
  | [] => []
  | e :: es => if es.any (fun x => entryNum x == entryNum e) then lastEntries es else e :: lastEntries es

/-- What a delta does to the live vectors. Every delete entry of a number that was not live counts in `absent`, repeated
ones each (R95, R106). (Log entry 108: DEDUCED, unsafe.) -/
structure MergeResult where
  live : List Vec
  inserted : Nat
  deleted : Nat
  absent : Nat
  deriving DecidableEq, Repr

/-- The vectors after a merge, and its counts: last entries that insert and that delete a live vector, and every delete
entry of a number that is not live. (Log entry 140: DESIGN CHOICE, unsafe.) -/
def mergeLive (live : List Vec) (delta : List DeltaEntry) : MergeResult :=
  let last := lastEntries delta
  let ins := last.filterMap (fun e => match e with
    | .insert v => some v
    | .delete _ => none)
  let dels := last.filterMap (fun e => match e with
    | .insert _ => none
    | .delete n => some n)
  let gone := dels.filter (fun n => live.any (fun v => v.vnum == n))
  let kept := live.filter (fun v =>
    !dels.contains v.vnum && !(ins.any (fun w => w.vnum == v.vnum)))
  let none' := delta.filter (fun e => match e with
    | .insert _ => false
    | .delete n => !live.any (fun v => v.vnum == n))
  { live := sortBy (fun a b => decide (a.vnum ≤ b.vnum)) (kept ++ ins), inserted := ins.length,
    deleted := gone.length, absent := none'.length }

/-- Automatic home bits: ceil(log2(N / target)) within 12 to 24 (R72). -/
def autoBits (n target : Nat) : Nat :=
  ((List.range 25).find? (fun b => decide (12 ≤ b) && decide (n ≤ target * 2 ^ b))).getD 24

/-- Mode of a partition with `n` live vectors (R73). -/
def modeFor (sl : IndexSlot) (n : Nat) : Nat :=
  if n = 0 then 0 else if n < sl.exactBelow then 1 else 2

def homeBitsFor (sl : IndexSlot) (n : Nat) : Nat :=
  if modeFor sl n = 2 then (if sl.homeBits = 0 then autoBits n sl.bucketTarget else sl.homeBits) else 0

/-- Position of the first entry of a chain that changes: home entries compare whole, echo entries by
number. -/
def firstChange (t : Nat) (ins : List Nat) : List Vec → List Vec → Nat
  | [], _ => 0
  | _, [] => 0
  | a :: as, b :: bs =>
    if a.vnum == b.vnum && (t != 0 || !ins.contains b.vnum) then 1 + firstChange t ins as bs else 0

/-- Bales of a chain that the next generation shares: all when it is unchanged, else those before its first changed
bale. -/
def chainShared (sl : IndexSlot) (t : Nat) (ins : List Nat) (old new : List Vec) : Nat :=
  let i := firstChange t ins old new
  if i = old.length && i = new.length then ceilDiv new.length (perBale sl t) else i / perBale sl t

/-- The chains that a delta makes, each with the bales that it shares with the partition's present generation (R87). -/
def mergedChains (sl : IndexSlot) (p : Partition) (delta : List DeltaEntry) :
    List ((Nat × Nat × List Vec) × Nat) :=
  let r := mergeLive p.live delta
  let mode := modeFor sl r.live.length
  let hb := homeBitsFor sl r.live.length
  let ins := delta.filterMap (fun e => match e with
    | .insert v => some v.vnum
    | .delete _ => none)
  let old := chains sl p.mode p.homeBits p.live
  (chains sl mode hb r.live).map (fun c =>
    let o := if mode != p.mode || (c.1 == 0 && hb != p.homeBits) then []
      else ((old.find? (fun x => x.1 == c.1 && x.2.1 == c.2.1)).map (·.2.2)).getD []
    (c, chainShared sl c.1 ins o c.2.2))

/-- New home and echo bucket bales of a merge (R87). -/
def mergeBales (sl : IndexSlot) (p : Partition) (delta : List DeltaEntry) : Nat :=
  sumOf (fun c => ceilDiv c.1.2.2.length (perBale sl c.1.1) - c.2) (mergedChains sl p delta)

/-- Generations of the bales after a merge: a shared bale keeps the one at which it was written (Table 3-2). -/
def mergeStamps (sl : IndexSlot) (p : Partition) (delta : List DeltaEntry) : List Stamp :=
  (mergedChains sl p delta).map (fun c =>
    let old := ((p.stamps.find? (fun x => x.table == c.1.1 && x.key == c.1.2.1)).map (·.gens)).getD []
    { table := c.1.1, key := c.1.2.1,
      gens := old.take c.2 ++ List.replicate (ceilDiv c.1.2.2.length (perBale sl c.1.1) - c.2)
        (p.generation + 1).toNat })

/-- Starts a merge of the partition's delta. -/
def State.startMerge (s : State) (p : Partition) (run : Option Nat) : State :=
  let sl := s.slot p.slot
  (s.putPartition { p with
    delta := [],
    merge := some ⟨p.delta, run, mergeBales sl p p.delta⟩ }).leaveIdle.notePeaks p.tenant

def publishResults (r : MergeResult) (g : U64) : List Byte :=
  toLe 4 r.inserted ++ toLe 4 r.deleted ++ toLe 4 r.absent ++ toLe 8 g.toNat

def runIndexPublish (r : Record) (id : Nat) (s : State) : State :=
  let p := s.partition (indexSlotOf r.handle) r.tenant
  if p.delta.isEmpty then s.complete r id stOk (publishResults ⟨[], 0, 0, 0⟩ p.generation)
  else s.startMerge p (some id)

def planIndexPublish (r : Record) (s : State) : Plan :=
  let i := indexSlotOf r.handle
  let p := s.partition i r.tenant
  { reserved := indexReserved r.handle && zeroBytes r 16 64,
    served := s.serviceSearch, tenantOk := s.tenantOk r,
    checks := [(indexHandleOk s r, stDenied),
      (p.merge.isNone, stWrongState),
      (p.delta.isEmpty || s.t1Fits r.tenant (mergeBales (s.slot i) p p.delta), stNoSpace),
      (s.budgetOk r.tenant 8, stBudget)],
    run := runIndexPublish r }

def execIndexPublish (r : Record) (s : State) : Host.Outcome State Fault Refusal :=
  .next (s.record r 0x0112 planIndexPublish)

/-- The module has frames and keeps clocks: units act only outside Hold and Sleep. -/
def State.unitsRun (s : State) : Bool := s.power.pstate < 2

/-- The generation changes from G to G + 1 at one instant (R88, R89, R72, R73). (Log entry 31: DEDUCED, safe.) A publish
of deletes only raises the generation of a partition that never held a vector too. (Log entry 108: DEDUCED, unsafe.) A
query retires with its search, so that a SEARCH whose writes are still owed WR_ACKs holds no bale. (Log entry 142: DESIGN
CHOICE, unsafe.) -/
def State.switchGeneration (s : State) (slot tenant : Nat) : State :=
  let p := s.partition slot tenant
  match p.merge with
  | none => s
  | some m =>
    let sl := s.slot slot
    let r := mergeLive p.live m.delta
    let n := r.live.length
    let before := p.bales sl
    let p' : Partition := { p with
      live := r.live, mode := modeFor sl n, homeBits := homeBitsFor sl n, merge := none,
      stamps := mergeStamps sl p m.delta,
      generation := p.generation + 1, absentDel := p.absentDel + BitVec.ofNat 64 r.absent }
    let s := (s.toQuarantine tenant (before - p'.bales sl)).putPartition p'
    match m.run with
    | some id => s.completeId id stOk (publishResults r p'.generation)
    | none => s

/-- GENERATION_SWITCH: a merge completes. -/
def execGenerationSwitch (slot tenant : Nat) (s : State) : Host.Outcome State Fault Refusal :=
  .next (if s.unitsRun then s.switchGeneration slot tenant else s)

/-- AUTO_PUBLISH (R90): `publish_ms` has passed for a partition whose delta is not empty. A quota that
cannot take the merge leaves the delta, counted as a refusal. -/
def State.autoPublish (s : State) (slot tenant : Nat) : State :=
  let sl := s.slot slot
  let p := s.partition slot tenant
  if sl.state == 0 || sl.publishMs == 0 || p.delta.isEmpty || p.merge.isSome then s
  else if s.t1Fits tenant (mergeBales sl p p.delta) then s.startMerge p none
  else s.countRefusal tenant stNoSpace

def execAutoPublish (slot tenant : Nat) (s : State) : Host.Outcome State Fault Refusal :=
  .next (if s.unitsRun then s.autoPublish slot tenant else s)

/-! ### Images (R77, R91, R96) -/

/-- The projection digest of R77: all entries in the order of R70, as BF16 values; ±1 as 0x3F80 and 0xBF80, low byte
first. (Log entry 109: DESIGN CHOICE, unsafe.) -/
def projectionDigest (sl : IndexSlot) : Digest :=
  digest256 ((List.range (1 + sl.echoTables)).flatMap (fun t => (List.range 24).flatMap (fun j =>
    if sl.learned then (List.range sl.dim).flatMap (fun i =>
      toLe 2 (sl.proj.getD ((24 * t + j) * sl.dim + i) 0).toNat)
    else (projColumn sl t j).flatMap (fun x => toLe 2 (if fpSign x then 0xBF80 else 0x3F80)))))

def padTo (n : Nat) (l : List Byte) : List Byte := l ++ List.replicate (n - l.length) 0

/-- Bytes 0 to 0x17 of an index bale's header (Table 3-2). Positions and lengths are taken modulo 2^16 in a chain of more
than 65,535 bales. (Log entry 109: DESIGN CHOICE, unsafe.) -/
def baleHead (kind table key count pos len tenant gen : Nat) : List Byte :=
  toLe 2 kind ++ [BitVec.ofNat 8 table, 0] ++ toLe 4 key ++ toLe 2 count ++ toLe 2 pos ++ toLe 2 len ++
    toLe 2 tenant ++ toLe 8 gen

def vecElemBytes (fmt : Nat) (v : Vec) : List Byte :=
  v.elems.flatMap (fun e => if fmt == 1 then toLe 1 e.toNat else toLe 2 e.toNat)

def metaBytes (v : Vec) : List Byte := toLe 4 v.vnum ++ toLe 4 v.value.toNat ++ toLe 8 v.tags.toNat

/-- The body of a home bale: vectors in the places of n, then metadata (R74). -/
def homeBody (sl : IndexSlot) (vs : List Vec) : List Byte :=
  padTo (vecsPerBale sl * vecBytes sl) (vs.flatMap (vecElemBytes sl.format)) ++ vs.flatMap metaBytes

/-- One bale of a chain. -/
def chainBale (sl : IndexSlot) (tenant gen : Nat) (t key len : Nat) (pos : Nat) (vs : List Vec) :
    List Byte :=
  padTo 65536 (padTo 64 (baleHead (if t == 0 then 0x21 else 0x22) t key vs.length pos len tenant gen) ++
    (if t == 0 then homeBody sl vs else vs.flatMap (fun v => toLe 4 v.vnum)))

/-- Bales of a chain. A bale that a merge leaves shared takes the chain's new length and keeps its stamp. (Log entry 141:
DESIGN CHOICE, unsafe.) -/
def chainBalesOf (sl : IndexSlot) (p : Partition) (c : Nat × Nat × List Vec) : List (List Byte) :=
  let parts := chunks (perBale sl c.1) c.2.2
  let gens := ((p.stamps.find? (fun x => x.table == c.1 && x.key == c.2.1)).map (·.gens)).getD []
  parts.mapIdx (fun pos vs =>
    chainBale sl p.tenant (gens.getD pos p.generation.toNat) c.1 c.2.1 parts.length pos vs)

/-- The descriptor bale. -/
def descriptorBale (sl : IndexSlot) (p : Partition) (total : Nat) : List Byte :=
  padTo 65536 (baleHead 0x20 0 0 0 0 0 p.tenant 0 ++ toLe 2 sl.dim ++ toLe 1 sl.format ++
    toLe 1 sl.metric ++ toLe 1 p.homeBits ++ toLe 1 sl.echoTables ++ toLe 1 sl.echoBits ++ [0] ++
    toLe 8 p.generation.toNat ++ toLe 4 p.live.length ++ toLe 4 total ++
    lineBytes (projectionDigest sl) 32)

/-- A partition's image: descriptor, home bales by key, echo tables in order. (Log entry 32: DEDUCED, unsafe.) -/
def indexImage (sl : IndexSlot) (p : Partition) : List (List Byte) :=
  let body := (chains sl p.mode p.homeBits p.live).flatMap (chainBalesOf sl p)
  descriptorBale sl p (1 + body.length) :: body

/-- The range of an index image is kept: no other image is saved over it (R91). -/
def State.keepImage (s : State) (x : ImageRange) : State :=
  { s with images := s.images.filter (fun y => y != x) ++ [x] }

/-- A save meets no range that holds another image: one that a load named, or a save of another partition (R91, R326).
(Log entry 110: DEDUCED, unsafe.) -/
def State.imageFree (s : State) (slot tenant a n : Nat) : Bool :=
  !s.images.any (fun x => x.saved != some (slot, tenant) && decide (a < x.base + x.bytes) && decide (x.base < a + n))

def runIndexSave (r : Record) (id : Nat) (s : State) : State :=
  let i := indexSlotOf r.handle
  let img := (indexImage (s.slot i) (s.partition i r.tenant)).flatten
  let s := s.keepImage ⟨r.fieldN 16 6, img.length, some (i, r.tenant)⟩
  let s1 := s.writeT2 (r.fieldN 16 6) img
  s1.completeAfter (newWrites s s1) r id stOk []

def planIndexSave (r : Record) (s : State) : Plan :=
  let i := indexSlotOf r.handle
  let n := imageBales (s.slot i) (s.partition i r.tenant)
  { reserved := indexReserved r.handle && zeroBytes r 22 24 && zeroBytes r 28 64,
    served := s.serviceSearch, tenantOk := s.tenantOk r,
    checks := [(indexHandleOk s r, stDenied),
      (t2Arg s (r.fieldN 16 6) (65536 * r.fieldN 24 4) 1, stBadParam),
      ((s.slot i).state == 2, stWrongState),
      (decide (n ≤ r.fieldN 24 4), stBadParam),
      (s.imageFree i r.tenant (r.fieldN 16 6) (65536 * n), stBadParam),
      (s.budgetOk r.tenant 8, stBudget)],
    run := runIndexSave r }

def execIndexSave (r : Record) (s : State) : Host.Outcome State Fault Refusal :=
  .next (s.record r 0x0103 planIndexSave)

/-- Vectors of a home bale at an address. -/
def readHomeBale (m : Mem) (sl : IndexSlot) (a : Nat) : List Vec :=
  let n := readLe m (a + 8) 2
  let es := if sl.format == 1 then 1 else 2
  (List.range n).map (fun e =>
    let v := a + 64 + e * vecBytes sl
    let o := a + 64 + vecsPerBale sl * vecBytes sl + 16 * e
    { vnum := readLe m o 4, value := BitVec.ofNat 32 (readLe m (o + 4) 4),
      tags := BitVec.ofNat 64 (readLe m (o + 8) 8),
      elems := (List.range sl.dim).map (fun i => BitVec.ofNat 16 (readLe m (v + es * i) es)) })

/-- The slot an image is read for: a slot in state 1 takes D from the image (R106). -/
def imageSlot (m : Mem) (sl : IndexSlot) (a : Nat) : IndexSlot := fixedSlot sl (readLe m (a + 0x18) 2)

/-- The generations in the headers of an image's bales, by chain. -/
def imageStamps (sl : IndexSlot) : List (Nat × Nat × List Vec) → List Nat → List Stamp
  | [], _ => []
  | c :: cs, gens =>
    let n := ceilDiv c.2.2.length (perBale sl c.1)
    ⟨c.1, c.2.1, gens.take n⟩ :: imageStamps sl cs (gens.drop n)

/-- The partition an image describes: its home bales' vectors, its generation and home bits. -/
def imagePartition (m : Mem) (sl : IndexSlot) (slot tenant a bales : Nat) : Partition :=
  let hb := readLe m (a + 0x1C) 1
  let home := (List.range (bales - 1)).filter (fun i => readLe m (a + 65536 * (i + 1)) 2 == 0x21)
  let live := sortBy (fun (x y : Vec) => decide (x.vnum ≤ y.vnum))
    (home.flatMap (fun i => readHomeBale m sl (a + 65536 * (i + 1))))
  let mode := if live.isEmpty then 0 else if hb == 0 then 1 else 2
  { Partition.empty slot tenant with
    generation := BitVec.ofNat 64 (readLe m (a + 0x20) 8), live := live, mode := mode, homeBits := hb,
    stamps := imageStamps sl (chains sl mode hb live)
      ((List.range (bales - 1)).map (fun i => readLe m (a + 65536 * (i + 1) + 0x10) 8)) }

/-- An image passes R77: it is the image of its own vectors, in order, with the index's fields and
projection digest. (Log entry 32: DEDUCED, unsafe.) -/
def imageOk (s : State) (r : Record) : Bool :=
  let i := indexSlotOf r.handle
  let a := r.fieldN 16 6
  let n := r.fieldN 24 4
  let sl := imageSlot s.t2 (s.slot i) a
  let p := imagePartition s.t2 sl i r.tenant a n
  let hb := p.homeBits
  dimOk sl.dim && readLe s.t2 (a + 0x18) 2 == sl.dim &&
    (hb == 0 || (decide (12 ≤ hb ∧ hb ≤ 24) && (sl.homeBits == 0 || sl.homeBits == hb))) &&
    p.live.all (fun v => v.vnum != 0xFFFFFFFF) &&
    (let img := indexImage sl p
     img.length == n && readBytes s.t2 a 65536 == img.headD [] &&
       img.drop 1 == (List.range (n - 1)).map (fun j => readBytes s.t2 (a + 65536 * (j + 1)) 65536))

def runIndexLoad (r : Record) (id : Nat) (s : State) : State :=
  let i := indexSlotOf r.handle
  let a := r.fieldN 16 6
  let sl := imageSlot s.t2 (s.slot i) a
  let old := s.partition i r.tenant
  let p := imagePartition s.t2 sl i r.tenant a (r.fieldN 24 4)
  let s := (s.modSlot i (fun _ => sl)).keepImage ⟨a, 65536 * r.fieldN 24 4, none⟩
  let s := (s.toQuarantine r.tenant (old.bales sl)).putPartition { old with
    generation := p.generation, live := p.live, stamps := p.stamps, mode := p.mode, homeBits := p.homeBits }
  (s.notePeaks r.tenant).complete r id stOk (toLe 4 p.live.length ++ List.replicate 8 0 ++ toLe 8 p.generation.toNat)

/-- INDEX_LOAD (R96); while a merge of the partition is in progress it answers WRONG_STATE. (Log entry 139: DESIGN
CHOICE, unsafe.) -/
def planIndexLoad (r : Record) (s : State) : Plan :=
  let i := indexSlotOf r.handle
  let p := s.partition i r.tenant
  let n := r.fieldN 24 4
  { reserved := indexReserved r.handle && zeroBytes r 22 24 && zeroBytes r 28 64,
    served := s.serviceSearch, tenantOk := s.tenantOk r,
    checks := [(indexHandleOk s r, stDenied),
      (decide (1 ≤ n) && t2Arg s (r.fieldN 16 6) (65536 * n) 65536, stBadParam),
      (imageOk s r, stBadParam),
      (p.delta.isEmpty && p.merge.isNone, stWrongState),
      (s.t1Fits r.tenant (n - 1), stNoSpace),
      (decide (s.vectorCount + (imagePartition s.t2 (imageSlot s.t2 (s.slot i) (r.fieldN 16 6)) i r.tenant
        (r.fieldN 16 6) n).live.length ≤ 2147483648 + p.live.length), stIndexFull),
      (s.budgetOk r.tenant 8, stBudget)],
    run := runIndexLoad r,
    sources := [(r.fieldN 16 6, 65536 * n)] }

def execIndexLoad (r : Record) (s : State) : Host.Outcome State Fault Refusal :=
  .next (s.record r 0x0101 planIndexLoad)

/-! ### SEARCH (R98 to R100) -/

/-- Operands of Table 3-5 with k and probes in force. -/
structure SearchArgs where
  src : Nat
  fmt : Nat
  fmtRaw : Nat
  toDest : Bool
  exact : Bool
  dest : Nat
  probes : Nat
  k : Nat
  widen : Nat
  filter : Filter
  deriving DecidableEq, Repr

def searchArgs (r : Record) (sl : IndexSlot) : SearchArgs :=
  { src := r.fieldN 16 6, fmtRaw := r.fieldN 22 1, fmt := sourceFormat (r.fieldN 22 1) sl.format,
    toDest := r.fieldN 23 1 % 2 == 1, exact := r.fieldN 23 1 / 2 % 2 == 1, dest := r.fieldN 24 6,
    probes := orDefault (r.fieldN 30 2) sl.probes, k := orDefault (r.fieldN 32 4) sl.k,
    widen := r.fieldN 36 2, filter := ⟨r.fieldN 40 8, r.fieldN 48 8, r.fieldN 56 4, r.fieldN 60 4⟩ }

def searchOperandsOk (s : State) (sl : IndexSlot) (a : SearchArgs) : Bool :=
  decide (a.fmtRaw ≤ 2) && decide (1 ≤ a.k ∧ a.k ≤ 1048576) && (a.toDest || decide (a.k ≤ 62)) &&
    decide (a.probes + a.widen ≤ 4096) && decide (a.widen ≤ 4095) &&
    t2Arg s a.src (sl.dim * sourceSize a.fmt) 64 &&
    (if a.toDest then t2Arg s a.dest (8 * a.k) 64 else a.dest == 0) &&
    a.filter.tag &&& a.filter.mask == a.filter.tag && decide (a.filter.lo ≤ a.filter.hi)

/-- A search that reads no query (R100, R106). -/
def readsNoQuery (sl : IndexSlot) (p : Partition) : Bool := sl.state == 1 || p.mode == 0

/-- The prepared BF16 query; none when R78 refuses it. -/
def searchQuery (m : Mem) (sl : IndexSlot) (a : SearchArgs) : Option (List U16) :=
  (prepare sl.metric (sourceVec m a.fmt a.src sl.dim)).map queryElems

/-- What a search found. -/
structure Found3 where
  /-- Candidates, each with its copies that reached the Winnows before duplicates went. -/
  cands : List (Vec × Nat)
  probed : Nat
  deriving DecidableEq, Repr

/-- Positions in the probe list at which a vector is met. -/
def probePositions (sl : IndexSlot) (homeBits : Nat) (probes : List (Nat × Nat)) (v : Vec) : List Nat :=
  (List.range (1 + sl.echoTables)).filterMap (fun t =>
    let key := vecKey sl homeBits t v
    (List.range probes.length).find? (fun i => probes[i]? == some (t, key)))

/-- The least u of R82. -/
def leastWiden (firsts : List Nat) (k probes widen : Nat) : Nat :=
  ((List.range (widen + 1)).find? (fun u =>
    decide (k ≤ (firsts.filter (fun x => decide (x < probes + u))).length))).getD widen

/-- The candidate set (R82, R83). (Log entry 31: DEDUCED, safe.) -/
def candidates (sl : IndexSlot) (p : Partition) (a : SearchArgs) (q : List U16) : Found3 :=
  let pass := p.live.filter a.filter.passes
  if a.exact || p.mode == 1 then ⟨pass.map (fun v => (v, 1)), 0⟩
  else
    let probes := probeSequence sl p.homeBits (q.map readBf16) (a.probes + a.widen)
    let met := pass.map (fun v => (v, probePositions sl p.homeBits probes v))
    let firsts := met.filterMap (fun e => e.2.min?)
    let n := min (a.probes + leastWiden firsts a.k a.probes a.widen) probes.length
    let hit : List (Vec × Nat) := met.filterMap (fun (e : Vec × List Nat) =>
      let c := (e.2.filter (fun x => decide (x < n))).length
      if c = 0 then none else some (e.1, c))
    ⟨hit, n⟩

/-- What the Winnow makes of the candidates: the entries whose key is no NaN, the copies excluded with a NaN key, and
the duplicates removed of the rest (R111, R116). -/
def searchEntries (sl : IndexSlot) (smallest : Bool) (q : List U16) (f : Found3) :
    List WEntry × Nat × Nat :=
  let keyed := f.cands.map (fun c => ((validEntries 1 smallest [(c.1.vnum, (score sl q c.1).toNat)]).1, c.2))
  let kept := keyed.filter (fun e => !e.1.isEmpty)
  (kept.flatMap (·.1), sumOf (·.2) (keyed.filter (fun e => e.1.isEmpty)), sumOf (fun e => e.2 - 1) kept)

/-- SEARCH_RESULT (R99): `slots`, status, `count` and entries, padded. -/
def searchResult (r : Record) (status k count : Nat) (entries pad : List Byte) : List Slot :=
  let extra := ceilDiv (k - 2) 4
  let places := 4 * (extra + 1) - 2
  let bs := toLe 2 0x0130 ++ toLe 2 status ++ toLe 4 r.seq.toNat ++ toLe 2 (r.ring % 64) ++
    toLe 2 (r.tenant % 4096 + 4096 * extra) ++ toLe 4 count ++ entries ++
    (List.replicate (places - count) pad).flatten
  (chunks 32 bs).map (ofBytes 256)

/-- Delivers a search's results and completes it. -/
def State.deliverSearch (s : State) (r : Record) (id : Nat) (a : SearchArgs) (smallest : Bool)
    (best : List WEntry) (probed scored : Nat) (gen : U64) : State :=
  let status := if best.length < a.k then stFewer else stOk
  let entries := best.flatMap (fun e => entryBytes 1 e.index e.key)
  let pad := entryBytes 1 padIndex (padKey 1 smallest)
  let res := toLe 4 best.length ++ toLe 2 probed ++ [0, 0] ++ toLe 4 (sat32 scored) ++ toLe 8 gen.toNat
  if a.toDest then
    let s1 := s.writeT2 a.dest (entries ++ (List.replicate (a.k - best.length) pad).flatten)
    s1.completeAfter (newWrites s s1) r id status res
  else
    let p := s.completionPost r id status res
    s.post { p with parts := searchResult r status a.k best.length entries pad :: p.parts }

/-- Units a search needs at step 10 (R100). -/
def searchNeed (sl : IndexSlot) (p : Partition) (a : SearchArgs) : Nat :=
  if readsNoQuery sl p then 0
  else if a.exact || p.mode == 1 then ceilDiv p.live.length 2048
  else a.probes + a.widen

/-- A search is charged the units that it uses; what it was admitted with beyond them returns at its completion. -/
def State.chargeFrom (s : State) (t id need used : Nat) : State :=
  let s := (s.charge t used).reserve t (need - used)
  { s with running := updWhere (fun k => k.id == id) (fun k => { k with refund := need - used }) s.running }

def runSearch (r : Record) (id : Nat) (s : State) : State :=
  let i := indexSlotOf r.handle
  let sl := s.slot i
  let a := searchArgs r sl
  let p := s.partition i r.tenant
  let smallest := sl.metric == 2
  let done := s.putPartition { p with searches := p.searches + 1 }
  if readsNoQuery sl p then
    done.deliverSearch r id a smallest [] 0 0 (if sl.state == 1 then 0 else p.generation)
  else
    let q := (searchQuery s.t2 sl a).getD []
    let f := candidates sl p a q
    let v := searchEntries sl smallest q f
    let best := selectBest a.k v.1
    let units := if a.exact || p.mode == 1 then ceilDiv p.live.length 2048 else f.probed
    let s := s.putPartition { p with
      searches := p.searches + 1, probed := p.probed + BitVec.ofNat 64 f.probed }
    let s := s.chargeFrom r.tenant id (searchNeed sl p a) units
    let s := s.count r.tenant (fun c => c.winnow 1 (sumOf (·.2) f.cands) v.2.1
      (if best.length < a.k then 1 else 0) v.2.2 0 (if a.k ≤ 4096 then 0 else 1))
    s.deliverSearch r id a smallest best f.probed f.cands.length p.generation

def planSearch (r : Record) (s : State) : Plan :=
  let i := indexSlotOf r.handle
  let sl := s.slot i
  let a := searchArgs r sl
  let p := s.partition i r.tenant
  { reserved := indexReserved r.handle && r.fieldN 23 1 / 4 == 0 && zeroBytes r 38 40,
    served := s.serviceSearch, tenantOk := s.tenantOk r,
    checks := [(indexHandleOk s r, stDenied),
      (searchOperandsOk s sl a, stBadParam),
      (readsNoQuery sl p || (searchQuery s.t2 sl a).isSome, stBadParam),
      (readsNoQuery sl p || s.budgetOk r.tenant (searchNeed sl p a), stBudget)],
    run := runSearch r,
    sources := if readsNoQuery sl p then [] else [(a.src, sl.dim * sourceSize a.fmt)] }

def execSearch (r : Record) (s : State) : Host.Outcome State Fault Refusal :=
  .next (s.record r 0x0120 planSearch)

/-- The default index of slot 0 (R105). -/
def State.defaultIndex (s : State) : IndexSlot :=
  { IndexSlot.empty with
    state := 1, owner := 0, format := s.setting 0x4000 1, metric := s.setting 0x4000 2,
    probes := s.setting 0x4000 5, k := s.setting 0x4000 6, exactBelow := s.setting 0x4000 3,
    bucketTarget := s.setting 0x4000 4, publishMs := s.setting 0x4000 7, deltaMax := 1048576 }

end Sys2Proof.Machine
end

