-- ==== Sys2Proof/Machine/Channels.lean ====
section
/-!
DEFINITION. The channel window's state (12 R359, R374, R375, R377): channels by number, channel masks, late requests
and the refresh before self refresh.
-/

namespace Sys2Proof.Machine

def State.channel (s : State) (h : Nat) : Channel := vGet s.channels h Channel.reset

def State.modChannel (s : State) (h : Nat) (f : Channel → Channel) : State :=
  { s with channels := vMod s.channels h f }

/-- A value that the module itself sets in a persistent subindex: held now and queued for commit (R465). -/
def State.putPersistent (s : State) (index sub v : Nat) : State :=
  let s := s.putSetting index sub v
  { s with dict := { s.dict with queue := insertKey s.dict.queue (index, sub) v } }

/-- Quadrant of a channel. -/
def channelQuadrant (h : Nat) : Nat := h / 48

/-- Bit of a channel in a per-quadrant mask of object 0x2400 whose first subindex is `sub`. -/
def State.channelBit (s : State) (sub h : Nat) : Bool :=
  (s.setting 0x2400 (sub + channelQuadrant h)).testBit (h % 48)

/-- `late` counts requests served past their deadline in deadline-first mode (R374). How many are late
is a matter of time: the count gained while the mode is in force is a free value. (Log entry 69: DESIGN CHOICE, safe.) -/
def State.lateCount (s : State) (h : Nat) : U64 :=
  (s.channel h).late + (if s.deadlineFirst then BitVec.ofNat 64 (s.free h) else 0)

/-- Deadline-first mode ends: the counts of `late` gained in it are free values. (Log entry 69: DESIGN CHOICE, safe.) -/
def State.keepLate (s : State) : State :=
  if s.deadlineFirst then
    let s' := { s with channels := s.channels.mapFinIdx (fun h (c : Channel) _ => { c with late := s.lateCount h }) }
    s'.drew 192
  else s

/-- The mode of `arb_mode` comes into force: at a serving step, or as a reset left it (R374). -/
def State.takeArbMode (s : State) : State :=
  let mode := s.setting 0x2400 3 == 1
  if mode == s.deadlineFirst then s else { s.keepLate with deadlineFirst := mode }

/-- All-bank refresh of one channel, where it was trained. -/
def State.refreshAll (s : State) (h : Nat) : State :=
  if (s.channel h).trained then
    (s.modChannel h (fun c => { c with refreshes := c.refreshes + 1 })).send (.refreshAll h)
  else s

end Sys2Proof.Machine
end

