-- ==== Sys2Proof/Machine/Aes.lean ====
section
/-!
DEFINITION. AES-256 (FIPS 197), GCM with a 96-bit IV (SP 800-38D), and the unwrapping of an AES-256 key
wrap (RFC 3394), which the spec names for sealed bales and key import. A block is a list of 16 bytes in
the order of FIPS 197.
-/

namespace Sys2Proof.Machine

/-- Multiplication by x in GF(2^8). -/
def xtime (b : Byte) : Byte := if b.getLsbD 7 then (b <<< 1) ^^^ 0x1B else b <<< 1

/-- Multiplication in GF(2^8). -/
def gmul (a b : Byte) : Byte :=
  ((List.range 8).foldl (fun (st : Byte × Byte) i =>
    (if b.getLsbD i then st.1 ^^^ st.2 else st.1, xtime st.2)) (0, a)).1

/-- Inverse in GF(2^8) as a^254. -/
def ginv (a : Byte) : Byte :=
  let a2 := gmul a a
  let a4 := gmul a2 a2
  let a8 := gmul a4 a4
  let a16 := gmul a8 a8
  let a32 := gmul a16 a16
  let a64 := gmul a32 a32
  let a128 := gmul a64 a64
  gmul (gmul (gmul a2 a4) (gmul a8 a16)) (gmul (gmul a32 a64) a128)

def sbox (a : Byte) : Byte :=
  let x := ginv a
  x ^^^ x.rotateLeft 1 ^^^ x.rotateLeft 2 ^^^ x.rotateLeft 3 ^^^ x.rotateLeft 4 ^^^ 0x63

/-- Inverse of the affine map, then of the field. -/
def invSbox (a : Byte) : Byte :=
  ginv (a.rotateLeft 1 ^^^ a.rotateLeft 3 ^^^ a.rotateLeft 6 ^^^ 0x05)

def xorBytes (a b : List Byte) : List Byte := List.zipWith (· ^^^ ·) a b

/-- x^i in GF(2^8). -/
def xpow : Nat → Byte
  | 0 => 1
  | n + 1 => xtime (xpow n)

/-- One word of the key expansion; `ws` are the words so far, newest first, each four bytes. -/
def expandStep (ws : List (List Byte)) (i : Nat) : List (List Byte) :=
  let prev := ws.getD 0 []
  let back := ws.getD 7 []
  let t :=
    if i % 8 = 0 then
      match (prev.drop 1 ++ prev.take 1).map sbox with
      | x :: xs => (x ^^^ xpow (i / 8 - 1)) :: xs
      | [] => []
    else if i % 8 = 4 then prev.map sbox
    else prev
  xorBytes back t :: ws

/-- The 15 round keys of a 32-byte key. -/
def roundKeys (key : List Byte) : List (List Byte) :=
  let ws := ((List.range 52).foldl (fun ws i => expandStep ws (i + 8)) (chunks 4 key).reverse).reverse
  (chunks 4 ws).map List.flatten

/-- Row r of the state is bytes r, r + 4, r + 8, r + 12; row r turns left by r. -/
def shiftRows (b : List Byte) : List Byte :=
  (List.range 16).map (fun i => b.getD ((i + 4 * (i % 4)) % 16) 0)

def invShiftRows (b : List Byte) : List Byte :=
  (List.range 16).map (fun i => b.getD ((i + 12 * (i % 4)) % 16) 0)

/-- One column times the circulant of (c0, c1, c2, c3). -/
def mixColumn (c : List Byte) (col : List Byte) : List Byte :=
  (List.range 4).map (fun r => (List.range 4).foldl (fun a i =>
    a ^^^ gmul (c.getD ((i + 4 - r) % 4) 0) (col.getD i 0)) 0)

def mixWith (c : List Byte) (b : List Byte) : List Byte := ((chunks 4 b).map (mixColumn c)).flatten

def mixColumns (b : List Byte) : List Byte := mixWith [2, 3, 1, 1] b
def invMixColumns (b : List Byte) : List Byte := mixWith [14, 11, 13, 9] b

/-- AES-256 of one block. -/
def aesEncrypt (key block : List Byte) : List Byte :=
  let ks := roundKeys key
  let k (i : Nat) := ks.getD i []
  let mid := (List.range 13).foldl (fun b i =>
    xorBytes (mixColumns (shiftRows (b.map sbox))) (k (i + 1))) (xorBytes block (k 0))
  xorBytes (shiftRows (mid.map sbox)) (k 14)

/-- Its inverse. -/
def aesDecrypt (key block : List Byte) : List Byte :=
  let ks := roundKeys key
  let k (i : Nat) := ks.getD i []
  let start := (invShiftRows (xorBytes block (k 14))).map invSbox
  let mid := (List.range 13).foldl (fun b i =>
    (invShiftRows (invMixColumns (xorBytes b (k (13 - i))))).map invSbox) start
  xorBytes mid (k 0)

/-! ### GCM -/

/-- The number of a block, first byte most significant. -/
def beNat (b : List Byte) : Nat := leNat b.reverse
def beBytes (k n : Nat) : List Byte := (toLe k n).reverse

/-- Multiplication in GF(2^128) of SP 800-38D; bit 0 of the field is the most significant. -/
def ghashMul (x y : BitVec 128) : BitVec 128 :=
  ((List.range 128).foldl (fun (st : BitVec 128 × BitVec 128) i =>
    (if x.getLsbD (127 - i) then st.1 ^^^ st.2 else st.1,
     if st.2.getLsbD 0 then (st.2 >>> 1) ^^^ (0xE1#128 <<< 120) else st.2 >>> 1)) (0, y)).1

/-- Pads with zeros to a multiple of 16 bytes. -/
def pad16 (b : List Byte) : List Byte := b ++ List.replicate ((16 - b.length % 16) % 16) 0

def ghash (h : BitVec 128) (b : List Byte) : BitVec 128 :=
  (chunks 16 b).foldl (fun y blk => ghashMul (y ^^^ BitVec.ofNat 128 (beNat blk)) h) 0

/-- Counter mode from counter block number `n` of a 96-bit IV. -/
def ctrBytes (key iv : List Byte) (n : Nat) (m : List Byte) : List Byte :=
  ((chunks 16 m).mapIdx (fun i blk =>
    xorBytes blk (aesEncrypt key (iv ++ beBytes 4 (n + i))))).flatten

/-- The 16-byte tag of associated data and ciphertext. -/
def gcmTag (key iv aad cipher : List Byte) : List Byte :=
  let h := BitVec.ofNat 128 (beNat (aesEncrypt key (List.replicate 16 0)))
  let g := ghash h (pad16 aad ++ pad16 cipher ++ beBytes 8 (8 * aad.length) ++
    beBytes 8 (8 * cipher.length))
  xorBytes (beBytes 16 g.toNat) (aesEncrypt key (iv ++ beBytes 4 1))

/-- Encryption: ciphertext and tag. (Log entry 82: DEDUCED, unsafe.) -/
def gcmSeal (key iv aad m : List Byte) : List Byte × List Byte :=
  let c := ctrBytes key iv 2 m
  (c, gcmTag key iv aad c)

/-- Decryption; none when the tag does not agree. (Log entry 82: DEDUCED, unsafe.) -/
def gcmOpen (key iv aad cipher tag : List Byte) : Option (List Byte) :=
  if gcmTag key iv aad cipher = tag then some (ctrBytes key iv 2 cipher) else none

/-! ### Key wrap (RFC 3394) -/

/-- One step of the unwrapping; `t` is the step's number. -/
def unwrapStep (key : List Byte) (st : List Byte × List (List Byte)) (t : Nat) :
    List Byte × List (List Byte) :=
  let n := st.2.length
  let i := (t - 1) % n
  let a := xorBytes st.1 (beBytes 8 t)
  let b := aesDecrypt key (a ++ st.2.getD i [])
  (b.take 8, st.2.mapIdx (fun j r => if j = i then b.drop 8 else r))

/-- Unwraps; none when the check value is not A6 repeated. -/
def keyUnwrap (key wrapped : List Byte) : Option (List Byte) :=
  match chunks 8 wrapped with
  | [] => none
  | a :: rs =>
    let steps := 6 * rs.length
    let r := (List.range steps).foldl (fun st i => unwrapStep key st (steps - i)) (a, rs)
    if r.1 = List.replicate 8 0xA6 then some r.2.flatten else none

end Sys2Proof.Machine
end

