-- ==== Sys2Proof/Machine/Thresher.lean ====
section
/-!
DEFINITION. Text and tokens (06): tokenising, detokenising, grammars, templates, passages and PACK.
-/

namespace Sys2Proof.Machine

/-! ### UTF-8 (R162) -/

/-- Length of the well-formed sequence that a byte begins; none for one that begins no sequence. -/
def utf8Length (b : Byte) : Option Nat :=
  let n := b.toNat
  if n < 0x80 then some 1 else if n < 0xC2 then none else if n < 0xE0 then some 2
  else if n < 0xF0 then some 3 else if n < 0xF5 then some 4 else none

/-- `b` continues the incomplete sequence `p` (Table 3-7 of the standard). -/
def continues (p : List Byte) (b : Byte) : Bool :=
  let n := b.toNat
  match p with
  | [l] =>
    let lo := if l == 0xE0 then 0xA0 else if l == 0xF0 then 0x90 else 0x80
    let hi := if l == 0xED then 0x9F else if l == 0xF4 then 0x8F else 0xBF
    decide (lo ≤ n) && decide (n ≤ hi)
  | _ => decide (0x80 ≤ n) && decide (n ≤ 0xBF)

/-- A well-formed character, or an offending byte. -/
inductive TextItem where
  | char (bs : List Byte)
  | bad (b : Byte)
  deriving DecidableEq, Repr

/-- A byte examined with nothing pending: items, and the bytes pending after it. -/
def scanFresh (b : Byte) : List TextItem × List Byte :=
  match utf8Length b with
  | none => ([.bad b], [])
  | some 1 => ([.char [b]], [])
  | some _ => ([], [b])

/-- One byte after the pending bytes `p`. -/
def scanByte (p : List Byte) (b : Byte) : List TextItem × List Byte :=
  match p with
  | [] => scanFresh b
  | l :: _ =>
    if continues p b then
      let q := p ++ [b]
      if utf8Length l == some q.length then ([.char q], []) else ([], q)
    else
      let f := scanFresh b
      (p.map TextItem.bad ++ f.1, f.2)

/-- Items of a text and the bytes left pending. -/
def scanText (p : List Byte) : List Byte → List TextItem × List Byte
  | [] => ([], p)
  | b :: bs =>
    let x := scanByte p b
    let y := scanText x.2 bs
    (x.1 ++ y.1, y.2)

/-! ### Pieces and merges (R163 to R166) -/

/-- A symbol of a piece: its token, and whether it may merge. -/
structure Sym where
  token : Nat
  merges : Bool
  deriving DecidableEq, Repr

/-- The code point of a well-formed character. -/
def codePointOf : List Byte → Nat
  | [a] => a.toNat
  | [a, b] => a.toNat % 32 * 64 + b.toNat % 64
  | [a, b, c] => a.toNat % 16 * 4096 + b.toNat % 64 * 64 + c.toNat % 64
  | [a, b, c, d] => a.toNat % 8 * 262144 + b.toNat % 64 * 4096 + c.toNat % 64 * 64 + d.toNat % 64
  | _ => 0

def byteSyms (v : Vocab) (merges : Bool) (bs : List Byte) : List Sym :=
  bs.map (fun b => ⟨v.byteBase + b.toNat, merges⟩)

/-- Initial symbols of an item of a piece in character mode. -/
def charSyms (v : Vocab) : TextItem → List Sym
  | .bad b => byteSyms v false [b]
  | .char bs => match v.chars.find? (fun c => c.1 == codePointOf bs) with
    | some c => if v.special c.2 then byteSyms v false bs else [⟨c.2, true⟩]
    | none => byteSyms v false bs

def initialSyms (v : Vocab) (piece : List Byte) : List Sym :=
  if v.byteLevel then byteSyms v true piece
  else
    let x := scanText [] piece
    (x.1 ++ x.2.map TextItem.bad).flatMap (charSyms v)

/-- Rank and result of a pair; an entry that touches a special token has none (R166). -/
def rankIn (v : Vocab) (l r : Nat) : Nat → List (Nat × Nat × Nat) → Option (Nat × Nat)
  | _, [] => none
  | i, e :: es =>
    if e.1 == l && e.2.1 == r && !v.special e.1 && !v.special e.2.1 && !v.special e.2.2
    then some (i, e.2.2) else rankIn v l r (i + 1) es

/-- The best pair at or after position `i`: rank, position, result. -/
def bestPair (v : Vocab) : Nat → List Sym → Option (Nat × Nat × Nat)
  | _, [] => none
  | _, [_] => none
  | i, a :: b :: l =>
    let rest := bestPair v (i + 1) (b :: l)
    let here := if a.merges && b.merges then rankIn v a.token b.token 0 v.merges else none
    match here, rest with
    | some (r, t), some (r', p', t') => if r ≤ r' then some (r, i, t) else some (r', p', t')
    | some (r, t), none => some (r, i, t)
    | none, x => x

/-- Replaces the pair at a position by its result. -/
def mergeAt (syms : List Sym) (i t : Nat) : List Sym := syms.take i ++ ⟨t, true⟩ :: syms.drop (i + 2)

/-- Merges until no pair has a rank; each round shortens the piece by one. -/
def mergeLoop (v : Vocab) : Nat → List Sym → List Sym
  | 0, l => l
  | k + 1, l => match bestPair v 0 l with
    | some (_, i, t) => mergeLoop v k (mergeAt l i t)
    | none => l

/-- Tokens of a piece, and its fallback byte tokens. -/
def pieceTokens (v : Vocab) (piece : List Byte) : List Nat × Nat :=
  let syms := initialSyms v piece
  ((mergeLoop v syms.length syms).map (·.token), (syms.filter (fun x => !x.merges)).length)

/-! ### The splitter (R163) -/

structure TokState where
  split : Nat
  piece : List Byte
  tokens : List Nat
  offending : Nat
  fallback : Nat
  deriving DecidableEq, Repr

/-- Ends the current piece. -/
def TokState.endPiece (v : Vocab) (t : TokState) : TokState :=
  if t.piece.isEmpty then t
  else
    let p := pieceTokens v t.piece
    { t with piece := [], tokens := t.tokens ++ p.1, fallback := t.fallback + p.2 }

def Vocab.entry (v : Vocab) (state : Nat) (b : Byte) : Nat × Bool :=
  v.splitter.getD (256 * state + b.toNat) (0, false)

/-- One item of text. -/
def TokState.item (v : Vocab) (t : TokState) : TextItem → TokState
  | .bad b =>
    let t := t.endPiece v
    { t with tokens := t.tokens ++ [v.byteBase + b.toNat], offending := t.offending + 1, split := 0 }
  | .char bs =>
    let t := if t.piece.length + bs.length > 4096 then t.endPiece v else t
    let e := v.entry t.split (bs.headD 0)
    let t := if e.2 then t.endPiece v else t
    let t : TokState := { t with
      split := bs.tail.foldl (fun s b => (v.entry s b).1) e.1, piece := t.piece ++ bs }
    if t.piece.length == 4096 then t.endPiece v else t

/-- Tokenises text after a stream state (R167): the state after it and the pending bytes. At the end of
the text what is pending is offending, and the piece ends (R168). (Log entry 38: DEDUCED, unsafe.) -/
def tokeniseText (v : Vocab) (split : Nat) (piece pend text : List Byte) (final : Bool) :
    TokState × List Byte :=
  let x := scanText [] (pend ++ text)
  let items := if final then x.1 ++ x.2.map TextItem.bad else x.1
  let t := items.foldl (fun t i => t.item v i) ⟨split, piece, [], 0, 0⟩
  if final then (t.endPiece v, []) else (t, x.2)

/-- The tokens of a whole text. -/
def tokensOf (v : Vocab) (text : List Byte) : List Nat := (tokeniseText v 0 [] [] text true).1.tokens

/-! ### TOKENISE (R168) -/

structure TokeniseArgs where
  src : Nat
  more : Bool
  resume : Bool
  dest : Nat
  len : Nat
  cap : Nat
  state : Nat
  deriving DecidableEq, Repr

/-- Operands of TOKENISE and DETOKENISE. -/
def tokeniseArgs (r : Record) : TokeniseArgs :=
  { src := r.fieldN 16 6, more := r.fieldN 22 1 % 2 == 1, resume := r.fieldN 22 1 / 2 % 2 == 1,
    dest := r.fieldN 24 6, len := r.fieldN 32 4, cap := r.fieldN 36 4, state := r.fieldN 40 6 }

def textReserved (r : Record) : Bool :=
  modelReserved r.handle && r.fieldN 22 1 / 4 == 0 && zeroBytes r 23 24 && zeroBytes r 30 32 &&
    zeroBytes r 46 64

def tokeniseOperandsOk (s : State) (a : TokeniseArgs) : Bool :=
  decide (a.len ≤ 16777216) && decide (a.len + 4099 ≤ a.cap) && t2Arg s a.dest (4 * a.cap) 64 &&
    t2Arg s a.src a.len 1 &&
    (if a.more || a.resume then t2Arg s a.state 4160 64 else a.state == 0)

/-- A digest as its 32 bytes stand in memory. -/
def digestAt (m : Mem) (a : Nat) : Digest := ofBytes 256 (readBytes m a 32)

/-- A tokeniser state block agrees with the record, and its fields are in range (R168). (Log entry 38: DEDUCED, unsafe.) -/
def tokBlockOk (m : Mem) (r : Record) (v : Vocab) (a : Nat) : Bool :=
  readLe m a 2 == 0x0080 && readLe m (a + 2) 2 == r.tenant && digestAt m (a + 0x20) == v.digest &&
    decide (readLe m (a + 4) 1 ≤ 3) &&
    zeroRange m (a + 5 + readLe m (a + 4) 1) (3 - readLe m (a + 4) 1) &&
    decide (256 * readLe m (a + 8) 2 < v.splitter.length) && decide (readLe m (a + 10) 2 ≤ 4095) &&
    zeroRange m (a + 0x0C) 20 &&
    zeroRange m (a + 0x40 + readLe m (a + 10) 2) (4096 - readLe m (a + 10) 2)

/-- A tokeniser state block (Table 6-3). -/
def tokBlock (tenant : Nat) (v : Vocab) (t : TokState) (pend : List Byte) : List Byte :=
  toLe 2 0x0080 ++ toLe 2 tenant ++ toLe 1 pend.length ++ padTo 3 pend ++ toLe 2 t.split ++
    toLe 2 t.piece.length ++ List.replicate 20 0 ++ lineBytes v.digest 32 ++ padTo 4096 t.piece

def Vocab.blank : Vocab :=
  { byteLevel := true, size := 0, byteBase := 0, eos := 0, tokens := [], merges := [], chars := [],
    splitter := [], digest := 0 }

/-- The vocabulary of the version that a record's handle names. -/
def recordVocab (s : State) (r : Record) : Option Vocab := (s.resolve r.handle).bind (·.vocab)

def runTokenise (r : Record) (id : Nat) (s : State) : State :=
  let a := tokeniseArgs r
  let v := (recordVocab s r).getD Vocab.blank
  let m := s.t2
  let pend := if a.resume then readBytes m (a.state + 5) (readLe m (a.state + 4) 1) else []
  let split := if a.resume then readLe m (a.state + 8) 2 else 0
  let piece := if a.resume then readBytes m (a.state + 0x40) (readLe m (a.state + 10) 2) else []
  let t := tokeniseText v split piece pend (readBytes m a.src a.len) (!a.more)
  let s1 := s.writeT2 a.dest (t.1.tokens.flatMap (toLe 4))
  let s1 := if a.more then s1.writeT2 a.state (tokBlock r.tenant v t.1 t.2) else s1
  let s2 := s1.count r.tenant (fun c => { c with
    bytesIn := c.bytesIn + BitVec.ofNat 64 a.len,
    tokensOut := c.tokensOut + BitVec.ofNat 64 t.1.tokens.length,
    offending := c.offending + BitVec.ofNat 64 t.1.offending })
  s2.completeAfter (newWrites s s1) r id stOk
    (toLe 4 t.1.tokens.length ++ toLe 4 t.1.offending ++ toLe 1 t.2.length ++ [0] ++
      toLe 2 t.1.piece.length ++ toLe 4 t.1.fallback)

def planTokenise (r : Record) (s : State) : Plan :=
  let a := tokeniseArgs r
  let ver := s.resolve r.handle
  { reserved := textReserved r, served := s.serviceText, tenantOk := s.tenantOk r,
    checks := [(modelHandleOk s r, stDenied), (tokeniseOperandsOk s a, stBadParam),
      (ver.isNone || (recordVocab s r).isSome, stBadParam),
      (!a.resume || (match recordVocab s r with
        | some v => tokBlockOk s.t2 r v a.state
        | none => true), stBadParam),
      (ver.isSome, stVersionGone)],
    run := runTokenise r,
    sources := [(a.src, a.len)] ++ (if a.resume then [(a.state, 4160)] else []) }

def execTokenise (r : Record) (s : State) : Host.Outcome State Fault Refusal :=
  .next (s.record r 0x0200 planTokenise)

/-! ### DETOKENISE (R169 to R171) -/

/-- Bytes of a token in output. -/
def outBytes (v : Vocab) (showSpecials : Bool) (t : Nat) : List Byte :=
  if v.special t && !showSpecials then [] else v.bytes t

/-- Bytes released after held bytes, and those held back (R170). -/
def holdBack (bs : List Byte) : List Byte × List Byte :=
  let p := (scanText [] bs).2
  (bs.take (bs.length - p.length), p)

def detokOperandsOk (s : State) (a : TokeniseArgs) : Bool :=
  decide (1 ≤ a.len ∧ a.len ≤ 16777216) && decide (256 * a.len + 3 ≤ a.cap) &&
    t2Arg s a.src (4 * a.len) 4 && t2Arg s a.dest a.cap 1 &&
    (if a.more || a.resume then t2Arg s a.state 64 64 else a.state % 64 == 0)

def detokTokens (m : Mem) (a : TokeniseArgs) : List Nat :=
  (List.range a.len).map (fun i => readLe m (a.src + 4 * i) 4)

def detokBlockOk (m : Mem) (r : Record) (v : Vocab) (a : Nat) : Bool :=
  readLe m a 2 == 0x0081 && readLe m (a + 2) 2 == r.tenant && decide (readLe m (a + 4) 1 ≤ 3) &&
    zeroRange m (a + 5 + readLe m (a + 4) 1) (3 - readLe m (a + 4) 1) && zeroRange m (a + 8) 24 &&
    digestAt m (a + 0x20) == v.digest

def detokBlock (tenant : Nat) (v : Vocab) (held : List Byte) : List Byte :=
  toLe 2 0x0081 ++ toLe 2 tenant ++ toLe 1 held.length ++ padTo 3 held ++ List.replicate 24 0 ++
    lineBytes v.digest 32

def State.showSpecials (s : State) (t : Nat) : Bool :=
  match s.tenant? t with
  | some x => x.showSpecials
  | none => false

def runDetokenise (r : Record) (id : Nat) (s : State) : State :=
  let a := tokeniseArgs r
  let v := (recordVocab s r).getD Vocab.blank
  let held := if a.resume then readBytes s.t2 (a.state + 5) (readLe s.t2 (a.state + 4) 1) else []
  let all := held ++ (detokTokens s.t2 a).flatMap (outBytes v (s.showSpecials r.tenant))
  let x := if a.more then holdBack all else (all, [])
  let s1 := s.writeT2 a.dest x.1
  let s1 := if a.more then s1.writeT2 a.state (detokBlock r.tenant v x.2) else s1
  let s2 := s1.count r.tenant (fun c => { c with bytesOut := c.bytesOut + BitVec.ofNat 64 x.1.length })
  s2.completeAfter (newWrites s s1) r id stOk (toLe 4 (count32 x.1.length) ++ toLe 1 x.2.length)

def planDetokenise (r : Record) (s : State) : Plan :=
  let a := tokeniseArgs r
  let ver := s.resolve r.handle
  { reserved := textReserved r, served := s.serviceText, tenantOk := s.tenantOk r,
    checks := [(modelHandleOk s r, stDenied), (detokOperandsOk s a, stBadParam),
      (ver.isNone || (recordVocab s r).isSome, stBadParam),
      (match recordVocab s r with
        | some v => (detokTokens s.t2 a).all (fun t => decide (t < v.size)) &&
            (!a.resume || detokBlockOk s.t2 r v a.state)
        | none => true, stBadParam),
      (ver.isSome, stVersionGone)],
    run := runDetokenise r,
    sources := [(a.src, 4 * a.len)] ++ (if a.resume then [(a.state, 64)] else []) }

def execDetokenise (r : Record) (s : State) : Host.Outcome State Fault Refusal :=
  .next (s.record r 0x0201 planDetokenise)

/-! ### Grammars (R172 to R179) -/

def textHandleReserved (h : U64) : Bool := bitsOf h 63 48 == 0 && bitsOf h 35 10 == 0
def textNumber (h : U64) : Nat := bitsOf h 9 0

/-- The grammar of a number, dropped ones left out. -/
def State.grammar? (s : State) (n : Nat) : Option Grammar :=
  s.grammars.find? (fun g => g.number == n && !g.dropped)

def State.grammarFor (s : State) (t n : Nat) : Bool :=
  match s.grammar? n with
  | some g => g.shared || g.owner == t
  | none => false

/-- Operands of GRAMMAR_LOAD and TEMPLATE_LOAD. -/
structure LoadArgs where
  image : Nat
  shared : Bool
  bytes : Nat
  deriving DecidableEq, Repr

def loadArgs (r : Record) : LoadArgs :=
  { image := r.fieldN 16 6, shared := r.fieldN 22 1 % 2 == 1, bytes := r.fieldN 24 8 }

/-- Reserved bits of a load, those of the model handle in its operands among them (R8, R173, R180). -/
def loadReserved (r : Record) : Bool :=
  textHandleReserved r.handle && modelReserved (operandModel r) && r.fieldN 22 1 / 2 == 0 &&
    zeroBytes r 23 24 && zeroBytes r 40 64

/-- Bales of an image of `n` bytes. -/
def balesOf (n : Nat) : Nat := ceilDiv n 65536

def readEdge (m : Mem) (a : Nat) : GEdge :=
  { first := readLe m a 4, last := readLe m (a + 4) 4, next := readLe m (a + 8) 4, top := memGet m (a + 12),
    push := memGet m (a + 13), action := (memGet m (a + 14)).setWidth 3 }

/-- A grammar image passes R173 for a vocabulary. -/
def grammarOk (m : Mem) (a : LoadArgs) (v : Vocab) : Bool :=
  let i := a.image
  let states := readLe m (i + 4) 4
  let edges := readLe m (i + 8) 4
  let at1 := i + 64 + 16 * states
  readLe m i 2 == 0x0060 && zeroRange m (i + 2) 2 && zeroRange m (i + 0x10) 16 &&
    decide (1 ≤ states ∧ states ≤ 1048576) && decide (edges ≤ 16777216) &&
    decide (readLe m (i + 12) 4 < states) && decide (64 + 16 * states + 16 * edges ≤ a.bytes) &&
    digestAt m (i + 0x20) == v.digest &&
    (List.range states).all (fun k =>
      let e := i + 64 + 16 * k
      decide (readLe m (e + 4) 2 ≤ 4096) && decide (readLe m e 4 + readLe m (e + 4) 2 ≤ edges) &&
        decide (readLe m (e + 6) 1 ≤ 1) && zeroRange m (e + 7) 9) &&
    (List.range edges).all (fun k =>
      let e := readEdge m (at1 + 16 * k)
      decide (e.first ≤ e.last) && decide (e.last < v.size) &&
        !(decide (e.first ≤ v.eos) && decide (v.eos ≤ e.last)) && decide (e.next < states) &&
        decide (readLe m (at1 + 16 * k + 14) 1 ≤ 7) && zeroRange m (at1 + 16 * k + 15) 1)

def readGrammar (m : Mem) (a : LoadArgs) (number serial owner : Nat) : Grammar :=
  let i := a.image
  let states := readLe m (i + 4) 4
  let at1 := i + 64 + 16 * states
  { number := number, serial := serial, owner := owner, shared := a.shared,
    states := (List.range states).map (fun k =>
      let e := i + 64 + 16 * k
      ((List.range (readLe m (e + 4) 2)).map (fun j => readEdge m (at1 + 16 * (readLe m e 4 + j))),
        (memGet m (e + 6)).getLsbD 0)),
    start := readLe m (i + 12) 4, digest := digestAt m (i + 0x20), bales := balesOf a.bytes,
    dropped := false }

/-- The serial of the next grammar loaded: no earlier one has it (R179). -/
def State.newSerial (s : State) : Nat := s.grammarSerial + 1

def runGrammarLoad (r : Record) (id : Nat) (s : State) : State :=
  let g := readGrammar s.t2 (loadArgs r) (textNumber r.handle) s.newSerial r.tenant
  (({ s with grammars := s.grammars ++ [g], grammarSerial := s.newSerial }).notePeaks
    (chargedTo g.shared r.tenant)).complete r id stOk []

def planGrammarLoad (r : Record) (s : State) : Plan :=
  let a := loadArgs r
  { reserved := loadReserved r, served := s.serviceText, tenantOk := s.tenantOk r,
    checks := [(handleTenant r.handle == r.tenant, stDenied),
      (!a.shared || s.ringIsModule r.ring, stDenied),
      (t2Arg s a.image a.bytes 64, stBadParam),
      (match operandVocab s r with
        | some v => grammarOk s.t2 a v
        | none => false, stBadParam),
      ((s.grammar? (textNumber r.handle)).isNone, stWrongState),
      (s.t1Fits (chargedTo a.shared r.tenant) (balesOf a.bytes), stNoSpace)],
    run := runGrammarLoad r,
    sources := [(a.image, a.bytes)] }

def execGrammarLoad (r : Record) (s : State) : Host.Outcome State Fault Refusal :=
  .next (s.record r 0x0210 planGrammarLoad)

/-- A sequence that runs or waits holds a grammar (R179). (Log entry 40: DEDUCED, unsafe.) -/
def State.grammarHeld (s : State) (g : Grammar) : Bool :=
  s.granary.directory.any (fun x => decide (1 ≤ x.state ∧ x.state ≤ 3) && x.run.isSome &&
    (match x.automaton with
     | some a => a.serial == g.serial
     | none => false))

/-- Frees dropped grammars that nothing holds any more. (Log entry 40: DEDUCED, unsafe.) -/
def State.freeGrammars (s : State) : State :=
  { s with grammars := s.grammars.filter (fun g => !g.dropped || s.grammarHeld g) }

def State.dropGrammar (s : State) (n : Nat) : State :=
  ({ s with grammars := updWhere (fun (g : Grammar) => g.number == n) (fun (g : Grammar) =>
      { g with dropped := true }) s.grammars }).freeGrammars

def planGrammarDrop (r : Record) (s : State) : Plan :=
  let n := textNumber r.handle
  { reserved := textHandleReserved r.handle && zeroBytes r 16 64,
    served := s.serviceText, tenantOk := s.tenantOk r,
    checks := [(handleTenant r.handle == r.tenant && s.grammarFor r.tenant n, stDenied),
      ((match s.grammar? n with
        | some g => !g.shared
        | none => true) || s.ringIsModule r.ring, stDenied)],
    run := fun id s => (s.dropGrammar n).complete r id stOk [] }

def execGrammarDrop (r : Record) (s : State) : Host.Outcome State Fault Refusal :=
  .next (s.record r 0x0211 planGrammarDrop)

/-- An edge matches a token under a stack (R174). -/
def GEdge.takes (e : GEdge) (t : Nat) (stack : List Byte) : Bool :=
  decide (e.first ≤ t) && decide (t ≤ e.last) &&
    (!e.action.getLsbD 0 || stack.head? == some e.top) && (!e.action.getLsbD 1 || !stack.isEmpty) &&
    (!(e.action.getLsbD 2 && !e.action.getLsbD 1) || decide (stack.length < 256))

def Grammar.edges (g : Grammar) (state : Nat) : List GEdge := (g.states.getD state ([], false)).1
def Grammar.accepts (g : Grammar) (state : Nat) : Bool := (g.states.getD state ([], false)).2

/-- Bit `t` of the mask (R175). The mask has no address in the sampling core's SRAM; the draw takes its bits from here.
(Log entry 113: DEDUCED, safe.) -/
def Grammar.allows (g : Grammar) (eos : Nat) (a : Automaton) (t : Nat) : Bool :=
  (g.edges a.state).any (fun e => e.takes t a.stack) ||
    (t == eos && g.accepts a.state && a.stack.isEmpty)

/-- Some bit of the mask is set. -/
def Grammar.maskAny (g : Grammar) (size eos : Nat) (a : Automaton) : Bool :=
  (List.range size).any (g.allows eos a)

/-- The automaton after a token (R174, R176); without a matching edge it stays. -/
def Grammar.advance (g : Grammar) (a : Automaton) (t : Nat) : Automaton :=
  match (g.edges a.state).find? (fun e => e.takes t a.stack) with
  | none => a
  | some e =>
    let st := if e.action.getLsbD 1 then a.stack.tail else a.stack
    { a with state := e.next, stack := if e.action.getLsbD 2 then e.push :: st else st }

/-! ### Templates (R180) -/

def State.template? (s : State) (n : Nat) : Option Template := s.templates.find? (fun t => t.number == n)

def State.templateFor (s : State) (t n : Nat) : Bool :=
  match s.template? n with
  | some x => x.shared || x.owner == t
  | none => false

def readLiteral (m : Mem) (pool o n : Nat) : List Nat :=
  (List.range n).map (fun i => readLe m (pool + 4 * (o + i)) 4)

def readItem (m : Mem) (pool a : Nat) : TemplateItem :=
  { kind := readLe m a 1, part := readLe m (a + 1) 1, trunc := readLe m (a + 2) 1,
    priority := readLe m (a + 3) 1, budget := readLe m (a + 4) 4, min := readLe m (a + 8) 2,
    literal := if readLe m a 1 == 1 then []
      else readLiteral m pool (readLe m (a + 10) 2) (readLe m (a + 12) 2),
    perPassage := readLe m (a + 14) 2 }

def templateOk (m : Mem) (a : LoadArgs) (v : Vocab) : Bool :=
  let i := a.image
  let items := readLe m (i + 2) 1
  let lits := readLe m (i + 4) 2
  readLe m i 2 == 0x0040 && decide (1 ≤ items ∧ items ≤ 32) && decide (lits ≤ 4096) &&
    zeroRange m (i + 3) 1 && zeroRange m (i + 6) 26 && decide (64 + 16 * items + 4 * lits ≤ a.bytes) &&
    digestAt m (i + 0x20) == v.digest &&
    (readLiteral m (i + 64 + 16 * items) 0 lits).all (fun t => decide (t < v.size)) &&
    (List.range items).all (fun k =>
      let e := i + 64 + 16 * k
      let kind := readLe m e 1
      decide (kind ≤ 2) &&
        (kind != 1 || (decide (readLe m (e + 1) 1 ≤ 7) && decide (readLe m (e + 2) 1 ≤ 1))) &&
        (kind == 1 || decide (readLe m (e + 10) 2 + readLe m (e + 12) 2 ≤ lits)) &&
        (kind != 2 || decide (readLe m (e + 12) 2 ≤ 16)))

def readTemplate (m : Mem) (a : LoadArgs) (v : Vocab) (number owner : Nat) : Template :=
  let i := a.image
  let items := readLe m (i + 2) 1
  { number := number, owner := owner, shared := a.shared, vocab := v.size,
    items := (List.range items).map (fun k => readItem m (i + 64 + 16 * items) (i + 64 + 16 * k)),
    digest := v.digest, bales := balesOf a.bytes }

def runTemplateLoad (r : Record) (id : Nat) (s : State) : State :=
  let v := (operandVocab s r).getD Vocab.blank
  let t := readTemplate s.t2 (loadArgs r) v (textNumber r.handle) r.tenant
  (({ s with templates := s.templates ++ [t] }).notePeaks (chargedTo t.shared r.tenant)).complete r id stOk []

def planTemplateLoad (r : Record) (s : State) : Plan :=
  let a := loadArgs r
  { reserved := loadReserved r, served := s.serviceText, tenantOk := s.tenantOk r,
    checks := [(handleTenant r.handle == r.tenant, stDenied),
      (!a.shared || s.ringIsModule r.ring, stDenied),
      (t2Arg s a.image a.bytes 64, stBadParam),
      (match operandVocab s r with
        | some v => templateOk s.t2 a v
        | none => false, stBadParam),
      ((s.template? (textNumber r.handle)).isNone, stWrongState),
      (s.t1Fits (chargedTo a.shared r.tenant) (balesOf a.bytes), stNoSpace)],
    run := runTemplateLoad r,
    sources := [(a.image, a.bytes)] }

def execTemplateLoad (r : Record) (s : State) : Host.Outcome State Fault Refusal :=
  .next (s.record r 0x0220 planTemplateLoad)

def planTemplateDrop (r : Record) (s : State) : Plan :=
  let n := textNumber r.handle
  { reserved := textHandleReserved r.handle && zeroBytes r 16 64,
    served := s.serviceText, tenantOk := s.tenantOk r,
    checks := [(handleTenant r.handle == r.tenant && s.templateFor r.tenant n, stDenied),
      ((match s.template? n with
        | some t => !t.shared
        | none => true) || s.ringIsModule r.ring, stDenied)],
    run := fun id s =>
      ({ s with templates := s.templates.filter (fun t => t.number != n) }).complete r id stOk [] }

def execTemplateDrop (r : Record) (s : State) : Host.Outcome State Fault Refusal :=
  .next (s.record r 0x0221 planTemplateDrop)

/-! ### Passage stores (R181) -/

def State.store? (s : State) (slot tenant : Nat) : Option PassageStore :=
  s.stores.find? (fun x => x.slot == slot && x.tenant == tenant)

/-- V of the vocabulary that a digest names, from a loaded version. -/
def State.vocabSize (s : State) (d : Digest) : Option Nat :=
  (s.models.versions.filterMap (·.vocab)).find? (fun v => v.digest == d) |>.map (·.size)

/-- A passage image passes R181. -/
def passagesOk (s : State) (image bytes : Nat) : Bool :=
  let m := s.t2
  let n := readLe m (image + 4) 4
  let toks := readLe m (image + 8) 8
  let ent (e : Nat) : Nat := image + 64 + 16 * e
  readLe m image 2 == 0x0050 && zeroRange m (image + 2) 2 && zeroRange m (image + 0x10) 16 &&
    decide (64 + 16 * n + 4 * toks ≤ bytes) &&
    (match s.vocabSize (digestAt m (image + 0x20)) with
     | none => false
     | some v => (List.range toks).all (fun i => decide (readLe m (ent n + 4 * i) 4 < v))) &&
    ascending ((List.range n).map (fun e => readLe m (ent e) 4)) &&
    (List.range n).all (fun e => decide (1 ≤ readLe m (ent e + 4) 4) &&
      decide (readLe m (ent e + 4) 4 ≤ 65535) &&
      decide (readLe m (ent e + 8) 8 + readLe m (ent e + 4) 4 ≤ toks))

def readPassages (m : Mem) (image bytes slot tenant : Nat) : PassageStore :=
  let n := readLe m (image + 4) 4
  { slot := slot, tenant := tenant,
    passages := (List.range n).map (fun e =>
      let x := image + 64 + 16 * e
      (readLe m x 4, (List.range (readLe m (x + 4) 4)).map (fun i =>
        readLe m (image + 64 + 16 * n + 4 * (readLe m (x + 8) 8 + i)) 4))),
    digest := digestAt m (image + 0x20), bales := balesOf bytes }

def State.dropStore (s : State) (slot tenant : Nat) : State :=
  { s with stores := s.stores.filter (fun x => !(x.slot == slot && x.tenant == tenant)) }

def runPassageLoad (r : Record) (id : Nat) (s : State) : State :=
  let i := indexSlotOf r.handle
  let p := readPassages s.t2 (r.fieldN 16 6) (r.fieldN 24 8) i r.tenant
  let s := s.dropStore i r.tenant
  (({ s with stores := s.stores ++ [p] }).notePeaks r.tenant).complete r id stOk []

/-- Operand bytes with no field are read as reserved (R8); the store's vocabulary is a loaded one (R181).
(Log entries 39: DEDUCED, unsafe; 122: DEDUCED, unsafe.) -/
def planPassageLoad (r : Record) (s : State) : Plan :=
  { reserved := indexReserved r.handle && zeroBytes r 22 24 && zeroBytes r 32 64,
    served := s.serviceText, tenantOk := s.tenantOk r,
    checks := [(indexHandleOk s r, stDenied),
      (t2Arg s (r.fieldN 16 6) (r.fieldN 24 8) 64, stBadParam),
      (decide (64 ≤ r.fieldN 24 8) && passagesOk s (r.fieldN 16 6) (r.fieldN 24 8), stBadParam),
      (s.t1Fits r.tenant (balesOf (r.fieldN 24 8)), stNoSpace)],
    run := runPassageLoad r,
    sources := [(r.fieldN 16 6, r.fieldN 24 8)] }

def execPassageLoad (r : Record) (s : State) : Host.Outcome State Fault Refusal :=
  .next (s.record r 0x0230 planPassageLoad)

def planPassageDrop (r : Record) (s : State) : Plan :=
  let i := indexSlotOf r.handle
  { reserved := indexReserved r.handle && zeroBytes r 16 64,
    served := s.serviceText, tenantOk := s.tenantOk r,
    checks := [(indexHandleOk s r && (s.store? i r.tenant).isSome, stDenied)],
    run := fun id s => (s.dropStore i r.tenant).complete r id stOk [] }

def execPassageDrop (r : Record) (s : State) : Host.Outcome State Fault Refusal :=
  .next (s.record r 0x0231 planPassageDrop)

/-! ### PACK (R182 to R184) -/

/-- What packing has counted. -/
structure PackCounts where
  cut : Nat
  dropped : Nat
  missing : Nat
  trimmed : Nat
  deriving DecidableEq, Repr

/-- A filled item: whole tokens, or the passages taken with their separator. -/
structure Filled where
  item : TemplateItem
  place : Nat
  tokens : List Nat
  passages : List (List Nat)
  deriving DecidableEq, Repr

/-- Length of a filled item. -/
def Filled.size (f : Filled) : Nat :=
  if f.item.kind == 2 then
    sumOf List.length f.passages + f.item.literal.length * (f.passages.length - 1)
  else f.tokens.length

/-- The tokens of a filled item, separators between passages. -/
def Filled.out (f : Filled) : List Nat :=
  if f.item.kind == 2 then (f.passages.intersperse f.item.literal).flatten else f.tokens

/-- A walk of the passage list (R183 step 3). -/
structure Walk where
  taken : List (List Nat)
  used : Nat
  stopped : Bool
  seen : List Nat
  counts : PackCounts
  deriving DecidableEq, Repr

/-- One number of the list. Pads and repeats are skipped uncounted throughout; once the walk has stopped it looks
nothing up, and every further number is dropped (R183). (Log entry 112: DEDUCED, unsafe.) -/
def walkPassage (it : TemplateItem) (store : List (Nat × List Nat)) (w : Walk) (v : Nat) : Walk :=
  if v == padIndex || w.seen.contains v then w
  else
    let w := { w with seen := v :: w.seen }
    if w.stopped then { w with counts := { w.counts with dropped := w.counts.dropped + 1 } }
    else match store.find? (fun e => e.1 == v) with
    | none => { w with counts := { w.counts with missing := w.counts.missing + 1 } }
    | some e =>
      let keep := if it.perPassage == 0 then e.2 else e.2.take it.perPassage
      let cost := keep.length + (if w.taken.isEmpty then 0 else it.literal.length)
      if it.budget < w.used + cost then
        { w with
          stopped := true,
          counts := { w.counts with dropped := w.counts.dropped + 1 } }
      else
        { w with
          taken := w.taken ++ [keep], used := w.used + cost,
          counts := { w.counts with cut := w.counts.cut + (if keep.length < e.2.length then 1 else 0) } }

/-- Fills one item. -/
def fillItem (parts : List (List Nat)) (list : List Nat) (store : List (Nat × List Nat))
    (c : PackCounts) (place : Nat) (it : TemplateItem) : Filled × PackCounts :=
  match it.kind with
  | 0 => (⟨it, place, it.literal, []⟩, c)
  | 1 =>
    let t := parts.getD it.part []
    let t := if t.length ≤ it.budget then t
      else if it.trunc == 0 then t.take it.budget else t.drop (t.length - it.budget)
    (⟨it, place, t, []⟩, c)
  | _ =>
    let w := list.foldl (walkPassage it store) ⟨[], 0, false, [], c⟩
    (⟨it, place, [], w.taken⟩, w.counts)

/-- Fills all items in template order. -/
def fillItems (parts : List (List Nat)) (list : List Nat) (store : List (Nat × List Nat)) :
    Nat → PackCounts → List TemplateItem → List Filled × PackCounts
  | _, c, [] => ([], c)
  | i, c, it :: its =>
    let f := fillItem parts list store c i it
    let r := fillItems parts list store (i + 1) f.2 its
    (f.1 :: r.1, r.2)

/-- Drops passages from the last while `excess` is above zero and more than `min` remain: what remains,
tokens removed, passages dropped. -/
def dropPassages (sep min : Nat) : Nat → Nat → List (List Nat) → List (List Nat) × Nat × Nat
  | 0, _, l => (l, 0, 0)
  | k + 1, excess, l =>
    if excess = 0 || l.length ≤ min then (l, 0, 0)
    else
      let n := (l.getLast?.getD []).length + (if l.length = 1 then 0 else sep)
      let r := dropPassages sep min k (excess - n) l.dropLast
      (r.1, r.2.1 + n, r.2.2 + 1)

/-- Cuts one item by at most what its kind allows: the item, tokens removed, passages dropped. -/
def cutItem (excess : Nat) (f : Filled) : Filled × Nat × Nat :=
  match f.item.kind with
  | 1 =>
    let n := min excess (f.tokens.length - f.item.min)
    ({ f with tokens := if f.item.trunc == 0 then f.tokens.take (f.tokens.length - n)
        else f.tokens.drop n }, n, 0)
  | 2 =>
    let r := dropPassages f.item.literal.length f.item.min f.passages.length excess f.passages
    ({ f with passages := r.1 }, r.2.1, r.2.2)
  | _ => (f, 0, 0)

/-- Order of cutting: ascending priority, the later item first (R184). -/
def cutOrder (l : List Filled) : List Filled :=
  sortBy (fun a b => decide (a.item.priority < b.item.priority) ||
    (a.item.priority == b.item.priority && decide (b.place ≤ a.place))) l

/-- Cuts items in order until the excess is spent: items, excess left, counts. -/
def cutItems : Nat → PackCounts → List Filled → List Filled × Nat × PackCounts
  | excess, c, [] => ([], excess, c)
  | excess, c, f :: fs =>
    let x := cutItem excess f
    let r := cutItems (excess - x.2.1)
      { c with trimmed := c.trimmed + x.2.1, dropped := c.dropped + x.2.2 } fs
    (x.1 :: r.1, r.2)

/-- The packed prompt, in template order, and the counts; none for PACK_OVER. -/
def packPrompt (items : List TemplateItem) (parts : List (List Nat)) (list : List Nat)
    (store : List (Nat × List Nat)) (maxTokens : Nat) : Option (List Filled × PackCounts) :=
  let f := fillItems parts list store 0 ⟨0, 0, 0, 0⟩ items
  let r := cutItems (sumOf Filled.size f.1 - maxTokens) f.2 (cutOrder f.1)
  if r.2.1 == 0 then some (sortBy (fun a b => decide (a.place ≤ b.place)) r.1, r.2.2) else none

def packedPassages (l : List Filled) : Nat := sumOf (fun f => f.passages.length) l

structure PackArgs where
  dest : Nat
  pslot : Nat
  nparts : Nat
  maxTokens : Nat
  npass : Nat
  plist : Nat
  parts : Nat
  deriving DecidableEq, Repr

def packArgs (r : Record) : PackArgs :=
  { dest := r.fieldN 16 6, pslot := r.fieldN 22 1, nparts := r.fieldN 23 1, maxTokens := r.fieldN 24 4,
    npass := r.fieldN 28 2, plist := r.fieldN 32 6, parts := r.fieldN 40 6 }

/-- A slot that holds an index of the tenant or a shared one. -/
def slotVisible (s : State) (slot tenant : Nat) : Bool :=
  let sl := s.slot slot
  decide (slot < 16) && sl.state != 0 && (sl.owner == 0xFFFF || sl.owner == tenant)

def packOperandsOk (s : State) (a : PackArgs) : Bool :=
  decide (a.nparts ≤ 8) && decide (1 ≤ a.maxTokens ∧ a.maxTokens ≤ 2097152) &&
    decide (a.npass ≤ 1024) && t2Arg s a.dest (4 * a.maxTokens) 64 && t2Arg s a.plist (8 * a.npass) 1 &&
    t2Arg s a.parts (16 * a.nparts) 1

/-- Part `p`: offset and length. -/
def partAt (m : Mem) (base p : Nat) : Nat × Nat := (readLe m (base + 16 * p) 8, readLe m (base + 16 * p + 8) 4)

def readPart (m : Mem) (base p : Nat) : List Nat :=
  let d := partAt m base p
  (List.range d.2).map (fun i => readLe m (d.1 + 4 * i) 4)

/-- Descriptors and tokens of the parts (R182). -/
def partsOk (s : State) (base n v : Nat) : Bool :=
  (List.range n).all (fun p => zeroRange s.t2 (base + 16 * p + 12) 4 &&
    t2Arg s (partAt s.t2 base p).1 (4 * (partAt s.t2 base p).2) 1 &&
    (readPart s.t2 base p).all (fun t => decide (t < v)))

def Template.blank : Template :=
  { number := 0, owner := 0, shared := false, vocab := 0, items := [], digest := 0, bales := 0 }

def State.templateOf (s : State) (h : U64) : Template := (s.template? (textNumber h)).getD Template.blank

/-- The passages of a partition; a partition without a store has none. -/
def State.passagesOf (s : State) (slot tenant : Nat) : List (Nat × List Nat) :=
  match s.store? slot tenant with
  | some p => p.passages
  | none => []

def storeAgrees (s : State) (slot tenant : Nat) (t : Template) : Bool :=
  match s.store? slot tenant with
  | some p => p.digest == t.digest
  | none => true

def runPack (r : Record) (id : Nat) (s : State) : State :=
  let a := packArgs r
  let t := s.templateOf r.handle
  let parts := (List.range a.nparts).map (readPart s.t2 a.parts)
  let list := (List.range a.npass).map (fun e => readLe s.t2 (a.plist + 8 * e) 4)
  match packPrompt t.items parts list (s.passagesOf a.pslot r.tenant) a.maxTokens with
  | none => s.complete r id stPackOver []
  | some (fs, c) =>
    let toks := fs.flatMap Filled.out
    let s1 := s.writeT2 a.dest (toks.flatMap (toLe 4))
    let s2 := s1.count r.tenant (fun c => { c with packs := c.packs + 1 })
    s2.completeAfter (newWrites s s1) r id stOk
      (toLe 4 toks.length ++ toLe 2 (packedPassages fs) ++ toLe 2 c.cut ++ toLe 2 c.dropped ++
        toLe 2 c.missing ++ toLe 4 c.trimmed)

def planPack (r : Record) (s : State) : Plan :=
  let a := packArgs r
  let t := s.templateOf r.handle
  { reserved := textHandleReserved r.handle && zeroBytes r 30 32 && zeroBytes r 38 40 &&
      zeroBytes r 46 64,
    served := s.serviceText, tenantOk := s.tenantOk r,
    checks := [(handleTenant r.handle == r.tenant && s.templateFor r.tenant (textNumber r.handle), stDenied),
      (slotVisible s a.pslot r.tenant, stDenied), (packOperandsOk s a, stBadParam),
      (partsOk s a.parts a.nparts t.vocab, stBadParam), (storeAgrees s a.pslot r.tenant t, stBadParam)],
    run := runPack r,
    sources := [(a.plist, 8 * a.npass), (a.parts, 16 * a.nparts)] ++
      (List.range a.nparts).map (fun i => ((partAt s.t2 a.parts i).1, 4 * (partAt s.t2 a.parts i).2)) }

def execPack (r : Record) (s : State) : Host.Outcome State Fault Refusal :=
  .next (s.record r 0x0240 planPack)

end Sys2Proof.Machine
end

