-- ==== Sys2Proof/Machine/Sampler.lean ====
section
/-!
DEFINITION. Sampling and speculative drafting (09 R265 to R267) under the grammar mask (06 R175 to R178).
Logits are free values.
-/

namespace Sys2Proof.Machine

/-! ### Generation parameters (Table 9-4) -/

structure GenParams where
  maxNew : Nat
  temp : U32
  topP : U32
  topK : Nat
  seed : U64
  prefixLen : Nat
  drafts : Nat
  dmode : Nat
  grammar : Nat
  textDest : Nat
  textCap : Nat
  stopTok : Nat
  deriving DecidableEq, Repr

def genParams (p : Line) : GenParams :=
  { maxNew := field p 0 4, temp := p.extractLsb' 32 32, topP := p.extractLsb' 64 32, topK := field p 12 4,
    seed := p.extractLsb' 128 64, prefixLen := field p 24 4, drafts := field p 28 1, dmode := field p 29 1,
    grammar := field p 30 2, textDest := field p 32 6, textCap := field p 40 4, stopTok := field p 44 4 }

/-- The grammar that a block attaches. -/
def GenParams.attaches (g : GenParams) : Option Nat :=
  if g.grammar / 32768 == 1 then some (g.grammar % 1024) else none

/-! ### One draw (R265) -/

/-- Order key of a logit, larger first; NaN is read as −∞. -/
def logitKey (x : U32) : Nat := (orderKey 1 false x.toNat).getD 0

/-- −∞. -/
def negInf : U32 := 0xFF800000

/-- Logits of tokens 0 to V − 1, NaN as −∞, masked. -/
def maskLogits (size : Nat) (allow : Nat → Bool) (logit : Nat → U32) : List U32 :=
  (List.range size).map (fun t => if !allow t || nan32 (logit t) then negInf else logit t)

/-- The best of the tokens that a mask allows: the largest value, the lowest token of equals. The sampler draws only
tokens whose bits are set, also where every allowed value is −∞ (R175). -/
def bestToken (allow : Nat → Bool) (ys : List U32) : Nat :=
  let toks := (List.range ys.length).filter allow
  toks.foldl (fun (b : Nat) t =>
    if logitKey (ys.getD t negInf) > logitKey (ys.getD b negInf) then t else b) (toks.head?.getD 0)

/-- Tokens in the order (value descending, token ascending). -/
def rankTokens (ys : List U32) : List Nat :=
  sortBy (fun a b => if logitKey (ys.getD a negInf) == logitKey (ys.getD b negInf) then decide (a ≤ b)
    else decide (logitKey (ys.getD b negInf) < logitKey (ys.getD a negInf))) (List.range ys.length)

/-- a ≥ b and a > b of FP32 values. -/
def ge32 (a b : U32) : Bool := !nan32 a && !nan32 b && !fpLt (readFp32 a) (readFp32 b)
def gt32 (a b : U32) : Bool := fpLt (readFp32 b) (readFp32 a)

/-- RSUM of a row (R215). -/
def rowSum (xs : List U32) : U32 := groupSum 64 0 (xs.map readFp32)

/-- Keeps tokens in rank order until their sum reaches the limit (top-p). -/
def nucleus (es : List U32) (lim : U32) : U32 → List Nat → List Nat
  | _, [] => []
  | c, t :: ts =>
    let c' := add32 c (es.getD t 0)
    if ge32 c' lim then [t] else t :: nucleus es lim c' ts

/-- The first token whose running sum passes the threshold. -/
def pickToken (es : List U32) (thr : U32) : U32 → List Nat → Option Nat
  | _, [] => none
  | c, t :: ts =>
    let c' := add32 c (es.getD t 0)
    if gt32 c' thr then some t else pickToken es thr c' ts

/-- The fraction drawn for a position. -/
def drawFrac (seed handle : U64) (p : Nat) : U32 :=
  let u := leNat (shake256 (toLe 8 seed.toNat ++ toLe 8 handle.toNat ++ toLe 8 p) 8)
  round32 (.fin false (u / 2 ^ 40) (-24))

/-- A token of a list, which one is a free value. -/
def freeToken (seed handle : U64) (p : Nat) (l : List Nat) : Nat :=
  l.getD (Config.openToken seed handle p % l.length) 0

/-- The token drawn for position `p` from masked logits. Where no e[t] exceeds 0, because the largest logit is infinite,
the rule names none: it is some token that the mask allows. (Log entry 130: DESIGN CHOICE, safe.) -/
def drawToken (g : GenParams) (handle : U64) (p : Nat) (allow : Nat → Bool) (xs : List U32) : Nat :=
  if g.temp == 0 then bestToken allow xs
  else
    let inv := recip32 g.temp
    let ys := xs.map (fun x => mul32 x inv)
    let ys := if g.topK = 0 then ys
      else
        let keep := (rankTokens ys).take g.topK
        (List.range ys.length).map (fun t => if keep.contains t then ys.getD t negInf else negInf)
    if ys.all (fun y => y == negInf) then ((List.range ys.length).find? allow).getD 0
    else
      let m := ys.foldl max32 negInf
      let es := ys.map (fun y => exp32 (sub32 y m))
      let es := if gt32 0x3F800000 g.topP then
          let keep := nucleus es (mul32 g.topP (rowSum es)) 0 (rankTokens es)
          (List.range es.length).map (fun t => if keep.contains t then es.getD t 0 else 0)
        else es
      let thr := mul32 (rowSum es) (drawFrac g.seed handle p)
      let pos := (List.range es.length).filter (fun t => gt32 (es.getD t 0) 0)
      (pickToken es thr 0 pos).getD (pos.getLast?.getD
        (freeToken g.seed handle p ((List.range ys.length).filter allow)))

/-! ### A step of one sequence (R266, R267, R176 to R178) -/

/-- What the draws of a sequence depend on. -/
structure DrawCtx where
  /-- Firmware generation and image digest. -/
  which : Nat × Nat
  /-- Keys and values of the first `n` positions. -/
  cache : Nat → List ((Nat × Nat) × Mem)
  modes : List (BitVec 2)
  tables : List (Nat × List (Nat × List U32))
  size : Nat
  eos : Nat
  handle : U64
  params : GenParams
  grammar : Option Grammar
  eosOnEmpty : Bool

def DrawCtx.allow (c : DrawCtx) (a : Option Automaton) (t : Nat) : Bool :=
  match c.grammar, a with
  | some g, some a => g.allows c.eos a t
  | _, _ => true

def DrawCtx.maskEmpty (c : DrawCtx) (a : Option Automaton) : Bool :=
  match c.grammar, a with
  | some g, some a => !g.maskAny c.size c.eos a
  | _, _ => false

def DrawCtx.advance (c : DrawCtx) (a : Option Automaton) (t : Nat) : Option Automaton :=
  match c.grammar, a with
  | some g, some a => some (g.advance a t)
  | _, a => a

/-- A token that ends the run. -/
def DrawCtx.ends (c : DrawCtx) (t : Nat) : Bool := t == c.eos || t == c.params.stopTok

/-- Logits for position `n`, from the row of the position before it, which holds `last`. -/
def DrawCtx.logits (c : DrawCtx) (n last : Nat) : Nat → U32 :=
  Config.logit c.which (c.cache n) last c.modes c.tables

/-- NaN logits of the row before position `n`. A row whose mask is empty never reaches the procedure (R265). -/
def DrawCtx.rowNans (c : DrawCtx) (n last : Nat) (a : Option Automaton) : Nat :=
  if c.maskEmpty a then 0 else ((List.range c.size).filter (fun t => nan32 (c.logits n last t))).length

/-- NaN logits of the target rows of a step for positions `n` on: along the trial automaton, up to the first empty
mask (R177). -/
def DrawCtx.nans (c : DrawCtx) (n last : Nat) (a : Option Automaton) : List Nat → Nat
  | [] => c.rowNans n last a
  | d :: ds => if c.maskEmpty a then 0 else c.rowNans n last a + c.nans (n + 1) d (c.advance a d) ds

/-- The token drawn for position `n`. -/
def DrawCtx.draw (c : DrawCtx) (n last : Nat) (a : Option Automaton) : Nat :=
  drawToken c.params c.handle n (c.allow a) (maskLogits c.size (c.allow a) (c.logits n last))

/-- Drafts proposed greedily after position `n` − 1, at most `d`: the best draft-head logit that the trial mask
allows (R266). -/
def DrawCtx.propose (c : DrawCtx) (n last : Nat) : Nat → Nat → Option Automaton → List Nat
  | 0, _, _ => []
  | d + 1, i, a =>
    if c.maskEmpty a then []
    else
      let t := bestToken (c.allow a) (maskLogits c.size (c.allow a)
        (fun t => Config.draftLogit c.which (c.cache (n - 1)) last c.modes c.tables (i, t)))
      if c.ends t then [t] else t :: c.propose n last d (i + 1) (c.advance a t)

/-- What a step draws for a sequence. `empty`: the mask of the position after the tokens has no bit set. -/
structure Drawn where
  emitted : List Nat
  automaton : Option Automaton
  forcedEos : Bool
  empty : Bool
  deriving DecidableEq, Repr

/-- Drafts accepted: every emitted token but the target that replaces a draft or follows the last. -/
def Drawn.accepted (d : Drawn) : Nat := if d.empty then d.emitted.length else d.emitted.length - 1

/-- Targets position by position while they equal the drafts; an empty mask forces `eos` or stops. (Log entry 58: DEDUCED, unsafe.) -/
def DrawCtx.verify (c : DrawCtx) (n last : Nat) (a : Option Automaton) : List Nat → Drawn
  | [] =>
    if c.maskEmpty a then
      if c.eosOnEmpty then ⟨[c.eos], a, true, false⟩ else ⟨[], a, false, true⟩
    else
      let t := c.draw n last a
      ⟨[t], c.advance a t, false, false⟩
  | d :: ds =>
    if c.maskEmpty a then
      if c.eosOnEmpty then ⟨[c.eos], a, true, false⟩ else ⟨[], a, false, true⟩
    else
      let t := c.draw n last a
      if t == d && !c.ends t then
        let r := c.verify (n + 1) t (c.advance a t) ds
        { r with emitted := t :: r.emitted }
      else ⟨[t], c.advance a t, false, false⟩

end Sys2Proof.Machine
end

