-- ==== Sys2Proof/Machine/Seal.lean ====
section
/-!
DEFINITION. Seals (10 R296 to R307): state bale, encryption, manifest, seal area, snapshot, mirroring and
the end of a seal.
-/

namespace Sys2Proof.Machine

/-! ### Keys (R436) -/

/-- Key identifier: the ASCII bytes "LM9-KID", then the key. -/
def keyId (k : BitVec 256) : U64 :=
  ofBytes 64 (shake256 ([0x4C, 0x4D, 0x39, 0x2D, 0x4B, 0x49, 0x44] ++ lineBytes k 32) 8)

def State.tenantKey (s : State) (t : Nat) : Option TenantKey := (s.tenant? t).bind (·.key)

/-! ### The state bale (Table 10-4) -/

/-- A model handle with its version. -/
def modelHandle (tenant model version : Nat) : Nat := tenant * 2 ^ 36 + model * 65536 + version

/-- Bit pairs of the layers' modes. -/
def modesField (l : List (BitVec 2)) : Nat :=
  (List.range l.length).foldl (fun n i => n + (l.getD i 0).toNat * 4 ^ i) 0

/-- The fields of the state bale, sparse. -/
def stateBaleMem (x : Session) (state : Nat) : Mem :=
  let run := x.run
  let a := x.automaton
  let w (m : Mem) (o k v : Nat) : Mem := writeLe m o k v
  let flags := (if run.isSome then 1 else 0) + (if a.isSome then 2 else 0) + (if x.pending.isSome then 4 else 0)
  let m := w [] 0 2 0x00A1
  let m := w m 2 1 state
  let m := w m 3 1 flags
  let m := w m 4 2 x.modes.length
  let m := w m 8 8 (modelHandle (handleTenant x.handle) x.model x.version)
  let m := w m 0x10 4 x.length
  let m := w m 0x14 4 (x.pending.getD 0xFFFFFFFF)
  let m := w m 0x18 4 x.maxLen
  let m := w m 0x1C 4 x.prefixLen
  let m := w m 0x20 4 ((run.map (·.emitted)).getD 0)
  let m := w m 0x24 1 ((run.map (·.lastAcc)).getD 0)
  let m := w m 0x28 8 ((run.map (·.released)).getD 0)
  let m := w m 0x30 4 ((a.map (·.state)).getD 0)
  let m := w m 0x34 2 ((a.map (·.stack.length)).getD 0)
  let m := w m 0x36 2 ((a.map (fun a => 0x8000 + a.grammar)).getD 0)
  let m := w m 0x38 1 x.heldBytes.length
  let m := writeBytes m 0x39 x.heldBytes
  let m := writeBytes m 0x40 (lineBytes ((run.map (·.params)).getD 0) 64)
  let m := writeBytes m 0x80 ((a.map (·.stack.reverse)).getD [])
  let m := w m 0x200 256 (modesField x.modes)
  let m := writeBytes m 0x400 (x.fbPos.flatMap (toLe 4))
  let m := writeBytes m 0x1400 (x.clipTotal.flatMap (fun c => toLe 8 c.toNat))
  writeBytes m 0x3400 (x.lastStep.flatMap (fun c => toLe 8 c.1.toNat ++ toLe 8 c.2.toNat))

def baleBytes (m : Mem) : List Byte := readBytes m 0 65536

/-! ### Objects of a seal (R297, R298) -/

/-- One object that a seal lists, with the entry that is carried over, if any. -/
structure SealObj where
  kind : Nat
  stream : Nat
  bale : Nat
  plain : List Byte
  digest : Digest
  carried : Option SealEntry
  deriving DecidableEq, Repr

/-- The entry of a session's latest seal for a bale. -/
def Session.listed (x : Session) (kind stream bale : Nat) : Option SealEntry :=
  x.latest.bind (fun i => i.entries.find? (fun e => e.kind == kind && e.stream == stream && e.bale == bale))

/-- The objects of a seal in the order of R300; a `full` seal carries nothing over. -/
def State.sealObjects (s : State) (x : Session) (state : Nat) (full : Bool) : List SealObj :=
  let sp := baleBytes (stateBaleMem x state)
  let sd := digest256 sp
  let st : SealObj :=
    { kind := 0xA1, stream := 0, bale := 0, plain := sp, digest := sd,
      carried := if full then none else (x.listed 0xA1 0 0).filter (fun e => e.digest == sd) }
  let kv := (sortBy (fun (a b : KvBale) => if a.stream == b.stream then decide (a.bale ≤ b.bale)
    else decide (a.stream < b.stream)) x.kv).filter (fun k =>
      decide ((kvTrailerOf (s.kvData k.frame)).firstPos < x.length))
  st :: kv.map (fun k =>
    let kind := 0x41 + k.stream % 2
    let plain := baleBytes (x.sealedData (s.kvData k.frame))
    { kind := kind, stream := k.stream, bale := k.bale, plain := plain, digest := digest256 plain,
      carried := if full || k.dirty then none else x.listed kind k.stream k.bale })

/-! ### Encryption (R299) and the invocation counter (R441) -/

def State.iv (s : State) (i : Nat) : BitVec 96 :=
  BitVec.ofNat 96 (s.ident.nonceId.toNat * 2 ^ 64 + (s.part.ivNext + BitVec.ofNat 64 i).toNat)

/-- Ends of reserved ranges that `n` more invocations need. -/
def State.ivNeed (s : State) (n : Nat) : Nat :=
  ceilDiv ((s.part.ivNext.toNat + n) - s.part.ivReserve.toNat) (2 ^ 20)

/-- `n` invocations can be used now: within the reservation, or a new one can be written. -/
def State.ivsOk (s : State) (n : Nat) : Bool := s.ivNeed n == 0 || !s.power.nvInhibit

/-- Uses `n` invocations, reserving ranges of 2^20 as needed. -/
def State.useIvs (s : State) (n : Nat) : State :=
  { s with part := { s.part with
      ivReserve := s.part.ivReserve + BitVec.ofNat 64 (s.ivNeed n * 2 ^ 20),
      ivNext := s.part.ivNext + BitVec.ofNat 64 n } }

def dataAad (tenant kind : Nat) (digest : Digest) : List Byte :=
  toLe 2 tenant ++ toLe 2 kind ++ lineBytes digest 32

/-- An object encrypted: ciphertext and tag. -/
def sealData (key : BitVec 256) (tenant kind : Nat) (digest : Digest) (iv : BitVec 96) (plain : List Byte) :
    List Byte × BitVec 128 :=
  let r := gcmSeal (lineBytes key 32) (lineBytes iv 12) (dataAad tenant kind digest) plain
  (r.1, ofBytes 128 r.2)

/-! ### The seal area (R302, R303) -/

/-- Bales of the used region. -/
def SealArea.used (a : SealArea) : Nat := if a.bales = 0 then 0 else (a.cursor + a.bales - a.floor) % a.bales

/-- The area can take `n` more bales. -/
def SealArea.takes (a : SealArea) (n : Nat) : Bool := a.bales != 0 && decide (a.used + n ≤ a.bales - 1)

/-- A position lies in the used region. -/
def SealArea.holds (a : SealArea) (p : Nat) : Bool :=
  decide (p < a.bales) && decide ((p + a.bales - a.floor) % a.bales < a.used)

/-- The next `n` positions at the cursor. -/
def SealArea.next (a : SealArea) (n : Nat) : List Nat := (List.range n).map (fun i => (a.cursor + i) % a.bales)

def SealArea.at_ (a : SealArea) (p : Nat) : Nat := a.base.toNat + p * 65536

def State.modArea (s : State) (t : Nat) (f : SealArea → SealArea) : State :=
  if s.areas.any (fun a => a.tenant == t) then
    { s with areas := updWhere (fun a => a.tenant == t) f s.areas }
  else { s with areas := s.areas ++ [f (s.area t)] }

/-! ### Writing a seal (R300, R302) -/

/-- What is being written: entries, objects at area positions, places and invocations used. -/
structure Writing where
  entries : List SealEntry
  puts : List (Nat × List Byte)
  used : Nat
  deriving DecidableEq, Repr

/-- Writes or carries over one object. -/
def State.putObject (s : State) (key : BitVec 256) (tenant : Nat) (a : SealArea) (w : Writing)
    (o : SealObj) : Writing :=
  match o.carried with
  | some e => { w with entries := w.entries ++ [e] }
  | none =>
    let iv := s.iv w.used
    let place := (a.cursor + w.used) % a.bales
    let c := sealData key tenant o.kind o.digest iv o.plain
    let e : SealEntry := { digest := o.digest, iv := iv, tag := c.2, place := place, kind := o.kind,
                           stream := o.stream, bale := o.bale }
    { entries := w.entries ++ [e], puts := w.puts ++ [(place, c.1)], used := w.used + 1 }

def entryImage (e : SealEntry) : List Byte :=
  lineBytes e.digest 32 ++ lineBytes e.iv 12 ++ lineBytes e.tag 16 ++ toLe 4 e.place ++ toLe 2 e.kind ++
    [0, 0] ++ toLe 4 e.stream ++ toLe 4 e.bale ++ [0, 0, 0, 0]

/-- Header of a manifest part, with its tag. -/
def partHeader (tenant part parts : Nat) (session sealNo : U64) (prev entries : Nat) (iv : BitVec 96)
    (tag : BitVec 128) : List Byte :=
  toLe 2 0xA0 ++ toLe 2 tenant ++ toLe 2 part ++ toLe 2 parts ++ toLe 8 session.toNat ++
    toLe 8 sealNo.toNat ++ toLe 4 prev ++ toLe 4 entries ++ lineBytes iv 12 ++ lineBytes tag 16 ++
    [0, 0, 0, 0]

/-- Writes the manifest parts after the data bales: positions of the parts, in order. (Log entry 95: DEDUCED, unsafe.) -/
def State.putParts (s : State) (key : BitVec 256) (tenant : Nat) (a : SealArea) (session sealNo : U64)
    (parts : Nat) : Nat → Nat → Writing → List (List SealEntry) → Writing × List Nat
  | _, _, w, [] => (w, [])
  | part, prev, w, es :: rest =>
    let iv := s.iv w.used
    let place := (a.cursor + w.used) % a.bales
    let body := es.flatMap entryImage
    let body := body ++ List.replicate (65472 - body.length) 0
    let aad := partHeader tenant part parts session sealNo prev es.length iv 0
    let r := gcmSeal (lineBytes key 32) (lineBytes iv 12) aad body
    let image := partHeader tenant part parts session sealNo prev es.length iv (ofBytes 128 r.2) ++ r.1
    let x := s.putParts key tenant a session sealNo parts (part + 1) place
      { w with puts := w.puts ++ [(place, image)], used := w.used + 1 } rest
    (x.1, place :: x.2)

/-- Bales that objects will take, manifest parts included. -/
def sealNeed (os : List SealObj) : Nat :=
  (os.filter (fun o => o.carried.isNone)).length + ceilDiv os.length 818

/-- Writes a seal of the objects at the cursor: its record, and the bales written. -/
def State.writeSeal (s : State) (tenant : Nat) (session sealNo : U64) (os : List SealObj) :
    State × SealInfo × Nat :=
  let a := s.area tenant
  let key := ((s.tenantKey tenant).map (·.bits)).getD 0
  let w := os.foldl (s.putObject key tenant a) ⟨[], [], 0⟩
  let groups := chunks 818 w.entries
  let p := s.putParts key tenant a session sealNo groups.length 0 0xFFFFFFFF w groups
  let s := p.1.puts.foldl (fun s x => s.writeT2 (a.at_ x.1) x.2) s
  let s := (s.useIvs p.1.used).modArea tenant (fun a => { a with cursor := (a.cursor + p.1.used) % a.bales })
  let s := (s.count tenant (fun c => { c with written := c.written + BitVec.ofNat 64 p.1.used })).baleUnits tenant
    p.1.used
  (s, { number := sealNo, root := p.2.getLast?.getD 0, mirrored := false, entries := w.entries,
        parts := p.2 }, p.1.used)

/-! ### Mirroring (R305, R306, R440) -/

/-- A listed object as it lies sealed in the area. -/
def State.sealedBale (s : State) (tenant : Nat) (e : SealEntry) : SealedBale :=
  { kind := e.kind, stream := e.stream, bale := e.bale, digest := e.digest, iv := e.iv, tag := e.tag,
    cipher := readBytes s.t2 ((s.area tenant).at_ e.place) 65536 }

/-- A listed key-value bale of a resident session is encrypted again under its listed IV; any other object is
sent as it lies in the area (R311 step 2). -/
def State.residentBale (s : State) (x : Session) (e : SealEntry) : SealedBale :=
  let t := handleTenant x.handle
  match x.kv.find? (fun k => e.kind != 0xA1 && k.stream == e.stream && k.bale == e.bale) with
  | some k =>
    let key := ((s.tenantKey t).map (·.bits)).getD 0
    let c := sealData key t e.kind e.digest e.iv (baleBytes (x.sealedData (s.kvData k.frame)))
    { kind := e.kind, stream := e.stream, bale := e.bale, digest := e.digest, iv := e.iv, tag := e.tag,
      cipher := c.1 }
  | none => s.sealedBale t e

def State.movedSession (s : State) (session sealNo : U64) (state parkedFrom : Nat) (all es : List SealEntry) :
    MovedSession :=
  let t := handleTenant session
  let k := s.tenantKey t
  { session := session, sealNo := sealNo, state := state, parkedFrom := parkedFrom,
    keyId := ((k.map (fun k => keyId k.bits)).getD 0), keyImported := (k.map (·.imported)).getD false,
    listed := all.map (fun e => (e.kind, e.stream, e.bale, e.digest)), objects := es.map (s.sealedBale t),
    more := false }

/-- The twin is PAIRED and the tenant's key was imported. -/
def State.mirrors (s : State) (tenant : Nat) : Bool :=
  s.pairing.state == 2 && ((s.tenantKey tenant).map (·.imported)).getD false

/-- Bales sent to the twin whose receipt is outstanding. -/
def Pairing.owedBales (p : Pairing) : Nat := sumOf (·.2) p.unreceipted

/-- Sends waiting mirrored objects, oldest first, while at most 256 bales wait for their receipt (R316). (Log entry 128:
DEDUCED, unsafe.) -/
def State.sendQueued (s : State) : List (((U64 × U64) × Nat) × Sent) → State
  | [] => { s with pairing := { s.pairing with mirrorQueue := [] } }
  | q :: qs =>
    if s.pairing.owedBales + q.1.2 ≤ 256 then
      ({ (s.putOnPort 0 q.2) with
        pairing := { s.pairing with unreceipted := s.pairing.unreceipted ++ [q.1] } }).sendQueued qs
    else { s with pairing := { s.pairing with mirrorQueue := q :: qs } }

/-- One message for each object of a seal; a seal that sends no object is one message still. -/
def pieces (m : MovedSession) : List MovedSession :=
  if m.objects.isEmpty then [m]
  else m.objects.mapIdx (fun i o => { m with objects := [o], more := decide (i + 1 < m.objects.length) })

/-- The twin owes a receipt of a seal, or objects of it are still to be sent. -/
def Pairing.owes (p : Pairing) (k : U64 × U64) : Bool :=
  p.unreceipted.any (fun e => e.1 == k) || p.mirrorQueue.any (fun e => e.1.1 == k)

/-- Objects of seals that have ended are not sent any more. -/
def State.dropMirror (s : State) (ks : List (U64 × U64)) : State :=
  { s with pairing := { s.pairing with mirrorQueue := s.pairing.mirrorQueue.filter (fun e => !ks.contains e.1.1) } }

/-- Mirrors a seal to the twin; the first after pairing sends every object, a later one what it wrote. -/
def State.sendMirror (s : State) (session : U64) (i : SealInfo) (new : List SealEntry) (state : Nat) :
    State :=
  let es := if s.pairing.mirroredOnce.contains session then new else i.entries
  let ms := pieces (s.movedSession session i.number state 0 i.entries es)
  let s := s.baleUnits (handleTenant session) es.length
  s.sendQueued (s.pairing.mirrorQueue ++
    ms.map (fun m => (((session, i.number), m.objects.length), Sent.bulk 0 0 (.mirrored m))))

/-- The twin's receipt of one message of a seal: more can be sent. Once every object is taken, the session counts as
mirrored (R306). -/
def State.receiptIn (s : State) (session no : U64) (ok : Bool) : State :=
  let p := s.pairing
  let left := p.unreceipted.eraseP (fun e => e.1 == (session, no))
  let q := { p with unreceipted := left }
  let s := { s with pairing := { q with
    mirroredOnce := if ok && p.owes (session, no) && !q.owes (session, no) && !p.mirroredOnce.contains session then
        p.mirroredOnce ++ [session]
      else p.mirroredOnce } }
  s.sendQueued s.pairing.mirrorQueue

/-! ### Completions of session commands (Table 10-9) -/

/-- Result bytes 12 on of a session command. -/
def sessionResult (state flags a b c : Nat) : List Byte :=
  toLe 1 state ++ toLe 1 flags ++ [0, 0] ++ toLe 4 a ++ toLe 4 b ++ toLe 8 c

/-- The refusal of a state: byte 12 holds the present state (R291). -/
def stateOnly (state : Nat) : List Byte := toLe 1 state

/-- A walk retires (R234). -/
def State.retireWalk (s : State) (e : U32) : State :=
  { s with epochs := { s.epochs with walks := s.epochs.walks.erase e } }

/-! ### The snapshot (R297) -/

def SealCause.full : SealCause → Bool
  | .seal _ f => f
  | _ => false

/-- The state that a PARK or MOVE in progress found the session in. -/
def SealCause.found : SealCause → Option Nat
  | .park _ _ st => some st
  | .move _ _ st => some st
  | _ => none

/-- OPEN, RUNNING or WAITING: the session's state, or the one that a PARK or MOVE accepted meanwhile found. -/
def Session.residentState (x : Session) : Nat :=
  if x.resident then x.state else (x.sealing.findSome? (fun q => q.cause.found)).getD x.parkedFrom

/-- State recorded in the state bale (Table 10-4): 1, 2 or 3. -/
def SealCause.recorded (x : Session) (c : SealCause) : Nat := c.found.getD x.residentState

/-- Replaces the seal in progress of a session. -/
def State.modSealing (s : State) (h : U64) (f : Sealing → Sealing) : State :=
  s.modSession h (fun x => match x.sealing with
    | q :: qs => { x with sealing := f q :: qs }
    | [] => x)

def Sealing.new (c : SealCause) : Sealing :=
  { cause := c, started := false, taken := none, child := none, written := 0, places := [], writes := [],
    awaits := [], dirtied := [], epoch := 0, sent := false, mirror := false, ended := false, was := 0 }

/-- Asks for a seal (R296). -/
def State.askSeal (s : State) (h : U64) (c : SealCause) : State :=
  s.modSession h (fun x => { x with sealing := x.sealing ++ [Sealing.new c] })

/-- State of a session after a seal of it has failed. -/
def SealCause.back (x : Session) : SealCause → Nat
  | .park _ _ _ => x.parkedFrom
  | .move _ _ st => if x.parkedFrom != 0 then 4 else if st == 2 then 3 else st
  | _ => x.state

/-- Completes the record of a seal's cause. -/
def State.completeCause (s : State) (c : SealCause) (needs : List U16) (status : Nat) (res : List Byte) :
    State :=
  let go (id : Nat) : State := match s.running? id with
    | some r => s.completeAfter needs r.record id status res
    | none => s
  match c with
  | .park ids _ _ => ids.foldl (fun s id => match s.running? id with
    | some r => s.completeAfter needs r.record id status res
    | none => s) s
  | .born => s
  | .seal id _ => go id
  | .move id _ _ => go id
  | .fork id _ => go id
  | .automatic => s

/-- A FORK's child whose source's seal is still in progress. -/
def Session.awaitsBirth (x : Session) : Bool := x.sealing.any (fun q => q.cause = .born)

/-- The handle is that of a FORK's child whose seal is not complete yet. -/
def Session.unborn (x : Session) : Bool := x.sealing.any (fun q => match q.cause with
  | .born => true
  | .fork _ child => child == x.handle
  | _ => false)

/-- A directory entry that holds only a handle. (Log entry 60: DEDUCED, unsafe.) -/
def Session.blank (h : U64) : Session :=
  { handle := h, state := 0, parkedFrom := 0, model := 0, version := 0, maxLen := 0, length := 0,
    pending := none, prefixLen := 0, run := none, automaton := none, heldBytes := [], modes := [],
    fbPos := [], clipTotal := [], lastStep := [], stepCounts := [], marks := 0, kvBase := 0, kvBytes := 0,
    kv := [], through := [], latest := none, nextSeal := 1, changed := false, sealing := [],
    parkAtEnd := [], closeAtEnd := [], closedAt := 0, prefill := none, after := [], waited := 0 }

/-- The child of a FORK that failed is gone: its handle is in the state that it had, and the commands that waited for
the child meet that. -/
def Session.notBorn (y : Session) : Session :=
  let was := (y.sealing.find? (fun q => match q.cause with
    | .born => true
    | .fork _ child => child == y.handle
    | _ => false)).map (·.was)
  { Session.blank y.handle with
    state := was.getD 0, closedAt := y.closedAt, after := y.after, sealing := y.sealing.filter (·.ended) }

/-- A handle in state none has no place in the directory. -/
def State.dropNone (s : State) (h : U64) : State :=
  { s with granary := { s.granary with directory := s.granary.directory.filter (fun x =>
      x.handle != h || x.state != 0 || !x.sealing.isEmpty || !x.after.isEmpty) } }

/-- The child of a FORK goes, with the bales that it shares. -/
def State.dropChild (s : State) (child : U64) : State :=
  match s.session? child with
  | some y => if y.unborn then
      (({ s with granary := { s.granary with
          directory := updWhere (fun z => z.handle == child) (fun _ => y.notBorn) s.granary.directory } }).dropFrames
        (handleTenant child)).dropNone child
    else s
  | none => s

/-- The seal in progress fails: its written objects stay unreferenced, and nothing else changes (R305).
`res` are the result bytes by the session's state. -/
def State.failSealWith (s : State) (h : U64) (status : Nat) (res : Nat → List Byte) : State :=
  match s.session? h with
  | none => s
  | some x =>
    match x.sealing with
    | [] => s
    | q :: qs =>
      let st := q.cause.back x
      let child := match q.cause with
        | .fork _ child => if q.taken.isSome then some child else none
        | _ => none
      let s := (child.map s.dropChild).getD s
      let s := s.modSession h (fun x => if child == some h then x else if q.ended then { x with sealing := qs } else { x with
        state := st, sealing := qs, changed := true,
        kv := x.kv.map (fun k => if q.dirtied.contains (k.stream, k.bale) then { k with dirty := true } else k) })
      let s := (if q.taken.isSome && !q.sent then s.retireWalk q.epoch else s).dropMirror q.awaits
      let s := if q.cause = .automatic then s.count (handleTenant h) (fun c => { c with sealFail := c.sealFail + 1 })
        else s
      (s.countRefusal (handleTenant h) status).completeCause q.cause [] status (res (s.sessionState h))

def State.failSeal (s : State) (h : U64) (status : Nat) : State := s.failSealWith h status stateOnly

/-- Everything the seal of a session lists, and the child's manifest of a FORK. -/
def State.childInfo (s : State) (child : U64) (es : List SealEntry) : State × SealInfo × Nat :=
  s.writeSeal (handleTenant child) child 1
    (es.map (fun e => { kind := e.kind, stream := e.stream, bale := e.bale, plain := [], digest := e.digest,
                        carried := some e }))

/-- The child of a FORK takes the source's state and shares its bales; it has no seal until the source's ends
(R305, R310). Marks not yet reported are the child's too. (Log entries 62: DEDUCED, unsafe; 135: DESIGN CHOICE,
unsafe.) -/
def Session.childOf (x : Session) (child : U64) (len : Nat) (info : SealInfo) (kv : List KvBale) : Session :=
  { x with
    handle := child, latest := none, nextSeal := 1, changed := false, parkAtEnd := [], closeAtEnd := [],
    sealing := [{ Sealing.new .born with taken := some info }],
    prefill := none, after := [], kv := kv, length := len, waited := 0,
    run := x.run.map (fun r => { r with id := none }) }

/-- Every bale of a session is clean. -/
def Session.clean (x : Session) : Session :=
  { x with changed := false, kv := x.kv.map (fun (k : KvBale) => { k with dirty := false }) }

def State.putSession (s : State) (x : Session) : State :=
  { s with granary := { s.granary with
      directory := s.granary.directory.filter (fun y => y.handle != x.handle) ++ [x] } }

/-- A session that takes a handle: seals of the session that the handle named before go on to their end, and the
commands that wait stay. (Log entry 127: DEDUCED, unsafe.) -/
def State.takeHandle (s : State) (x : Session) : Session :=
  match s.session? x.handle with
  | some o => { x with sealing := o.sealing ++ x.sealing, after := o.after ++ x.after, closedAt := o.closedAt }
  | none => x

/-- The child of a FORK, with the state that its handle had. -/
def Session.from_ (x : Session) (was : Nat) : Session :=
  { x with sealing := x.sealing.map (fun q => { q with was := was }) }

/-- A directory place for a handle that has none: the CLOSED entry closed longest ago gives way (R289). -/
def State.makeRoom (s : State) (h : U64) : State :=
  if s.sessionState h != 0 || s.granary.directory.length < 16777216 then s
  else
    let closed := sortBy (fun (a b : Session) => decide (a.closedAt ≤ b.closedAt))
      (s.granary.directory.filter (fun x => x.state == 7))
    { s with granary := { s.granary with
        directory := s.granary.directory.filter (fun x => some x.handle != (closed.head?.map (·.handle))) } }

def State.hasRoom (s : State) (h : U64) : Bool :=
  s.sessionState h != 0 || decide (s.granary.directory.length < 16777216) ||
    s.granary.directory.any (fun x => x.state == 7)

/-- The child of a FORK at the source's snapshot: the state, its seal, the bales written and the receipts
that the twin owes. A source that has started to run since the FORK gives a child that waits with the run kept, as
a revive of the same state bale would. (Log entry 62: DEDUCED, unsafe.) -/
def State.forkChild (s : State) (x : Session) (child : U64) (es : List SealEntry) (mirror : Bool) :
    State × Option SealInfo × Nat × List (U64 × U64) :=
  let c := s.childInfo child es
  let base := (c.1.kvPlace (handleTenant child) x.kvBytes).getD 0
  let y := x.clean.childOf child x.length c.2.1 x.clean.kv
  let st := if x.residentState == 1 then 1 else 3
  let z := ({ y with state := st, parkedFrom := 0, kvBase := base }).from_ (s.sessionState child)
  let s := (c.1.makeRoom child).putSession (s.takeHandle z)
  (if mirror then s.sendMirror child c.2.1 [] st else s, some c.2.1, c.2.2,
    if mirror then [(child, (1 : U64))] else [])

/-- The objects of a seal are written and its manifest after them, mirrored where a twin holds the key; a
FORK's child takes the state. The seal then awaits its own write-through. -/
def State.takeSeal (s : State) (h : U64) (x : Session) (q : Sealing) (os : List SealObj) : State :=
  let epoch := s.epochs.epoch
  let w := s.writeSeal (handleTenant h) h x.nextSeal os
  let news := w.2.1.entries.filter (fun e => !(os.any (fun o => o.carried == some e)))
  let mirror := s.mirrors (handleTenant h)
  let s1 := if mirror then w.1.sendMirror h w.2.1 news x.residentState else w.1
  let r := match q.cause with
    | .fork _ child => s1.forkChild x child w.2.1.entries mirror
    | _ => (s1, none, 0, [])
  let s2 := r.1.modSession h Session.clean
  let s2 := { s2 with epochs := { s2.epochs with walks := s2.epochs.walks ++ [epoch] } }
  s2.modSealing h (fun q => { q with
    taken := some w.2.1, child := r.2.1, written := w.2.2 + r.2.2.1,
    places := (s.area (handleTenant h)).next (w.2.2 + r.2.2.1), writes := newWrites s s2,
    awaits := (if mirror then [(h, x.nextSeal)] else []) ++ r.2.2.2,
    dirtied := (x.kv.filter (·.dirty)).map (fun k => (k.stream, k.bale)), epoch := epoch, mirror := mirror })

/-- Seals in progress of the module: one at most of a session, and a MOVE's until it is sent (R316). -/
def State.sealsStarted (s : State) : Nat :=
  (s.granary.directory.filter (fun x => x.sealing.head?.any (fun q => q.started && !q.sent))).length

/-- The next seal of a session starts when fewer than 64 are in progress (R296, R316). -/
def State.startSeal (s : State) (h : U64) : State :=
  match (s.session? h).bind (fun x => x.sealing.head?) with
  | some q =>
    if q.started || q.taken.isSome || decide (64 ≤ s.sealsStarted) then s
    else (s.modSealing h (fun q => { q with started := true })).leaveIdle
  | none => s

/-- Takes the snapshot of the seal in progress of a session, if it can be taken now. No Granary read starts while
65,536 walks have not retired (R316). -/
def State.snapshot (s : State) (h : U64) : State :=
  match s.session? h with
  | none => s
  | some x =>
    match x.sealing with
    | [] => s
    | q :: _ =>
      if !q.started || q.taken.isSome || x.prefill.isSome || decide (65536 ≤ s.epochs.walks.length) then s
      else if q.ended || x.state == 7 then s.failSeal h stWrongState
      else
        let t := handleTenant h
        let os := s.sealObjects x (q.cause.recorded x) q.cause.full
        let childParts := match q.cause with
          | .fork _ _ => ceilDiv os.length 818
          | _ => 0
        let need := sealNeed os + childParts
        let childOk := match q.cause with
          | .fork _ child => s.sessionState child == 0 || s.sessionState child == 7
          | _ => true
        let room := match q.cause with
          | .fork _ child => s.hasRoom child
          | _ => true
        let placed := match q.cause with
          | .fork _ child => (s.kvPlace (handleTenant child) x.kvBytes).isSome
          | _ => true
        if !childOk then s.failSeal h stWrongState
        else if !room then s.failSeal h stDirFull
        else if !placed || !(s.area t).takes need then s.failSeal h stNoSpace
        else if !s.ivsOk need then s
        else s.takeSeal h x q os

/-- Snapshots of every session that waits for one, in ascending session handle (R297). Waiting seals start in the
same order. (Log entry 97: DESIGN CHOICE, unsafe.) -/
def State.snapshots (s : State) : State :=
  (sortBy (fun a b => decide (a ≤ b)) (s.granary.directory.map (fun x => x.handle.toNat))).foldl
    (fun s h => (s.startSeal (BitVec.ofNat 64 h)).snapshot (BitVec.ofNat 64 h)) s

/-! ### The end of a seal (R305) -/

/-- Every object is in T2 and the twin owes no receipt. (Log entry 95: DEDUCED, unsafe.) -/
def State.sealDone (s : State) (q : Sealing) : Bool :=
  q.taken.isSome && q.cause != .born && !q.sent && q.awaits.isEmpty &&
    q.writes.all (fun t => !s.link.writes.contains t)

/-- Retained bales of a session: released when it is closed, moved or revived (R309). -/
def State.releaseRetained (s : State) (h : U64) : State :=
  (({ s with granary := { s.granary with
      retained := s.granary.retained.filter (fun r => r.session != h) } }).dropFrames (handleTenant h))

/-- A parked session's bales go to the retained set, or are freed (R309). -/
def State.parkBales (s : State) (x : Session) (info : SealInfo) (drop : Bool) : State × Bool :=
  let t := handleTenant x.handle
  if drop || !(s.area t).retain then (s.unmapKv x.handle (fun _ => true), false)
  else
    let order := s.granary.parks
    let s := x.kv.foldl (fun s k => s.putKvData k.frame (x.sealedData (s.kvData k.frame))) s
    let keep := x.kv.filterMap (fun k =>
      (info.entries.find? (fun e => e.kind != 0xA1 && e.stream == k.stream && e.bale == k.bale)).map (fun e =>
        Retained.mk t x.handle order k.stream k.bale e.digest k.frame))
    let s := { s with granary := { s.granary with
      retained := s.granary.retained ++ keep, parks := s.granary.parks + 1 } }
    (s.unmapKv x.handle (fun _ => true), !keep.isEmpty)

/-- A MOVE is under way on the port that leads to a rank: one at a time on each (R316). -/
def State.moveBusy (s : State) (rank : Nat) : Bool :=
  s.granary.directory.any (fun x => x.sealing.head?.any (fun q => q.sent && (match q.cause with
    | .move _ r _ => s.routePort r == s.routePort rank
    | _ => false)))

/-- A MOVE whose seal is complete but whose port is taken (R316). -/
def State.moveWaits (s : State) (q : Sealing) : Bool := match q.cause with
  | .move _ rank _ => s.moveBusy rank
  | _ => false

/-- Seals that complete with the seal in progress of a session: a FORK of a resident source completes the source's and
the child's (R310, R319). -/
def Sealing.completes (q : Sealing) (h : U64) : U64 := match q.cause with
  | .fork _ child => if child == h then 1 else 2
  | _ => 1

/-- Ends the seal in progress: it becomes the session's latest, and its cause goes on. -/
def State.endSeal (s : State) (h : U64) : State :=
  match s.session? h with
  | none => s
  | some x =>
    match x.sealing with
    | [] => s
    | q :: qs =>
      match (if s.moveWaits q then none else q.taken) with
      | none => s
      | some i =>
        let t := handleTenant h
        let mirrored := q.mirror
        let info := { i with mirrored := mirrored }
        let s := s.retireWalk q.epoch
        match q.cause with
        | .move _ rank st =>
          let s := s.modSealing h (fun q => { q with sent := true })
          let m := { s.movedSession h info.number st x.parkedFrom info.entries [] with
            objects := info.entries.map (s.residentBale x) }
          (s.sendTo rank (fun p => .bulk p rank (.moved s.job.rank m))).baleUnits t info.entries.length
        | c =>
          let s := s.modSession h (fun x => { x with
            latest := if q.ended then x.latest else some info,
            nextSeal := if q.ended then x.nextSeal else info.number + 1, sealing := qs })
          let s := { s with granary := { s.granary with
            seals := s.granary.seals + q.completes h, sealBales := s.granary.sealBales + BitVec.ofNat 64 q.written } }
          let s := s.count t (fun k => { k with
            seals := k.seals + q.completes h, autoSeals := if c = .automatic then k.autoSeals + 1 else k.autoSeals })
          let flag := if mirrored then 1 else 0
          match c with
          | .park _ drop _ =>
            let p := s.parkBales x info drop
            p.1.completeCause c [] stOk (sessionResult 4 (flag + (if p.2 then 4 else 0)) info.root q.written
              info.number.toNat)
          | .fork _ child =>
            let ci := q.child.getD info
            let s := s.modSession child (fun y => if y.awaitsBirth then
              { y with latest := some { ci with mirrored := mirrored }, nextSeal := 2, sealing := y.sealing.filter (fun q => q.cause != .born) }
              else y)
            s.completeCause c [] stOk (sessionResult x.state flag ci.root q.written 1)
          | _ => s.completeCause c [] stOk (sessionResult x.state flag info.root q.written info.number.toNat)

/-- A seal whose receipt the twin still owes goes on with `mirrored` clear. -/
def Sealing.unpair (q : Sealing) : Sealing :=
  if q.awaits.isEmpty then q else { q with awaits := [], mirror := false }

/-- The twin owes nothing any more: what awaits it completes with `mirrored` clear, and what was to be mirrored is
not sent (R305); what the module has stored of the partner's seals without a root stays unreferenced (R518). A seal that the twin has acknowledged whole stays mirrored. -/
def State.unpairSeals (s : State) : State :=
  { s with
    granary := { s.granary with directory := s.granary.directory.map (fun (x : Session) =>
      { x with sealing := x.sealing.map Sealing.unpair }) },
    pairing := { s.pairing with unreceipted := [], mirrorQueue := [], incoming := [] } }

end Sys2Proof.Machine
end

