-- ==== Sys2Proof/Machine/Runs.lean ====
section
/-!
DEFINITION. Runs and prefills of sessions (09 R263, R264, R269; 10 R292 to R294, R315): parameter blocks,
appending, starting a run, its end and its completion.
-/

namespace Sys2Proof.Machine

/-! ### Vocabulary size and end token of a version -/

def Version.vocabSize (v : Version) : Nat := match v.vocab with
  | some x => x.size
  | none => v.outTokens

/-- `eos`; without a vocabulary no token is it. -/
def Version.eosToken (v : Version) : Nat := match v.vocab with
  | some x => x.eos
  | none => v.outTokens

/-- What results depend on of a version: firmware generation and image digest (R279). -/
def State.which (s : State) (v : Version) : Nat × Nat := (s.ident.fwGen.toNat, v.digest.toNat)

/-! ### Parameter blocks (R263) -/

def paramBlock (m : Mem) (a : Nat) : Line := ofBytes 512 (readBytes m a 64)

/-- The block needs a vocabulary (R542): it writes text or attaches a grammar. -/
def GenParams.needsVocab (g : GenParams) : Bool := g.textDest != 0 || g.attaches.isSome

/-- Every field is in its range, as far as no version enters. -/
def State.blockRanges (s : State) (p : Line) : Bool :=
  let g := genParams p
  decide (1 ≤ g.maxNew ∧ g.maxNew ≤ 2097152) && finite32 g.temp && !g.temp.getLsbD 31 &&
    gt32 g.topP 0 && !gt32 g.topP 0x3F800000 && decide (g.drafts ≤ 7) && decide (g.dmode ≤ 1) &&
    (g.grammar == 0 || g.grammar / 1024 == 32) &&
    (g.textDest == 0 || (decide (2051 ≤ g.textCap) && t2Arg s g.textDest g.textCap 1)) &&
    field p 38 2 == 0 && field p 48 16 == 0

/-- A grammar that the block names is the tenant's or shared. -/
def State.blockGrammar (s : State) (tenant : Nat) (p : Line) : Bool :=
  (genParams p).grammar == 0 || s.grammarFor tenant ((genParams p).grammar % 1024)

/-- The ranges, and with them `drafts` within the version's heads, the grammar the tenant's or shared, and tokens
below V. -/
def State.blockOk (s : State) (tenant : Nat) (v : Version) (p : Line) : Bool :=
  let g := genParams p
  s.blockRanges p && decide (g.topK ≤ v.vocabSize) && decide (g.drafts ≤ v.draftMax) &&
    s.blockGrammar tenant p &&
    (decide (g.stopTok < v.vocabSize) || g.stopTok == 0xFFFFFFFF) && (!g.needsVocab || v.vocab.isSome)

/-- The automaton that a block starts (R176). -/
def State.newAutomaton (s : State) (g : GenParams) : Option Automaton :=
  g.attaches.map (fun n =>
    let x := s.grammar? n
    { grammar := n, serial := (x.map (·.serial)).getD 0, state := (x.map (·.start)).getD 0, stack := [] })

/-- The grammar that an automaton runs on, dropped or not. -/
def State.grammarOf (s : State) (a : Automaton) : Option Grammar :=
  if a.serial = 0 then none else s.grammars.find? (fun g => g.serial == a.serial)

/-! ### Sessions -/

/-- CLOSE takes effect: the entry holds only the handle, and the range and the retained bales go (R294,
R309). Seals that have not been taken fail at the next boundary. A later session of the handle is mirrored anew. -/
def State.closeSession (s : State) (h : U64) : State :=
  let s := s.unmapKv h (fun _ => true)
  let s := s.modSession h (fun x =>
    { Session.blank h with
      state := 7, closedAt := s.granary.closes, sealing := x.sealing.map (fun q => { q with ended := true }),
      after := x.after })
  let s := { s with pairing := { s.pairing with
    mirroredOnce := s.pairing.mirroredOnce.filter (fun k => k != h) } }
  ({ s with granary := { s.granary with closes := s.granary.closes + 1 } }).releaseRetained h

/-! ### Appending (R293) -/

/-- Tokens that an append prefills: the pending token and every appended one but the last. -/
def Session.prefillList (x : Session) (toks : List Nat) : List Nat := (x.pending.toList ++ toks).dropLast

/-- An append begins: the last token becomes pending, the others wait to be prefilled. Conversions of an earlier append
that was cut short are forgotten. (Log entry 136: DESIGN CHOICE, unsafe.) -/
def State.beginPrefill (s : State) (h : U64) (toks : List Nat) (id : Nat) : State :=
  let order := s.granary.admissions
  let s := s.modSession h (fun x =>
    let todo := x.prefillList toks
    { x with
      state := 2, changed := true, pending := (x.pending.toList ++ toks).getLast?,
      prefill := if todo.isEmpty then none
        else some { order := order, todo := todo, total := todo.length, id := id },
      stepCounts := [] })
  { s with granary := { s.granary with admissions := s.granary.admissions + 1 } }

/-! ### Starting a run -/

/-- A run under a block. -/
def State.beginRun (s : State) (h : U64) (p : Line) (id cq : Nat) (implicit : Bool)
    (front : Option (List Byte × List Byte)) (pins : List (Nat × Nat)) : State :=
  let g := genParams p
  let a := s.newAutomaton g
  s.modSession h (fun x => { x with
    state := 2, changed := true, prefixLen := if x.length = 0 then g.prefixLen else x.prefixLen,
    automaton := a, waited := 0,
    run := some { id := some id, cq := cq, params := p, emitted := 0, released := 0, lastAcc := 0,
                  first := true, implicit := implicit, front := front, pins := pins } })

/-- The run kept in the session goes on under a new record. -/
def State.continueRun (s : State) (h : U64) (id cq : Nat) (implicit : Bool) : State :=
  s.modSession h (fun x => { x with
    state := 2, changed := true, waited := 0,
    run := x.run.map (fun r => { r with id := some id, cq := cq, implicit := implicit, front := none, pins := [] }) })

/-! ### The end of a run (R264, R292) -/

/-- End code of Table 9-5 (0: it goes on) and stop status. -/
structure RunEnd where
  code : Nat
  stop : Nat
  deriving DecidableEq, Repr

/-- The first reason that holds after a step that emitted `toks`, with `emitted` in the run so far and the
new length `len`: the last token's position, or the one after it where the mask there is empty. -/
def runEnd (v : Version) (x : Session) (g : GenParams) (emitted len : Nat) (toks : List Nat) (stop : Nat)
    (textFull : Bool) : RunEnd :=
  let lastAt := if stop = stGrammarEmpty then len - 1 else len
  if toks.getLast?.any (fun t => t == v.eosToken || t == g.stopTok) then ⟨1, 0⟩
  else if !toks.isEmpty && g.maxNew ≤ emitted then ⟨2, 0⟩
  else if !toks.isEmpty && x.maxLen ≤ lastAt + 1 then ⟨3, 0⟩
  else if stop ≠ 0 then ⟨4, stop⟩
  else if textFull then ⟨4, stTextFull⟩
  else if !x.parkAtEnd.isEmpty || !x.closeAtEnd.isEmpty then ⟨5, 0⟩
  else ⟨0, 0⟩

/-- Table 10-3. -/
def stateAfter (v : Version) (e : RunEnd) (toks : List Nat) : Nat :=
  if e.code == 1 then (if toks.getLast? == some v.eosToken then 1 else 3)
  else if e.code == 4 then 3 else 1

/-- Result bytes of a command that ran generation (Table 10-9, R271). -/
def runResult (r : Run) (state len : Nat) (e : RunEnd) : List Byte :=
  match r.front with
  | some f => f.1 ++ toLe 4 r.emitted ++ f.2
  | none => sessionResult state (if r.implicit then 2 else 0) r.emitted e.code len

def runStatus (e : RunEnd) : Nat := if e.code == 4 then e.stop else stOk

/-! ### Output entries (R268) -/

/-- One entry of an output record. -/
structure OutEntry where
  cq : Nat
  session : U64
  slots : List Slot
  needs : List U16
  deriving DecidableEq, Repr

/-- Slots of an output entry (Table 9-7). -/
def outSlots (session : U64) (toks : List Nat) (accepted : Nat) (e : RunEnd) (marks : BitVec 2)
    (held : Bool) (textLen : Nat) (automaton : Option Automaton) : List Slot :=
  let flags := marks.toNat + (if held then 4 else 0) + (if 4 < toks.length then 8 else 0)
  let head := toLe 6 session.toNat ++ toLe 1 toks.length ++ toLe 1 accepted ++ toLe 1 e.code ++
    toLe 1 flags ++ toLe 2 e.stop ++ toLe 2 textLen ++ [0, 0]
  let stuck := match automaton with
    | some a => toLe 4 a.state ++ toLe 2 a.stack.length ++ toLe 1 ((a.stack.head?.map (·.toNat)).getD 0)
    | none => []
  let body := if e.stop == stGrammarEmpty && toks.isEmpty then stuck
    else padTo 16 ((toks.take 4).flatMap (toLe 4))
  ofBytes 256 (padTo 32 (head ++ body)) ::
    (if 4 < toks.length then [ofBytes 256 (padTo 32 ((toks.drop 4).flatMap (toLe 4)))] else [])

/-- Splits entries into groups of at most 15 slots, none divided; `cur` is the group being filled. (Log entry 61: DEDUCED, unsafe.) -/
def packEntries (cur : List OutEntry) : List OutEntry → List (List OutEntry)
  | [] => if cur.isEmpty then [] else [cur]
  | e :: es =>
    if (cur.flatMap (·.slots)).length + e.slots.length ≤ 15 then packEntries (cur ++ [e]) es
    else cur :: packEntries [e] es

/-- Slots of one part (Table 9-6). (Log entry 61: DEDUCED, unsafe.) -/
def outPart (cq : Nat) (step : U64) (last : Bool) (part : Nat) (es : List OutEntry) : List Slot :=
  let body := es.flatMap (·.slots)
  let tenant := ((es.head?.map (fun e => handleTenant e.session)).getD 0)
  ofBytes 256 (toLe 2 0x0430 ++ toLe 2 0 ++ toLe 4 step.toNat ++ toLe 2 cq ++
    toLe 2 (tenant % 4096 + 4096 * body.length) ++ toLe 2 es.length ++ toLe 1 part ++
    toLe 1 (if last then 1 else 0) ++ toLe 8 step.toNat) :: body

/-- Posts slots once the T2 writes they report are acknowledged. -/
def State.postAfter (s : State) (needs : List U16) (p : Post) : State :=
  if needs.isEmpty then s.post p
  else s.modLink (fun l => { l with deferred := l.deferred ++ [Deferred.mk needs (.completion p)] })

/-- The output record of one completion ring. -/
def State.postOutput (s : State) (step : U64) (cq : Nat) (es : List OutEntry) : State :=
  let mine := sortBy (fun (a b : OutEntry) => decide (a.session.toNat ≤ b.session.toNat))
    (es.filter (fun e => e.cq == cq))
  let groups := packEntries [] mine
  s.postAfter (mine.flatMap (·.needs))
    { cq := cq, parts := groups.mapIdx (fun i g => outPart cq step (i + 1 == groups.length) i g),
      done := none, int := false }

/-- Completion rings of entries, ascending. -/
def outRings (es : List OutEntry) : List Nat := (List.range 64).filter (fun c => es.any (fun e => e.cq == c))

/-- The output records of entries, one for each completion ring. -/
def State.postOutputs (s : State) (step : U64) (es : List OutEntry) : State :=
  (outRings es).foldl (fun s c => s.postOutput step c es) s

/-- A record that completes after the part that reports its end. -/
structure RunDone where
  id : Nat
  status : Nat
  result : List Byte
  deriving DecidableEq, Repr

def State.completeDone (s : State) (es : List OutEntry) (d : RunDone) : State :=
  match s.running? d.id with
  | some r =>
    let cq := s.cqOf r.record.ring
    s.completeAfter ((es.filter (fun e => e.cq == cq)).flatMap (·.needs)) r.record d.id d.status d.result
  | none => s

end Sys2Proof.Machine
end

