-- ==== Sys2Proof/Machine/Steps.lean ====
section
/-!
DEFINITION. Serving steps (08 R220, R234 to R239; 09 R259 to R269, R274 to R278; 02 R54 to R61; 18 R501,
R502): opening a step, its epoch, its end, the slowdown window, and the table boundary's close.
-/

namespace Sys2Proof.Machine

/-! ### Modelled durations (R239, R260, R278) -/

/-- B_β: the smallest x with x² ≥ 2^β. -/
def bucketBound (b : Nat) : Nat :=
  let r := Nat.sqrt (2 ^ b)
  if r * r == 2 ^ b then r else r + 1

/-- Padded length of a count. -/
def paddedLen (l : Nat) : Nat :=
  (((List.range 31).map (fun i => bucketBound (12 + i))).find? (fun b => decide (l ≤ b))).getD l

/-- A count of a tenant's work as the scheduler takes it. -/
def State.shape (s : State) (tenant l : Nat) : Nat :=
  if (s.tenant? tenant).any (·.pad) then paddedLen l else l

/-- Counts of work items, each a session and its rows: weight bales, rows, encoder tokens, contexts. -/
def State.stepFigures (s : State) (items : List (Session × Nat)) (encoder : Nat) : List Nat :=
  let vers := (items.map (fun i => (i.1.model, i.1.version))).eraseDups
  let bales := sumOf (fun (k : Nat × Nat) => ((s.version? k.1 k.2).map (·.bales)).getD 0) vers
  bales :: sumOf (·.2) items :: encoder ::
    items.map (fun i => s.shape (handleTenant i.1.handle) (i.1.length + i.2))

/-! ### Admission to a step (R259, R276) -/

/-- A PARK or CLOSE waits for the step's end (R294). -/
def Session.ending (x : Session) : Bool := !x.parkAtEnd.isEmpty || !x.closeAtEnd.isEmpty

/-- The front end of the session's REQUEST is not done yet. -/
def State.inFront (s : State) (h : U64) : Bool :=
  s.front.any (fun w => w.record.opcode == 0x0410 && w.record.handle == h)

/-- A sequence that may decode. -/
def State.decodes (s : State) (x : Session) : Bool :=
  x.state == 2 && x.run.isSome && x.pending.isSome && x.prefill.isNone && !x.ending && !s.inFront x.handle

def State.prioOf (s : State) (h : U64) : Nat := ((s.tenant? (handleTenant h)).map (·.prio)).getD 0

/-- A completion ring that can take no more: whatever would produce a completion for it stalls (R18). -/
def State.ringStalled (s : State) (c : Nat) : Bool := decide (256 ≤ (s.cqRing c).held.length) || s.stalledFor c

/-- Nothing that the session's run or append reports would go to a stalled ring. (Log entry 129: DEDUCED, unsafe.) -/
def State.mayReport (s : State) (x : Session) : Bool :=
  x.run.all (fun r => !s.ringStalled r.cq) && x.prefill.all (fun p => (s.running? p.id).all (fun k =>
    !s.ringStalled (s.cqOf k.record.ring)))

/-- Nor would front-end work. -/
def State.frontMayReport (s : State) (w : FrontWork) : Bool := !s.ringStalled (s.cqOf w.record.ring)

/-- Ascending `prio`, then most steps since it last ran, then ascending handle. -/
def State.decodeBefore (s : State) (a b : Session) : Bool :=
  let p := s.prioOf a.handle
  let q := s.prioOf b.handle
  if p == q then
    if a.waited == b.waited then decide (a.handle.toNat ≤ b.handle.toNat) else decide (b.waited < a.waited)
  else decide (p < q)

/-- The prefill at the head of the queue: ascending `prio`, then admission order. -/
def State.prefillHead (s : State) : Option Session :=
  (sortBy (fun (a b : Session) =>
    let p := s.prioOf a.handle
    let q := s.prioOf b.handle
    if p == q then decide ((a.prefill.map (·.order)).getD 0 ≤ (b.prefill.map (·.order)).getD 0)
    else decide (p < q))
    (s.granary.directory.filter (fun x => x.state == 2 && x.prefill.isSome && !x.ending && s.mayReport x))).head?

/-- A reservation can be taken: it is within the level, the rate is unlimited, or it is larger than
`burst` and the level stands at `burst`. -/
def State.affords (s : State) (t need : Nat) : Bool :=
  match s.tenant? t with
  | some x => x.rate == 0xFFFFFFFF || decide (x.level ≥ (need : Int)) ||
      (decide (x.burst.toNat < need) && decide (x.level ≥ (x.burst.toNat : Int)))
  | none => false

/-- At the step's end the unused part of a reservation returns, or what was used beyond it is charged, and what was
used is counted (R275, R276). -/
def State.settle (s : State) (t reserved used : Nat) : State :=
  let s := if used ≤ reserved then s.giveBack t (reserved - used) else s.reserve t (used - reserved)
  s.modTenant t (fun x => { x with
    recentUnits := x.recentUnits + used,
    counts := { x.counts with
      units := x.counts.units + BitVec.ofNat 64 used,
      energyUnits := x.counts.energyUnits + BitVec.ofNat 64 used } })

/-! ### Drafts and draws (R265 to R267) -/

/-- Drafts of the sequence's next verify step. -/
def Session.draftCount (x : Session) (r : Run) : Nat :=
  let g := genParams r.params
  let base := if r.first || g.dmode == 0 then g.drafts else min g.drafts (max 1 (r.lastAcc + 1))
  min base (min (g.maxNew - r.emitted - 1) (x.maxLen - 2 - x.length))

/-- Numbers of the tables that a version's programs read. -/
def Version.readTables (v : Version) : List Nat :=
  ((v.programs.flatMap (fun p => p.code.filter (fun w => wClass w == 5 && decide (wOp w ≤ 1)))).map rTable).eraseDups

/-- The tables that a request on a version reads, as the step reads them (R134, R279). -/
def State.tablesRead (s : State) (t : Nat) (v : Version) : List (Nat × List (Nat × List U32)) :=
  ((s.sheaf.view.getD s.sheaf.tables).filter (fun x => v.readTables.contains x.number &&
    (x.shared || x.owner == t))).map (fun x => (x.number, x.data))

/-- Keys and values of a session's first `n` positions. -/
def State.cacheAt (s : State) (x : Session) (n : Nat) : List ((Nat × Nat) × Mem) :=
  s.kvCache { x with length := n, kv := x.kv.filter (fun k =>
    decide ((kvTrailerOf (s.kvData k.frame)).firstPos < n)) }

def State.drawCtx (s : State) (eosEmpty : List Nat) (x : Session) (v : Version) (p : Line) : DrawCtx :=
  { which := s.which v, cache := s.cacheAt x, modes := x.modes,
    tables := s.tablesRead (handleTenant x.handle) v, size := v.vocabSize, eos := v.eosToken,
    handle := x.handle, params := genParams p, grammar := x.automaton.bind s.grammarOf,
    eosOnEmpty := eosEmpty.contains (handleTenant x.handle) }

/-- A sequence that appends and draws nothing. -/
def StepSeq.stopped (h : U64) (stop reserved : Nat) : StepSeq :=
  { session := h, pending := none, drafts := [], stop := stop, reserved := reserved }

/-- A sequence as a step takes it. A grammar that is gone ends the run (R179). -/
def State.planSeq (s : State) (x : Session) (v : Version) (r : Run) (d units : Nat) : StepSeq :=
  let c := s.drawCtx [] x v r.params
  if x.automaton.isSome && c.grammar.isNone then StepSeq.stopped x.handle stVersionGone units
  else
    { session := x.handle, pending := x.pending, stop := 0, reserved := units,
      drafts := match x.pending with
        | some p => c.propose (x.length + 1) p d 0 x.automaton
        | none => [] }

/-! ### The front-end batch (R259 item 3, R276, R278) -/

/-- Rows of one work that a step takes: those that fit the room and the level, in order; a row longer than the room
of an empty batch goes alone. Answers the state, the rows, the room used, and whether the batch is full. (Log entry 99: DEDUCED, unsafe.) -/
def State.takeRows (s : State) (t cap : Nat) : Nat → List Nat → State × List Nat × Nat × Bool
  | used, [] => (s, [], used, false)
  | used, r :: rs =>
    let n := s.shape t r
    if cap < used + n && used != 0 then (s, [], used, true)
    else if s.affords t r then
      let x := (s.reserve t r).takeRows t cap (used + n) rs
      (x.1, r :: x.2.1, x.2.2)
    else (s, [], used, false)

/-- The front-end batch of a step, in admission order, up to `front_max` tokens. -/
def State.takeFront (s : State) (cap : Nat) : Nat → List FrontWork → State × List (Nat × List Nat)
  | _, [] => (s, [])
  | used, w :: ws =>
    let x := s.takeRows w.record.tenant cap used w.rows
    if x.2.2.2 then (x.1, if x.2.1.isEmpty then [] else [(w.id, x.2.1)])
    else
      let rest := x.1.takeFront cap x.2.2.1 ws
      (rest.1, if x.2.1.isEmpty then rest.2 else (w.id, x.2.1) :: rest.2)

/-- Rows that the batch carries no longer wait. -/
def carryRows (l : List (Nat × List Nat)) (w : FrontWork) : FrontWork :=
  match l.find? (fun e => e.1 == w.id) with
  | some e => { w with rows := w.rows.drop e.2.length }
  | none => w

/-- Encoder tokens of a front-end batch as the cost model takes them; of one tenant, or of all. -/
def State.frontTokens (s : State) (l : List (Nat × List Nat)) (who : Option Nat) : Nat :=
  sumOf (fun (e : Nat × List Nat) => match s.front.find? (fun w => w.id == e.1) with
    | some w => if who.all (fun t => t == w.record.tenant) then sumOf (s.shape w.record.tenant) e.2 else 0
    | none => 0) l

/-! ### STEP_OPEN (R259, R260) -/

/-- An output record waits for its ring. -/
def State.outputHeld (s : State) : Bool :=
  let isOut (p : Post) : Bool := p.parts.any (fun l => match l with
    | x :: _ => field x 0 2 == 0x0430
    | [] => false)
  s.cqRings.toList.any (fun q => q.held.any isOut) ||
    s.link.deferred.any (fun d => match d.write with
      | .completion p => d.needs.isEmpty && isOut p
      | _ => false)

/-- A step may open (R18, R220, R261): not while the boundary of the step before it waits to close (R133, R134). (Log
entry 56: DEDUCED, safe.) -/
def State.stepMayOpen (s : State) : Bool :=
  s.step.isNone && s.job.state != 0 && !s.faulted && s.power.pstate < 2 && !s.outputHeld && !s.sheaf.due

/-- The decode batch, in order: sequences and the state after their reservations. -/
def State.takeDecode (s : State) : Nat → List Session → State × List (Session × StepSeq)
  | 0, _ => (s, [])
  | _, [] => (s, [])
  | n + 1, x :: xs =>
    match s.version? x.model x.version, x.run with
    | some v, some r =>
      let d := x.draftCount r
      let t := handleTenant x.handle
      if s.affords t (8 * (1 + d)) then
        let q := s.planSeq x v r d (8 * (1 + d))
        let rest := (s.reserve t (8 * (1 + d))).takeDecode n xs
        (rest.1, (x, q) :: rest.2)
      else (s.count t (fun c => { c with held := c.held + 1 })).takeDecode (n + 1) xs
    | _, _ => s.takeDecode (n + 1) xs

/-- Length of a prefill chunk (R260). -/
def State.chunkLen (s : State) (items : List (Session × Nat)) (encoder : Nat) (x : Session) (rem : Nat) : Nat :=
  let cap := min rem (s.setting 0x5000 2)
  let t := handleTenant x.handle
  let fits (k : Nat) : Bool :=
    k == 0 || decide (Config.modelledUs (s.stepFigures (items ++ [(x, s.shape t (64 * k))]) encoder) ≤
      s.setting 0x5000 1)
  let best := ((List.range (cap / 64 + 1)).reverse.find? fits).getD 0
  max (min 64 rem) (64 * best)

/-- The prefill chunk of the step, its reservation taken: its length alone, the token that a last chunk draws being
charged when it is emitted (R276). -/
def State.takeChunk (s : State) (items : List (Session × Nat)) (encoder : Nat) : State × Option (Session × Chunk) :=
  match s.prefillHead with
  | none => (s, none)
  | some x =>
    match x.prefill, s.version? x.model x.version with
    | some p, some v =>
      let n := s.chunkLen items encoder x p.todo.length
      let last := n == p.todo.length
      let t := handleTenant x.handle
      if s.affords t n then
        let sample := if last then x.run.map (fun r => s.planSeq x v r 0 0) else none
        (s.reserve t n, some (x, { session := x.handle, length := n, last := last, sample := sample,
                                      stop := 0, reserved := n }))
      else (s.count t (fun c => { c with held := c.held + 1 }), none)
    | _, _ => (s, none)

/-- Every RUNNING sequence has waited one step more, until the step's setup carries it. -/
def noteWaited (x : Session) : Session :=
  if x.state != 2 || x.run.isNone then x else { x with waited := x.waited + 1 }

/-- Modelled duration of each tenant's work alone. -/
def State.modelledBy (s : State) (items : List (Session × Nat)) (front : List (Nat × List Nat)) :
    List (Nat × Nat) :=
  let ts := items.map (fun i => handleTenant i.1.handle) ++
    (s.front.filter (fun w => front.any (fun e => e.1 == w.id))).map (fun w => w.record.tenant)
  (ts.eraseDups).map (fun t =>
    (t, Config.modelledUs (s.stepFigures (items.filter (fun i => handleTenant i.1.handle == t))
      (s.frontTokens front (some t)))))

/-- Opens a step: the decode batch, the prefill chunk, whose length allows for the front-end rows, and those rows. (Log entry 55: DESIGN CHOICE, safe.) -/
def State.openStep (s : State) : State :=
  let cands := sortBy s.decodeBefore (s.granary.directory.filter (fun x => s.decodes x && s.mayReport x))
  let front := s.front.filter s.frontMayReport
  let view := s.sheaf.tables
  let d := s.takeDecode (s.setting 0x5000 3) cands
  let items := d.2.map (fun e => (e.1, 1 + e.2.drafts.length))
  let cap := s.setting 0x5000 4
  let c := d.1.takeChunk items (s.frontTokens (d.1.takeFront cap 0 front).2 none)
  let f := c.1.takeFront cap 0 front
  let items := items ++ c.2.toList.map (fun e => (e.1, s.shape (handleTenant e.1.handle) e.2.length))
  let s' := f.1.modSheaf (fun x => { x with view := some view })
  let s' := { s' with
    granary := { s'.granary with directory := s'.granary.directory.map noteWaited },
    front := s'.front.map (carryRows f.2) }
  let number := s.job.steps + 1
  { s' with
    job := { s'.job with steps := number, slowWindow := s.setting 0x5000 6 },
    power := { s'.power with pstate := if s'.power.pstate == 1 then 0 else s'.power.pstate },
    step := some { number := number, decode := d.2.map (·.2), prefill := c.2.map (·.2), front := f.2,
                   epoch := none, spanWait := false, quarWait := false, modelled := s.modelledBy items f.2,
                   specials := (s.tenants.filter (·.showSpecials)).map (·.number),
                   eosEmpty := (s.tenants.filter (·.eosOnEmpty)).map (·.number) } }

/-- STEP_OPEN: the scheduler opens a serving step. -/
def execStepOpen (s : State) : Host.Outcome State Fault Refusal :=
  .next (if s.stepMayOpen then s.openStep.takeArbMode else s)

/-! ### EPOCH_OPEN (R226, R234, R236, R237) -/

/-- Streams and bales that a sequence's appends will reach. -/
def State.reached (s : State) (x : Session) (v : Version) (n : Nat) : List (Nat × Nat) :=
  (s.streams v).flatMap (fun σ => match v.att? (v.streamParts σ).1 with
    | some d => (((List.range n).map (fun i => (x.place d (x.length + i)).1)).eraseDups).map (fun b => (σ, b))
    | none => [])

/-- Maps a new bale of a stream. -/
def State.mapNew (s : State) (h : U64) (v : Version) (k : Nat × Nat) : State :=
  match s.session? h, v.att? (v.streamParts k.1).1 with
  | some x, some d =>
    let p := v.streamParts k.1
    let st := x.baleStart d k.2
    let t := handleTenant h
    let f := s.newFrame t (newKvData (p.2.2 == 1) st.2 p.2.1 p.1 t st.1 d.headDim)
    f.1.modSession h (fun x => x.mapBale k.1 k.2 f.2 true)
  | _, _ => s

/-- Copies a shared bale to a private one (R237). -/
def State.mapCopy (s : State) (h : U64) (k : KvBale) : State :=
  let t := handleTenant h
  let f := s.newFrame t (s.kvData k.frame)
  (f.1.modSession h (fun x => x.mapBale k.stream k.bale f.2 k.dirty)).count t (fun c => { c with
    cowCopies := c.cowCopies + 1 })

/-- How step setup leaves a sequence: mapped, stopped with NO_SPACE, or held to the next step. -/
inductive Setup where
  | mapped
  | stopped
  | held
  deriving DecidableEq, Repr

/-- Step setup of one sequence with `n` appends; `grown` counts the bales of the step so far. Once the growth due
passes its limit, the later sequences that grow are held too (R237). -/
def State.setupSeq (s : State) (grown : Nat) (h : U64) (n : Nat) : State × Nat × Setup :=
  match s.session? h with
  | none => (s, grown, .held)
  | some x =>
    match s.version? x.model x.version with
    | none => (s, grown, .held)
    | some v =>
      let r := s.reached x v n
      let new := r.filter (fun k => (x.bale? k.1 k.2).isNone)
      let copies := (r.filterMap (fun k => x.bale? k.1 k.2)).filter (fun k => decide (1 < s.holders k.frame))
      let need := new.length + copies.length
      let t := handleTenant h
      if need != 0 && decide (1048576 < grown + need) then (s, max grown 1048576, .held)
      else if need != 0 && !s.t1Fits t need then
        ((s.count t (fun c => { c with kvStops := c.kvStops + 1 })).countRefusal t stNoSpace, grown, .stopped)
      else
        let s := new.foldl (fun s k => s.mapNew h v k) s
        let s := copies.foldl (fun s k => s.mapCopy h k) s
        let s := s.modSession h (fun x => { x with through := [], waited := 0 })
        (s.notePeaks t, grown + need, .mapped)

/-- A sequence left out for its quota: no position is written, nothing is emitted. -/
def StepSeq.noSpace (q : StepSeq) : StepSeq := StepSeq.stopped q.session stNoSpace q.reserved

/-- Setup of the decode batch. -/
def State.setupDecode (s : State) : Nat → List StepSeq → State × Nat × List StepSeq
  | grown, [] => (s, grown, [])
  | grown, q :: qs =>
    let r := s.setupSeq grown q.session q.appends
    match r.2.2 with
    | .mapped =>
      let rest := r.1.setupDecode r.2.1 qs
      (rest.1, rest.2.1, q :: rest.2.2)
    | .stopped =>
      let rest := r.1.setupDecode r.2.1 qs
      (rest.1, rest.2.1, q.noSpace :: rest.2.2)
    | .held => (r.1.giveBack (handleTenant q.session) q.reserved).setupDecode r.2.1 qs

/-- Setup of the prefill chunk. -/
def State.setupChunk (s : State) (grown : Nat) : Option Chunk → State × Option Chunk
  | none => (s, none)
  | some c =>
    let r := s.setupSeq grown c.session c.appends
    match r.2.2 with
    | .mapped => (r.1, some c)
    | .stopped => (r.1, some { c with stop := stNoSpace, sample := none, length := 0, last := false })
    | .held => (r.1.giveBack (handleTenant c.session) c.reserved, none)

/-- Row tags of a version's rows in a step (R195). -/
def State.rowTags (s : State) (o : OpenStep) (v : Version) : List (Nat × RowTag) :=
  let rows := ((o.sequences.mapIdx (fun i q => (i, q))).flatMap (fun e =>
    match s.session? e.2.1 with
    | some x => if v.is x.model x.version then (List.range e.2.2).map (fun j =>
        RowTag.mk x.handle (x.length + j) x.modes (handleTenant x.handle) e.1) else []
    | none => []))
  (rows.take 4096).mapIdx (fun i t => (i, t))

/-- A virtual core at the start of a version's program for a step. (Log entry 8: DESIGN CHOICE, unsafe.) -/
def VCore.start (old : Option VCore) (v : Version) (p : Program) (tags : List (Nat × RowTag)) : VCore :=
  let base := match old with
    | some c => if v.is c.model c.version then c else VCore.idle
    | none => VCore.idle
  { base with model := v.model, version := v.version, pc := 0, workBytes := p.workBytes,
              consts := p.consts, code := p.code, tags := tags, wait := .none, walks := [] }

/-- Programs of the versions of a step, the front end's encoders among them, start on their virtual cores; where two
versions name one virtual core, it runs them in turn, in step order (R202). (Log entry 56: DEDUCED, safe.) -/
def State.startPrograms (s : State) (o : OpenStep) : State :=
  let vers := (s.stepKeys o).filterMap (fun k => s.version? k.1 k.2)
  let progs := vers.flatMap (fun v => v.programs.map (fun p => (p.vc, v, p)))
  let start (e : Nat × Version × Program) : Nat × VCore := (e.1, VCore.start
    ((s.cores.vcores.find? (fun c => c.1 == e.1)).map (·.2)) e.2.1 e.2.2 (s.rowTags o e.2.1))
  let nums := (progs.map (·.1)).eraseDups
  let put := nums.filterMap (fun n => (progs.find? (fun e => e.1 == n)).map start)
  let later := nums.flatMap (fun n => ((progs.filter (fun e => e.1 == n)).drop 1).map start)
  let rest := (s.cores.vcores.filter (fun c => put.all (fun e => e.1 != c.1))).map (fun c =>
    (c.1, { c.2 with tags := [], wait := CoreWait.halted, walks := [] }))
  { s with cores := { s.cores with
      vcores := sortBy (fun a b => decide (a.1 ≤ b.1)) (put ++ rest), queued := later, handoffs := [],
      turns := Vector.replicate 64 0 } }

/-- The epoch span of R236 allows the next epoch. -/
def State.epochSpanOk (s : State) : Bool :=
  let e := s.epochs.epoch + 1
  s.epochs.walks.all (fun u => decide ((e - u).toNat < 2 ^ 30))

def State.quarantined (s : State) : Nat := sumOf (·.frames) s.epochs.quarantine

/-- Space that an object lies in: the job space, or its tenant's. -/
def spaceOf (shared : Bool) (owner : Nat) : Nat := if shared then 0x1000 else owner

/-- Every object with a place beside the key-value ranges. -/
def State.placedObjects (s : State) : List PlacedObject :=
  s.partitions.map (fun p => ⟨p.tenant, 0, 4096 * p.slot + p.tenant,
    imageBales (s.slot p.slot) p - 1⟩) ++
  s.sheaf.tables.map (fun t => ⟨spaceOf t.shared t.owner, 1, t.number, t.bales⟩) ++
  s.grammars.map (fun g => ⟨spaceOf g.shared g.owner, 2, g.serial, g.bales⟩) ++
  s.templates.map (fun t => ⟨spaceOf t.shared t.owner, 3, t.number, t.bales⟩) ++
  s.stores.map (fun p => ⟨p.tenant, 4, 4096 * p.slot + p.tenant, p.bales⟩) ++
  s.models.versions.map (fun v => ⟨spaceOf v.shared v.owner, 5, 2 ^ 32 * v.model + v.version, v.bales⟩) ++
  (s.granary.frames.filter (fun f => !s.frameMapped f.frame)).map (fun f => ⟨f.tenant, 6, f.frame, 1⟩) ++
  ((List.range 16).filter (fun i => (s.slot i).state != 0 && (s.slot i).owner == 0xFFFF)).map (fun i =>
    ⟨0x1000, 7, i, 1⟩)

/-- What programs of an epoch that opens now see beside the pages and windows. -/
def State.epochView (s : State) : EpochView :=
  { objects := s.placedObjects, partitions := s.partitions, slots := s.slots,
    sessions := s.granary.directory, frames := s.granary.frames }

/-- The step is set up and its epoch opens, with the mappings as they stand then (R334). (Log entry 134: DEDUCED,
unsafe.) -/
def State.setupStep (s : State) (o : OpenStep) : State :=
  let d := s.setupDecode 0 o.decode
  let c := d.1.setupChunk d.2.1 o.prefill
  let e := s.epochs.epoch + 1
  let o := { o with decode := d.2.2, prefill := c.2, epoch := some e }
  let s := { c.1 with step := some o, epochs := { c.1.epochs with epoch := e } }
  ({ s with epochs := { s.epochs with view := some s.epochView } }).startPrograms o

/-- EPOCH_OPEN: step setup, or a wait, counted once for each opening that it delays (R236). -/
def execEpochOpen (s : State) : Host.Outcome State Fault Refusal :=
  .next (match s.step with
    | some o =>
      if o.epoch.isSome || s.faulted || !s.unitsRun then s
      else if !s.epochSpanOk then
        { s with
          step := some { o with spanWait := true },
          epochs := { s.epochs with epochStalls := if o.spanWait then s.epochs.epochStalls
            else s.epochs.epochStalls + 1 } }
      else if 4194304 ≤ s.quarantined then
        { s with
          step := some { o with quarWait := true },
          epochs := { s.epochs with quarStalls := if o.quarWait then s.epochs.quarStalls
            else s.epochs.quarStalls + 1 } }
      else s.setupStep o
    | none => s)

/-! ### Accounting (R54 to R61) -/

def setAt {α : Type} (l : List α) (i : Nat) (x : α) : List α := l.set i x

/-- Values and clips of a layer at the positions kept. -/
def Session.layerCount (x : Session) (layer len : Nat) : Nat × Nat :=
  let mine := x.stepCounts.filter (fun c => c.1.1 == layer && decide (c.1.2 < len))
  (sumOf (fun c => c.2.1) mine, sumOf (fun c => c.2.2) mine)

/-- What an accounting step decides for a layer: values, clips, enters fallback, enters reserve. -/
structure LayerStep where
  values : Nat
  clipped : Nat
  fallback : Bool
  reserve : Bool
  deriving DecidableEq, Repr

/-- Only a change under R57 or R58 is marked and counted (R61): a layer routed by R59 from the first step never
changes. (Log entry 105: DESIGN CHOICE, unsafe.) -/
def layerStep (v : Version) (x : Session) (len i : Nat) (l : Layer) : LayerStep :=
  let c := x.layerCount i len
  let old := x.modes.getD i 0
  let res := v.safeguard.getLsbD 1 && l.hasReserve && shareExceeds c.2 c.1 l.wtLimit
  let fb := (v.safeguard.getLsbD 0 && shareExceeds c.2 c.1 l.actLimit) || res
  { values := c.1, clipped := c.2, fallback := fb && !old.getLsbD 0, reserve := res && !old.getLsbD 1 }

def LayerStep.mode (d : LayerStep) (old : BitVec 2) : BitVec 2 :=
  old ||| (if d.fallback then 1 else 0) ||| (if d.reserve then 2 else 0)

/-- The session after an accounting step that leaves length `len`. (Log entry 58: DEDUCED, unsafe.) -/
def Session.account (x : Session) (ds : List LayerStep) (len : Nat) : Session :=
  let at_ (i : Nat) : LayerStep := ds.getD i ⟨0, 0, false, false⟩
  { x with
    modes := x.modes.mapIdx (fun i m => (at_ i).mode m),
    fbPos := x.fbPos.mapIdx (fun i p => if (at_ i).fallback then len else p),
    clipTotal := x.clipTotal.mapIdx (fun i c => c + BitVec.ofNat 64 (at_ i).clipped),
    lastStep := x.lastStep.mapIdx (fun i _ => (BitVec.ofNat 64 (at_ i).values, BitVec.ofNat 64 (at_ i).clipped)),
    stepCounts := [],
    marks := x.marks ||| (if ds.any (·.fallback) then 1 else 0) ||| (if ds.any (·.reserve) then 2 else 0) }

/-- Adds to a tenant's counts of a layer. -/
def Layer.add (l : Layer) (t : Nat) (d : LayerStep) : Layer :=
  let old := (l.counts.find? (fun c => c.1 == t)).getD (t, 0, 0, 0, 0)
  let one (b : Bool) : U32 := if b then 1 else 0
  { l with counts := (t, old.2.1 + BitVec.ofNat 64 d.values, old.2.2.1 + BitVec.ofNat 64 d.clipped,
      old.2.2.2.1 + one d.fallback, old.2.2.2.2 + one d.reserve) :: l.counts.filter (fun c => c.1 != t) }

/-- Closes an accounting step of a session. -/
def State.accountSession (s : State) (h : U64) (len : Nat) : State :=
  match s.session? h with
  | none => s
  | some x =>
    match s.version? x.model x.version with
    | none => s
    | some v =>
      let ds := v.layers.mapIdx (layerStep v x len)
      let s := s.modSession h (fun x => x.account ds len)
      s.modVersion v.model v.version (fun v => { v with
        layers := v.layers.mapIdx (fun i l => l.add (handleTenant h) (ds.getD i ⟨0, 0, false, false⟩)) })

/-! ### The end of a sequence's step -/

/-- One sequence at a step's end: positions of a prefill chunk first, then what is drawn. (Log entry 59: DEDUCED, unsafe.) -/
structure SeqWork where
  session : U64
  chunk : Option Chunk
  seq : StepSeq
  deriving DecidableEq, Repr

def OpenStep.works (o : OpenStep) : List SeqWork :=
  o.decode.map (fun q => ⟨q.session, none, q⟩) ++ o.prefill.toList.map (fun c =>
    ⟨c.session, some c, c.sample.getD (StepSeq.stopped c.session c.stop 0)⟩)

def SeqWork.chunkLen (w : SeqWork) : Nat := (w.chunk.map (·.length)).getD 0

/-- What the sequence draws at the step's end, and the NaN logits read for it (R265, R267). -/
def State.outcome (s : State) (eosEmpty : List Nat) (x : Session) (v : Version) (w : SeqWork) :
    Option (Drawn × Nat) :=
  match (if w.seq.stop = 0 then w.seq.pending else none), x.run with
  | some p, some r =>
    let c := s.drawCtx eosEmpty x v r.params
    let n := x.length + w.chunkLen + 1
    some (c.verify n p x.automaton w.seq.drafts, c.nans n p x.automaton w.seq.drafts)
  | _, _ => none

/-- Positions kept of those that a drawing sequence appended: the pending token's and the accepted drafts' (R238). -/
def keptPositions (out : Option (Drawn × Nat)) : Nat := (out.map (fun d => 1 + d.1.accepted)).getD 0

/-- Length that a step sets (R238). -/
def SeqWork.newLength (w : SeqWork) (x : Session) (out : Option (Drawn × Nat)) : Nat :=
  x.length + w.chunkLen + keptPositions out

/-- Every position below the new length has been appended to every stream (R230). -/
def State.written (s : State) (eosEmpty : List Nat) (w : SeqWork) : Bool :=
  match s.session? w.session with
  | none => true
  | some x =>
    match s.version? x.model x.version with
    | none => true
    | some v =>
      let len := w.newLength x (s.outcome eosEmpty x v w)
      (s.streams v).all (fun σ => (List.range (len - x.length)).all (fun i =>
        x.through.contains (σ, x.length + i)))

/-- The core that a fault of a session's step is charged to: that of the first virtual core of its
version. -/
def State.coreOfVersion (s : State) (h : U64) : Nat :=
  match s.session? h with
  | some x => ((s.cores.vcores.find? (fun c => c.2.model == x.model && c.2.version == x.version)).map (·.1)).getD 0
  | none => 0

/-- Text of a step's tokens: released bytes and those held back. -/
structure StepText where
  out : List Byte
  held : List Byte
  deriving DecidableEq, Repr

def stepText (v : Version) (x : Session) (g : GenParams) (specials final : Bool) (toks : List Nat) : StepText :=
  match v.vocab with
  | none => ⟨[], x.heldBytes⟩
  | some voc =>
    if g.textDest = 0 then ⟨[], x.heldBytes⟩
    else
      let all := x.heldBytes ++ toks.flatMap (outBytes voc specials)
      if final then ⟨all, []⟩ else ⟨(holdBack all).1, (holdBack all).2⟩

/-- An unfinished prefill is given up: its first unprefilled token is pending again. -/
def Session.abandon (x : Session) : Session :=
  match x.prefill with
  | some p => { x with prefill := none, pending := p.todo.head?.orElse (fun _ => x.pending) }
  | none => x

/-- Tokens that an append has prefilled when it ends. -/
def Session.prefilled (x : Session) : Nat :=
  match x.prefill with
  | some p => p.total - p.todo.length
  | none => 0

/-- The front end of a session's REQUEST is given up. -/
def State.dropFront (s : State) (h : U64) : State :=
  (s.front.filter (fun w => w.record.opcode == 0x0410 && w.record.handle == h)).foldl (fun s w => s.dropWork w) s

/-- What a run's end leaves: the state of Table 10-3. A run that a command ended is kept until PARK or CLOSE takes
effect; GRAMMAR_EMPTY leaves the automaton where it stood (R178). -/
def State.endRun (s : State) (h : U64) (v : Version) (e : RunEnd) (toks : List Nat) : State :=
  let s := s.dropFront h
  if e.code == 5 then s
  else s.modSession h (fun x => { x.abandon with
    state := stateAfter v e toks, run := none,
    automaton := if e.stop == stGrammarEmpty then x.automaton else none })

/-- A record that a step's end completes. -/
def closedDone (id : Nat) : RunDone := { id := id, status := stOk, result := sessionResult 7 0 0 0 0 }

/-- PARKs or CLOSEs accepted while the session was RUNNING take effect at the end of the step (R294). A session whose
run they end (`kept`) is parked as from WAITING with its run; one that the step itself ended is parked as the step
left it. (Log entry 57: DEDUCED, unsafe.) -/
def State.endCommands (s : State) (h : U64) (kept : Bool) : State × List RunDone :=
  match s.session? h with
  | none => (s, [])
  | some x =>
    if !x.closeAtEnd.isEmpty then (s.closeSession h, x.closeAtEnd.map closedDone)
    else if !x.parkAtEnd.isEmpty then
      let drop := x.parkAtEnd.any (·.2)
      ((s.modSession h (fun x => { (if kept then x.abandon else x) with
        state := 4, parkedFrom := if kept then 3 else x.state, parkAtEnd := [],
        run := x.run.map (fun r => { r with id := none }) })).askSeal h
          (.park (x.parkAtEnd.map (·.1)) drop (if kept then 2 else x.state)), [])
    else (s, [])

/-- State and outputs of a step's end so far. -/
structure Ending where
  s : State
  es : List OutEntry
  ds : List RunDone
  deriving DecidableEq, Repr

/-- Charges and counts of a sequence's step (R275, R276, R188, R246, R286). Positions that it appended and does not
keep are rolled back (R238). -/
def State.chargeSeq (s : State) (w : SeqWork) (out : Option (Drawn × Nat)) (grammar : Bool) (unmapped : Nat) :
    State :=
  let t := handleTenant w.session
  let q := w.seq
  let k := (out.map (fun d => d.1.emitted.length)).getD 0
  let reserved := q.reserved + (w.chunk.map (·.reserved)).getD 0
  let s := s.settle t reserved (8 * k + w.chunkLen)
  let s := s.count t (fun c => { c with
    genTokens := c.genTokens + BitVec.ofNat 64 k, inTokens := c.inTokens + BitVec.ofNat 64 w.chunkLen,
    drafted := c.drafted + BitVec.ofNat 64 q.drafts.length,
    accepted := c.accepted + BitVec.ofNat 64 ((out.map (fun d => d.1.accepted)).getD 0),
    masks := c.masks + BitVec.ofNat 64 (if grammar && out.isSome then q.appends else 0),
    empties := if out.any (fun d => d.1.empty) then c.empties + 1 else c.empties,
    eosForced := if out.any (fun d => d.1.forcedEos) then c.eosForced + 1 else c.eosForced,
    rolledBack := c.rolledBack + BitVec.ofNat 64 (q.appends - keptPositions out),
    rollbackBales := c.rollbackBales + BitVec.ofNat 64 unmapped })
  { s with job := { s.job with
      tokens := s.job.tokens + BitVec.ofNat 64 k,
      nanLogits := s.job.nanLogits + BitVec.ofNat 64 ((out.map (·.2)).getD 0) } }

/-- An accounting step of the sequence ends with this step: a decode or verify step that drew, or the last chunk of
a prefill (R54). -/
def SeqWork.accounts (w : SeqWork) (out : Option (Drawn × Nat)) : Bool :=
  match w.chunk with
  | none => out.isSome
  | some c => c.last

/-- Slots that a step appended and keeps count as written when the step ends: a seal taken inside the step holds them
zeroed (R297, R298). -/
def Session.settleBales (x : Session) (v : Version) (len : Nat) : Session :=
  let kept (k : KvBale) : Bool := x.through.any (fun e => e.1 == k.stream && decide (e.2 < len) &&
    (v.att? (v.streamParts e.1).1).any (fun d => (x.place d e.2).1 == k.bale))
  { x with kv := x.kv.map (fun k => { k with dirty := k.dirty || kept k }) }

/-- Length, pending token, rollback, charges and accounting of one sequence's step. Marks set now are the session's
alone; those set before wait in the output entry (R61). -/
def State.settleSeq (s : State) (x : Session) (w : SeqWork) (out : Option (Drawn × Nat)) : State :=
  let h := w.session
  let len := w.newLength x out
  let toks := (out.map (fun d => d.1.emitted)).getD []
  let todo := (x.prefill.map (fun p => p.todo.drop w.chunkLen)).getD []
  let gone := x.kv.filter (fun k => decide (len ≤ (kvTrailerOf (s.kvData k.frame)).firstPos))
  let s := s.modSession h (fun x => { ((s.versionOf x).map (fun v => x.settleBales v len)).getD x with
    length := len, changed := true, through := [], marks := 0,
    pending := if out.any (fun d => d.1.empty) then none else toks.getLast?.orElse (fun _ => x.pending),
    stepCounts := x.stepCounts.filter (fun c => decide (c.1.2 < len)),
    prefill := if todo.isEmpty then none else x.prefill.map (fun p => { p with todo := todo }) })
  let s := (s.unmapKv h (fun k => gone.contains k)).chargeSeq w out x.automaton.isSome gone.length
  if w.accounts out then s.accountSession h len else s

/-- Marks that no output entry has reported go on. -/
def State.keepMarks (s : State) (h : U64) (old : BitVec 2) : State :=
  s.modSession h (fun y => { y with marks := y.marks ||| old })

/-- The end of an append's step: the append ends with its last chunk, or stops. -/
def State.endAppend (a : Ending) (s : State) (x : Session) (v : Version) (w : SeqWork) : Ending :=
  let h := w.session
  let s := s.keepMarks h x.marks
  let more := ((s.session? h).bind (·.prefill)).isSome
  if more && w.seq.stop == 0 && !x.ending then { a with s := s }
  else
    let e : RunEnd := if w.seq.stop ≠ 0 then ⟨4, w.seq.stop⟩ else if more then ⟨5, 0⟩ else ⟨2, 0⟩
    let n := ((s.session? h).map (fun y => (x.prefill.map (·.total)).getD 0 -
      (y.prefill.map (fun p => p.todo.length)).getD 0)).getD 0
    let c := (s.endRun h v e []).endCommands h (e.code == 5)
    { s := c.1, es := a.es,
      ds := a.ds ++ x.prefill.toList.map (fun p =>
        { id := p.id, status := runStatus e,
          result := sessionResult (c.1.sessionState h) 0 n 0 ((s.session? h).map (·.length) |>.getD 0) }) ++ c.2 }

/-- The end of a run's step: text, output entries, and the run's end. An empty mask after accepted drafts gives two
entries, the tokens first. (Log entry 58: DEDUCED, unsafe.) -/
def State.endRunStep (specials : List Nat) (a : Ending) (s : State) (x : Session) (v : Version) (r : Run)
    (w : SeqWork) (out : Option (Drawn × Nat)) : Ending :=
  let h := w.session
  let g := genParams r.params
  let toks := (out.map (fun d => d.1.emitted)).getD []
  let acc := (out.map (fun d => d.1.accepted)).getD 0
  let stop := if out.any (fun d => d.1.empty) then stGrammarEmpty else w.seq.stop
  let len := w.newLength x out
  let emitted := r.emitted + toks.length
  let e0 := runEnd v x g emitted len toks stop false
  let final := (e0.code == 1 && toks.getLast? == some v.eosToken) || e0.code == 3 ||
    e0.stop == stGrammarEmpty || (e0.code == 5 && !x.closeAtEnd.isEmpty)
  let text := stepText v x g (specials.contains (handleTenant h)) final toks
  let released := r.released + text.out.length
  let e := runEnd v x g emitted len toks stop (g.textDest != 0 && decide (g.textCap < released + 2051))
  let s1 := s.writeT2 (g.textDest + r.released) text.out
  let s2 := s1.count (handleTenant h) (fun c => { c with bytesOut := c.bytesOut + BitVec.ofNat 64 text.out.length })
  let verified := w.chunk.isNone && out.isSome
  let r' : Run := { r with
    emitted := emitted, released := released, lastAcc := if verified then acc else r.lastAcc,
    first := r.first && !verified }
  let advanced := !toks.isEmpty || e.code != 0
  let s3 := s2.modSession h (fun y => { y with
    run := some r', heldBytes := text.held,
    automaton := (out.bind (fun d => d.1.automaton)).orElse (fun _ => x.automaton) })
  let s3 := if advanced then s3 else s3.keepMarks h x.marks
  let entry (toks : List Nat) (acc : Nat) (e : RunEnd) (marks : BitVec 2) (n : Nat) : OutEntry :=
    { cq := r.cq, session := h, needs := newWrites s s1,
      slots := outSlots h toks acc e marks (!text.held.isEmpty) n x.automaton }
  let last := ((out.bind (fun d => d.1.automaton)).orElse (fun _ => x.automaton))
  let entries := if e.stop == stGrammarEmpty && !toks.isEmpty then
      [entry toks acc ⟨0, 0⟩ x.marks text.out.length,
       { entry [] 0 e 0 0 with slots := outSlots h [] 0 e 0 (!text.held.isEmpty) 0 last }]
    else [entry toks acc e x.marks text.out.length]
  if e.code == 0 then { s := s3, es := if advanced then a.es ++ entries else a.es, ds := a.ds }
  else
    let c := (s3.endRun h v e toks).endCommands h (e.code == 5)
    { s := c.1, es := a.es ++ entries,
      ds := a.ds ++ r.id.toList.map (fun id =>
        { id := id, status := runStatus e, result := runResult r' (c.1.sessionState h) len e }) ++ c.2 }

/-- The end of one sequence's step. -/
def State.endSeq (specials eosEmpty : List Nat) (a : Ending) (w : SeqWork) : Ending :=
  match a.s.session? w.session with
  | none => a
  | some x =>
    match a.s.version? x.model x.version with
    | none => a
    | some v =>
      let out := a.s.outcome eosEmpty x v w
      let s := a.s.settleSeq x w out
      match x.run with
      | none => State.endAppend a s x v w
      | some r => State.endRunStep specials a s x v r w out

/-- An APPEND does not pin its version (R255): one whose version has been freed stops with VERSION_GONE. -/
def State.loseAppend (a : Ending) (x : Session) : Ending :=
  let h := x.handle
  let c := (a.s.modSession h (fun y => { y.abandon with state := 3 })).endCommands h false
  { s := c.1, es := a.es,
    ds := a.ds ++ x.prefill.toList.map (fun p =>
      { id := p.id, status := stVersionGone, result := sessionResult (c.1.sessionState h) 0 x.prefilled 0 x.length }) ++
      c.2 }

/-- A session that PARK or CLOSE ends and that the step did not carry. (Log entry 57: DEDUCED, unsafe.) -/
def State.endByCommand (specials eosEmpty : List Nat) (a : Ending) (h : U64) : Ending :=
  match a.s.session? h with
  | none => a
  | some x =>
    if x.state == 2 && x.run.isNone && (a.s.version? x.model x.version).isNone then State.loseAppend a x
    else if x.state == 2 && x.ending then State.endSeq specials eosEmpty a ⟨h, none, StepSeq.stopped h 0 0⟩
    else a

/-! ### The hot model cache (R258) -/

/-- Bales read on chip are hits; the others enter the cache at the step's end. A bale that any version of the step
reads is not displaced. -/
def State.fillCache (s : State) (step : U64) (keys : List (Nat × Nat)) (v : Version) : State :=
  let read := stepBales v step
  let mine (b : CachedBale) : Bool := b.model == v.model && b.version == v.version && read.contains b.bale
  let hits := (s.models.cache.filter mine).length
  let news := (read.filter (fun n => !s.models.cache.any (fun b => mine b && b.bale == n))).map
    (fun n => CachedBale.mk v.model v.version n step.toNat)
  let s := { s with models := { s.models with
    hits := s.models.hits + BitVec.ofNat 64 hits,
    cache := updWhere mine (fun (b : CachedBale) => { b with used := step.toNat }) s.models.cache } }
  s.cacheIn news (usedBy keys step)

/-- Every version of a step, given by their keys, fills the cache. -/
def State.fillCaches (s : State) (step : U64) (keys : List (Nat × Nat)) : State :=
  (keys.filterMap (fun k => s.version? k.1 k.2)).foldl (fun s v => s.fillCache step keys v) s

/-! ### Slowdown windows (R277) -/

/-- Adds a step's actual and modelled durations to its tenants' windows. (Log entry 55: DESIGN CHOICE, safe.) -/
def State.addDurations (s : State) (o : OpenStep) : State :=
  let actual := s.free 0
  (o.modelled.foldl (fun s m => s.modTenant m.1 (fun x => { x with
    slowActual := x.slowActual + actual, slowModelled := x.slowModelled + m.2 })) s).drew 1

/-- `slowdown` of a window, in 1/1,024; a window without work keeps the last figure. -/
def Tenant.window (t : Tenant) : Nat :=
  if t.slowModelled = 0 then t.counts.slowdown
  else min (t.slowActual * 1024 / t.slowModelled) 0xFFFFFFFF

def State.endWindow (s : State) : State :=
  let alerts := s.tenants.filter (fun t => t.slowAlert != 0 && decide (t.slowAlert < t.window))
  let s := { s with
    tenants := s.tenants.map (fun (t : Tenant) => { t with
      counts := { t.counts with slowdown := t.window, slowMax := max t.counts.slowMax t.window },
      slowActual := 0, slowModelled := 0 }),
    job := { s.job with slowSteps := 0 } }
  alerts.foldl (fun s t => s.setSlow t.number) s

/-- The present window holds `slow_window` steps. -/
def State.windowFull (s : State) : Bool := decide (s.job.slowWindow ≤ s.job.slowSteps)

/-- A step counts in the slowdown window; one that finds the window full closes it first. -/
def State.measureStep (s : State) (o : OpenStep) : State :=
  let s := (if s.windowFull then s.endWindow else s).addDurations o
  { s with job := { s.job with slowSteps := s.job.slowSteps + 1 } }

/-- SLOW_WINDOW_END: after `slow_window` steps the window's figures are formed, and alerts raised. -/
def execSlowWindowEnd (s : State) : Host.Outcome State Fault Refusal :=
  .next (if s.job.state == 0 || s.faulted || !s.windowFull then s else s.endWindow)

/-! ### Power shifting (R501 to R503) -/

/-- Peer ports 1 to 7 whose neighbour reports the job. -/
def State.slackPorts (s : State) : List Nat :=
  if s.job.ranks ≤ 1 then [] else [1, 2, 3, 4, 5, 6, 7].filter s.nbrInJob

/-- `shift_w`: the sum of the balances. -/
def State.shiftW (s : State) : Int := (s.ports.toList.map (·.balance)).foldl (· + ·) 0

/-- `take_w` of a report with `n` slack ports. -/
def State.takeW (s : State) (n : Nat) : Nat :=
  if s.setting 0x2000 5 == 0 then 0
  else
    let cap : Int := s.setting 0x2000 1
    let top := min (s.setting 0x8010 1 : Int) (cap + s.setting 0x2000 6)
    ((top - (cap + s.shiftW)) / n).toNat

/-- The conditions of a grant to a port. -/
def State.grants (s : State) (p : Nat) : Bool :=
  let step := s.setting 0x2000 7
  let cap := s.setting 0x2000 1
  s.setting 0x2000 5 == 1 && (s.port p).report.any (fun r =>
    decide (r.1 + s.setting 0x2000 8 ≤ s.sync.slackUs) && decide (step ≤ r.2) &&
      decide ((cap : Int) + s.shiftW - step ≥ max (600 : Int) ((cap : Int) - s.setting 0x2000 6)))

/-- A slack report (Table 18-7). -/
def slackMessage (reset : Bool) (rank slack grant take : Nat) : Message :=
  ofBytes 128 (toLe 1 0x50 ++ toLe 1 (if reset then 1 else 0) ++ toLe 2 rank ++ toLe 4 slack ++
    toLe 2 grant ++ toLe 2 take)

/-- One slack port at a step's end: a grant if its conditions hold, then the report. -/
def State.reportSlack (n : Nat) (s : State) (p : Nat) : State :=
  let step := s.setting 0x2000 7
  let give := s.grants p
  let s := if give then s.modPort p (fun x => { x with balance := x.balance - step, report := none }) else s
  let m := slackMessage (s.port p).resetDue s.job.rank s.sync.slackUs (if give then step else 0) (s.takeW n)
  (s.modPort p (fun x => { x with resetDue := false })).putOnPort p (.peer p m)

def State.reportSlacks (s : State) : State :=
  let ports := s.slackPorts
  let s := ports.foldl (State.reportSlack ports.length) s
  { s with sync := { s.sync with slackUs := 0 } }

/-! ### STEP_END -/

/-- Sequences, outputs and completions of a step's end. -/
def State.endSequences (s : State) (o : OpenStep) : State :=
  let works := sortBy (fun (a b : SeqWork) => decide (a.session.toNat ≤ b.session.toNat)) o.works
  let a := works.foldl (State.endSeq o.specials o.eosEmpty) ⟨s, [], []⟩
  let rest := sortBy (fun (a b : U64) => decide (a.toNat ≤ b.toNat)) (a.s.granary.directory.map (·.handle))
  let a := rest.foldl (State.endByCommand o.specials o.eosEmpty) a
  a.ds.foldl (fun s d => s.completeDone a.es d) (a.s.postOutputs o.number a.es)

/-- Every ATTEND of the step has retired: every program of the step has ended, and none waits for its turn (R220). -/
def State.walksRetired (s : State) : Bool :=
  s.cores.queued.isEmpty && s.cores.vcores.all (fun c => decide (c.2.wait = .halted))

end Sys2Proof.Machine
end

