-- ==== Sys2Proof/Machine/Revive.lean ====
section
/-!
DEFINITION. Reading a seal back (10 R308 to R310, R313): the manifest chain, its checks, the bales, and the
session that a revive installs.
-/

namespace Sys2Proof.Machine

/-! ### The manifest chain -/

/-- One part as read: its place, header fields and entries; none when its tag does not verify. -/
structure PartRead where
  place : Nat
  tenant : Nat
  part : Nat
  parts : Nat
  session : U64
  sealNo : U64
  prev : Nat
  entries : List SealEntry
  deriving DecidableEq, Repr

def entryAt (m : Mem) (a : Nat) : SealEntry :=
  { digest := ofBytes 256 (readBytes m a 32), iv := ofBytes 96 (readBytes m (a + 32) 12),
    tag := ofBytes 128 (readBytes m (a + 44) 16), place := readLe m (a + 60) 4, kind := readLe m (a + 64) 2,
    stream := readLe m (a + 68) 4, bale := readLe m (a + 72) 4 }

/-- Opens a manifest part that lies at `a` of memory `m`. -/
def openPart (key : BitVec 256) (m : Mem) (a place : Nat) : Option PartRead :=
  let head := readBytes m a 64
  let n := readLe m (a + 0x1C) 4
  let aad := head.take 0x2C ++ List.replicate 16 0 ++ head.drop 0x3C
  match gcmOpen (lineBytes key 32) (readBytes m (a + 0x20) 12) aad (readBytes m (a + 64) 65472)
      (readBytes m (a + 0x2C) 16) with
  | none => none
  | some body =>
    let b := writeBytes [] 0 body
    if readLe m a 2 == 0xA0 && zeroRange m (a + 0x3C) 4 && decide (1 ≤ n ∧ n ≤ 818) then
      some { place := place, tenant := readLe m (a + 2) 2, part := readLe m (a + 4) 2,
             parts := readLe m (a + 6) 2, session := BitVec.ofNat 64 (readLe m (a + 8) 8),
             sealNo := BitVec.ofNat 64 (readLe m (a + 0x10) 8), prev := readLe m (a + 0x18) 4,
             entries := (List.range n).map (fun e => entryAt b (80 * e)) }
    else none

/-- Parts from the root back to part 0, each agreeing with the root; the first part comes first. -/
def State.readChain (s : State) (key : BitVec 256) (a : SealArea) (root : Option PartRead) :
    Nat → Nat → Nat → List PartRead → Option (List PartRead)
  | 0, _, _, _ => none
  | k + 1, place, part, later =>
    if !a.holds place then none
    else match openPart key s.t2 (a.at_ place) place with
      | none => none
      | some p =>
        let r := root.getD p
        let agrees := p.tenant == a.tenant && p.session == r.session && p.sealNo == r.sealNo &&
          p.parts == r.parts && p.part == part
        if !agrees then none
        else if part = 0 then (if p.prev == 0xFFFFFFFF then some (p :: later) else none)
        else s.readChain key a (some r) k p.prev (part - 1) (p :: later)

/-- The manifest that a root names. -/
def State.readManifest (s : State) (h : U64) (root : Nat) : Option (List PartRead) :=
  let t := handleTenant h
  let a := s.area t
  match s.tenantKey t with
  | none => none
  | some k =>
    let parts := readLe s.t2 (a.at_ root + 6) 2
    if parts = 0 then none
    else match s.readChain k.bits a none parts root (parts - 1) [] with
      | some (p :: ps) => if p.session == h then some (p :: ps) else none
      | _ => none

/-! ### Data bales -/

/-- Plaintext of a data bale read from T2: in the used region, tag and digest good. -/
def State.readBale (s : State) (tenant : Nat) (e : SealEntry) : Option (List Byte) :=
  let a := s.area tenant
  match s.tenantKey tenant with
  | none => none
  | some k =>
    if !a.holds e.place then none
    else match gcmOpen (lineBytes k.bits 32) (lineBytes e.iv 12) (dataAad tenant e.kind e.digest)
        (readBytes s.t2 (a.at_ e.place) 65536) (lineBytes e.tag 16) with
      | some p => if digest256 p == e.digest then some p else none
      | none => none

/-- The run that a state bale keeps. -/
def keptRun (m : Mem) : Run :=
  { id := none, cq := 0, params := ofBytes 512 (readBytes m 0x40 64), emitted := readLe m 0x20 4,
    released := readLe m 0x28 8, lastAcc := readLe m 0x24 1, first := readLe m 0x20 4 == 0,
    implicit := false, front := none, pins := [] }

/-- The automaton that a state bale keeps; its grammar is still to be found. (Log entry 59: DEDUCED, unsafe.) -/
def keptAutomaton (m : Mem) : Automaton :=
  { grammar := readLe m 0x36 2 % 1024, serial := 0, state := readLe m 0x30 4,
    stack := (readBytes m 0x80 (readLe m 0x34 2)).reverse }

/-- The session that a state bale holds (Table 10-4). Marks that no output entry has reported are not in it. (Log entry
135: DESIGN CHOICE, unsafe.) -/
def sessionOf (h : U64) (m : Mem) : Session :=
  let flags := memGet m 3
  let layers := readLe m 4 2
  let model := readLe m 8 8
  { Session.blank h with
    state := if readLe m 2 1 == 1 then 1 else 3, model := model / 65536 % 1024, version := model % 65536,
    maxLen := readLe m 0x18 4, length := readLe m 0x10 4,
    pending := if flags.getLsbD 2 then some (readLe m 0x14 4) else none, prefixLen := readLe m 0x1C 4,
    run := if flags.getLsbD 0 then some (keptRun m) else none,
    automaton := if flags.getLsbD 1 then some (keptAutomaton m) else none,
    heldBytes := readBytes m 0x39 (readLe m 0x38 1),
    modes := (List.range layers).map (fun l => BitVec.ofNat 2 (readLe m (0x200 + l / 4) 1 / 4 ^ (l % 4))),
    fbPos := (List.range layers).map (fun l => readLe m (0x400 + 4 * l) 4),
    clipTotal := (List.range layers).map (fun l => BitVec.ofNat 64 (readLe m (0x1400 + 8 * l) 8)),
    lastStep := (List.range layers).map (fun l =>
      (BitVec.ofNat 64 (readLe m (0x3400 + 16 * l) 8), BitVec.ofNat 64 (readLe m (0x3408 + 16 * l) 8))) }

/-- The fields of a state bale are in range and agree with the model version. -/
def State.stateBaleOk (s : State) (h : U64) (m : Mem) (x : Session) (v : Version) : Bool :=
  readLe m 0 2 == 0xA1 && decide (1 ≤ readLe m 2 1 ∧ readLe m 2 1 ≤ 3) && decide ((memGet m 3).toNat < 8) &&
    x.modes.length == v.layerCount && decide (x.maxLen ≤ v.maxLen) && decide (x.length < x.maxLen) &&
    decide (x.heldBytes.length ≤ 3) && decide (readLe m 0x34 2 ≤ 256) &&
    x.pending.all (fun t => decide (t < v.vocabSize)) &&
    readLe m 8 8 / 2 ^ 36 == handleTenant h && s.modelFor (handleTenant h) x.model

/-- Streams and bales that a session of this length has, in manifest order. -/
def State.expectedBales (s : State) (x : Session) (v : Version) : List (Nat × Nat) :=
  (s.streams v).flatMap (fun σ => match v.att? (v.streamParts σ).1 with
    | some d => if x.length = 0 then []
        else (List.range ((x.place d (x.length - 1)).1 + 1)).map (fun b => (σ, b))
    | none => [])

/-- The manifest's data entries are those of the model version. -/
def State.entriesOk (s : State) (x : Session) (v : Version) (es : List SealEntry) : Bool :=
  es.map (fun e => (e.stream, e.bale)) == s.expectedBales x v &&
    es.all (fun e => e.kind == 0x41 + e.stream % 2)

/-! ### Installing (R308 steps 2 to 4) -/

/-- Where a listed data bale comes from: a retained frame, or T2. -/
inductive BaleSource where
  | retained (frame : Nat)
  | read (data : List Byte)
  deriving DecidableEq, Repr

def State.baleSource (s : State) (tenant : Nat) (e : SealEntry) : Option BaleSource :=
  match s.granary.retained.find? (fun r => r.tenant == tenant && r.digest == e.digest) with
  | some r => some (.retained r.frame)
  | none => (s.readBale tenant e).map BaleSource.read

/-- Every source, or none when one fails. -/
def State.baleSources (s : State) (tenant : Nat) : List SealEntry → Option (List (SealEntry × BaleSource))
  | [] => some []
  | e :: es =>
    match s.baleSource tenant e, s.baleSources tenant es with
    | some b, some bs => some ((e, b) :: bs)
    | _, _ => none

/-- Maps one bale of the session being revived. -/
def State.mapSource (s : State) (h : U64) (eb : SealEntry × BaleSource) : State :=
  match eb.2 with
  | .retained f => s.modSession h (fun x => x.mapBale eb.1.stream eb.1.bale f false)
  | .read d =>
    let f := s.newFrame (handleTenant h) (writeBytes [] 0 d)
    f.1.modSession h (fun x => x.mapBale eb.1.stream eb.1.bale f.2 false)

/-- The grammar that a revived automaton names, if the tenant may use it. -/
def State.reviveSerial (s : State) (tenant : Nat) (v : Version) (a : Automaton) : Automaton :=
  let g := (s.grammar? a.grammar).filter (fun g =>
    (g.shared || g.owner == tenant) && v.vocab.any (fun x => x.digest == g.digest))
  { a with serial := (g.map (·.serial)).getD 0 }

/-- A session parked on this module under a grammar goes on under that grammar alone: one dropped since is gone,
though its number is in use again (R179). Any other seal gives only the number. (Log entry 59: DEDUCED, unsafe.) -/
def State.keptSerial (s : State) (tenant : Nat) (v : Version) (old : Option Session) (root : Nat)
    (a : Automaton) : Automaton :=
  match old.filter (fun o => o.state == 4 && o.latest.any (fun i => i.root == root)) with
  | some o => { a with serial := (o.automaton.map (·.serial)).getD 0 }
  | none => s.reviveSerial tenant v a

/-- Why a revive fails, or what it read. -/
inductive ReviveResult where
  | fails (status : Nat)
  | done (s : State) (root reads : Nat) (sealNo : U64)
  deriving DecidableEq, Repr

/-- T2 ranges that a revive from a root reads (R384): the parts of its manifest and the bales that no retained frame
holds; a manifest that fails is read at its root. -/
def State.reviveReads (s : State) (h : U64) (root : Nat) : List (Nat × Nat) :=
  let t := handleTenant h
  let a := s.area t
  match s.readManifest h root with
  | none => if a.holds root && (s.tenantKey t).isSome then [(a.at_ root, 65536)] else []
  | some ps => ps.map (fun p => (a.at_ p.place, 65536)) ++
      (((ps.flatMap (·.entries)).filter (fun e => a.holds e.place && (e.kind == 0xA1 ||
        !s.granary.retained.any (fun r => r.tenant == t && r.digest == e.digest)))).map (fun e => (a.at_ e.place, 65536)))

/-- Revives a session from the manifest with root `root`. -/
def State.reviveFrom (s : State) (h : U64) (root : Nat) (mirrored : Bool) : ReviveResult :=
  let t := handleTenant h
  match s.readManifest h root with
  | none => .fails stSealBad
  | some ps =>
    match ps.flatMap (·.entries) with
    | [] => .fails stSealBad
    | st :: es =>
      match (if st.kind == 0xA1 && st.stream == 0 && st.bale == 0 then s.readBale t st else none) with
      | none => .fails stSealBad
      | some plain =>
        let m := writeBytes [] 0 plain
        let x := sessionOf h m
        match (s.version? x.model x.version).filter (fun v => v.state != 1) with
        | none => .fails stVersionGone
        | some v =>
          if !(s.stateBaleOk h m x v && s.entriesOk x v es) then .fails stSealBad
          else match s.baleSources t es, s.kvPlace t (v.kvBytes x.maxLen) with
            | none, _ => .fails stSealBad
            | _, none => .fails stNoSpace
            | some bs, some base =>
              let fresh := (bs.filter (fun b => match b.2 with
                | .read _ => true
                | .retained _ => false)).length
              let kept := bs.filterMap (fun b => match b.2 with
                | .read _ => none
                | .retained f => some f)
              if !s.t1FitsKeeping t fresh kept then .fails stNoSpace
              else if !s.hasRoom h then .fails stDirFull
              else
                let no := (ps.head?.map (·.sealNo)).getD 0
                let info : SealInfo := { number := no, root := root, mirrored := mirrored,
                                         entries := st :: es, parts := ps.map (·.place) }
                let old := s.session? h
                let y := { x with
                  kvBase := base, kvBytes := v.kvBytes x.maxLen, latest := some info, nextSeal := no + 1,
                  automaton := x.automaton.map (s.keptSerial t v old root) }
                let s := (s.makeRoom h).putSession (s.takeHandle y)
                let s := (bs.foldl (fun s b => s.mapSource h b) s).notePeaks t
                let s := s.releaseRetained h
                let reads := ps.length + 1 + fresh
                let s := { s with granary := { s.granary with
                  reviveBales := s.granary.reviveBales + BitVec.ofNat 64 reads } }
                let s := s.count t (fun c => { c with
                  read := c.read + BitVec.ofNat 64 reads,
                  reused := c.reused + BitVec.ofNat 64 (bs.length - fresh) })
                .done (s.baleUnits t reads) root reads no

/-- Revives a PARKED session from its latest seal. -/
def State.reviveParked (s : State) (h : U64) : ReviveResult :=
  match (s.session? h).bind (·.latest) with
  | some i => s.reviveFrom h i.root i.mirrored
  | none => .fails stSealBad

/-- What a revive of a PARKED session from its latest seal reads. -/
def State.parkedReads (s : State) (h : U64) : List (Nat × Nat) :=
  ((((s.session? h).bind (·.latest)).map (fun i => s.reviveReads h i.root)).getD [])

/-- A park seal of the session, or the seal that makes it a FORK's child, is still in progress (R296). -/
def Session.parking (x : Session) : Bool := x.unborn || x.sealing.any (fun q => match q.cause with
  | .park _ _ _ => true
  | _ => false)

def State.parking (s : State) (h : U64) : Bool := (s.session? h).any Session.parking

/-- The record starts when the park seal completes. -/
def State.waitForPark (s : State) (h : U64) (id : Nat) : State :=
  s.modSession h (fun x => { x with after := x.after ++ [id] })

/-- A request that was admitted waits for the park seal and pins its versions from now on (R255). -/
def State.waitPinned (s : State) (h : U64) (id : Nat) (pins : List (Nat × Nat)) : State :=
  ({ s with running := updWhere (fun k => k.id == id) (fun k => { k with pins := pins }) s.running }).waitForPark h id

/-- The request was admitted before it waited: its version and its budget are not judged again. (Log entry 131: DEDUCED,
unsafe.) -/
def State.admitted (s : State) (id : Nat) : Bool := (s.running? id).any (fun k => !k.pins.isEmpty)

/-- The version of a handle of a request: the `i`th that it pinned when it was admitted, or the one that the handle
names now. -/
def State.admittedAs (s : State) (id i : Nat) (h : U64) : Option Version :=
  match (s.running? id).bind (fun k => k.pins[i]?) with
  | some k => s.version? k.1 k.2
  | none => s.resolve h

end Sys2Proof.Machine
end

