-- ==== Sys2Proof/Machine/Sessions.lean ====
section
/-!
DEFINITION. The session commands (10 R287 to R296, R308 to R315).
-/

namespace Sys2Proof.Machine

/-! ### Checks common to session commands -/

/-- Generation is offered: the base set and a Sheaf unit (Table 1-12). -/
def State.serviceGeneration (s : State) : Bool := s.serviceTables

/-- Step 5: the handle's tenant is the record's (R24). -/
def sessionHandleOk (r : Record) : Bool := handleTenant r.handle == r.tenant

/-- The handle is a FORK's child whose seal is not complete yet: until then it is no session of its own (R305, R310). -/
def State.unborn (s : State) (h : U64) : Bool := (s.session? h).any Session.unborn

/-- Checks from step 8 on: the first that fails completes the command with the session's state in byte 12
(R291, R315). A command for a FORK's child waits for the seal that makes it. (Log entries 29: DEDUCED, unsafe; 62:
DEDUCED, unsafe.) -/
def State.late (s : State) (r : Record) (id : Nat) (checks : List (Bool × Nat)) (k : State → State) : State :=
  let st := firstFailure checks
  if s.unborn r.handle then s.waitForPark r.handle id
  else if st == stOk then k s
  else (s.countRefusal r.tenant st).complete r id st (stateOnly (s.sessionState r.handle))

/-- The session of the record's handle, or an empty entry. -/
def State.sessionOf (s : State) (r : Record) : Session := (s.session? r.handle).getD (Session.blank r.handle)

/-- The session's version is loaded. -/
def State.sessionLoaded (s : State) (x : Session) : Bool := (s.versionOf x).any (fun v => v.state != 1)

/-- Present state is one of a list. (Log entry 29: DEDUCED, unsafe.) -/
def stateIn (s : State) (r : Record) (l : List Nat) : Bool := l.contains (s.sessionState r.handle)

/-- A PARKED session that a GENERATE (`want` 1) or RESUME (`want` 3) revives first (R295). -/
def State.implicitFor (s : State) (x : Session) (want : Nat) : Bool :=
  x.state == 4 && x.parkedFrom == want && (s.area (handleTenant x.handle)).implicitRevive

/-- The version that a run of the session pins. -/
def Session.pinned (x : Session) : List (Nat × Nat) := [(x.model, x.version)]

/-- Runs `k` on the session as it stands, or after the implicit revive; while the park seal is in progress
the command waits for it and pins its versions, and a revive that fails completes it. -/
def State.withRevive (s : State) (r : Record) (id : Nat) (pins : List (Nat × Nat)) (k : Bool → State → State) : State :=
  if s.sessionState r.handle != 4 then k false s
  else if s.parking r.handle then s.waitPinned r.handle id pins
  else
    let s := s.readSources (s.parkedReads r.handle)
    match s.reviveParked r.handle with
    | .fails st => (s.countRefusal r.tenant st).complete r id st (stateOnly 4)
    | .done s' _ _ _ => k true s'

/-! ### OPEN -/

/-- The loaded version that the operand names. -/
def openVersion (s : State) (r : Record) : Option Version := s.resolve (BitVec.ofNat 64 (r.fieldN 16 8))

def openMaxLen (s : State) (r : Record) (v : Version) : Nat :=
  if r.fieldN 24 4 = 0 then min (s.setting 0x5000 5) v.maxLen else r.fieldN 24 4

/-- A session of length 0 on a version. -/
def newSession (h : U64) (v : Version) (maxLen base : Nat) : Session :=
  let n := v.layerCount
  { Session.blank h with
    state := 1, model := v.model, version := v.version, maxLen := maxLen, changed := true, kvBase := base,
    kvBytes := v.kvBytes maxLen, modes := List.replicate n 0, fbPos := List.replicate n 0,
    clipTotal := List.replicate n 0, lastStep := List.replicate n (0, 0) }

def runOpen (r : Record) (id : Nat) (s : State) : State :=
  let v := openVersion s r
  let place := v.bind (fun v => s.kvPlace r.tenant (v.kvBytes (openMaxLen s r v)))
  s.late r id
    [(stateIn s r [0, 7], stWrongState), (v.isSome, stVersionGone), (place.isSome, stNoSpace),
     (s.hasRoom r.handle, stDirFull)] (fun s =>
      match v, place with
      | some v, some base =>
        let x := newSession r.handle v (openMaxLen s r v) base
        let s := (s.makeRoom r.handle).putSession (s.takeHandle x)
        s.complete r id stOk (sessionResult 1 0 (16777216 - s.granary.directory.length) 0 0)
      | _, _ => s)

def planOpen (r : Record) (s : State) : Plan :=
  let m : U64 := BitVec.ofNat 64 (r.fieldN 16 8)
  { reserved := handleReserved r.handle && modelReserved m && zeroBytes r 28 64,
    served := s.serviceGeneration, tenantOk := s.tenantOk r,
    checks := [(sessionHandleOk r, stDenied),
      (handleTenant m == r.tenant && modelNumber m != 0 && s.modelFor r.tenant (modelNumber m), stDenied),
      (r.fieldN 24 4 == 0 || (decide (64 ≤ r.fieldN 24 4) &&
        (openVersion s r).all (fun v => decide (r.fieldN 24 4 ≤ v.maxLen))), stBadParam)],
    run := runOpen r }

def execOpenSession (r : Record) (s : State) : Host.Outcome State Fault Refusal :=
  .next (s.record r 0x0500 planOpen)

/-! ### APPEND -/

structure AppendArgs where
  src : Nat
  text : Bool
  kind : Nat
  count : Nat
  deriving DecidableEq, Repr

def appendArgs (r : Record) : AppendArgs :=
  { src := r.fieldN 16 6, kind := r.fieldN 22 1, text := r.fieldN 22 1 == 1, count := r.fieldN 24 4 }

/-- The T2 range of the tokens or text. -/
def AppendArgs.range (a : AppendArgs) : Nat × Nat := (a.src, if a.text then a.count else 4 * a.count)

def appendOperandsOk (s : State) (a : AppendArgs) (least : Nat) : Bool :=
  decide (a.kind ≤ 1) && decide (least ≤ a.count ∧ a.count ≤ 2097152) &&
    (if a.text then t2Arg s a.src a.count 1 else t2Arg s a.src (4 * a.count) 4)

/-- Tokens that the source gives. -/
def appendTokens (s : State) (a : AppendArgs) (v : Version) : List Nat :=
  if a.text then (match v.vocab with
    | some voc => tokensOf voc (readBytes s.t2 a.src a.count)
    | none => [])
  else (List.range a.count).map (fun i => readLe s.t2 (a.src + 4 * i) 4)

/-- The checks after step 6 of appended tokens, which need the session's version. -/
def appendOk (s : State) (x : Session) (a : AppendArgs) : Bool :=
  match s.versionOf x with
  | none => true
  | some v =>
    let toks := appendTokens s a v
    (!a.text || v.vocab.isSome) && toks.all (fun t => decide (t < v.vocabSize)) &&
      (toks.isEmpty || decide (x.length + x.pending.toList.length + toks.length < x.maxLen))

/-- Counts of the Thresher for appended text (R188). -/
def State.countText (s : State) (t : Nat) (v : Version) (a : AppendArgs) : State :=
  match v.vocab with
  | some voc =>
    if a.text then
      let r := (tokeniseText voc 0 [] [] (readBytes s.t2 a.src a.count) true).1
      s.count t (fun c => { c with
        bytesIn := c.bytesIn + BitVec.ofNat 64 a.count,
        tokensOut := c.tokensOut + BitVec.ofNat 64 r.tokens.length,
        offending := c.offending + BitVec.ofNat 64 r.offending })
    else s
  | none => s

def runAppend (r : Record) (id : Nat) (s : State) : State :=
  let x := s.sessionOf r
  s.late r id
    [(stateIn s r [1], stWrongState), (s.sessionLoaded x, stVersionGone), (s.budgetOk r.tenant 8, stBudget)]
    (fun s =>
      match s.versionOf x with
      | none => s
      | some v =>
        let a := appendArgs r
        let s := (s.countText r.tenant v a).beginPrefill r.handle (appendTokens s a v) id
        if ((s.session? r.handle).bind (·.prefill)).isSome then s
        else (s.modSession r.handle (fun x => { x with state := 1 })).complete r id stOk
          (sessionResult 1 0 0 0 x.length))

def planAppend (r : Record) (s : State) : Plan :=
  let a := appendArgs r
  { reserved := handleReserved r.handle && zeroBytes r 23 24 && zeroBytes r 28 64,
    served := s.serviceGeneration && (!a.text || s.serviceText), tenantOk := s.tenantOk r,
    checks := [(sessionHandleOk r, stDenied), (appendOperandsOk s a 1, stBadParam),
      (appendOk s (s.sessionOf r) a, stBadParam)],
    run := runAppend r,
    sources := [a.range] }

def execAppend (r : Record) (s : State) : Host.Outcome State Fault Refusal :=
  .next (s.record r 0x0501 planAppend)

/-! ### GENERATE and RESUME -/

/-- The block at a T2 offset is good for the session's version; without one, as far as no version enters. -/
def State.paramsFor (s : State) (r : Record) (x : Session) (at_ : Nat) : Bool :=
  match s.versionOf x with
  | none => s.blockRanges (paramBlock s.t2 at_) && s.blockGrammar r.tenant (paramBlock s.t2 at_)
  | some v => s.blockOk r.tenant v (paramBlock s.t2 at_)

def generateState (s : State) (r : Record) : Bool :=
  stateIn s r [1] || s.implicitFor (s.sessionOf r) 1

def runGenerate (r : Record) (id : Nat) (s : State) : State :=
  s.late r id
    [(generateState s r, stWrongState), (s.sessionLoaded (s.sessionOf r), stVersionGone),
     (s.admitted id || s.budgetOk r.tenant 8, stBudget)]
    (fun s => s.withRevive r id (s.sessionOf r).pinned (fun implicit s =>
      s.beginRun r.handle (paramBlock s.t2 (r.fieldN 16 6)) id (s.cqOf r.ring) implicit none []))

def planGenerate (r : Record) (s : State) : Plan :=
  let x := s.sessionOf r
  let p := r.fieldN 16 6
  { reserved := handleReserved r.handle && zeroBytes r 22 64,
    served := s.serviceGeneration && (!(genParams (paramBlock s.t2 p)).needsVocab || s.serviceText),
    tenantOk := s.tenantOk r,
    checks := [(sessionHandleOk r, stDenied), (t2Arg s p 64 64, stBadParam),
      (s.paramsFor r x p, stBadParam), (x.state == 0 || x.state == 7 || x.pending.isSome, stBadParam)],
    run := runGenerate r,
    sources := [(p, 64)] }

def execGenerate (r : Record) (s : State) : Host.Outcome State Fault Refusal :=
  .next (s.record r 0x0502 planGenerate)

def resumeState (s : State) (r : Record) : Bool :=
  stateIn s r [3] || s.implicitFor (s.sessionOf r) 3

def runResume (r : Record) (id : Nat) (s : State) : State :=
  let x := s.sessionOf r
  let p := r.fieldN 32 6
  s.late r id
    [(resumeState s r, stWrongState), (s.sessionLoaded x, stVersionGone),
     (p != 0 || x.run.isSome, stBadParam), (s.admitted id || s.budgetOk r.tenant 8, stBudget)]
    (fun s => s.withRevive r id x.pinned (fun implicit s =>
      match s.versionOf x with
      | none => s
      | some v =>
        let a := appendArgs r
        let s := (s.countText r.tenant v a).beginPrefill r.handle (appendTokens s a v) id
        if p = 0 then s.continueRun r.handle id (s.cqOf r.ring) implicit
        else s.beginRun r.handle (paramBlock s.t2 p) id (s.cqOf r.ring) implicit none []))

def planResume (r : Record) (s : State) : Plan :=
  let a := appendArgs r
  let x := s.sessionOf r
  let p := r.fieldN 32 6
  let vocab := if p = 0 then x.run.any (fun k => (genParams k.params).needsVocab)
    else (genParams (paramBlock s.t2 p)).needsVocab
  { reserved := handleReserved r.handle && zeroBytes r 23 24 && zeroBytes r 28 32 && zeroBytes r 38 64,
    served := s.serviceGeneration && (!(a.text || vocab) || s.serviceText), tenantOk := s.tenantOk r,
    checks := [(sessionHandleOk r, stDenied), (appendOperandsOk s a 0, stBadParam),
      (p == 0 || t2Arg s p 64 64, stBadParam), (appendOk s x a, stBadParam),
      (p == 0 || s.paramsFor r x p, stBadParam),
      (x.state == 0 || x.state == 7 || x.pending.isSome || a.count != 0, stBadParam)],
    run := runResume r,
    sources := [a.range] ++ (if p = 0 then [] else [(p, 64)]) }

def execResume (r : Record) (s : State) : Host.Outcome State Fault Refusal :=
  .next (s.record r 0x0503 planResume)

/-! ### PARK -/

/-- PARK of a RUNNING session acts at the end of the step; after an earlier CLOSE it meets the closed session. (Log entry 57: DEDUCED, unsafe.) -/
def runPark (r : Record) (id : Nat) (s : State) : State :=
  let x := s.sessionOf r
  let drop := r.fieldN 16 1 == 1
  s.late r id [(stateIn s r [1, 2, 3], stWrongState)] (fun s =>
    if x.state == 2 then
      (if x.closeAtEnd.isEmpty then s.modSession r.handle (fun x => { x with parkAtEnd := x.parkAtEnd ++ [(id, drop)] })
       else s.waitForPark r.handle id)
    else (s.modSession r.handle (fun x => { x with state := 4, parkedFrom := x.state })).askSeal r.handle
      (.park [id] drop x.state))

def planPark (r : Record) (s : State) : Plan :=
  { reserved := handleReserved r.handle && r.fieldN 16 1 / 2 == 0 && zeroBytes r 17 64,
    served := s.serviceGeneration, tenantOk := s.tenantOk r,
    checks := [(sessionHandleOk r, stDenied)], run := runPark r }

def execPark (r : Record) (s : State) : Host.Outcome State Fault Refusal :=
  .next (s.record r 0x0504 planPark)

/-! ### REVIVE -/

def reviveMirror (r : Record) : Bool := r.fieldN 20 1 == 1

def State.mirrorEntry (s : State) (h : U64) : Option MirrorEntry :=
  s.granary.mirror.find? (fun e => e.session == h)

/-- A REVIVE is legal: in PARKED, and in none or CLOSED when it names a root or the mirror index. -/
def reviveState (s : State) (r : Record) : Bool :=
  stateIn s r [4] || (stateIn s r [0, 7] && (r.fieldN 16 4 != 0xFFFFFFFF || reviveMirror r))

/-- A successful revive consumes the handle's mirror entry. -/
def State.useMirror (s : State) (h : U64) : State :=
  { s with granary := { s.granary with mirror := s.granary.mirror.filter (fun e => e.session != h) } }

def runRevive (r : Record) (id : Nat) (s : State) : State :=
  let h := r.handle
  let x := s.sessionOf r
  let root := r.fieldN 16 4
  let mirror := reviveMirror r
  s.late r id
    [(reviveState s r, stWrongState),
     (x.state != 4 || mirror || root != 0xFFFFFFFF || s.sessionLoaded x, stVersionGone)] (fun s =>
      if s.parking h then s.waitForPark h id
      else
        let named := if mirror then (s.mirrorEntry h).map (·.root)
          else if root == 0xFFFFFFFF then x.latest.map (·.root) else some root
        let s := s.readSources ((named.map (s.reviveReads h)).getD [])
        let res := if mirror then (match s.mirrorEntry h with
            | some e => s.reviveFrom h e.root false
            | none => .fails stBadParam)
          else if root == 0xFFFFFFFF then s.reviveParked h
          else s.reviveFrom h root (x.latest.any (fun i => i.root == root && i.mirrored))
        match res with
        | .fails st => (s.countRefusal r.tenant st).complete r id st (stateOnly x.state)
        | .done s rt reads no =>
          let s := if mirror then s.useMirror h else s
          s.complete r id stOk (sessionResult (s.sessionState h) 0 rt reads no.toNat))

def planRevive (r : Record) (s : State) : Plan :=
  { reserved := handleReserved r.handle && r.fieldN 20 1 / 2 == 0 && zeroBytes r 21 64,
    served := s.serviceGeneration, tenantOk := s.tenantOk r,
    checks := [(sessionHandleOk r, stDenied),
      (!reviveMirror r || (r.fieldN 16 4 == 0xFFFFFFFF && (s.mirrorEntry r.handle).isSome), stBadParam)],
    run := runRevive r }

def execRevive (r : Record) (s : State) : Host.Outcome State Fault Refusal :=
  .next (s.record r 0x0505 planRevive)

/-! ### MOVE (R311) -/

/-- A PARKED session is sent as its latest seal stands. -/
def State.moveParked (s : State) (h : U64) (id rank : Nat) : State :=
  match s.session? h with
  | none => s
  | some x =>
    match x.latest with
    | none => s.completeId id stSealBad (stateOnly 4)
    | some i =>
      let q : Sealing := { Sealing.new (.move id rank 4) with
        taken := some i, written := i.entries.length, sent := true }
      let s := s.modSession h (fun x => { x with state := 6, sealing := q :: x.sealing })
      let s := s.readSources (i.entries.map (fun e => ((s.area (handleTenant h)).at_ e.place, 65536)))
      s.sendTo rank (fun p => .bulk p rank (.moved s.job.rank
        (s.movedSession h i.number 4 x.parkedFrom i.entries i.entries)))

def runMove (r : Record) (id : Nat) (s : State) : State :=
  let h := r.handle
  let x := s.sessionOf r
  let rank := r.fieldN 16 2
  s.late r id [(stateIn s r [1, 3, 4], stWrongState)] (fun s =>
    if x.state == 4 then (if s.parking h || s.moveBusy rank then s.waitForPark h id else s.moveParked h id rank)
    else (s.modSession h (fun x => { x with state := 6, parkedFrom := 0 })).askSeal h (.move id rank x.state))

def planMove (r : Record) (s : State) : Plan :=
  { reserved := handleReserved r.handle && zeroBytes r 18 64,
    served := s.serviceGeneration, tenantOk := s.tenantOk r,
    checks := [(sessionHandleOk r, stDenied),
      (decide (r.fieldN 16 2 < s.job.ranks) && r.fieldN 16 2 != s.job.rank, stBadParam)],
    run := runMove r }

def execMove (r : Record) (s : State) : Host.Outcome State Fault Refusal :=
  .next (s.record r 0x0506 planMove)

/-! ### FORK (R310) -/

def forkChildHandle (r : Record) : U64 := BitVec.ofNat 64 (r.fieldN 16 8)

/-- The child of a PARKED source: PARKED, with a manifest of its own; its seal completes as any does. -/
def State.forkParked (s : State) (h child : U64) (id : Nat) : State :=
  match s.session? h with
  | none => s
  | some x =>
    match x.latest with
    | none => s.completeId id stSealBad (stateOnly 4)
    | some i =>
      let c := s.childInfo child i.entries
      let mirror := s.mirrors (handleTenant h)
      let q : Sealing := { Sealing.new (.fork id child) with
        started := true, taken := some c.2.1, child := some c.2.1, written := c.2.2,
        places := (s.area (handleTenant child)).next c.2.2, writes := newWrites s c.1,
        awaits := if mirror then [(child, 1)] else [], mirror := mirror, epoch := s.epochs.epoch }
      let y := ({ x.childOf child x.length c.2.1 [] with kvBase := 0, kvBytes := 0, sealing := [q] }).from_
        (s.sessionState child)
      let s := { c.1 with epochs := { c.1.epochs with walks := c.1.epochs.walks ++ [c.1.epochs.epoch] } }
      let s := (s.makeRoom child).putSession (s.takeHandle y)
      if mirror then s.sendMirror child c.2.1 [] 4 else s

def runFork (r : Record) (id : Nat) (s : State) : State :=
  let h := r.handle
  let x := s.sessionOf r
  let child := forkChildHandle r
  let c := s.sessionState child
  let need := ceilDiv ((x.latest.map (fun i => i.entries.length)).getD 0) 818
  s.late r id
    [(stateIn s r [1, 3, 4], stWrongState), (c == 0 || c == 7, stWrongState),
     (s.hasRoom child, stDirFull)] (fun s =>
      if x.state == 4 then
        if s.parking h || decide (64 ≤ s.sealsStarted) || decide (65536 ≤ s.epochs.walks.length) ||
            !s.ivsOk need then
          s.waitForPark h id
        else if !(s.area r.tenant).takes need then
          (s.countRefusal r.tenant stNoSpace).complete r id stNoSpace (stateOnly 4)
        else s.forkParked h child id
      else s.askSeal h (.fork id child))

def planFork (r : Record) (s : State) : Plan :=
  { reserved := handleReserved r.handle && handleReserved (forkChildHandle r) && zeroBytes r 24 64,
    served := s.serviceGeneration, tenantOk := s.tenantOk r,
    checks := [(sessionHandleOk r, stDenied), (handleTenant (forkChildHandle r) == r.tenant, stDenied)],
    run := runFork r }

def execFork (r : Record) (s : State) : Host.Outcome State Fault Refusal :=
  .next (s.record r 0x0507 planFork)

/-! ### CLOSE -/

/-- CLOSE of a RUNNING session acts at the end of the step; after an earlier PARK it meets the parked session,
and waits for the park's seal (R296). (Log entry 57: DEDUCED, unsafe.) -/
def runClose (r : Record) (id : Nat) (s : State) : State :=
  let h := r.handle
  let x := s.sessionOf r
  s.late r id [(stateIn s r [1, 2, 3, 4], stWrongState)] (fun s =>
    if x.state == 2 then
      (if x.parkAtEnd.isEmpty then s.modSession h (fun x => { x with closeAtEnd := x.closeAtEnd ++ [id] })
       else s.waitForPark h id)
    else if x.state == 4 && s.parking h then s.waitForPark h id
    else (s.closeSession h).complete r id stOk (sessionResult 7 0 0 0 0))

def planClose (r : Record) (s : State) : Plan :=
  { reserved := handleReserved r.handle && zeroBytes r 16 64,
    served := s.serviceGeneration, tenantOk := s.tenantOk r,
    checks := [(sessionHandleOk r, stDenied)], run := runClose r }

def execClose (r : Record) (s : State) : Host.Outcome State Fault Refusal :=
  .next (s.record r 0x0508 planClose)

/-! ### SEAL -/

def runSeal (r : Record) (id : Nat) (s : State) : State :=
  s.late r id [(stateIn s r [1, 2, 3], stWrongState)] (fun s =>
    s.askSeal r.handle (.seal id (r.fieldN 16 1 == 1)))

def planSeal (r : Record) (s : State) : Plan :=
  { reserved := handleReserved r.handle && r.fieldN 16 1 / 2 == 0 && zeroBytes r 17 64,
    served := s.serviceGeneration, tenantOk := s.tenantOk r,
    checks := [(sessionHandleOk r, stDenied)], run := runSeal r }

def execSealSession (r : Record) (s : State) : Host.Outcome State Fault Refusal :=
  .next (s.record r 0x0509 planSeal)

/-! ### The automatic interval (R307) -/

/-- AUTOMATIC_SEAL: `seal_ms` has passed for a resident session that has changed. (Log entry 60: DEDUCED, unsafe.) -/
def State.autoSeal (s : State) (h : U64) : State :=
  match s.session? h with
  | none => s
  | some x =>
    if x.resident && x.changed && x.sealing.isEmpty && (s.area (handleTenant h)).sealMs != 0 then
      s.askSeal h .automatic
    else s

def execAutomaticSeal (session : U64) (s : State) : Host.Outcome State Fault Refusal :=
  .next (if s.faulted then s else s.autoSeal session)

end Sys2Proof.Machine
end

