-- ==== Sys2Proof/Machine/Serving.lean ====
section
/-!
DEFINITION. The retrieval front end (09 R270, R271), EMBED (R273), SAFEGUARD_READ (02 R64), and the end of a
seal with the commands that wait for it (10 R296, R305).
-/

namespace Sys2Proof.Machine

/-! ### Embeddings (R273) -/

/-- An item as the embedder takes it: tokens or BF16 rows. -/
inductive EmbedItem where
  | tokens (l : List Nat)
  | rows (l : List Byte)
  deriving DecidableEq, Repr

def EmbedItem.bytes : EmbedItem → List Byte
  | .tokens l => 0 :: l.flatMap (toLe 4)
  | .rows l => 1 :: l

/-- The embedding of an item: `out_dim` FP32 values. -/
def State.embed (s : State) (v : Version) (i : EmbedItem) : List U32 :=
  (List.range v.outDim).map (Config.embedding (s.which v) i.bytes)

/-! ### REQUEST (R270, R271) -/

/-- Operands and descriptor (Table 9-8). -/
structure ReqArgs where
  desc : Nat
  gen : Bool
  promptOut : Bool
  dest : Nat
  cap : Nat
  index : U64
  embed : U64
  rerank : U64
  template : U64
  query : Nat
  queryLen : Nat
  cand : Nat
  keep : Nat
  probesRaw : Nat
  widen : Nat
  filter : Filter
  nparts : Nat
  maxTokens : Nat
  parts : Nat
  rrLen : Nat
  trace : Nat
  block : Line
  deriving DecidableEq, Repr

def reqArgs (r : Record) (m : Mem) : ReqArgs :=
  let d := r.fieldN 16 6
  let f (o k : Nat) : Nat := readLe m (d + o) k
  let w (o : Nat) : U64 := BitVec.ofNat 64 (f o 8)
  { desc := d, gen := r.fieldN 22 1 % 2 == 1, promptOut := r.fieldN 22 1 / 2 % 2 == 1, dest := r.fieldN 24 6,
    cap := r.fieldN 32 4, index := w 0, embed := w 8, rerank := w 16, template := w 24, query := f 32 6,
    queryLen := f 40 4, cand := f 44 4, keep := f 48 4, probesRaw := f 52 2, widen := f 54 2,
    filter := ⟨f 56 8, f 64 8, f 72 4, f 76 4⟩, nparts := f 80 1, maxTokens := f 84 4, parts := f 88 6,
    rrLen := f 94 2, trace := f 96 6, block := paramBlock m (d + 128) }

/-- Reserved bytes of the descriptor. -/
def reqReservedOk (m : Mem) (d : Nat) : Bool :=
  zeroRange m (d + 38) 2 && zeroRange m (d + 81) 3 && zeroRange m (d + 102) 26 && zeroRange m (d + 192) 64

/-- A handle of the descriptor names a model that the tenant may use. -/
def State.descModel (s : State) (t : Nat) (h : U64) : Bool :=
  modelReserved h && handleTenant h == t && modelNumber h != 0 && s.modelFor t (modelNumber h)

/-- The slot's index is the tenant's or shared. -/
def State.descIndex (s : State) (t : Nat) (h : U64) : Bool :=
  indexReserved h && handleTenant h == t && slotVisible s (indexSlotOf h) t

def ReqArgs.reranks (a : ReqArgs) : Bool := a.rerank != 0

/-- Every field of the descriptor is in range. (Log entry 28: DEDUCED, unsafe.) -/
def reqFieldsOk (s : State) (t : Nat) (a : ReqArgs) : Bool :=
  let sl := s.slot (indexSlotOf a.index)
  reqReservedOk s.t2 a.desc && s.descIndex t a.index && s.descModel t a.embed &&
    (!a.reranks || s.descModel t a.rerank) &&
    textHandleReserved a.template && handleTenant a.template == t && s.templateFor t (textNumber a.template) &&
    decide (1 ≤ a.queryLen ∧ a.queryLen ≤ 16384) && t2Arg s a.query a.queryLen 1 &&
    decide (1 ≤ a.cand ∧ a.cand ≤ 1024) && decide (1 ≤ a.keep ∧ a.keep ≤ a.cand) &&
    decide (orDefault a.probesRaw sl.probes + a.widen ≤ 4096) && decide (a.widen ≤ 4095) &&
    a.filter.tag &&& a.filter.mask == a.filter.tag && decide (a.filter.lo ≤ a.filter.hi) &&
    decide (a.nparts ≤ 8) && decide (1 ≤ a.maxTokens ∧ a.maxTokens ≤ 2097152) &&
    t2Arg s a.parts (16 * a.nparts) 1 && decide (64 ≤ a.rrLen ∧ a.rrLen ≤ 512) &&
    (a.trace == 0 || t2Arg s a.trace (8 * (a.cand + a.keep)) 64) &&
    partsOk s a.parts a.nparts (s.templateOf a.template).vocab &&
    storeAgrees s (indexSlotOf a.index) t (s.templateOf a.template)

/-- Roles, dimension, vocabularies and the parameter block, of the versions that are loaded. (Log entry 28: DEDUCED, unsafe.) -/
def reqModelsOk (s : State) (r : Record) (a : ReqArgs) : Bool :=
  let sl := s.slot (indexSlotOf a.index)
  let e := s.resolve a.embed
  let g := if a.gen then s.versionOf (s.sessionOf r) else none
  e.all (fun v => v.role == 1 && v.vocab.isSome && (sl.state == 1 || v.outDim == sl.dim)) &&
    s.blockRanges a.block && s.blockGrammar r.tenant a.block &&
    g.all (fun w => w.role == 0 && s.blockOk r.tenant w a.block &&
      e.all (fun v => (w.vocab.map (·.digest)) == (v.vocab.map (·.digest)))) &&
    (!a.reranks || (s.resolve a.rerank).all (fun v => v.role == 2 && v.vocab.isSome))

/-- Every version that the descriptor or the session names is loaded. -/
def reqLoaded (s : State) (r : Record) (a : ReqArgs) : Bool :=
  (s.resolve a.embed).isSome && (!a.reranks || (s.resolve a.rerank).isSome) &&
    (!a.gen || s.sessionLoaded (s.sessionOf r))

/-- What the search stage finds (R271 step 3): best entries, buckets probed, units. -/
structure ReqSearch where
  best : List WEntry
  probed : Nat
  units : Nat
  deriving DecidableEq, Repr

/-- The search with an embedding; none when R78 refuses it. -/
def reqSearch (s : State) (t : Nat) (a : ReqArgs) (emb : List U32) : Option ReqSearch :=
  let i := indexSlotOf a.index
  let sl := s.slot i
  let p := s.partition i t
  if readsNoQuery sl p then some ⟨[], 0, 0⟩
  else
    let sa : SearchArgs :=
      { src := 0, fmt := 0, fmtRaw := 0, toDest := true, exact := false, dest := 0,
        probes := orDefault a.probesRaw sl.probes, k := a.cand, widen := a.widen, filter := a.filter }
    (prepare sl.metric emb).map (fun e =>
      let q := queryElems e
      let f := candidates sl p sa q
      ⟨selectBest a.cand (searchEntries sl (sl.metric == 2) q f).1, f.probed, if p.mode == 1 then ceilDiv p.live.length 2048 else f.probed⟩)

/-- A re-rank row (R271 step 4). -/
def rerankRow (a : ReqArgs) (eos : Nat) (query passage : List Nat) : List Nat :=
  (query ++ eos :: passage).take a.rrLen

/-- Scores of the candidates; one absent from the store scores −∞. -/
def rerankScores (s : State) (a : ReqArgs) (v : Version) (query : List Nat)
    (store : List (Nat × List Nat)) (l : List WEntry) : List (Nat × Nat) :=
  l.map (fun e => (e.index, (match store.find? (fun (p : Nat × List Nat) => p.1 == e.index) with
    | some p => Config.rerank (s.which v) (rerankRow a v.eosToken query p.2)
    | none => negInf).toNat))

/-- Encoder tokens of the re-rank rows, one row for each candidate of the store. -/
def rerankRows (a : ReqArgs) (query : List Nat) (store : List (Nat × List Nat)) (l : List WEntry) : List Nat :=
  l.filterMap (fun e => (store.find? (fun p => p.1 == e.index)).map (fun p => (rerankRow a 0 query p.2).length))

/-- Entries of a list in the form of R99, padded to `n`. -/
def listBytes (l : List WEntry) (smallest : Bool) (n : Nat) : List Byte :=
  l.flatMap (fun e => entryBytes 1 e.index e.key) ++
    (List.replicate (n - l.length) (entryBytes 1 padIndex (padKey 1 smallest))).flatten

/-- Result bytes 12 to 19 of a REQUEST: found, kept, prompt. -/
def reqFront (found kept prompt : Nat) : List Byte := toLe 2 found ++ toLe 2 kept ++ toLe 4 prompt

/-- The entries that a work item holds, as Winnow entries. -/
def FrontWork.entries (w : FrontWork) : List WEntry := w.best.map (fun e => ⟨0, e.1, e.2⟩)

def FrontWork.generates (w : FrontWork) : Bool := w.record.opcode == 0x0410 && w.record.fieldN 22 1 % 2 == 1

/-- Front-end work of a record: its rows wait for serving steps (R259). -/
def FrontWork.new (r : Record) (id : Nat) (ev : Version) (rv : Option Version) (rows query : List Nat)
    (prefixLen : Nat) : FrontWork :=
  { id := id, record := r, embedder := (ev.model, ev.version), ranker := rv.map (fun v => (v.model, v.version)),
    ranking := false, rows := rows, encoder := 0, units := 0, query := query, best := [], probed := 0,
    generation := 0, prefixLen := prefixLen }

/-- The front end of a request starts: the query is tokenised and counted (R188), and its row waits for a step (R271). With `gen` the
session runs from here on. (Log entry 100: DEDUCED, unsafe.) -/
def State.startFront (s : State) (r : Record) (id : Nat) (a : ReqArgs) (implicit : Bool) : State :=
  match s.admittedAs id 0 a.embed with
  | none => s
  | some ev =>
    let query := tokensOf (ev.vocab.getD Vocab.blank) (readBytes s.t2 a.query a.queryLen)
    let rv := if a.reranks then s.admittedAs id 1 a.rerank else none
    let w := FrontWork.new r id ev rv [query.length] query (s.sessionOf r).prefixLen
    let tk := (tokeniseText (ev.vocab.getD Vocab.blank) 0 [] [] (readBytes s.t2 a.query a.queryLen) true).1
    let s := ({ s with front := s.front ++ [w] }).count r.tenant (fun c => { c with
      bytesIn := c.bytesIn + BitVec.ofNat 64 a.queryLen,
      tokensOut := c.tokensOut + BitVec.ofNat 64 query.length,
      offending := c.offending + BitVec.ofNat 64 tk.offending })
    if a.gen then s.beginRun r.handle a.block id (s.cqOf r.ring) implicit (some (reqFront 0 0 0, toLe 8 0))
      (w.embedder :: w.ranker.toList)
    else s

def State.putFront (s : State) (w : FrontWork) : State :=
  { s with front := updWhere (fun (x : FrontWork) => x.id == w.id) (fun _ => w) s.front }

def State.removeFront (s : State) (id : Nat) : State :=
  { s with front := s.front.filter (fun w => w.id != id) }

/-- Front-end work ends with a status and generates nothing: a session that ran for it is as before (R271). -/
def State.failFront (s : State) (w : FrontWork) (status : Nat) : State :=
  let s := (s.removeFront w.id).countRefusal w.record.tenant status
  let s := s.completeId w.id status []
  if w.generates then
    let h := w.record.handle
    let c := (s.modSession h (fun x => { x with
      state := 1, run := none, automaton := none, prefixLen := w.prefixLen })).endCommands h false
    c.2.foldl (fun s d => s.completeDone [] d) c.1
  else s

/-- Units charged for a front end are returned (R271). -/
def State.uncharge (s : State) (w : FrontWork) : State :=
  (s.giveBack w.record.tenant w.units).modTenant w.record.tenant (fun x => { x with
    recentUnits := x.recentUnits - w.units,
    counts := { x.counts with
      units := x.counts.units - BitVec.ofNat 64 w.units,
      energyUnits := x.counts.energyUnits - BitVec.ofNat 64 w.units,
      inTokens := x.counts.inTokens - BitVec.ofNat 64 w.encoder } })

/-- The last stages of a request: order by re-rank score, packing, then its completion or its run (R271 steps 4 to
6). An empty prompt on a session without a pending token leaves nothing to run on. (Log entry 100: DEDUCED, unsafe.) -/
def State.packStage (s : State) (w : FrontWork) : State :=
  let r := w.record
  let t := r.tenant
  let a := reqArgs r s.t2
  let slot := indexSlotOf a.index
  let store := s.passagesOf slot t
  let rv := w.ranker.bind (fun k => s.version? k.1 k.2)
  let ranked := match rv with
    | some v => selectBest a.keep (validEntries 1 false (rerankScores s a v w.query store w.entries)).1
    | none => w.entries.take a.keep
  let x := s.sessionOf r
  let room := if a.gen then min a.maxTokens (x.maxLen - x.length - 1) else a.maxTokens
  let parts := (List.range a.nparts).map (readPart s.t2 a.parts)
  match packPrompt (s.templateOf a.template).items parts (ranked.map (·.index)) store room with
  | none => (s.uncharge w).failFront w stPackOver
  | some (fs, _) =>
    let toks := fs.flatMap Filled.out
    if a.gen && toks.isEmpty && x.pending.isNone then (s.uncharge w).failFront w stBadParam
    else
      let s := s.removeFront w.id
      let s1 := if a.trace = 0 then s
        else s.writeT2 a.trace (listBytes w.entries ((s.slot slot).metric == 2) a.cand ++
          (if a.reranks then listBytes ranked false a.keep else []))
      let s2 := if a.promptOut then s1.writeT2 a.dest (toks.flatMap (toLe 4)) else s1
      let front := reqFront w.best.length ranked.length toks.length
      let gen := toLe 8 w.generation.toNat
      if a.gen then
        (s2.beginPrefill r.handle toks w.id).modSession r.handle (fun x => { x with
          run := x.run.map (fun k => { k with front := some (front, gen) }) })
      else match s.running? w.id with
        | some k => s2.completeAfter (newWrites s s2) k.record w.id stOk (front ++ toLe 4 0 ++ gen)
        | none => s2

/-- The search stage, at the generation current now (R88), with the query's embedding: it counts in the partition that
it searches (R108). Re-rank rows wait for a step. (Log entry 100: DEDUCED, unsafe.) -/
def State.searchStage (s : State) (w : FrontWork) (ev : Version) : State :=
  let t := w.record.tenant
  let a := reqArgs w.record s.t2
  let slot := indexSlotOf a.index
  match reqSearch s t a (s.embed ev (.tokens w.query)) with
  | none => s.failFront w stBadParam
  | some f =>
    let p := s.partition slot t
    let s := (s.charge t f.units).putPartition { p with
      searches := p.searches + 1, probed := p.probed + BitVec.ofNat 64 f.probed }
    let rows := if w.ranker.isSome then rerankRows a w.query (s.passagesOf slot t) f.best else []
    let w := { w with
      best := f.best.map (fun e => (e.index, e.key)), probed := f.probed, units := w.units + f.units,
      generation := (s.partition slot t).generation, ranking := true, rows := rows }
    let s := s.putFront w
    if rows.isEmpty then s.packStage w else s

/-- Versions that a request pins while it waits: its embedder, its cross-encoder and the session's. -/
def reqPins (s : State) (id : Nat) (r : Record) (a : ReqArgs) : List (Nat × Nat) :=
  ((s.admittedAs id 0 a.embed).toList ++ (if a.reranks then s.admittedAs id 1 a.rerank else none).toList).map
    (fun v => (v.model, v.version)) ++ (s.sessionOf r).pinned

def runRequest (r : Record) (id : Nat) (s : State) : State :=
  let a := reqArgs r s.t2
  let st := firstFailure [(!a.gen || generateState s r, stWrongState),
    (s.admitted id || reqLoaded s r a, stVersionGone), (s.admitted id || s.budgetOk r.tenant 8, stBudget)]
  if a.gen && s.unborn r.handle then s.waitForPark r.handle id
  else if st != stOk then s.complete r id st []
  else if a.gen then s.withRevive r id (reqPins s id r a) (fun implicit s => s.startFront r id a implicit)
  else s.startFront r id a false

def State.serviceRequest (s : State) (gen : Bool) : Bool :=
  s.serviceSearch && s.serviceText && s.serviceTables && (!gen || s.serviceGeneration)

def planRequest (r : Record) (s : State) : Plan :=
  let a := reqArgs r s.t2
  { reserved := r.fieldN 22 1 / 4 == 0 && zeroBytes r 23 24 && zeroBytes r 30 32 && zeroBytes r 36 64 &&
      handleReserved r.handle,
    served := s.serviceRequest a.gen, tenantOk := s.tenantOk r,
    checks := [(!a.gen || sessionHandleOk r, stDenied), (a.gen || r.handle == 0, stBadParam),
      (t2Arg s a.desc 256 64, stBadParam),
      (!a.promptOut || (decide (a.maxTokens ≤ a.cap) && t2Arg s a.dest (4 * a.cap) 1), stBadParam),
      (reqFieldsOk s r.tenant a, stBadParam), (reqModelsOk s r a, stBadParam)],
    run := runRequest r,
    sources := [(a.desc, 256), (a.query, a.queryLen), (a.parts, 16 * a.nparts)] ++
      (List.range a.nparts).map (fun i => ((partAt s.t2 a.parts i).1, 4 * (partAt s.t2 a.parts i).2)) }

def execRequest (r : Record) (s : State) : Host.Outcome State Fault Refusal :=
  .next (s.record r 0x0410 planRequest)

/-! ### EMBED (R273) -/

structure EmbedArgs where
  src : Nat
  kind : Nat
  insert : Bool
  dest : Nat
  slot : Nat
  count : Nat
  len : Nat
  deriving DecidableEq, Repr

def embedArgs (r : Record) : EmbedArgs :=
  { src := r.fieldN 16 6, kind := r.fieldN 22 1, insert := r.fieldN 23 1 == 1, dest := r.fieldN 24 6,
    slot := r.fieldN 30 1, count := r.fieldN 32 4, len := r.fieldN 36 4 }

/-- Bytes of one item. -/
def EmbedArgs.itemBytes (a : EmbedArgs) (v : Version) : Nat :=
  if a.kind == 0 then a.len else if a.kind == 1 then 4 * a.len
  else 2 * a.len * Config.inputWidth v.digest.toNat

def EmbedArgs.item (a : EmbedArgs) (m : Mem) (v : Version) (i : Nat) : EmbedItem :=
  let at_ := a.src + i * a.itemBytes v
  if a.kind == 0 then .tokens (tokensOf (v.vocab.getD Vocab.blank) (readBytes m at_ a.len))
  else if a.kind == 1 then .tokens ((List.range a.len).map (fun j => readLe m (at_ + 4 * j) 4))
  else .rows (readBytes m at_ (a.itemBytes v))

/-- Encoder tokens of an item. -/
def EmbedArgs.units (a : EmbedArgs) : EmbedItem → Nat
  | .tokens l => l.length
  | .rows _ => a.len

/-- Embeddings of all items. -/
def State.embedAll (s : State) (a : EmbedArgs) (v : Version) : List (List U32) :=
  (List.range a.count).map (fun i => s.embed v (a.item s.t2 v i))

/-- A prepared vector with its metadata, from an embedding (R94, R78). -/
def embedVec (m : Mem) (sl : IndexSlot) (attrs : Nat) (e : Nat) (xs : List U32) : Option (Vec × Nat) :=
  let o := attrs + 16 * e
  (prepare sl.metric xs).map (fun p =>
    let st := storeElems sl.format p
    (Vec.mk (readLe m o 4) (BitVec.ofNat 32 (readLe m (o + 4) 4)) (BitVec.ofNat 64 (readLe m (o + 8) 8)) st.1,
      st.2))

def State.embedVecs (s : State) (a : EmbedArgs) (v : Version) : List (Option (Vec × Nat)) :=
  let sl := fixedSlot (s.slot a.slot) v.outDim
  (s.embedAll a v).mapIdx (embedVec s.t2 sl a.dest)

def embedOperandsOk (s : State) (a : EmbedArgs) (v : Option Version) : Bool :=
  decide (a.kind ≤ 2) && decide (1 ≤ a.count ∧ a.count ≤ 65536) && decide (1 ≤ a.len ∧ a.len ≤ 16384) &&
    (if a.kind == 1 then a.src % 4 == 0 else true) &&
    (match v with
     | some v => s.t2Ok a.src (a.count * a.itemBytes v) && !s.inWindow a.src (a.count * a.itemBytes v) &&
        (if a.insert then t2Arg s a.dest (16 * a.count) 64 else t2Arg s a.dest (4 * a.count * v.outDim) 1)
     | none => true)

/-- The version is an embedder, has a vocabulary for text, fits the index, and no metadata entry has the number
0xFFFF_FFFF. -/
def embedModelOk (s : State) (a : EmbedArgs) (v : Option Version) : Bool :=
  match v with
  | none => true
  | some v =>
    let sl := s.slot a.slot
    v.role == 1 && (a.kind != 0 || v.vocab.isSome) &&
      (!a.insert || ((if sl.state == 1 then dimOk v.outDim else v.outDim == sl.dim) &&
        (List.range a.count).all (fun e => readLe s.t2 (a.dest + 16 * e) 4 != 0xFFFFFFFF)))

/-- Entries of an insert before the embeddings are known: their sizes alone count. -/
def embedShape (a : EmbedArgs) (dim : Nat) : List DeltaEntry :=
  List.replicate a.count (.insert (Vec.mk 0 0 0 (List.replicate dim 0)))

/-- The insert's quota and limits, checked at the start and again when the embeddings are there. -/
def State.embedLimits (s : State) (t : Nat) (a : EmbedArgs) (dim : Nat) : List (Bool × Nat) :=
  let sl := s.slot a.slot
  let p := s.partition a.slot t
  let new := if a.insert then embedShape a dim else []
  [(!a.insert || s.t1Fits t (addedDeltaBales (fixedSlot sl dim) p.delta new), stNoSpace),
   (!a.insert || decide (p.delta.length < sl.deltaMax), stDeltaFull),
   (!a.insert || decide (s.vectorCount + a.count ≤ 2147483648), stIndexFull)]

/-- Counts of the Thresher for text items (R188). -/
def State.countItems (s : State) (t : Nat) (a : EmbedArgs) (v : Version) : State :=
  if a.kind == 0 then
    let rs := (List.range a.count).map (fun i => (tokeniseText (v.vocab.getD Vocab.blank) 0 [] []
      (readBytes s.t2 (a.src + i * a.len) a.len) true).1)
    s.count t (fun c => { c with
      bytesIn := c.bytesIn + BitVec.ofNat 64 (a.count * a.len),
      tokensOut := c.tokensOut + BitVec.ofNat 64 (sumOf (fun x => x.tokens.length) rs),
      offending := c.offending + BitVec.ofNat 64 (sumOf (fun x => x.offending) rs) })
  else s

/-- Every row of an EMBED has run: the embeddings are written, or inserted as VEC_INSERT would. An insert that is
refused then has no effect. (Log entry 100: DEDUCED, unsafe.) -/
def State.endEmbed (s : State) (w : FrontWork) (v : Version) : State :=
  let r := w.record
  let t := r.tenant
  let a := embedArgs r
  if a.insert then
    let got := (s.embedVecs a v).filterMap (fun x => x)
    let sl := fixedSlot (s.slot a.slot) v.outDim
    let st := firstFailure ((decide (got.length = a.count) &&
      (if (s.slot a.slot).state == 1 then dimOk v.outDim else v.outDim == (s.slot a.slot).dim), stBadParam) ::
        s.embedLimits t a v.outDim)
    if st != stOk then s.failFront w st
    else
      let s := s.removeFront w.id
      let p := s.partition a.slot t
      let delta := p.delta ++ got.map (fun x => DeltaEntry.insert x.1)
      let s1 := (s.modSlot a.slot (fun _ => sl)).putPartition { p with
        delta := delta, clippedIn := p.clippedIn + BitVec.ofNat 64 (sumOf (·.2) got) }
      (s1.notePeaks t).completeId w.id stOk
        (toLe 4 a.count ++ toLe 4 0 ++ toLe 4 delta.length ++ toLe 8 p.generation.toNat)
  else
    let s0 := s.removeFront w.id
    let s1 := s0.writeT2 a.dest ((s.embedAll a v).flatMap (fun xs => xs.flatMap (fun x => toLe 4 x.toNat)))
    match s.running? w.id with
    | some k => s1.completeAfter (newWrites s0 s1) k.record w.id stOk (toLe 4 a.count)
    | none => s1

/-- EMBED is admitted: its items are tokenised and counted (R188), and their rows wait for serving steps. -/
def runEmbed (r : Record) (id : Nat) (s : State) : State :=
  let a := embedArgs r
  match s.resolve r.handle with
  | none => s.complete r id stVersionGone []
  | some v =>
    let rows := (List.range a.count).map (fun i => a.units (a.item s.t2 v i))
    ({ s with front := s.front ++ [FrontWork.new r id v none rows [] 0] }).countItems r.tenant a v

def planEmbed (r : Record) (s : State) : Plan :=
  let a := embedArgs r
  let v := s.resolve r.handle
  { reserved := modelReserved r.handle && r.fieldN 23 1 / 2 == 0 && zeroBytes r 31 32 && zeroBytes r 40 64,
    served := s.serviceBase && (decide (2 ≤ a.kind) || s.serviceTables) && (a.kind != 0 || s.serviceText),
    tenantOk := s.tenantOk r,
    checks := [(modelHandleOk s r, stDenied), (!a.insert || slotVisible s a.slot r.tenant, stDenied),
      (embedOperandsOk s a v, stBadParam), (embedModelOk s a v, stBadParam), (v.isSome, stVersionGone)] ++
      s.embedLimits r.tenant a ((v.map (·.outDim)).getD 0) ++ [(s.budgetOk r.tenant 8, stBudget)],
    run := runEmbed r,
    sources := match v with
      | some v => [(a.src, a.count * a.itemBytes v)] ++ (if a.insert then [(a.dest, 16 * a.count)] else [])
      | none => [] }

def execEmbed (r : Record) (s : State) : Host.Outcome State Fault Refusal :=
  .next (s.record r 0x0420 planEmbed)

/-! ### The front-end batch at a step's end (R259, R271, R276) -/

/-- Every row of the work's stage has run: what follows. -/
def State.stageDone (s : State) (w : FrontWork) : State :=
  if w.ranking then s.packStage w
  else match s.version? w.embedder.1 w.embedder.2 with
    | none => s.failFront w stVersionGone
    | some v => if w.record.opcode == 0x0420 then s.endEmbed w v else s.searchStage w v

/-- Rows of one work that the step carried: their encoder tokens are charged. -/
def State.endRows (s : State) (e : Nat × List Nat) : State :=
  match s.front.find? (fun w => w.id == e.1) with
  | none => s
  | some w =>
    let n := sumOf (fun x => x) e.2
    let t := w.record.tenant
    let w := { w with encoder := w.encoder + n, units := w.units + n }
    let s := ((s.settle t n n).count t (fun c => { c with inTokens := c.inTokens + BitVec.ofNat 64 n })).putFront w
    if w.rows.isEmpty then s.stageDone w else s

def State.endFront (s : State) (o : OpenStep) : State :=
  let s := o.front.foldl State.endRows s
  { s with step := s.step.map (fun (o : OpenStep) => { o with front := [] }) }

/-! ### SAFEGUARD_READ (R64) -/

/-- Flags of a layer of a session: fallback, reserve by R58, reserve by R59. -/
def safeguardFlags (x : Session) (v : Version) (l : Nat) : Nat :=
  (x.modes.getD l 0).toNat + (if (v.layers[l]?).any (·.route) then 4 else 0)

def safeguardEntry (x : Session) (v : Version) (l : Nat) : List Byte :=
  let c := x.lastStep.getD l (0, 0)
  toLe 8 c.1.toNat ++ toLe 8 c.2.toNat ++ toLe 8 (x.clipTotal.getD l 0).toNat ++ toLe 2 l ++
    toLe 1 (safeguardFlags x v l) ++ List.replicate 5 0

/-- SAFEGUARD_READ (R64); a session whose version has been freed answers VERSION_GONE. (Log entry 137: DESIGN CHOICE,
unsafe.) -/
def runSafeguardRead (r : Record) (id : Nat) (s : State) : State :=
  let x := s.sessionOf r
  match s.versionOf x with
  | none => s.complete r id stVersionGone []
  | some v =>
    let ls := (List.range (r.fieldN 26 2)).map (fun i => r.fieldN 24 2 + i)
    let s1 := s.writeT2 (r.fieldN 16 8) (ls.flatMap (safeguardEntry x v))
    let flags := ls.map (safeguardFlags x v)
    s1.completeAfter (newWrites s s1) r id stOk
      (toLe 2 ls.length ++ toLe 2 (flags.filter (fun f => f % 2 == 1)).length ++
        toLe 2 (flags.filter (fun f => f / 2 != 0)).length)

def planSafeguardRead (r : Record) (s : State) : Plan :=
  let n := r.fieldN 26 2
  let first := r.fieldN 24 2
  { reserved := handleReserved r.handle && zeroBytes r 28 64, served := s.serviceGeneration,
    tenantOk := s.tenantOk r,
    checks := [(sessionHandleOk r, stDenied),
      (decide (1 ≤ n ∧ n ≤ 1024) && t2Arg s (r.fieldN 16 8) (32 * n) 64 &&
        (s.versionOf (s.sessionOf r)).all (fun v => decide (first + n ≤ v.layerCount)), stBadParam),
      ((s.session? r.handle).any Session.resident, stWrongState),
      (s.budgetOk r.tenant 8, stBudget)],
    run := runSafeguardRead r }

def execSafeguardRead (r : Record) (s : State) : Host.Outcome State Fault Refusal :=
  .next (s.record r 0x0480 planSafeguardRead)

/-! ### SEAL_COMPLETE (R296, R305) -/

/-- A record that waited for a park seal starts its session command now. -/
def State.startWaiting (s : State) (id : Nat) : State :=
  match s.running? id with
  | none => s
  | some x =>
    let r := x.record
    match r.opcode with
    | 0x0500 => runOpen r id s
    | 0x0501 => runAppend r id s
    | 0x0502 => runGenerate r id s
    | 0x0503 => runResume r id s
    | 0x0504 => runPark r id s
    | 0x0505 => runRevive r id s
    | 0x0506 => runMove r id s
    | 0x0507 => runFork r id s
    | 0x0508 => runClose r id s
    | 0x0509 => runSeal r id s
    | 0x0410 => runRequest r id s
    | _ => s

/-- The records that waited for a session's park seal, in order. -/
def State.startAfter (s : State) (h : U64) : State :=
  match s.session? h with
  | none => s
  | some x =>
    if x.parking then s
    else (x.after.foldl State.startWaiting ((s.modSession h (fun x => { x with after := [] })).dropNone h)).freeRetired

/-- Records that wait for a park seal that is no longer in progress start. -/
def State.startWaiters (s : State) : State :=
  ((s.granary.directory.filter (fun x => !x.after.isEmpty)).map (·.handle)).foldl
    (fun s h => s.startAfter h) s

/-- A seal that has completed ends, and what waited for it starts. -/
def State.sealComplete (s : State) (h : U64) : State :=
  match (s.session? h).bind (fun x => x.sealing.head?) with
  | some q => if s.sealDone q then (s.endSeal h).startAfter h else s
  | none => s

end Sys2Proof.Machine
end

