-- ==== Sys2Proof/Machine/Jobs.lean ====
section
/-!
DEFINITION. Jobs (09 R247 to R251; 16 R456; 15 R436, R439; 13 R395, R396): loading a manifest, the default
job, and the end of a job.
-/

namespace Sys2Proof.Machine

/-! ### The manifest (Table 9-1) -/

/-- Header and entries of a job manifest. -/
structure Manifest where
  rank : Nat
  ranks : Nat
  jobId : U64
  tenants : List Tenant
  deriving DecidableEq, Repr

/-- A tenant as a job load makes it: its level is `burst`, its key drawn, its counts zero. -/
def Tenant.fresh (number prio : Nat) (pad : Bool) (rate burst : U32) (q : Nat × Nat × Nat) : Tenant :=
  { number := number, prio := prio, pad := pad, rate := rate, burst := burst, slowAlert := 0, qT0 := q.1,
    qT1 := q.2.1, qT2 := q.2.2, level := burst.toNat, frac := 0, eosOnEmpty := false, showSpecials := false,
    key := none, keySrc := 0, recentUnits := 0, slowActual := 0, slowModelled := 0, counts := Counts.zero }

def jobEntryAt (a i : Nat) : Nat := a + 64 + 64 * i

def manifestTenant (m : Mem) (a i : Nat) : Tenant :=
  let e := jobEntryAt a i
  Tenant.fresh (readLe m e 2) (readLe m (e + 2) 1) ((memGet m (e + 3)).getLsbD 0)
    (BitVec.ofNat 32 (readLe m (e + 4) 4)) (BitVec.ofNat 32 (readLe m (e + 8) 4))
    (readLe m (e + 16) 4, readLe m (e + 20) 4, readLe m (e + 24) 4)

def manifestCount (m : Mem) (a : Nat) : Nat := readLe m (a + 2) 2

def readManifestJob (m : Mem) (a : Nat) : Manifest :=
  { rank := readLe m (a + 4) 2, ranks := readLe m (a + 6) 2, jobId := BitVec.ofNat 64 (readLe m (a + 8) 8),
    tenants := (List.range (manifestCount m a)).map (manifestTenant m a) }

/-- Tenants with implicit revive (flags bit 1). -/
def manifestImplicit (m : Mem) (a : Nat) : List Nat :=
  ((List.range (manifestCount m a)).filter (fun i => (memGet m (jobEntryAt a i + 3)).getLsbD 1)).map
    (fun i => readLe m (jobEntryAt a i) 2)

def manifestEntryOk (m : Mem) (a i : Nat) : Bool :=
  let e := jobEntryAt a i
  decide (readLe m e 2 < 4096) && decide (readLe m (e + 2) 1 ≤ 7) && decide (readLe m (e + 3) 1 < 4) &&
    decide (1 ≤ readLe m (e + 8) 4) && zeroRange m (e + 12) 4 && zeroRange m (e + 28) 36

/-- Table 9-1: kind, ranges, reserved bytes, tenants unique. -/
def manifestOk (m : Mem) (a : Nat) : Bool :=
  let n := manifestCount m a
  readLe m a 2 == 0x0090 && decide (1 ≤ n ∧ n ≤ 4096) && decide (1 ≤ readLe m (a + 6) 2 ∧ readLe m (a + 6) 2 ≤ 4096) &&
    decide (readLe m (a + 4) 2 < readLe m (a + 6) 2) && zeroRange m (a + 16) 48 &&
    (List.range n).all (manifestEntryOk m a) &&
    ((List.range n).map (fun i => readLe m (jobEntryAt a i) 2)).eraseDups.length == n

/-! ### The job's end (R250) -/

/-- Every route's `tenant` selector takes a value and the others their defaults (R456). -/
def State.resetSelectors (s : State) (tenant : Nat) : State :=
  { s with dict := { s.dict with
      selectors := if tenant = 0 then [] else [((0, 0x3000, 1), tenant), ((1, 0x3000, 1), tenant)] } }

/-- Every power balance goes (R503). -/
def State.dropBalances (s : State) : State :=
  { s with ports := s.ports.map (fun (p : PeerPort) => { p with balance := 0, report := none }) }

/-- A completion of a record waits only for WR_ACKs or a place. -/
def State.handedOver (s : State) (ring id : Nat) : Bool :=
  s.link.deferred.any (fun d => match d.write with
    | .completion p => p.done == some (ring, id)
    | .producer _ _ => false)

/-- Runs and prefills still in progress end with the stop status JOB_ENDED (R250 step 2). -/
def State.stopRuns (s : State) : State :=
  let hs := sortBy (fun (a b : U64) => decide (a.toNat ≤ b.toNat))
    ((s.granary.directory.filter (fun x => x.state == 2)).map (·.handle))
  let a := hs.foldl (fun (a : Ending) h =>
    State.endSeq [] [] a ⟨h, none, StepSeq.stopped h stJobEnded 0⟩) ⟨s, [], []⟩
  a.ds.foldl (fun s d => s.completeDone a.es d) (a.s.postOutputs s.job.steps a.es)

/-- Records that have started and not completed, all but `keep`, complete with JOB_ENDED. -/
def State.stopRecords (s : State) (keep : Nat) : State :=
  (s.running.filter (fun r => r.id != keep && !s.handedOver r.record.ring r.id)).foldl
    (fun s r => s.complete r.record r.id stJobEnded []) s

/-- Records taken but not started, diagnostic ones excepted, complete with JOB_ENDED (R250 step 1). Their places are
free for the fetcher (R17). -/
def State.stopTaken (s : State) : State :=
  let out := (List.range 64).flatMap (fun n =>
    (s.cmdRing n).taken.filter (fun r => !diagnostic r.opcode))
  let s := { s with cmdRings := s.cmdRings.map (fun (r : CmdRing) => r.keepTaken (fun x => diagnostic x.opcode)) }
  (out.foldl (fun s r => s.complete r 0 stJobEnded (s.refusalResult r stJobEnded)) s).serveAll

/-- The job is gone: everything it holds is freed, its tenants and keys with it (R250 steps 3 and 4,
R439, R456, R503). The seal areas stay (R304). (Log entry 30: DEDUCED, unsafe.) -/
def State.freeJob (s : State) : State :=
  let s := ({ s.endObjects with
    sheaf := Sheaf.reset, slots := Vector.replicate 16 IndexSlot.empty, tenants := [] }).dropBalances
  (({ s with
    granary := { s.granary with mirror := [] },
    pairing := { s.pairing with mirroredOnce := [] },
    job := { s.job with state := 0, ending := none } }).resetSelectors 0)

/-- What a neighbour has reported makes the port foreign (R395). Port 7 leads to whatever rank reports. -/
def State.portForeign (s : State) (p : Nat) : Bool :=
  let x := s.port p
  p != 0 && s.job.state != 0 && x.nbrRank != 0xFFFF &&
    (x.nbrJob != s.job.jobId || (p != 7 && x.nbrRank != expectedRank s.job.dims s.job.rank p))

/-- `up` or `foreign` by the neighbour's report. A port whose neighbour is not in the job is no slack port, and its
balance goes (R503). -/
def State.judgePort (s : State) (p : Nat) : State :=
  if (s.port p).state == 2 || (s.port p).state == 3 then
    let f := s.portForeign p
    let s := s.movePort p (fun x => { x with state := if f then 3 else 2 })
    if s.nbrInJob p then s else s.modPort p (fun x => { x with balance := 0, report := none })
  else s

/-- What the module reports of its job. -/
def State.ownJob (s : State) : Option (U64 × Nat) :=
  if s.job.state == 0 then none else some (s.job.jobId, s.job.rank)

/-- Tells the other end of a trained port. -/
def State.advertise (s : State) (p : Nat) : State :=
  if (s.port p).state == 2 || (s.port p).state == 3 then s.send (.advertise p s.ident.serial s.ownJob) else s

/-- Every port is judged by the module's job and tells its neighbour of it (R395). -/
def State.reportJob (s : State) : State :=
  [1, 2, 3, 4, 5, 6, 7].foldl (fun s p => (s.judgePort p).advertise p) s

/-- A foreign port on a route of the job raises the peer link fault (R397). -/
def State.routeCheck (s : State) : State :=
  if [1, 2, 3, 4, 5, 6, 7].any (fun p => (s.port p).state == 3 && s.onRoute p) then s.raiseFault srcPeer else s

/-- The grace time is over, or nothing of the job runs any more. -/
def State.finishJob (s : State) : State :=
  match s.job.ending with
  | none => s
  | some id =>
    let s := ((s.stopRuns).stopRecords id).freeJob.reportJob
    s.completeId id stOk []

/-- Nothing of the job runs but JOB_END itself. (Log entry 63: DEDUCED, unsafe.) -/
def State.jobDrained (s : State) : Bool :=
  match s.job.ending with
  | none => false
  | some id => s.running.all (fun r => r.id == id || diagnostic r.record.opcode)

/-- A job that is ending ends as soon as nothing of it runs. (Log entry 63: DEDUCED, unsafe.) -/
def State.finishDrained (s : State) : State :=
  if s.job.state == 3 && s.jobDrained && !s.faulted then s.finishJob else s

/-! ### JOB_END and GRACE_EXPIRY -/

def runJobEnd (r : Record) (id : Nat) (s : State) : State :=
  let s := ({ s with job := { s.job with state := 3, ending := some id } }).stopTaken
  if r.fieldN 16 2 = 0 then s.finishJob else s.finishDrained

def planJobEnd (r : Record) (s : State) : Plan :=
  { reserved := zeroBytes r 18 64, served := s.serviceBase,
    tenantOk := s.moduleRing r && s.job.state != 0,
    checks := [(decide (r.fieldN 16 2 ≤ 60000), stBadParam)],
    run := runJobEnd r }

def execJobEnd (r : Record) (s : State) : Host.Outcome State Fault Refusal :=
  .next (s.record r 0x0401 planJobEnd)

/-- GRACE_EXPIRY: `grace_ms` has passed. -/
def execGraceExpiry (s : State) : Host.Outcome State Fault Refusal :=
  .next (if s.job.state == 3 && !s.faulted then s.finishJob else s)

/-! ### Loading a job (R248, R249) -/

/-- Tenants with their local keys drawn from the partition's random source (R436). -/
def withKeys (n : Nat) (ts : List Tenant) : List Tenant :=
  ts.mapIdx (fun i (t : Tenant) => { t with key := some ⟨Config.random (n + i), false⟩ })

/-- Settings that a job load takes up (R217, R257, R401). -/
def State.nextJobSettings (s : State) : State :=
  { s with job := { s.job with
      workMib := s.setting 0x2100 1, loftMib := s.setting 0x5010 1,
      dims := (s.setting 0x1118 1, s.setting 0x1118 2, s.setting 0x1118 3) } }

/-- The job of a manifest begins. -/
def State.installJob (s : State) (state : Nat) (m : Manifest) : State :=
  let s := s.nextJobSettings
  let n := m.tenants.length
  let s := ({ s with
    tenants := withKeys s.draws m.tenants,
    sheaf := Sheaf.reset,
    sync := { s.sync with tallies := [], slackUs := 0, barriers := Vector.replicate 64 Barrier.reset },
    power := { s.power with jobNj := 0, unassignedNj := 0 },
    job := { s.job with
      state := state, jobId := m.jobId, rank := m.rank, ranks := m.ranks, ending := none, started := 0,
      steps := 0, tokens := 0, nanLogits := 0, restarts := 0 } }).drew n
  ((s.dropBalances).resetSelectors (((m.tenants.map (·.number)).min?).getD 0)).reportJob

/-- Implicit revive of the tenants' seal area settings, as the manifest gives it. -/
def State.setImplicit (s : State) (ts on : List Nat) : State :=
  ts.foldl (fun s t => s.modArea t (fun (a : SealArea) => { a with implicitRevive := on.contains t })) s

/-- Quota sums stay within the capacities in service. -/
def State.quotasFit (s : State) (ts : List Tenant) : Bool :=
  decide (sumOf (·.qT0) ts ≤ s.t0Capacity) && decide (sumOf (·.qT1) ts ≤ s.t1Capacity) &&
    decide (sumOf (·.qT2) ts ≤ s.t2Capacity)

/-- The default job ends as JOB_END with `grace_ms` 0 would end it; the record `id` goes on. -/
def State.endDefault (s : State) (id : Nat) : State :=
  if s.job.state == 1 then
    ((({ s with job := { s.job with state := 3 } }).stopTaken.stopRuns).stopRecords id).freeJob
  else s

def runJobLoad (r : Record) (id : Nat) (s : State) : State :=
  let a := r.fieldN 16 6
  let m := readManifestJob s.t2 a
  let on := manifestImplicit s.t2 a
  let s := ((s.endDefault id).installJob 2 m).setImplicit (m.tenants.map (·.number)) on
  (s.completeId id stOk []).routeCheck

/-- Bytes of the manifest's header and entries. -/
def manifestBytes (m : Mem) (a : Nat) : Nat := 64 + 64 * manifestCount m a

def planJobLoad (r : Record) (s : State) : Plan :=
  let a := r.fieldN 16 6
  let n := r.fieldN 24 4
  let m := readManifestJob s.t2 a
  let t := s.nextJobSettings
  { reserved := zeroBytes r 22 24 && zeroBytes r 28 64, served := s.serviceBase, tenantOk := s.moduleRing r,
    checks := [
      (decide (128 ≤ n ∧ n ≤ 262208) && t2Arg s a n 4096, stBadParam),
      (decide (manifestBytes s.t2 a ≤ n) && manifestOk s.t2 a, stBadParam),
      (decide (m.ranks ≤ 1) || t.job.dims.1 * t.job.dims.2.1 * t.job.dims.2.2 == m.ranks, stBadParam),
      (t.quotasFit m.tenants, stNoSpace),
      (decide (s.job.state ≤ 1) && s.tiers.mode != 2, stWrongState)],
    run := runJobLoad r,
    sources := [(a, manifestBytes s.t2 a)] }

def execJobLoad (r : Record) (s : State) : Host.Outcome State Fault Refusal :=
  .next (s.record r 0x0400 planJobLoad)

/-- The default job at the end of start-up: tenant 0 with all capacity, and the default index (R249). -/
def State.loadDefaultJob (s : State) : State :=
  let s := s.nextJobSettings
  let t := Tenant.fresh 0 0 false 0xFFFFFFFF 0xFFFFFFFF (s.t0Capacity, s.t1Capacity, s.t2Capacity)
  let s := s.installJob 1 { rank := 0, ranks := 1, jobId := 0, tenants := [t] }
  s.modSlot 0 (fun _ => s.defaultIndex)

end Sys2Proof.Machine
end

