-- ==== Sys2Proof/Machine/Boundary.lean ====
section
/-!
DEFINITION. The close of a table boundary with the snapshots it takes (05 R133, R134; 10 R297), and the end of
a serving step (08 R220, R238).
-/

namespace Sys2Proof.Machine

/-! ### Table boundaries (R133, R134, R297) -/

/-- A boundary that is due closes when it can, and the snapshots of the seals that wait are taken. -/
def State.closeOne (s : State) : State :=
  if s.sheaf.due && s.boundaryReady then s.flip.snapshots.startWaiters else s

/-- The boundary that is due closes when it can, and the one of a step that ended meanwhile after it. -/
def State.closeDue (s : State) : State :=
  let t := s.closeOne
  if s.sheaf.again && !t.sheaf.due then ((t.modSheaf (fun x => { x with again := false })).boundaryDue).closeOne else t

/-- TABLE_BOUNDARY: the boundary that is due, or a new one, closes. -/
def execTableBoundary (s : State) : Host.Outcome State Fault Refusal :=
  .next (if s.job.state == 0 || s.faulted then s else s.boundaryDue.closeDue.finishDrained)

/-! ### STEP_END -/

def State.endStep (s : State) (o : OpenStep) : State :=
  match o.works.find? (fun w => !s.written o.eosEmpty w) with
  | some w => s.raiseFault (srcCore (s.coreOf (s.coreOfVersion w.session)))
  | none =>
    let keys := s.stepKeys o
    let s := (((s.endFront o).endSequences o).fillCaches o.number keys).fillPinned
    let s := ({ s with step := none, epochs := { s.epochs with view := none } }).freeLeaving
    let s := ((s.freeRetired).freeGrammars).measureStep o
    ((s.reportSlacks).joinPuts.stepBoundary.closeDue).finishDrained

/-- STEP_END: the step ends once its epoch was opened and every ATTEND has retired. -/
def execStepEnd (s : State) : Host.Outcome State Fault Refusal :=
  .next (match s.step with
    | some o => if o.epoch.isSome && s.walksRetired && s.unitsRun && !s.faulted then s.endStep o else s
    | none => s)

/-! ### SEAL_COMPLETE -/

/-- SEAL_COMPLETE: every object is in T2 and the twin owes no receipt. A Granary stops in Hold (R495). -/
def execSealComplete (session : U64) (s : State) : Host.Outcome State Fault Refusal :=
  .next (if s.faulted || 2 ≤ s.power.pstate then s else (s.sealComplete session).finishDrained)

end Sys2Proof.Machine
end

