-- ==== Sys2Proof/Machine/Tiers.lean ====
section
/-!
DEFINITION. Memory tiers (11 R330 to R348; 08 R235): host-region pages, copies, memory modes, write-back
windows and quarantine.
-/

namespace Sys2Proof.Machine

/-! ### The host region -/

/-- End of the host region. -/
def hostEnd : Nat := 2 ^ 47

def Page.size (p : Page) : Nat := if p.big then 2097152 else 65536

/-- Bytes of a tenant's host region. -/
def State.hostMem (s : State) (t : Nat) : Mem := lookupD s.tiers.host t []

def State.putHost (s : State) (t : Nat) (m : Mem) : State :=
  s.modTiers (fun p => { p with host := insertKey s.tiers.host t m })

def State.writeHost (s : State) (t va : Nat) (bs : List Byte) : State :=
  s.putHost t (writeBytes (s.hostMem t) va bs)

/-- Zeroes [va, va + n) of a tenant's host region. -/
def clearRange (m : Mem) (va n : Nat) : Mem := m.filter (fun c => !(decide (va ≤ c.1) && decide (c.1 < va + n)))

/-- Pages mapped now, for commands. -/
def State.mappedPages (s : State) (t : Nat) : List Page :=
  s.tiers.pages.filter (fun p => p.tenant == t && p.left.isNone)

/-- The page of a tenant that covers an address. -/
def State.pageAt (s : State) (t va : Nat) : Option Page :=
  (s.mappedPages t).find? (fun p => decide (p.va ≤ va) && decide (va < p.va + p.size))

/-- The window of a tenant that covers an address. -/
def State.windowAt (s : State) (t va : Nat) : Option Window :=
  s.tiers.windows.find? (fun w => w.tenant == t && decide (w.va ≤ va) && decide (va < w.va + 65536 * w.bales))

def State.window? (s : State) (n : Nat) : Option Window := s.tiers.windows.find? (fun w => w.number == n)

def State.modWindow (s : State) (n : Nat) (f : Window → Window) : State :=
  s.modTiers (fun p => { p with windows := updWhere (fun w => w.number == n) f s.tiers.windows })

/-- A range of the host region overlaps a mapped page or an open window. -/
def State.hostBusy (s : State) (t va n : Nat) : Bool :=
  (s.mappedPages t).any (fun p => overlap va n p.va p.size) ||
    s.tiers.windows.any (fun w => w.tenant == t && overlap va n w.va (65536 * w.bales))

/-- Unmaps the pages for which `p` holds: their bytes stay visible to programs of the present epoch only,
and their frames pass through quarantine (R334, R235). -/
def State.unmapPages (s : State) (t : Nat) (p : Page → Bool) : State :=
  let gone := (s.mappedPages t).filter p
  let m := s.hostMem t
  let e := s.epochs.epoch
  let s := gone.foldl (fun s (g : Page) => s.putHost t (clearRange (s.hostMem t) g.va g.size)) s
  let s := s.modTiers (fun p => { p with
    pages := s.tiers.pages.map (fun (x : Page) =>
      if gone.contains x then { x with
        left := some e,
        old := m.filter (fun c => decide (x.va ≤ c.1) && decide (c.1 < x.va + x.size)) }
      else x) })
  s.toQuarantine t (sumOf Page.frames gone)

/-- Pages and windows that left in an earlier epoch are gone for programs too. -/
def State.dropLeft (s : State) : State :=
  s.modTiers (fun p => { p with
      leftWindows := s.tiers.leftWindows.filter (fun x => x.1 == s.epochs.epoch),
      pages := s.tiers.pages.filter (fun x => x.left.isNone || x.left == some s.epochs.epoch) })

/-- Frames of a quadrant: its share of the channels in service of T1 (R322). -/
def State.framesOf (s : State) (q : Nat) : Nat :=
  let chans (q : Nat) : Nat := countBits (vGet s.cap.chan q 0)
  let all := sumOf chans ((List.range 4).filter s.inService)
  if s.inService q && all != 0 then s.cap.t1Gib * 16384 * chans q / all else 0

/-- Bales of index partitions and tables that the placements of R101 and R132 put into a quadrant. -/
def State.placedIn (s : State) (q : Nat) : Nat :=
  let ls := s.searchQuadrants
  let lt := s.sheafQuadrants
  sumOf (fun (p : Partition) => sumOf (fun i => if ls.getD i 4 == q then
    p.balesAt (s.slot p.slot) ls.length i else 0) (List.range ls.length)) s.partitions +
  sumOf (fun (t : Table) => ((List.range t.bales).filter (fun b =>
    lt.getD (t.balePlace lt.length b) 4 == q)).length) s.sheaf.tables

/-- Counts of the frames whose placement is the module's: system area, key-value frames, deltas, grammars, templates,
stores, model versions, quarantine. -/
def State.unplaced (s : State) : List Nat :=
  [393216, s.granary.frames.length, sumOf (fun (p : Partition) => deltaBales (s.slot p.slot) p.delta) s.partitions,
    sumOf (·.bales) s.grammars, sumOf (·.bales) s.templates, sumOf (·.bales) s.stores,
    sumOf (·.bales) s.models.versions, sumOf (·.frames) s.epochs.quarantine]

/-- Frames of a quadrant in use. -/
def State.framesUsed (s : State) (q : Nat) : Nat :=
  sumOf Page.frames (s.tiers.pages.filter (fun p => p.quadrant == q && p.left.isNone)) + s.placedIn q +
    Config.framesElsewhere q s.unplaced

/-- The quadrant in service with the most free frames, the lower of equals (R333). (Log entry 115: DESIGN CHOICE, safe.) -/
def State.freest (s : State) : Nat :=
  let free (q : Nat) : Int := (s.framesOf q : Int) - s.framesUsed q
  ((sortBy (fun a b => decide (free b < free a) || (free a == free b && decide (a ≤ b)))
    ((List.range 4).filter s.inService)).head?).getD 0

/-- Maps one page. -/
def State.mapPage (s : State) (t va : Nat) (big : Bool) (quad : Nat) (window : Option Nat) : State :=
  let q := if quad == 0xFF then s.freest else quad
  s.modTiers (fun p => { p with pages := s.tiers.pages ++ [
    { tenant := t, va := va, big := big, quadrant := q, window := window,
      since := s.epochs.epoch, left := none, old := [] }] })

/-- Maps pages filled with zeros, in address order; 0xFF leaves the quadrant to the module. -/
def State.mapPages (s : State) (t va n : Nat) (big : Bool) (quad : Nat) (window : Option Nat) : State :=
  (List.range n).foldl (fun s i => s.mapPage t (va + (if big then 2097152 else 65536) * i) big quad window) s.dropLeft

/-! ### Windows (R341, R342) -/

/-- Writes a held bale back to its place in T2. -/
def State.writeBack (s : State) (w : Window) (b : Nat) : State :=
  let s := s.writeT2 (w.t2 + 65536 * b) (readBytes (s.hostMem w.tenant) (w.va + 65536 * b) 65536)
  let s := s.modWindow w.number (fun w => { w with
    held := updWhere (fun h => h.bale == b) (fun (h : HeldBale) => { h with dirty := false }) w.held })
  s.modTiers (fun p => { p with writebacks := s.tiers.writebacks + 1 })

/-- The held bale that eviction takes: least recently used, then the lower number. -/
def Window.victim (w : Window) : Option HeldBale :=
  (sortBy (fun (a b : HeldBale) => if a.used == b.used then decide (a.bale ≤ b.bale) else decide (a.used < b.used))
    w.held).head?

/-- Drops a held bale; a dirty one is written back first. -/
def State.evict (s : State) (w : Window) (h : HeldBale) : State :=
  let s := if h.dirty then s.writeBack w h.bale else s
  let va := w.va + 65536 * h.bale
  let s := s.putHost w.tenant (clearRange (s.hostMem w.tenant) va 65536)
  let s := s.modWindow w.number (fun w => { w with held := w.held.filter (fun x => x.bale != h.bale) })
  s.modTiers (fun p => { p with
      pages := s.tiers.pages.filter (fun p => !(p.window == some w.number && p.va == va && p.left.isNone)) })

/-- The first access to a bale: a frame, the bale from T2, the mapping. -/
def State.fillBale (s : State) (w : Window) (b : Nat) : State :=
  let s := if w.frames ≤ w.held.length then (match w.victim with
    | some h => s.evict w h
    | none => s) else s
  let va := w.va + 65536 * b
  let s := (s.mapPages w.tenant va 1 false 255 (some w.number)).writeHost w.tenant va
    (readBytes s.t2 (w.t2 + 65536 * b) 65536)
  let s := (s.readSources [(w.t2 + 65536 * b, 65536)]).modWindow w.number (fun w => { w with
    held := w.held ++ [HeldBale.mk b false 0] })
  s.modTiers (fun p => { p with fills := s.tiers.fills + 1 })

/-- An access to bale `b` of a window: filled if no frame holds it, then used; a write makes it dirty. -/
def State.touchBale (s : State) (n b : Nat) (write : Bool) : State :=
  match s.window? n with
  | none => s
  | some w =>
    let s := if w.held.any (fun h => h.bale == b) then s else s.fillBale w b
    s.modWindow n (fun w => { w with
      clock := w.clock + 1,
      held := updWhere (fun h => h.bale == b)
        (fun (h : HeldBale) => { h with used := w.clock + 1, dirty := h.dirty || write }) w.held })

/-- Makes the bale at a host address present, if a window covers it. -/
def State.touchHost (s : State) (t va : Nat) (write : Bool) : State :=
  match s.windowAt t va with
  | some w => s.touchBale w.number ((va - w.va) / 65536) write
  | none => s

/-- Dirty bales of a window, ascending. -/
def Window.dirty (w : Window) : List Nat :=
  sortBy (fun a b => decide (a ≤ b)) ((w.held.filter (·.dirty)).map (·.bale))

/-- Writes every dirty bale back, in ascending bale order. -/
def State.flushWindow (s : State) (w : Window) : State := w.dirty.foldl (fun s b => s.writeBack w b) s

/-- Flushes a window and unmaps it: the programs of the present epoch still see it (R334). -/
def State.closeWindow (s : State) (w : Window) : State :=
  let s := (s.flushWindow w).unmapPages w.tenant (fun p => p.window == some w.number)
  s.modTiers (fun p => { p with
    windows := s.tiers.windows.filter (fun x => x.number != w.number),
    leftWindows := s.tiers.leftWindows ++ [(s.epochs.epoch, w)] })

/-- WINDOW_FILL: a program's access to a bale of a window, with the byte it writes, if any. -/
def execWindowFill (window bale : Nat) (write : Option (Nat × Byte)) (s : State) :
    Host.Outcome State Fault Refusal :=
  .next (match s.window? window with
    | some w =>
      if s.faulted || w.bales ≤ bale then s
      else
        let s := s.touchBale window bale write.isSome
        (match write with
         | some x => s.writeHost w.tenant (w.va + 65536 * bale + x.1 % 65536) [x.2]
         | none => s)
    | none => s)

/-! ### PAGE_MAP and PAGE_UNMAP -/

structure PageArgs where
  va : Nat
  psize : Nat
  quad : Nat
  pages : Nat
  deriving DecidableEq, Repr

def pageArgs (r : Record) : PageArgs :=
  { va := r.fieldN 16 6, psize := r.fieldN 22 1, quad := r.fieldN 23 1, pages := r.fieldN 24 4 }

def PageArgs.size (a : PageArgs) : Nat := if a.psize = 1 then 2097152 else 65536
def PageArgs.frames (a : PageArgs) : Nat := a.pages * (if a.psize = 1 then 32 else 1)

def PageArgs.ok (a : PageArgs) : Bool :=
  decide (a.psize ≤ 1) && decide (1 ≤ a.pages ∧ a.pages ≤ 1048576) && a.va % a.size == 0 &&
    decide (a.va + a.pages * a.size ≤ hostEnd)

def runPageMap (r : Record) (id : Nat) (s : State) : State :=
  let a := pageArgs r
  let s := (s.mapPages r.tenant a.va a.pages (a.psize == 1) a.quad none).notePeaks r.tenant
  s.completeId id stOk (toLe 4 a.frames)

def planPageMap (r : Record) (s : State) : Plan :=
  let a := pageArgs r
  { reserved := r.handle == 0 && zeroBytes r 28 64, served := s.serviceBase, tenantOk := s.tenantOk r,
    checks := [(a.ok && (a.quad == 0xFF || (decide (a.quad ≤ 3) && s.inService a.quad)), stBadParam),
      (!s.hostBusy r.tenant a.va (a.pages * a.size), stBadParam),
      (s.t1Fits r.tenant a.frames, stNoSpace)],
    run := runPageMap r }

def execPageMap (r : Record) (s : State) : Host.Outcome State Fault Refusal :=
  .next (s.record r 0x0600 planPageMap)

/-- Every page of the range is mapped at that size and belongs to no window. -/
def State.pagesThere (s : State) (t : Nat) (a : PageArgs) : Bool :=
  (List.range a.pages).all (fun i =>
    (s.mappedPages t).any (fun p => p.va == a.va + i * a.size && p.big == (a.psize == 1) && p.window.isNone))

def runPageUnmap (r : Record) (id : Nat) (s : State) : State :=
  let a := pageArgs r
  let s := s.dropLeft.unmapPages r.tenant (fun p =>
    decide (a.va ≤ p.va) && decide (p.va < a.va + a.pages * a.size))
  s.completeId id stOk (toLe 4 a.frames)

def planPageUnmap (r : Record) (s : State) : Plan :=
  let a := pageArgs r
  { reserved := r.handle == 0 && zeroBytes r 23 24 && zeroBytes r 28 64, served := s.serviceBase,
    tenantOk := s.tenantOk r,
    checks := [(a.ok, stBadParam), (s.pagesThere r.tenant a, stBadParam)],
    run := runPageUnmap r }

def execPageUnmap (r : Record) (s : State) : Host.Outcome State Fault Refusal :=
  .next (s.record r 0x0601 planPageUnmap)

/-! ### COPY_IN and COPY_OUT -/

/-- Every byte of the range is mapped or lies in an open window. -/
def State.rangeMapped (s : State) (t va n : Nat) : Bool :=
  (balePieces va n).all (fun p => (s.pageAt t p.1).isSome || (s.windowAt t p.1).isSome)

def copyOk (s : State) (va t2 n : Nat) : Bool :=
  va % 64 == 0 && n % 64 == 0 && decide (va + n ≤ hostEnd) && t2Arg s t2 n 64

def runCopyIn (r : Record) (id : Nat) (s : State) : State :=
  let src := r.fieldN 16 6
  let va := r.fieldN 24 6
  let n := r.fieldN 32 8
  let s0 := s
  let s := (balePieces va n).foldl (fun s p =>
    (s.touchHost r.tenant p.1 true).writeHost r.tenant p.1 (readBytes s.t2 (src + (p.1 - va)) p.2)) s
  match s.running? id with
  | some x => s.completeAfter (newWrites s0 s) x.record id stOk (toLe 4 0 ++ toLe 8 n)
  | none => s

def planCopyIn (r : Record) (s : State) : Plan :=
  { reserved := r.handle == 0 && zeroBytes r 22 24 && zeroBytes r 30 32 && zeroBytes r 40 64,
    served := s.serviceBase, tenantOk := s.tenantOk r,
    checks := [(copyOk s (r.fieldN 24 6) (r.fieldN 16 6) (r.fieldN 32 8), stBadParam),
      (s.rangeMapped r.tenant (r.fieldN 24 6) (r.fieldN 32 8), stBadParam)],
    run := runCopyIn r,
    sources := [(r.fieldN 16 6, r.fieldN 32 8)] }

def execCopyIn (r : Record) (s : State) : Host.Outcome State Fault Refusal :=
  .next (s.record r 0x0602 planCopyIn)

def runCopyOut (r : Record) (id : Nat) (s : State) : State :=
  let va := r.fieldN 16 6
  let dest := r.fieldN 24 6
  let n := r.fieldN 32 8
  let s0 := s
  let s := (balePieces va n).foldl (fun s p =>
    let s := s.touchHost r.tenant p.1 false
    s.writeT2 (dest + (p.1 - va)) (readBytes (s.hostMem r.tenant) p.1 p.2)) s
  match s.running? id with
  | some x => s.completeAfter (newWrites s0 s) x.record id stOk (toLe 4 0 ++ toLe 8 n)
  | none => s

def planCopyOut (r : Record) (s : State) : Plan :=
  { reserved := r.handle == 0 && zeroBytes r 22 24 && zeroBytes r 30 32 && zeroBytes r 40 64,
    served := s.serviceBase, tenantOk := s.tenantOk r,
    checks := [(copyOk s (r.fieldN 16 6) (r.fieldN 24 6) (r.fieldN 32 8), stBadParam),
      (s.rangeMapped r.tenant (r.fieldN 16 6) (r.fieldN 32 8), stBadParam)],
    run := runCopyOut r }

def execCopyOut (r : Record) (s : State) : Host.Outcome State Fault Refusal :=
  .next (s.record r 0x0603 planCopyOut)

/-! ### TIER_MODE -/

def runTierMode (r : Record) (id : Nat) (s : State) : State :=
  let m := r.fieldN 16 1
  let s1 := if m = 0 then s.tiers.windows.foldl (fun s w => s.closeWindow ((s.window? w.number).getD w)) s else s
  let s2 := s1.modTiers (fun p => { p with mode := m })
  s2.completeAfter (newWrites s s2) r id stOk (toLe 1 m)

/-- TIER_MODE comes from a module ring with `tenant` zero; its step 4 asks for no tenant (R346). -/
def planTierMode (r : Record) (s : State) : Plan :=
  let m := r.fieldN 16 1
  { reserved := r.handle == 0 && zeroBytes r 17 64, served := s.serviceBase,
    tenantOk := s.setting (cmdObj r.ring) 6 == 0xFFFF && r.tenant == 0,
    checks := [([0, 2, 3, 4].contains m, stBadParam), (m != 2 || decide (s.job.state ≤ 1), stWrongState)],
    run := runTierMode r }

def execTierMode (r : Record) (s : State) : Host.Outcome State Fault Refusal :=
  .next (s.record r 0x0610 planTierMode)

/-! ### WINDOW_OPEN, WINDOW_FLUSH and WINDOW_CLOSE -/

structure WindowArgs where
  window : Nat
  t2 : Nat
  va : Nat
  bales : Nat
  frames : Nat
  deriving DecidableEq, Repr

def windowArgs (r : Record) : WindowArgs :=
  { window := r.fieldN 16 1, t2 := r.fieldN 24 6, va := r.fieldN 32 6, bales := r.fieldN 40 4,
    frames := r.fieldN 44 4 }

/-- T2 ranges of enabled rings and their control areas, and of seal areas (R343). A ring whose `enable` is 1
counts before stage 7 too (R513). (Log entries 67: DEDUCED, unsafe; 91: DEDUCED, unsafe.) -/
def State.fixedRanges (s : State) : List (Nat × Nat) :=
  ((List.range 64).filter (fun n => s.setting (cmdObj n) 1 == 1)).flatMap (fun n =>
    [(s.setting (cmdObj n) 2, 64 * s.ringSize n), (s.setting (cmdObj n) 4, 128)]) ++
  ((List.range 64).filter (fun n => s.setting (cqObj n) 1 == 1)).flatMap (fun n =>
    [(s.setting (cqObj n) 2, 32 * s.cqSize n), (s.setting (cqObj n) 4, 128)]) ++
  (s.areas.filter (fun a => a.bales != 0)).map (fun a => (a.base.toNat, 65536 * a.bales))

def windowOk (s : State) (a : WindowArgs) : Bool :=
  let n := 65536 * a.bales
  decide (a.window ≤ 15) && a.va % 2097152 == 0 && decide (1 ≤ a.bales ∧ a.bales ≤ 16777216) &&
    decide (1 ≤ a.frames ∧ a.frames ≤ min a.bales 1048576) && t2Arg s a.t2 n 65536 &&
    decide (a.va + n ≤ hostEnd) && s.fixedRanges.all (fun f => !overlap a.t2 n f.1 f.2)

/-- A window that holds nothing yet. -/
def WindowArgs.opened (a : WindowArgs) (tenant : Nat) (epoch : U32) : Window :=
  { number := a.window, tenant := tenant, t2 := a.t2, va := a.va, bales := a.bales, frames := a.frames,
    held := [], clock := 0, since := epoch }

def runWindowOpen (r : Record) (id : Nat) (s : State) : State :=
  let a := windowArgs r
  let s := (s.modTiers (fun p => { p with
    windows := s.tiers.windows ++ [a.opened r.tenant s.epochs.epoch] })).notePeaks r.tenant
  s.completeId id stOk []

def planWindowOpen (r : Record) (s : State) : Plan :=
  let a := windowArgs r
  { reserved := r.handle == 0 && zeroBytes r 17 24 && zeroBytes r 30 32 && zeroBytes r 38 40 &&
      zeroBytes r 48 64,
    served := s.serviceBase, tenantOk := s.tenantOk r,
    checks := [(windowOk s a, stBadParam), (!s.hostBusy r.tenant a.va (65536 * a.bales), stBadParam),
      ((s.window? a.window).isNone && s.tiers.mode != 0, stWrongState),
      (s.t1Fits r.tenant a.frames && s.t2Fits r.tenant a.bales, stNoSpace)],
    run := runWindowOpen r }

def execWindowOpen (r : Record) (s : State) : Host.Outcome State Fault Refusal :=
  .next (s.record r 0x0611 planWindowOpen)

/-- The open window that a record names, of the record's tenant. -/
def windowOf (s : State) (r : Record) : Option Window :=
  (s.window? (r.fieldN 16 1)).filter (fun w => w.tenant == r.tenant)

/-- A flush or close of the window that the record names. -/
def planWindow (r : Record) (s : State) (f : State → Window → State) : Plan :=
  { reserved := r.handle == 0 && zeroBytes r 17 64, served := s.serviceBase, tenantOk := s.tenantOk r,
    checks := [(decide (r.fieldN 16 1 ≤ 15), stBadParam), ((windowOf s r).isSome, stWrongState)],
    run := fun id s => match windowOf s r with
      | some w =>
        let s1 := f s w
        s1.completeAfter (newWrites s s1) r id stOk (toLe 4 w.dirty.length)
      | none => s }

def planWindowFlush (r : Record) (s : State) : Plan := planWindow r s State.flushWindow

def execWindowFlush (r : Record) (s : State) : Host.Outcome State Fault Refusal :=
  .next (s.record r 0x0612 planWindowFlush)

def planWindowClose (r : Record) (s : State) : Plan := planWindow r s State.closeWindow

def execWindowClose (r : Record) (s : State) : Host.Outcome State Fault Refusal :=
  .next (s.record r 0x0613 planWindowClose)

/-! ### QUARANTINE_RELEASE (R235) -/

/-- Serial-number order of epochs: `a` is `b` or earlier. -/
def epochLe (a b : U32) : Bool := decide ((b - a).toNat < 2 ^ 31)

/-- Bales that left in epoch E are free once no walk of E or older is unretired. (Log entry 66: DEDUCED, unsafe.) -/
def State.releaseQuarantine (s : State) (e : U32) : State :=
  let free (q : Quarantined) : Bool :=
    epochLe q.epoch e && !(s.epochs.walks.any (fun w => epochLe w q.epoch))
  { s with epochs := { s.epochs with quarantine := s.epochs.quarantine.filter (fun q => !free q) } }

/-- QUARANTINE_RELEASE: the last walk of epoch `e` has retired. -/
def execQuarantineRelease (epoch : U32) (s : State) : Host.Outcome State Fault Refusal :=
  .next (s.releaseQuarantine epoch)

end Sys2Proof.Machine
end

