-- ==== Sys2Proof/Machine/Dram.lean ====
section
/-!
DEFINITION. LPDDR6 channels (12 R364 to R371): refresh, scrubbing, corrections and retraining.
-/

namespace Sys2Proof.Machine

/-- The channel becomes suspect (R366, R367): its bit of `suspect_q` and cause bit 4 of `sys`. -/
def State.setSuspect (s : State) (h : Nat) : State :=
  let sub := 0x0B + channelQuadrant h
  (s.putPersistent 0x2400 sub (s.setting 0x2400 sub ||| 2 ^ (h % 48))).setSys sysSuspect

/-- A corrected symbol (R365, R367): counted, and its line is owed a write-back. -/
def State.corrected (s : State) (h line : Nat) : State :=
  let s := s.modChannel h (fun c => { c with
    corrected := c.corrected + 1, recent := c.recent + 1, owed := line :: c.owed.filter (· != line) })
  if s.setting 0x2400 6 < (s.channel h).recent then s.setSuspect h else s

/-- A line that no unit may take (R366): counted, suspect, and the memory fault of the quadrant. (Log entry 70: DESIGN CHOICE, unsafe.) -/
def State.badLine (s : State) (h : Nat) (misdirected : Bool) : State :=
  let s := s.modChannel h (fun c =>
    if misdirected then { c with misdirected := c.misdirected + 1 }
    else { c with uncorrected := c.uncorrected + 1 })
  (s.setSuspect h).raiseFault (srcMem (channelQuadrant h))

/-- Bytes that a miscorrection leaves: 64 free values. -/
def State.wrongLine (s : State) : List Byte := (List.range 64).map (fun i => BitVec.ofNat 8 (s.free i))

/-! ### Placement over the channels (R363) -/

/-- C: the quadrant's trained channels, ascending. -/
def State.trainedIn (s : State) (q : Nat) : List Nat :=
  (List.range 192).filter (fun h => channelQuadrant h == q && (s.channel h).trained)

/-- Channel and line of line `i` of frame `f` of a quadrant. -/
def State.placedLine (s : State) (q f i : Nat) : Nat × Nat :=
  let c := s.trainedIn q
  let g := 1024 * f + i
  (c.getD (g % c.length) 0, g / c.length)

/-- Lines of a bale that lie at a channel's line; its quadrant is given, or the module's choice. -/
def State.linesAt (s : State) (quadrant : Option Nat) (kind number bale : Nat) (at_ : Nat × Nat) : List Nat :=
  let p := Config.placeOf kind number bale
  let qs := (List.range 4).filter s.inService
  let q := quadrant.getD (qs.getD (p.1 % qs.length) 0)
  (List.range 1024).filter (fun i => s.placedLine q (p.2 % s.framesOf q) i == at_)

/-! ### Miscorrection (R364) -/

/-- Values laid out from `start`, `size` bytes each, as line `i` of their bale leaves them: those that meet it are free. -/
def State.wrongIn {w : Nat} (s : State) (start size i : Nat) (l : List (BitVec w)) : List (BitVec w) :=
  l.mapIdx (fun j x => let a := start + j * size
    if a < 64 * i + 64 ∧ 64 * i < a + size then BitVec.ofNat w (s.free (a % 64) % 2 ^ (8 * size)) else x)

/-- A table after a wrong line of one of its bales: the elements of both slots of the rows there. -/
def State.wrongTable (s : State) (b i : Nat) (t : Table) : Table :=
  let slots := if t.static then 1 else 2
  let first := b * t.rowsPerBale
  (List.range (min t.rowsPerBale (t.rows - first))).foldl (fun t r =>
    let row := first + r
    let start (k : Nat) : Nat := 128 + (r * slots + k) * t.slotBytes
    let act := if t.slotB.contains row then 1 else 0
    if start 0 + slots * t.slotBytes ≤ 64 * i ∨ 64 * i + 64 ≤ start 0 then t
    else { t with
      data := sortBy (fun a b => decide (a.1 ≤ b.1))
        (insertKey t.data row (s.wrongIn (start act) (elemSize t.format) i (t.rowBits row))),
      other := if t.static then t.other else sortBy (fun a b => decide (a.1 ≤ b.1))
        (insertKey t.other row (s.wrongIn (start (1 - act)) (elemSize t.format) i (t.otherBits row))) }) t

/-- Vectors of each bale of a partition's image after the descriptor, with its table. -/
def baleVecs (sl : IndexSlot) (p : Partition) : List (Nat × List Vec) :=
  (chains sl p.mode p.homeBits p.live).flatMap (fun c => (chunks (perBale sl c.1) c.2.2).map (fun vs => (c.1, vs)))

/-- A partition after a wrong line of a home bale: elements, values and tags there. -/
def State.wrongPartition (s : State) (b i : Nat) (p : Partition) : Partition :=
  let sl := s.slot p.slot
  match (baleVecs sl p)[b]? with
  | some (0, vs) =>
    let wrong (k : Nat) (v : Vec) : Vec :=
      let m := 64 + vecsPerBale sl * vecBytes sl + 16 * k
      { v with
        elems := s.wrongIn (64 + k * vecBytes sl) (if sl.format == 1 then 1 else 2) i v.elems,
        value := ((s.wrongIn (m + 4) 4 i [v.value]).head?).getD v.value,
        tags := ((s.wrongIn (m + 8) 8 i [v.tags]).head?).getD v.tags }
    { p with live := p.live.map (fun v => if vs.contains v then wrong (vs.idxOf v) v else v) }
  | _ => p

/-- A version after a wrong line of its weights. -/
def State.wrongVersion (s : State) (b i : Nat) (v : Version) : Version :=
  { v with weights := writeBytes v.weights (65536 * b + 64 * i) s.wrongLine }

/-- The lines of an object that lie at a channel's line: bale and line. -/
def State.objectLines (s : State) (kind number bales : Nat) (at_ : Nat × Nat) : List (Nat × Nat) :=
  (List.range bales).flatMap (fun b => (s.linesAt none kind number b at_).map (fun i => (b, i)))

/-- Tables, partitions and model versions with wrong lines. -/
def State.wrongObjects (s : State) (at_ : Nat × Nat) : State :=
  { s with
    sheaf := { s.sheaf with tables := s.sheaf.tables.map (fun t =>
      (s.objectLines 1 t.number t.bales at_).foldl (fun t e => s.wrongTable e.1 e.2 t) t) },
    partitions := s.partitions.map (fun p =>
      (s.objectLines 0 (4096 * p.slot + p.tenant) (imageBales (s.slot p.slot) p - 1) at_).foldl
        (fun p e => s.wrongPartition e.1 e.2 p) p),
    models := { s.models with versions := s.models.versions.map (fun v =>
      (s.objectLines 5 (2 ^ 32 * v.model + v.version) v.bales at_).foldl (fun v e => s.wrongVersion e.1 e.2 v) v) } }

/-- A miscorrected line holds wrong data: free values in whatever lies there, host pages, key-value frames, tables,
partitions and weights. (Log entry 70: DESIGN CHOICE, unsafe.) -/
def State.miscorrect (s : State) (h line : Nat) : State :=
  let s := (s.tiers.pages.filter (fun p => p.left.isNone)).foldl (fun s p =>
    ((List.range (p.size / 65536)).flatMap (fun b =>
      (s.linesAt (some p.quadrant) 8 p.tenant (p.va / 65536 + b) (h, line)).map (fun i => 65536 * b + 64 * i))).foldl
      (fun s o => (s.writeHost p.tenant (p.va + o) s.wrongLine).drew 64) s) s
  let s := s.granary.frames.foldl (fun s f =>
    (s.linesAt none 9 f.frame 0 (h, line)).foldl
      (fun s i => (s.putKvData f.frame (writeBytes (s.kvData f.frame) (64 * i) s.wrongLine)).drew 64) s) s
  (s.wrongObjects (h, line)).drew 64

/-- What a read of a line found. An error over three or more symbols is detected or miscorrected, which is
left open (R364). (Log entry 70: DESIGN CHOICE, unsafe.) -/
def State.lineRead (s : State) (h line : Nat) (found : LineRead) : State :=
  match found with
  | .clean => s
  | .corrected => s.corrected h line
  | .uncorrectable => s.badLine h false
  | .misdirected => s.badLine h true
  | .wide =>
    let detected := s.free 0 % 2 == 1
    let s := s.drew 1
    if detected then s.badLine h false else (s.miscorrect h line).corrected h line

/-- REFRESH (R369); a package in self refresh gets none. -/
def execRefresh (channel : Nat) (s : State) : Host.Outcome State Fault Refusal :=
  .next (if (s.channel channel).trained && s.power.pstate != 3 then
      (s.modChannel channel (fun c => { c with refreshes := c.refreshes + 1 })).send (.refresh channel)
    else s)

/-- SCRUB_READ (R368); Hold and Sleep grant none (Table 18-5). -/
def execScrubRead (channel line : Nat) (found : LineRead) (s : State) : Host.Outcome State Fault Refusal :=
  .next (if (s.channel channel).trained && s.setting 0x2400 5 != 0 && s.power.pstate < 2 then
      (s.modChannel channel (fun c => { c with scrubbed := c.scrubbed + 1 })).lineRead channel line found
    else s)

/-- The write-back of a corrected line is done, or dropped for a later write (R365). -/
def State.writtenBack (s : State) (h line : Nat) : State :=
  s.modChannel h (fun c => { c with owed := c.owed.filter (· != line) })

/-- CORRECTION_WRITE_BACK (R365): the owed write-back ends. One that no scrub read owes follows a read by another unit,
whose corrected symbol counts first. (Log entry 117: DEDUCED, unsafe.) -/
def execCorrectionWriteBack (channel line : Nat) (s : State) : Host.Outcome State Fault Refusal :=
  .next (
    let c := s.channel channel
    if !c.trained || c.owed.contains line then s.writtenBack channel line
    else (s.corrected channel line).writtenBack channel line)

/-- RETRAIN_INTERVAL (R367, R371): a new interval begins; a drift beyond range starts a full retrain. -/
def execRetrainInterval (channel : Nat) (beyond : Bool) (s : State) : Host.Outcome State Fault Refusal :=
  .next (if (s.channel channel).trained && s.power.pstate != 3 then
      s.modChannel channel (fun c => { c with
        recent := 0, retrains := if beyond then c.retrains + 1 else c.retrains,
        retraining := c.retraining || beyond })
    else s)

/-- FULL_RETRAIN_END (R371): requests go on, or the memory fault of the quadrant is raised. -/
def execFullRetrainEnd (channel : Nat) (ok : Bool) (s : State) : Host.Outcome State Fault Refusal :=
  .next (if (s.channel channel).retraining then
      let s := s.modChannel channel (fun c => { c with retraining := false })
      if ok then s else s.raiseFault (srcMem (channelQuadrant channel))
    else s)

end Sys2Proof.Machine
end

