-- ==== Sys2Proof/Machine/Faults.lean ====
section
/-!
DEFINITION. Fault sources, sticky bits, the job restart and diagnostics (17 R471 to R479, R485), and the
pairing event that follows a cleared fault (19 R517).
-/

namespace Sys2Proof.Machine

/-! ### Pairing begins (Table 19-7, from ALONE) -/

def State.setPair (s : State) (state : Nat) : State :=
  { s with pairing := { s.pairing with state := state, readySent := false } }.setSys sysTwin

/-- The four conditions under which pairing starts. -/
def State.mayPair (s : State) : Bool :=
  s.setting 0x11C8 1 == 1 && (s.port 0).state == 2 && s.startUp.stage == 7 && !s.faulted

/-- ALONE and the conditions hold: PAIRING, and a HELLO is sent. -/
def State.tryPair (s : State) : State :=
  if s.pairing.state == 0 && s.mayPair then
    (s.setPair 1).putOnPort 0 (.peer 0 (s.pairMessage 0x60))
  else s

/-! ### Fault sources (R471, R472, R475) -/

/-- What the collector reads on a source's pair: asserted or equal states set the sticky bit. A controller that asserts
for a bad line counts it and marks its channel first (R366). -/
def State.readPair (s : State) (source : Nat) (rail : Rail) : State :=
  if 94 ≤ source then s
  else match rail with
    | .asserted => (s.setLive source true false).raiseFault source
    | .equal => (s.setLive source true true).raiseFault source
    | .quiet => s.setLive source false false
    | .line h misdirected =>
      let s := s.setLive source true false
      if source == srcMem (channelQuadrant h) && (s.channel h).trained then s.badLine h misdirected
      else s.raiseFault source

/-- FAULT_SOURCE_ASSERT. -/
def execFaultSourceAssert (source : Nat) (rail : Rail) (s : State) : Host.Outcome State Fault Refusal :=
  .next (s.readPair source rail)

/-! ### Clearing (R477) and the restart (R478, R479) -/

/-- Ones written clear the bits whose sources are quiet. A JOB_END held by the fault ends the job when the
last bit clears, and pairing may begin. (Log entry 65: DEDUCED, safe.) -/
def State.clearSticky (s : State) (ones : BitVec 96) : State :=
  let was := s.faulted
  let s := { s with faults := { s.faults with sticky := s.faults.sticky &&& ~~~(ones &&& ~~~s.faults.live) } }
  if was && !s.faulted then
    let s := if s.job.state == 3 then s.finishJob else s
    s.tryPair
  else s

/-- JOB_RESTART: no sticky bit is set, the link is up, and a restart is owed. -/
def execJobRestart (s : State) : Host.Outcome State Fault Refusal :=
  .next (if s.faults.owed && !s.faulted && s.linkUp then s.restartJob else s)

/-! ### Diagnostics (R485) -/

/-- Result bytes of two U64 values at 16 and 24. -/
def twoWords (a b : Nat) : List Byte := toLe 4 0 ++ toLe 8 a ++ toLe 8 b

def runDiagEcho (_ : Record) (id : Nat) (s : State) : State :=
  s.completeId id stOk (twoWords s.timestamp.toNat s.faults.faultStates.toNat)

def planDiagEcho (r : Record) (s : State) : Plan :=
  { reserved := zeroBytes r 16 64, served := true, tenantOk := s.moduleRing r, checks := [],
    run := runDiagEcho r }

def execDiagEcho (r : Record) (s : State) : Host.Outcome State Fault Refusal :=
  .next (s.record r 0x0F00 planDiagEcho)

/-- The completion is written before the fault takes effect: where it waits for a place, the fault waits with it. A
quiet record writes none. -/
def runFaultInject (r : Record) (id : Nat) (s : State) : State :=
  let s := { s with faults := { s.faults with injected := s.faults.injected + 1 } }
  if r.quiet then (s.completeId id stOk []).raiseFault (r.fieldN 16 1)
  else (s.post { s.completionPost r id stOk [] with inject := some (r.fieldN 16 1) }).injectDue

def planFaultInject (r : Record) (s : State) : Plan :=
  let n := r.fieldN 16 1
  { reserved := zeroBytes r 17 64, served := true, tenantOk := s.moduleRing r,
    checks := [(s.setting 0xF000 1 == 1 && decide (n ≤ 93) && n != srcTamper && n != srcSp, stBadParam)],
    run := runFaultInject r }

def execFaultInject (r : Record) (s : State) : Host.Outcome State Fault Refusal :=
  .next (s.record r 0x0F01 planFaultInject)

def runFaultRead (_ : Record) (id : Nat) (s : State) : State :=
  s.completeId id stOk (twoWords (bitsOf s.faults.sticky 63 0) (bitsOf s.faults.sticky 95 64))

def planFaultRead (r : Record) (s : State) : Plan :=
  { reserved := zeroBytes r 16 64, served := true, tenantOk := s.moduleRing r, checks := [],
    run := runFaultRead r }

def execFaultRead (r : Record) (s : State) : Host.Outcome State Fault Refusal :=
  .next (s.record r 0x0F02 planFaultRead)

end Sys2Proof.Machine
end

