-- ==== Sys2Proof/Machine/Crc.lean ====
section
/-!
DEFINITION. CRC-64 with the ECMA-182 polynomial (R379). PRESUMED: most significant bit first, initial
value 0, no final inversion, as ECMA-182 itself has it.
-/

namespace Sys2Proof.Machine

/-- One bit step. (Log entry 20: PRESUMED, unsafe.) -/
def crcStep (c : U64) : U64 :=
  if c.getLsbD 63 then (c <<< 1) ^^^ 0x42F0E1EBA9EA3693#64 else c <<< 1

def crcByte (c : U64) (b : Byte) : U64 :=
  let c := c ^^^ (b.setWidth 64 <<< 56)
  crcStep (crcStep (crcStep (crcStep (crcStep (crcStep (crcStep (crcStep c)))))))

def crc64 (bs : List Byte) : U64 := bs.foldl crcByte 0

end Sys2Proof.Machine
end

