-- ==== Sys2Proof/Machine/Link.lean ====
section
/-!
DEFINITION. The coherent link: snoops, data, acknowledgements, errors, window reads, training and the
flit layer (13 R379 to R392).
-/

namespace Sys2Proof.Machine

/-- A response whose tag matches no request, or another break of R383. (Log entry 74: DEDUCED, unsafe.) -/
def State.protoFault (s : State) : State := s.raiseFault srcClProto

/-- SNP_INV (R384 to R386): INV_ACK always; an outstanding read of the line becomes stale; a held copy is
dropped and the line read again. -/
def State.snpInv (s : State) (tag : U16) (addr : U64) : State :=
  let off := (addr - s.link.t2Base).toNat
  let s := s.send (.invAck tag addr)
  let watched (x : ReadOut) : Bool := x.addr == off && match x.use with
    | .record _ _ | .source | .dropped => false
    | _ => true
  if s.link.reads.any watched then
    s.modLink (fun l => { l with
      reads := l.reads.map (fun x => if watched x then { x with stale := true } else x) })
  else if s.link.shared.contains off || !(s.watchUses off).isEmpty then
    let s := s.modLink (fun l => { l with shared := l.shared.filter (· != off) })
    if s.traffic then (s.watchUses off).foldl (fun s u => s.sendRead off u) s else s
  else s

/-- A snoop of a watched line wakes the module (R497). -/
def execSnpInv (tag : U16) (addr : U64) (s : State) : Host.Outcome State Fault Refusal :=
  let off := (addr - s.link.t2Base).toNat
  .next ((if s.link.shared.contains off || !(s.watchUses off).isEmpty then s.wake else s).snpInv tag addr)

/-- Keeps a shared copy of a watched line, or issues a fresh read when the read was stale (R386). A line
that no ring watches any more is given back. -/
def State.keepWatched (s : State) (x : ReadOut) (enabled : Bool) : State :=
  if !enabled then s.send (.evict (s.link.t2Base.toNat + x.addr))
  else if x.stale then s.sendRead x.addr x.use
  else s.modLink (fun l => { l with shared := x.addr :: l.shared.filter (· != x.addr) })

/-- DATA (R386): the line of a read arrives. (Log entry 11: DESIGN CHOICE, unsafe.) -/
def State.dataArrives (s : State) (tag : U16) (line : Line) : State :=
  match s.link.reads.find? (fun x => x.tag == tag) with
  | none => s.protoFault
  | some x =>
    let s := s.modLink (fun l => { l with reads := l.reads.filter (fun y => y.tag != tag) })
    let s := { s with t2 := writeBytes s.t2 x.addr (lineBytes line 64) }
    match x.use with
    | .producer n =>
      let s := s.keepWatched x (s.cmdRing n).enabled
      s.takeProducer n (line.extractLsb' 0 32)
    | .consumer c =>
      let s := s.keepWatched x (s.cqRing c).enabled
      (s.takeConsumer c (line.extractLsb' 0 32)).injectDue
    | .source => s.readSource
    | .dropped => s.keepWatched x (s.link.shared.contains x.addr || s.link.reads.any (fun y => y.addr == x.addr))
    | .record n i =>
      if x.stale then s
      else (s.modCmd n (fun r => { r with arrived := r.arrived ++ [(i, line)] })).serveRing n

/-- DATA; a read that the link controller's limit held back may leave (R389). -/
def execData (tag : U16) (line : Line) (s : State) : Host.Outcome State Fault Refusal :=
  .next ((s.dataArrives tag line).pumpLink 0)

/-- A write is over: it holds no place and no deferred write waits for it. -/
def CohLink.written (l : CohLink) (tag : U16) : CohLink :=
  { l with
    writes := l.writes.filter (· != tag), slotWrites := l.slotWrites.filter (· != tag),
    undo := l.undo.filter (fun e => e.1 != tag),
    deferred := l.deferred.map (fun d => { d with needs := d.needs.filter (· != tag) }) }

/-- WR_ACK (R387): the write is visible; what waited for it goes on. -/
def State.wrAck (s : State) (tag : U16) : State :=
  if s.link.writes.contains tag then ((s.modLink (·.written tag)).pumpLink 0).releaseAll.injectDue
  else s.protoFault

def execWrAck (tag : U16) (s : State) : Host.Outcome State Fault Refusal := .next (s.wrAck tag)

/-- The records of rings with `p` that were posted and not taken are to be read anew. -/
def State.refetchRings (s : State) (p : Nat → Bool) : State :=
  (List.range 64).foldl (fun s n => if p n then s.modCmd n CmdRing.refetch else s) (s.staleRecords p)

/-- The ring whose record a read with a tag brings. -/
def State.recordRing (s : State) (tag : U16) : Option Nat :=
  (s.link.reads.find? (fun x => x.tag == tag)).bind (fun x => match x.use with
    | .record n _ => some n
    | _ => none)

/-- ERR (R388): the request is over, and the coherent link error fault is raised. -/
def State.errAnswer (s : State) (tag : U16) : State :=
  if s.link.writes.contains tag || s.link.reads.any (fun x => x.tag == tag) then
    let ring := s.recordRing tag
    let s := s.refetchRings (fun n => ring == some n)
    let s := s.modLink (fun l => { l.written tag with
      reads := l.reads.filter (fun x => x.tag != tag), sources := [] })
    let s := ((s.raiseFault srcClErr).pumpLink 0).releaseAll.injectDue
    (List.range 64).foldl (fun s n => if ring == some n then s.serveRing n else s) s
  else s.protoFault

def execErr (tag : U16) (s : State) : Host.Outcome State Fault Refusal := .next (s.errAnswer tag)

/-- A line of the dictionary window as it stands (R392); zeros outside the 32 slots. -/
def State.windowLine (s : State) (off : Nat) : Line :=
  match s.link.slots[off / 128]? with
  | some w => if off % 128 < 64 then w.request else w.response
  | none => 0

/-- WIN_RD: the line as it stands; a response that is read shows its request complete. -/
def execWinRd (tag : U16) (off : Nat) (s : State) : Host.Outcome State Fault Refusal :=
  .next (
    let t := s.send (.winData tag (s.windowLine off))
    if decide (off < 4096) && decide (64 ≤ off % 128) then
      t.modLink (fun l => { l with slots := vMod l.slots (off / 128) (fun w => { w with unread := false }) })
    else t)

/-! ### Training -/

/-- Lanes of a mask that lie in [a, a + n) all work. -/
def lanesWork {w : Nat} (m : BitVec w) (a n : Nat) : Bool :=
  (List.range n).all (fun i => m.getLsbD (a + i))

/-- The width and lanes of R381 for the coherent link: 16; 8 on the lower half, else on the upper; 4 on
the lowest group that works; none above `most` lanes. -/
def cohLanes (most : Nat) (m : U16) : Option (Nat × U16) :=
  if 16 ≤ most && lanesWork m 0 16 then some (16, 0xFFFF)
  else if 8 ≤ most && lanesWork m 0 8 then some (8, 0x00FF)
  else if 8 ≤ most && lanesWork m 8 8 then some (8, 0xFF00)
  else ((List.range 4).find? (fun g => lanesWork m (4 * g) 4)).map
    (fun g => (4, (0x000F : U16) <<< (4 * g)))

/-- The width and lanes of R381 for a peer port. -/
def peerLanes (most : Nat) (m : Byte) : Option (Nat × Byte) :=
  if 8 ≤ most && lanesWork m 0 8 then some (8, 0xFF)
  else if lanesWork m 0 4 then some (4, 0x0F)
  else if lanesWork m 4 4 then some (4, 0xF0)
  else none

/-- Companion advertisements that let the link come up (R390). -/
def adverts (size : U64) (reqMsgs reqCells srspMsgs wrspMsgs wrspCells : Nat) : Bool :=
  size != 0 && size.toNat % 65536 == 0 && decide (256 ≤ reqMsgs) && decide (256 ≤ reqCells) &&
    decide (128 ≤ srspMsgs) && decide (32 ≤ wrspMsgs) && decide (32 ≤ wrspCells)

/-- The credits that the other side grants. -/
def FlitLayer.granted (y : FlitLayer) (msgs cells : Vector Nat 8) : FlitLayer :=
  { y with msgCredits := msgs, cellCredits := cells, msgTop := msgs, cellTop := cells }

/-- The layer of a peer port at training, with the credits of Table 13-7. -/
def FlitLayer.peer : FlitLayer :=
  FlitLayer.reset.granted #v[256, 256, 512, 16, 8, 256, 0, 0] #v[0, 1024, 0, 0, 0, 1024, 0, 0]

/-- The layer of a link starts anew at training: what waited on a peer port has not been sent. (Log entry 10: DESIGN
CHOICE, unsafe.) -/
def State.resetLayer (s : State) (link : Nat) : State :=
  if link = 0 then { s with layers := vMod s.layers 0 (fun _ => FlitLayer.reset) }
  else
    let n : U64 := BitVec.ofNat 64 (64 * (vGet s.layers link FlitLayer.reset).unsent)
    { (s.modPort (link - 1) (fun x => { x with txBytes := x.txBytes - n })) with
      layers := vMod s.layers link (fun _ => FlitLayer.peer) }

/-- Slot lines whose producer line was never written are sent again after the link's return. -/
def State.resendSlots (s : State) (c : Nat) : State :=
  let mine (d : Deferred) : Bool := match d.write with
    | .producer c' _ => c' == c
    | _ => false
  if s.link.deferred.any mine then
    let q := s.cqRing c
    let s0 := s.modLink (fun l => { l with deferred := l.deferred.filter (fun d => !mine d) })
    let s1 := (slotLines (s.setting (cqObj c) 2) (s.cqSize c) q.consumer.toNat
      (q.producer - q.consumer).toNat).foldl (State.sendLineOf true) s0
    s1.modLink (fun l => { l with
      deferred := l.deferred ++ [Deferred.mk (newWrites s0 s1) (.producer c q.producer)] })
  else s

/-- What the link's loss may have taken of a ring's own index lines is written again. -/
def State.ownIndex (s : State) (n : Nat) : State :=
  let s := if (s.cmdRing n).enabled then s.writeConsumer n else s
  let late := s.link.deferred.any (fun d => match d.write with
    | .producer c _ => c == n
    | .completion _ => false)
  if late then s.resendSlots n
  else if (s.cqRing n).enabled then s.writeT2 (s.setting (cqObj n) 4) (toLe 64 (s.cqRing n).producer.toNat)
  else s

/-- The module's advertisement to the companion (R390, Table 13-5). -/
def State.cohAdvert (s : State) : State := s.send (.cohAdvertise s.ident.serial 8192 8192 128 32 32 4096)

/-- Message places and data cells that the companion grants, by channel. -/
def grantedMsgs (req srsp wrsp : Nat) : Vector Nat 8 := #v[req, 0, 0, srsp, 0, wrsp, 0, 0]
def grantedCells (req wrsp : Nat) : Vector Nat 8 := #v[req, 0, 0, 0, 0, wrsp, 0, 0]

/-- The link stays down or goes down: the base set of R31 is absent, which `sys` tells (R390, R391). -/
def State.linkAbsent (s : State) : State :=
  (s.modLink (fun l => { l with state := 0, failed := true, width := 0, lanesOk := 0 })).refreshSys

/-- LINK_TRAINED (R390): the link comes up with its advertisements, or stays down. (Log entry 75: DEDUCED, unsafe.) -/
def State.linkTrained (s : State) (base size : U64) (lanes : U16)
    (reqMsgs reqCells srspMsgs wrspMsgs wrspCells : Nat) : State :=
  if !s.linksRun then s
  else
  let s := s.cohAdvert
  match cohLanes s.link.maxWidth lanes with
  | some (w, m) =>
    if adverts size reqMsgs reqCells srspMsgs wrspMsgs wrspCells then
      let s := (s.modLink (fun l => { l with
        state := 2, failed := false, width := w, lanesOk := m, maxWidth := w, reqCredits := reqMsgs, t2Base := base,
        t2Size := size.toNat })).resetLayer 0
      let s := { s with layers := vMod s.layers 0 (fun y =>
        y.granted (grantedMsgs reqMsgs srspMsgs wrspMsgs) (grantedCells reqCells wrspCells)) }
      ((List.range 64).foldl (fun s c => s.ownIndex c) s).resumeTraffic
    else s.linkAbsent
  | none => s.linkAbsent

def execLinkTrained (base size : U64) (lanes : U16)
    (reqMsgs reqCells srspMsgs wrspMsgs wrspCells : Nat) (s : State) :
    Host.Outcome State Fault Refusal :=
  .next (s.linkTrained base size lanes reqMsgs reqCells srspMsgs wrspMsgs wrspCells)

/-- COHERENT_LINK_LOST (R391): the link is down, every outstanding request is abandoned, and the link
lost fault is raised. Records whose reads are abandoned are read anew. (Log entry 75: DEDUCED, unsafe.) -/
def State.linkLost (s : State) : State :=
  ((s.unsettle.refetchRings (fun _ => true)).linkAbsent.modLink (fun l => { l with
    reads := [], writes := [], slotWrites := [], undo := [], shared := [], sources := [],
    deferred := l.deferred.map (fun d => { d with needs := [] }) })).raiseFault srcClLost

def execCoherentLinkLost (s : State) : Host.Outcome State Fault Refusal := .next s.linkLost

/-- LINK_TRAINING_RETRY (R391): while the link is down a training attempt begins. -/
def State.trainLink (s : State) : State :=
  if s.link.state == 0 && s.linksRun then s.modLink (fun l => { l with state := 1 }) else s

def execLinkTrainingRetry (s : State) : Host.Outcome State Fault Refusal := .next s.trainLink

/-- WATCH_POLL (R385): the backstop interval ran out, and every watched line is read again. -/
def State.watchPoll (s : State) : State :=
  if s.setting 0x1110 5 != 0 && s.traffic then s.rewatch (fun _ => true) else s

def execWatchPoll (s : State) : Host.Outcome State Fault Refusal := .next s.watchPoll

/-! ### Flits -/

def flitHeader (f : Flit) : Nat := bytesLe f.bytes 0 8
def flitSeq (f : Flit) : BitVec 12 := BitVec.ofNat 12 (flitHeader f / 2 ^ 52)
def flitAckNo (f : Flit) : BitVec 12 := BitVec.ofNat 12 (flitHeader f / 2 ^ 40)
def flitNak (f : Flit) : Bool := flitHeader f / 2 ^ 39 % 2 == 1
def flitCrCh (f : Flit) : Nat := flitHeader f / 2 ^ 36 % 8
def flitCrN (f : Flit) : Nat := flitHeader f / 2 ^ 24 % 4096
/-- Descriptor of cell `c`. -/
def flitCell (f : Flit) (c : Nat) : Nat := flitHeader f / 2 ^ (6 * c) % 64
def cellKind (d : Nat) : Nat := d / 16
def cellChannel (d : Nat) : Nat := d / 2 % 8

/-- Opcodes of the messages in cell `c`, unused places left out. -/
def cellOpcodes (f : Flit) (c : Nat) : List Nat :=
  ((List.range 4).map (fun i => bytesLe f.bytes (8 + 64 * c + 16 * i) 1)).filter (· != 0)

/-- The flit arrived whole: its codeword could be corrected and its CRC is right. -/
def flitGood (f : Flit) : Bool :=
  f.fecGood && f.bytes.length == 272 && (crc64 (f.bytes.take 264)).toNat == bytesLe f.bytes 264 8

/-- Opcodes the companion may send on a channel (Table 13-4). -/
def cohOpcodes (ch : Nat) : List Nat :=
  match ch with
  | 1 => [0x10, 0x11, 0x12]
  | 2 => [0x20]
  | 4 => [0x30, 0x31]
  | _ => []

/-- Messages that carry a data cell. -/
def awaitsData (op : Nat) : Bool := op == 0x10 || op == 0x31

/-- Removes the oldest message of a channel that waits for its data cell. -/
def takeAwaiting (ch : Nat) : List Nat → Option (List Nat)
  | [] => none
  | x :: xs => if x == ch then some xs else (takeAwaiting ch xs).map (x :: ·)

/-- One cell of a coherent link flit: the channels' waiting messages after it, none for a break of
R383. Cells of the reserved kind carry nothing. (Log entry 74: DEDUCED, unsafe.) -/
def cohCell (f : Flit) (awaiting : List Nat) (c : Nat) : Option (List Nat) :=
  let d := flitCell f c
  let ch := cellChannel d
  match cellKind d with
  | 1 =>
    let ops := cellOpcodes f c
    if ops.all (fun o => (cohOpcodes ch).contains o) then
      some (awaiting ++ (ops.filter awaitsData).map (fun _ => ch))
    else none
  | 2 => takeAwaiting ch awaiting
  | _ => some awaiting

/-- Channels a peer port may carry (R395, R398). -/
def peerChannels (port state : Nat) : List Nat :=
  if state == 3 then [] else if port == 0 then [1, 2, 4] else [0, 1, 2, 3]

/-- What the receiver answers: an acknowledgement of the last flit in order. Its header returns credits that the module
owes (Table 13-2). -/
def State.sendAck (s : State) (link : Nat) (nak : Bool) : State :=
  let y := vGet s.layers link FlitLayer.reset
  ({ s with layers := vMod s.layers link (fun y => { y.repaid with sinceAck := 0 }) }).send
    (.flitAck link y.rxSeq nak y.owing y.owingN)

/-- Every flit after the last acknowledged one is sent again (R380, R381). -/
def State.resendFlits (s : State) (link : Nat) : State :=
  let k : U64 := BitVec.ofNat 64 (vGet s.layers link FlitLayer.reset).unacked.length
  if link == 0 then s.modLink (fun l => { l with replays := l.replays + k })
  else s.modPort (link - 1) (fun p => { p with replays := p.replays + k })

/-- An in-service retrain at the present width: traffic resumes from the flit after the last acknowledged one (R380,
R381). -/
def State.retrainLink (s : State) (link : Nat) : State :=
  let s := { s with layers := vMod s.layers link (fun y => { y with resends := 0 }) }
  let s := if link == 0 then s.modLink (fun l => { l with retrains := l.retrains + 1 }) else s
  (s.resendFlits link).setLinkCause link

/-- The flits after an acknowledged one, in serial order. -/
def flitsAfter (ack : BitVec 12) (l : List KeptFlit) : List KeptFlit :=
  l.filter (fun e => decide (1 ≤ (e.seq - ack).toNat) && decide ((e.seq - ack).toNat < 2048))

/-- Credits returned for a channel, up to what the other side grants; those of a peer port's BULK fill its first set,
then the second. -/
def returned (link ch n : Nat) (top v : Vector Nat 8) : Vector Nat 8 :=
  let first := min n (vGet top ch 0 - vGet v ch 0)
  let w := vMod v ch (· + first)
  if link != 0 && ch == 1 then vMod w 5 (fun x => min (vGet top 5 0) (x + (n - first))) else w

/-- A flit's credits and acknowledgement reach the transmitter. A returned credit gives back a message place and a
data cell of its channel. (Log entry 118: DESIGN CHOICE, unsafe.) -/
def FlitLayer.credited (y : FlitLayer) (link : Nat) (f : Flit) : FlitLayer :=
  { y with
    unacked := flitsAfter (flitAckNo f) y.unacked,
    msgCredits := returned link (flitCrCh f) (flitCrN f) y.msgTop y.msgCredits,
    cellCredits := returned link (flitCrCh f) (flitCrN f) y.cellTop y.cellCredits }

/-- The other side's `ack` and `nak` (R380): a `nak` resends every flit after the acknowledged one; eight resends in a
row without acknowledgement start a retrain. What waited leaves as room and credit allow. -/
def State.takeAckNak (s : State) (link : Nat) (f : Flit) : State :=
  let y := vGet s.layers link FlitLayer.reset
  let progress := flitAckNo f != y.lastAck
  let n := if progress then 0 else y.resends
  let s := { s with layers := vMod s.layers link (fun y => { y.credited link f with lastAck := flitAckNo f }) }
  if flitNak f && !(y.credited link f).unacked.isEmpty then
    let s := (s.resendFlits link).pumpLink link
    let s := { s with layers := vMod s.layers link (fun y => { y with resends := n + 1 }) }
    if n + 1 ≥ 8 then s.retrainLink link else s
  else { s with layers := vMod s.layers link (fun y => { y with resends := n }) }.pumpLink link

/-! ### The module's own flits (R379, R383) -/

/-- The 16-byte message of Table 13-4: opcode, flags zero, tag, address, reserved bytes zero. -/
def cohBytes (op : Nat) (tag : U16) (addr : Nat) : List Byte :=
  toLe 1 op ++ [0] ++ toLe 2 tag.toNat ++ toLe 8 addr ++ toLe 4 0

/-- Bytes followed by zeros up to `n`. -/
def zeroPad (n : Nat) (b : List Byte) : List Byte := (b ++ List.replicate (n - b.length) 0).take n

/-- A message of the coherent link and the line of its data cell. -/
def Sent.cohMessage : Sent → Option (List Byte × Option Line)
  | .rdShared tag a => some (cohBytes 0x01 tag a, none)
  | .rdOnce tag a => some (cohBytes 0x02 tag a, none)
  | .wrFull tag a l => some (cohBytes 0x03 tag a, some l)
  | .evict a => some (cohBytes 0x04 0 a, none)
  | .invAck tag a => some (cohBytes 0x21 tag a.toNat, none)
  | .winData tag l => some (cohBytes 0x32 tag 0, some l)
  | .winDone tag => some (cohBytes 0x33 tag 0, none)
  | _ => none

/-- A message of a peer port whose layout is not stated: 16 bytes with an opcode that is not 0. (Log entry 73: DESIGN
CHOICE, unsafe.) -/
def openMessage (n : Nat) : List Byte := toLe 1 (1 + n % 255) ++ toLe 15 (n / 255)

/-- The 16 bytes of a message, by its place in the transfer. -/
def Sent.message (m : Sent) (place : Nat) : List Byte :=
  match m with
  | .peer _ m => lineBytes m 16
  | .sync _ d m => openMessage (Config.syncBytes d m)
  | .ackp _ d a => openMessage (Config.ackBytes d a)
  | .bulk _ d b => openMessage (Config.bulkBytes d b place)
  | m => (m.cohMessage.map (·.1)).getD []

/-- Data cell `c` of a message. -/
def Sent.dataCell (m : Sent) (c : Nat) : List Byte :=
  match m with
  | .bulk _ _ b => zeroPad 64 (((bulkData b).drop (64 * c)).take 64)
  | m => ((m.cohMessage.bind (·.2)).map (fun l => lineBytes l 64)).getD (List.replicate 64 0)

/-- Kinds and bytes of the cells of a message's flit `k` (Table 13-2). -/
def Sent.cellsAt (m : Sent) (k : Nat) : List (Nat × List Byte) :=
  let f := m.flitAt k
  (f.1.map (fun i => (1, zeroPad 64 (m.message i)))).toList ++
    (List.range f.2.2).map (fun i => (2, m.dataCell (f.2.1 + i)))

/-- Header of a flit whose cells have these kinds, all of one channel (Table 13-2). -/
def flitHead (f : KeptFlit) (ack : BitVec 12) (kinds : List Nat) : Nat :=
  f.seq.toNat * 2 ^ 52 + ack.toNat * 2 ^ 40 + f.crCh * 2 ^ 36 + f.crN * 2 ^ 24 +
    (kinds.mapIdx (fun c k => (16 * k + 2 * f.msg.channel.1) * 2 ^ (6 * c))).foldl (· + ·) 0

/-- A flit as it is sent: header, cells and CRC. -/
def KeptFlit.bytes (f : KeptFlit) (ack : BitVec 12) : List Byte :=
  let cells := f.msg.cellsAt f.part
  let b := toLe 8 (flitHead f ack (cells.map (·.1))) ++ zeroPad 256 (cells.flatMap (·.2))
  b ++ toLe 8 (crc64 b).toNat

/-- The flits that a link's transmitter keeps: the unacknowledged ones, oldest first (R380). -/
def State.keptFlits (s : State) (link : Nat) : List (List Byte) :=
  let y := vGet s.layers link FlitLayer.reset
  y.unacked.map (fun e => e.bytes y.rxSeq)

/-- Cells of a flit that are not empty. -/
def fullCells (f : Flit) : Nat :=
  ((List.range 4).filter (fun c => cellKind (flitCell f c) == 1 || cellKind (flitCell f c) == 2)).length

/-- One cell of a peer port's flit: a message of BULK announces 1 to 1,024 data cells, in a field that is not stated; a
data cell belongs to the oldest message of its channel that awaits one. (Log entry 73: DESIGN CHOICE, unsafe.) -/
def peerCell (f : Flit) (awaiting : List Nat) (c : Nat) : List Nat :=
  let d := flitCell f c
  let ch := cellChannel d
  match cellKind d with
  | 1 => if ch != 1 then awaiting else
      awaiting ++ ((List.range 4).filter (fun i => bytesLe f.bytes (8 + 64 * c + 16 * i) 1 != 0)).flatMap (fun i =>
        List.replicate (1 + Config.bulkCells (bytesLe f.bytes (8 + 64 * c + 16 * i) 16) % 1024) ch)
  | 2 => (takeAwaiting ch awaiting).getD awaiting
  | _ => awaiting

/-- What cell `c` of a flit takes of a channel's places: messages, and for a peer port's BULK its data cells. -/
def cellPlaces (link : Nat) (f : Flit) (c : Nat) : Nat :=
  let d := flitCell f c
  let bulk := link != 0 && cellChannel d == 1
  match cellKind d with
  | 1 => if bulk then 0 else (cellOpcodes f c).length
  | 2 => if bulk then 1 else 0
  | _ => 0

/-- Places that a flit takes: the module returns as many credits. -/
def FlitLayer.owes (y : FlitLayer) (link : Nat) (f : Flit) : FlitLayer :=
  { y with owed := (List.range 4).foldl (fun v c => vMod v (cellChannel (flitCell f c)) (· + cellPlaces link f c)) y.owed }

/-- Delivers the cells of a flit in order. What each message does is the row of that message. (Log entry 73: DESIGN CHOICE, unsafe.) -/
def State.deliverCells (s : State) (link : Nat) (f : Flit) : State :=
  if link == 0 then
    let y := vGet s.layers 0 FlitLayer.reset
    match (List.range 4).foldl (fun a c => a.bind (fun w => cohCell f w c)) (some y.awaiting) with
    | some w => { s with layers := vMod s.layers 0 (fun y => { y with awaiting := w }) }
    | none => s.protoFault
  else
    let p := link - 1
    let n : U64 := BitVec.ofNat 64 (64 * fullCells f)
    let s := s.modPort p (fun x => { x with rxBytes := x.rxBytes + n })
    let s := { s with layers := vMod s.layers link (fun y => { y with
      awaiting := (List.range 4).foldl (peerCell f) y.awaiting }) }
    let ok := (List.range 4).all (fun c =>
      let d := flitCell f c
      cellKind d == 0 || (peerChannels p (s.port p).state).contains (cellChannel d))
    if ok then s else s.raiseFault srcPeer

/-- FLIT (R379, R380): counted, checked, delivered once and in order, or discarded with a `nak`. (Log entry 73: DESIGN CHOICE, unsafe.) -/
def State.flit (s : State) (link : Nat) (f : Flit) : State :=
  let s := if link == 0 then s.modLink (fun l => { l with
      fecCorrected := l.fecCorrected + BitVec.ofNat 64 f.fecFixed,
      fecUncorr := if f.fecGood then l.fecUncorr else l.fecUncorr + 1 })
    else s
  let y := vGet s.layers link FlitLayer.reset
  if !flitGood f then s.sendAck link true
  else
    let ahead := (flitSeq f - y.rxSeq).toNat
    if ahead == 0 || ahead ≥ 2048 then s
    else if ahead ≠ 1 then s.sendAck link true
    else
      let s := { s with layers := vMod s.layers link (fun y => { y.owes link f with
        rxSeq := flitSeq f, sinceAck := y.sinceAck + 1 }) }
      let s := (s.takeAckNak link f).deliverCells link f
      if y.sinceAck + 1 ≥ 32 then s.sendAck link false else s

def execFlit (link : Nat) (f : Flit) (s : State) : Host.Outcome State Fault Refusal :=
  .next (s.flit link f)

/-- ACKNOWLEDGE_INTERVAL (R380): 100 ns without an acknowledgement after a flit. -/
def State.ackInterval (s : State) (link : Nat) : State :=
  if (vGet s.layers link FlitLayer.reset).sinceAck == 0 then s else s.sendAck link false

def execAcknowledgeInterval (link : Nat) (s : State) : Host.Outcome State Fault Refusal :=
  .next (s.ackInterval link)

end Sys2Proof.Machine
end

