-- ==== Sys2Proof/Machine/Rendezvous.lean ====
section
/-!
DEFINITION. How a barrier or a collective completes on this module (14 R411 to R415).
-/

namespace Sys2Proof.Machine

/-! ### Collectives (R415) -/

/-- Parts of a barrier's present instance, in ascending rank. -/
def Barrier.sorted (x : Barrier) : List Parts :=
  sortBy (fun (a b : Parts) => decide (a.rank ≤ b.rank)) (x.parts.filter (fun p => p.epoch == x.epoch))

/-- Part number i + G × j is part j of the member at position i. -/
def partOf (ps : List Parts) (n : Nat) : List Byte :=
  match ps[n % ps.length]? with
  | some p => (p.data.drop (n / ps.length * p.partBytes)).take p.partBytes
  | none => []

/-- Every part, in ascending part number. -/
def allParts (ps : List Parts) : List (List Byte) :=
  (List.range (ps.length * (ps.head?.map (·.parts)).getD 0)).map (partOf ps)

/-- FP32 elements of a part. -/
def partWords (b : List Byte) : List U32 := (chunks 4 b).map (ofBytes 32)

/-- ((p0 + p1) + p2) + … for each element. -/
def reduceParts : List (List Byte) → List Byte
  | [] => []
  | p :: ps => (ps.foldl (fun acc q => List.zipWith add32 acc (partWords q)) (partWords p)).flatMap
      (fun x => toLe 4 x.toNat)

/-- What COLLECT writes at `dst`. -/
def collected (reduce : Bool) (ps : List Parts) : List Byte :=
  if reduce then reduceParts (allParts ps) else (allParts ps).flatten

/-- A member's parts reach a barrier: those of the present instance must agree in form. -/
def State.takeParts (s : State) (b : Nat) (p : Parts) : State :=
  let x := s.barrierAt b
  if x.parts.any (fun q => q.rank == p.rank && q.epoch == p.epoch) then s
  else if x.parts.any (fun q => q.epoch == p.epoch && (q.partBytes != p.partBytes || q.parts != p.parts)) then
    s.raiseFault srcSync
  else s.modBarrier b (fun x => { x with parts := x.parts ++ [p] })

/-! ### Completion (R412) -/

/-- What a virtual core waits for at barrier `b`: none, a release, or a collective's data. -/
def waitAt (b : Nat) (w : CoreWait) : Option (Option CoreWord) :=
  match w with
  | .barrier n => if n = b then some Option.none else Option.none
  | .collect n i => if n = b then some (some i) else Option.none
  | _ => Option.none

/-- Virtual cores that wait at barrier `b`. -/
def State.waitersAt (s : State) (b : Nat) : List (Nat × Option CoreWord) :=
  s.cores.vcores.filterMap (fun c => (waitAt b c.2.wait).map (fun w => (c.1, w)))

/-- Own member cores have all arrived. -/
def Barrier.coresIn (x : Barrier) : Bool :=
  match x.group with
  | none => false
  | some g => (List.range 64).all (fun c => !g.1.getLsbD c || x.cores.contains c)

/-- The instance can complete here: every member has arrived, and for a collective all parts are in. -/
def State.barrierDone (s : State) (b : Nat) : Bool :=
  let x := s.barrierAt b
  x.coresIn && x.allIn &&
    (!(s.waitersAt b).any (fun w => w.2.isSome) ||
      (match x.group with
       | some g => g.2.all (fun r => x.sorted.any (fun p => p.rank == r))
       | none => false))

/-- One member core is released; a collective's data is written. -/
def State.releaseCore (ps : List Parts) (s : State) (w : Nat × Option CoreWord) : State :=
  s.modVcore w.1 (fun c => match w.2 with
    | none => { c with wait := .none }
    | some i => { c with
        wait := .none, sram := writeBytes c.sram (64 * wCollectDst i) (collected (wReduce i) ps) })

/-- Whole microseconds from the module's own arrival to the release (R501). -/
def State.waitedUs (s : State) (x : Barrier) : Nat := (s.timestamp - x.since).toNat / 95

/-- Releases a barrier of programs that is complete. -/
def State.tryBarrier (s : State) (b : Nat) : State :=
  if decide (b < 56) && s.barrierDone b then
    let x := s.barrierAt b
    let s := (s.waitersAt b).foldl (State.releaseCore x.sorted) s
    let s := { s with sync := { s.sync with slackUs := max s.sync.slackUs (s.waitedUs x) } }
    s.nextEpoch b
  else s

/-- A virtual core arrives with its masks and waits (R412, R413). -/
def State.coreArrival (s : State) (b vc : Nat) (mask : U64) (ranks : List Nat) (wait : CoreWait) : State :=
  let x := s.barrierAt b
  if !x.agrees mask ranks then s.raiseFault srcSync
  else
    let s := s.modBarrier b (fun x => { x.fixed mask ranks with cores := x.cores ++ [vc] })
    let s := s.modVcore vc (fun c => { c with wait := wait })
    let s := if (s.barrierAt b).coresIn then s.ownArrival b else s
    s.tryBarrier b

end Sys2Proof.Machine
end

