-- ==== Sys2Proof/Machine/Peer.lean ====
section
/-!
DEFINITION. Peer ports: training, reports, lanes, and the traffic of SYNC, BULK, ACKP and SLACK
(13 R381, R395 to R398; 10 R305, R306, R311; 14 R413, R414; 18 R501 to R503).
-/

namespace Sys2Proof.Machine

/-! ### The state of a port (R395, R397) -/

/-- A port on a route that is down or foreign raises the peer link fault. -/
def State.routeFault (s : State) (onRoute : Bool) : State :=
  if onRoute then s.raiseFault srcPeer else s

/-- Traffic that waited for the neighbour to report the job leaves in order. -/
def State.releaseWaiting (s : State) (p : Nat) : State :=
  if s.nbrInJob p then
    (s.port p).waiting.foldl (fun s m => s.putOnPort p m) (s.modPort p (fun x => { x with waiting := [] }))
  else s

/-- The neighbour's report is taken: the port becomes `up` or `foreign`. (Log entry 79: DEDUCED, unsafe.) -/
def State.takeReport (s : State) (p : Nat) (job : U64) (rank : Nat) : State :=
  let s := (s.modPort p (fun x => { x with nbrJob := job, nbrRank := rank })).judgePort p
  let s := s.releaseWaiting p
  s.routeFault ((s.port p).state == 3 && s.onRoute p)

/-- The port may train: links run, it is enabled, and for port 0 the twin is cabled (R531). -/
def State.portTrains (s : State) (p : Nat) : Bool :=
  s.linksRun && (s.port p).state != 4 && (p != 0 || s.pairing.cabled)

/-- PEER_PORT_TRAINED. -/
def State.portTrained (s : State) (p : Nat) (lanes : Byte) (serial : U64) (job : Option (U64 × Nat)) :
    State :=
  if !s.portTrains p then s
  else match peerLanes (s.port p).maxWidth lanes with
    | none => s.movePort p (fun x => { x with state := 0, lanesOk := 0 })
    | some (w, m) =>
      let s := ((s.resetLayer (1 + p)).modPort p (fun x => { x with
        state := 2, lanesOk := m, maxWidth := w, nbrSerial := serial })).setLinkCause (1 + p)
      let s := (s.advertise p).takeReport p ((job.map (·.1)).getD 0) ((job.map (·.2)).getD 0xFFFF)
      if p = 0 then s.tryPair else s

def execPeerPortTrained (port : Nat) (lanes : Byte) (serial : U64) (job : Option (U64 × Nat)) (s : State) :
    Host.Outcome State Fault Refusal :=
  .next (s.portTrained port lanes serial job)

/-- Pairing leaves for ALONE; out of PAIRED, seals that wait for the twin go on without it (R518). The
mirror index is cleared when the pair was DETACHING. -/
def State.endPair (s : State) : State :=
  let was := s.pairing.state
  if was == 0 then s
  else
    let s := s.setPair 0
    let s := if was == 2 then s.unpairSeals else s
    if was == 3 then
      { s with
        granary := { s.granary with mirror := [] },
        pairing := { s.pairing with twinSerial := 0 } }
    else s

/-! ### MOVEs under way (R311, R316) -/

/-- The seal in progress of a session is a MOVE that has been sent. -/
def Session.movingNow (x : Session) : Option Sealing :=
  match x.sealing with
  | q :: _ => (match q.cause with
    | .move _ _ _ => if q.sent then some q else none
    | _ => none)
  | [] => none

/-- Result bytes of a MOVE (Table 10-9). -/
def moveResult (state root sent rank status : Nat) : List Byte :=
  toLe 1 state ++ [0, 0, 0] ++ toLe 4 root ++ toLe 4 sent ++ toLe 2 rank ++ toLe 2 status ++ [0, 0, 0, 0]

def SealCause.rank : SealCause → Nat
  | .move _ r _ => r
  | _ => 0

/-- The state that a MOVE left. -/
def SealCause.fromState : SealCause → Nat
  | .move _ _ st => st
  | _ => 0

/-- Sends MOVEs that waited for their port, and starts those of parked sessions. -/
def State.sendMoves (s : State) : State :=
  (((s.granary.directory.filter (fun x => x.sealing.head?.any (fun q => q.started && !q.sent && (match q.cause with
    | .move _ _ _ => true
    | _ => false)))).map (·.handle)).foldl (fun s h => s.sealComplete h) s).startWaiters

/-- The MOVE of a session is refused: the source goes back to its earlier state. -/
def State.refuseMove (s : State) (h : U64) (status : Nat) : State :=
  match (s.session? h).bind Session.movingNow with
  | some q => s.failSealWith h stMoveRefused (fun st =>
      moveResult st ((q.taken.map (·.root)).getD 0) ((q.taken.map (·.entries.length)).getD 0) q.cause.rank status)
  | none => s

/-- Sessions whose MOVE has been sent through a port. -/
def State.movesOn (s : State) (p : Nat) : List U64 :=
  (s.granary.directory.filter (fun x => x.movingNow.any (fun q => s.routePort q.cause.rank == some p))).map (·.handle)

/-- A port leaves `up`, `foreign` or `training`. A disabled port is `disabled`, any other `down`. MOVEs
sent through the port are refused, with no status of the target (R311). (Log entry 76: DEDUCED, unsafe.) -/
def State.portDown (s : State) (p : Nat) (state : Nat) : State :=
  let old := (s.port p).state
  let route := s.onRoute p
  let moves := s.movesOn p
  if old == 0 || old == 4 then s.movePort p (fun x => { x with state := state })
  else
    let s := (s.movePort p (fun x => { x with
      state := state, lanesOk := 0, nbrSerial := 0, nbrRank := 0xFFFF, nbrJob := 0, balance := 0,
      report := none, waiting := [] }))
    let s := { s with inbox := s.inbox.filter (fun e => e.1 != p) }
    let s := if p = 0 then s.endPair else s
    let s := moves.foldl (fun s h => s.refuseMove h 0) s
    s.routeFault (route && old != 1)

/-- PEER_PORT_DOWN. -/
def execPeerPortDown (port : Nat) (s : State) : Host.Outcome State Fault Refusal :=
  .next (if (s.port port).state == 4 then s else s.portDown port 0)

/-- JOIN_TIMEOUT: traffic has waited `join_ms` for the neighbour's job. Time in Hold does not count (R496). -/
def execJoinTimeout (port : Nat) (s : State) : Host.Outcome State Fault Refusal :=
  .next (if (s.port port).waiting.isEmpty || s.power.pstate == 2 then s else s.raiseFault srcPeer)

/-- NEIGHBOUR_JOB_REPORT; rank 0xFFFF says that the neighbour has no job. -/
def execNeighbourJobReport (port : Nat) (job : U64) (rank : Nat) (s : State) :
    Host.Outcome State Fault Refusal :=
  .next (if (s.port port).state == 2 || (s.port port).state == 3 then s.takeReport port job rank else s)

/-! ### Lanes (R381) -/

/-- A lane in use of the coherent link no longer works. -/
def State.cohLaneFailure (s : State) (working : U16) : State :=
  if s.link.state != 2 || (s.link.lanesOk &&& working) == s.link.lanesOk then s
  else match cohLanes s.link.maxWidth working with
    | some (w, m) => (s.modLink (fun l => { l with
        width := w, lanesOk := m, maxWidth := w, retrains := l.retrains + 1 })).resendFlits 0 |>.setLinkCause 0
    | none => s.linkLost

/-- A lane in use of a peer port no longer works. -/
def State.peerLaneFailure (s : State) (p : Nat) (working : Byte) : State :=
  let x := s.port p
  if (x.state != 2 && x.state != 3) || (x.lanesOk &&& working) == x.lanesOk then s
  else match peerLanes x.maxWidth working with
    | some (w, m) => ((s.modPort p (fun x => { x with lanesOk := m, maxWidth := w })).resendFlits (1 + p)).setLinkCause (1 + p)
    | none => s.portDown p 0

def execLaneFailure (link : Nat) (working : U16) (s : State) : Host.Outcome State Fault Refusal :=
  .next (if link = 0 then s.cohLaneFailure working else s.peerLaneFailure (link - 1) (working.setWidth 8))

/-! ### Traffic that arrives -/

/-- Channel of what arrives (Table 13-7). -/
def PeerIn.channel : PeerIn → Nat
  | .sync _ _ => 0
  | .bulk _ _ => 1
  | .ackp _ _ => 2
  | .slack _ => 3
  | .pair _ _ => 4

/-- What arrives waits: in Hold and in Sleep (Table 18-5), behind what waits on its channel, or with `waits`. -/
def State.peerWaits (s : State) (p : Nat) (x : PeerIn) (waits : Bool) : Bool :=
  decide (2 ≤ s.power.pstate) || s.inbox.any (fun e => e.1 == p && e.2.channel == x.channel) || waits

/-- Traffic reaches a port: nothing arrives at a port that is not up; a channel that the port may not carry raises the
peer link fault (R395, R398); what waits is taken later. (Log entry 77: DESIGN CHOICE, safe.) -/
def State.onChannel (s : State) (p : Nat) (x : PeerIn) (waits : Bool) (k : State → State) : State :=
  let st := (s.port p).state
  if st == 2 || st == 3 then
    (if !(peerChannels p st).contains x.channel then s.raiseFault srcPeer
     else if s.peerWaits p x waits then { s with inbox := s.inbox ++ [(p, x)] } else k s)
  else s

/-- A message for another rank is relayed (R396); its cells are counted on the port by which it leaves. (Log entry 76: DEDUCED, unsafe.) -/
def State.relay (s : State) (dst : Nat) (mk : Nat → Sent) : State :=
  match s.routePort dst with
  | some q =>
    (s.modPort q (fun x => { x with relayed := x.relayed + BitVec.ofNat 64 (mk q).cells })).sendOnPort q (mk q)
  | none => s

/-- Traffic of the job: relayed, dropped while the module is in the fault state or has no job, or taken. -/
def State.forMe (s : State) (dst : Nat) (mk : Nat → Sent) (k : State → State) : State :=
  if s.faulted || s.job.state == 0 then s
  else if dst != s.job.rank then s.relay dst mk
  else (k s).finishDrained

/-! ### SYNC (R413, R414) -/

/-- An arrival or release: held for a later epoch, without effect from an earlier one. -/
def State.syncArrives (s : State) (m : SyncMsg) : State :=
  let x := s.barrierAt m.barrier
  if 64 ≤ m.barrier || m.epoch.toNat < x.epoch.toNat then s
  else if m.epoch != x.epoch then s.modBarrier m.barrier (fun x => { x with held := x.held ++ [m] })
  else ((if m.release then s.takeRelease m else s.takeArrival m).tryBarrier m.barrier).closeDue

/-- SYNC traffic is taken. -/
def State.syncIn (s : State) (port dst : Nat) (m : SyncMsg) : State :=
  s.onChannel port (.sync dst m) false (fun s => s.forMe dst (fun q => .sync q dst m) (fun s => s.syncArrives m))

def execBarrierArrival (port dst : Nat) (m : SyncMsg) (s : State) : Host.Outcome State Fault Refusal :=
  .next (s.syncIn port dst m)

/-- BARRIER_TIMEOUT: an instance that has an arrival is still incomplete. Time in Hold does not count (R496). -/
def execBarrierTimeout (barrier : Nat) (s : State) : Host.Outcome State Fault Refusal :=
  .next (
    let x := s.barrierAt barrier
    if (x.cores.isEmpty && x.ranks.isEmpty) || s.power.pstate == 2 then s else s.raiseFault srcSync)

/-! ### Storing sealed objects (R306, R311) -/

/-- Entries of objects stored from area position `at_` on. -/
def storedEntries (a : SealArea) (os : List SealedBale) : List SealEntry :=
  os.mapIdx (fun i (o : SealedBale) =>
    { digest := o.digest, iv := o.iv, tag := o.tag, place := (a.cursor + i) % a.bales, kind := o.kind,
      stream := o.stream, bale := o.bale })

/-- Stores objects at the tenant's cursor, their ciphertext unchanged, and a manifest of `es` after them,
its parts encrypted anew. `ivNext` is taken back by the objects, which use no invocation. -/
def State.storeSealed (s : State) (tenant : Nat) (session sealNo : U64) (os : List SealedBale)
    (es : List SealEntry) : State × SealInfo :=
  let a := s.area tenant
  let key := ((s.tenantKey tenant).map (·.bits)).getD 0
  let puts := os.mapIdx (fun i (o : SealedBale) => ((a.cursor + i) % a.bales, o.cipher))
  let groups := chunks 818 es
  let n := os.length
  let back := { s with part := { s.part with ivNext := s.part.ivNext - BitVec.ofNat 64 n } }
  let p := back.putParts key tenant a session sealNo groups.length 0 0xFFFFFFFF ⟨es, puts, n⟩ groups
  let s := p.1.puts.foldl (fun s x => s.writeT2 (a.at_ x.1) x.2) s
  let s := (s.useIvs groups.length).modArea tenant (fun a => { a with
    cursor := (a.cursor + p.1.used) % a.bales })
  let s := (s.count tenant (fun c => { c with written := c.written + BitVec.ofNat 64 p.1.used })).baleUnits
    tenant p.1.used
  (s, { number := sealNo, root := p.2.getLast?.getD 0, mirrored := false, entries := es, parts := p.2 })

/-- Area bales that storing takes. -/
def storeNeed (os : List SealedBale) (listed : Nat) : Nat := os.length + ceilDiv listed 818

/-- Both ends hold the same imported key (R440). -/
def State.keysAgree (s : State) (m : MovedSession) : Bool :=
  m.keyImported && (match s.tenantKey (handleTenant m.session) with
    | some k => k.imported && keyId k.bits == m.keyId
    | none => false)

/-! ### The twin's mirror (R305, R306, R480) -/

/-- The entry for a listed bale: an object of this message, or one of the earlier mirrored seal. -/
def mirrorEntryFor (new old : List SealEntry) (l : Nat × Nat × Nat × Digest) : Option SealEntry :=
  (new ++ old).find? (fun e => e.kind == l.1 && e.stream == l.2.1 && e.bale == l.2.2.1 && e.digest == l.2.2.2)

/-- Every listed entry, or none when one is missing. -/
def mirrorEntries (new old : List SealEntry) : List (Nat × Nat × Nat × Digest) → Option (List SealEntry)
  | [] => some []
  | l :: ls => match mirrorEntryFor new old l, mirrorEntries new old ls with
    | some e, some es => some (e :: es)
    | _, _ => none

/-- Objects of a seal of the partner that are stored, its root not recorded yet. -/
def State.incoming (s : State) (k : U64 × U64) : List SealEntry :=
  ((s.pairing.incoming.find? (fun e => e.1 == k)).map (·.2)).getD []

/-- Keeps what is stored of a session's seal: its objects so far, or nothing once its root is recorded. -/
def State.keepIncoming (s : State) (k : U64 × U64) (es : List SealEntry) : State :=
  let rest := s.pairing.incoming.filter (fun e => e.1.1 != k.1)
  { s with pairing := { s.pairing with incoming := if es.isEmpty then rest else rest ++ [(k, es)] } }

/-- The twin takes objects of a mirrored seal: its status and the state after it. With the last of them it writes the
manifest and records the root (R306). -/
def State.takeMirrored (s : State) (m : MovedSession) : State × Nat :=
  let t := handleTenant m.session
  let k := (m.session, m.sealNo)
  let old := s.mirrorEntry m.session
  let have_ := s.incoming k ++ storedEntries (s.area t) m.objects
  let need := storeNeed m.objects (if m.more then 0 else m.listed.length)
  if !s.keysAgree m then (s, stDenied)
  else if !(s.area t).takes need ||
      (old.isNone && decide (16777216 ≤ s.granary.mirror.length)) then (s, stNoSpace)
  else if m.more then ((s.storeSealed t m.session m.sealNo m.objects []).1.keepIncoming k have_, stOk)
  else match mirrorEntries have_ ((old.map (·.entries)).getD []) m.listed with
    | none => (s, stNoSpace)
    | some es =>
      let r := s.storeSealed t m.session m.sealNo m.objects es
      let e : MirrorEntry := { session := m.session, root := r.2.root, sealNo := m.sealNo, entries := es,
                               parts := r.2.parts }
      (({ r.1 with granary := { r.1.granary with
          mirror := r.1.granary.mirror.filter (fun (x : MirrorEntry) => x.session != m.session) ++ [e] } }).keepIncoming k [], stOk)

/-- Mirrored objects reach port 0: a module that is not PAIRED or is in the fault state acknowledges
nothing. -/
def State.mirroredArrives (s : State) (m : MovedSession) : State :=
  if s.faulted || s.pairing.state != 2 then s
  else
    let r := s.takeMirrored m
    r.1.putOnPort 0 (.ackp 0 0 (.twinReceipt m.session m.sealNo r.2))

/-! ### Moved sessions (R311) -/

/-- Plaintext of an object: tag and digest good under the tenant's key. -/
def State.openObject (s : State) (tenant : Nat) (o : SealedBale) : Option (List Byte) :=
  match s.tenantKey tenant with
  | none => none
  | some k =>
    match gcmOpen (lineBytes k.bits 32) (lineBytes o.iv 12) (dataAad tenant o.kind o.digest) o.cipher
        (lineBytes o.tag 16) with
    | some p => if digest256 p == o.digest then some p else none
    | none => none

/-- Every object's plaintext, or none when one fails. -/
def State.openObjects (s : State) (tenant : Nat) : List SealedBale → Option (List (SealedBale × List Byte))
  | [] => some []
  | o :: os => match s.openObject tenant o, s.openObjects tenant os with
    | some p, some ps => some ((o, p) :: ps)
    | _, _ => none

/-- A resident arrival: its bales are mapped, all of them to be written by its first seal. -/
def State.installResident (s : State) (x : Session) (v : Version) (base : Nat) (state : Nat)
    (bs : List (SealedBale × List Byte)) : State :=
  let h := x.handle
  let y := { x with
    state := state, kvBase := base, kvBytes := v.kvBytes x.maxLen, latest := none, changed := true,
    automaton := x.automaton.map (s.reviveSerial (handleTenant h) v) }
  (bs.foldl (fun s b =>
    let f := s.newFrame (handleTenant h) (writeBytes [] 0 b.2)
    f.1.modSession h (fun x => x.mapBale b.1.stream b.1.bale f.2 true)) ((s.makeRoom h).putSession (s.takeHandle y))).notePeaks (handleTenant h)

/-- A PARKED arrival: its objects go to the seal area. -/
def State.installParked (s : State) (x : Session) (v : Version) (m : MovedSession) : State :=
  let t := handleTenant m.session
  let r := s.storeSealed t m.session m.sealNo m.objects (storedEntries (s.area t) m.objects)
  (r.1.makeRoom m.session).putSession (s.takeHandle { x with
    state := 4, parkedFrom := m.parkedFrom, latest := some r.2, nextSeal := m.sealNo + 1,
    automaton := x.automaton.map (s.reviveSerial t v) })

/-- The target's judgement of an arrival (R19, R308, R311): its status and the state after it. (Log entry 78: DEDUCED, unsafe.) -/
def State.takeMoved (s : State) (m : MovedSession) : State × Nat :=
  let h := m.session
  let t := handleTenant h
  if s.job.state == 3 then (s, stJobEnded)
  else if (s.tenant? t).isNone || !s.keysAgree m then (s, stDenied)
  else if !(s.cqRing (s.setting 0x6000 1)).enabled then (s, stWrongState)
  else if !(s.sessionState h == 0 || s.sessionState h == 7) then (s, stWrongState)
  else match s.openObjects t m.objects with
    | some (st :: bs) =>
      let sm := writeBytes [] 0 st.2
      let x := Machine.sessionOf h sm
      match (s.version? x.model x.version).filter (fun v => v.state != 1) with
      | none => (s, stVersionGone)
      | some v =>
        let es := storedEntries (s.area t) (bs.map (·.1))
        if st.1.kind != 0xA1 || !(s.stateBaleOk h sm x v && s.entriesOk x v es) then (s, stSealBad)
        else if m.state == 4 then
          (let need := storeNeed m.objects m.objects.length
           if !(s.area t).takes need then (s.countRefusal t stNoSpace, stNoSpace)
           else if !s.hasRoom h then (s, stDirFull)
           else (s.installParked x v m, stOk))
        else match s.kvPlace t (v.kvBytes x.maxLen) with
          | none => (s.countRefusal t stNoSpace, stNoSpace)
          | some base =>
            if !s.t1Fits t bs.length then (s.countRefusal t stNoSpace, stNoSpace)
            else if !s.hasRoom h then (s, stDirFull)
            else (s.installResident x v base m.state bs, stOk)
    | _ => (s, stSealBad)

/-- The SESSION_ARRIVED record (R311). -/
def arrivedSlot (h : U64) (state src length : Nat) : Slot :=
  ofBytes 256 (toLe 2 0x0530 ++ toLe 2 0 ++ toLe 4 0 ++ toLe 2 0 ++ toLe 2 (handleTenant h % 4096) ++
    toLe 6 h.toNat ++ toLe 1 state ++ [0] ++ toLe 2 src ++ [0, 0] ++ toLe 4 length ++ toLe 4 0)

/-- A moved session arrives: it is installed and reported, or refused; the source is answered. (Log entry 78: DEDUCED, unsafe.) -/
def State.movedArrives (s : State) (src : Nat) (m : MovedSession) : State :=
  let r := s.takeMoved m
  let s1 := if r.2 == stOk then
      (let s1 := { r.1 with granary := { r.1.granary with movesIn := r.1.granary.movesIn + 1 } }
       let s1 := if m.state == 4 then s1 else s1.baleUnits (handleTenant m.session) m.objects.length
       let len := ((s1.session? m.session).map (·.length)).getD 0
       s1.postAfter (newWrites s r.1)
         { cq := s.setting 0x6000 1, parts := [[arrivedSlot m.session m.state src len]], done := none, int := false })
    else r.1
  s1.sendTo src (fun p => .ackp p src (.moveAck m.session r.2))

/-! ### BULK (R398) -/

/-- BULK traffic for this rank. -/
def State.bulkArrives (s : State) (b : Bulk) : State :=
  match b with
  | .collective n epoch src partBytes parts data =>
    if 56 ≤ n || epoch.toNat < (s.barrierAt n).epoch.toNat then s
    else (s.takeParts n ⟨epoch, src, partBytes, parts, data⟩).tryBarrier n
  | .deltas src rows => (s.modSheaf (fun x => { x with remote := x.remote ++ [(src, rows)] })).closeDue
  | .moved src m => s.movedArrives src m
  | .mirrored _ => s

/-- Sealed objects whose manifest cannot be encrypted yet wait (R441): no invocation can be reserved below 62 V. -/
def State.waitsIv (s : State) (m : MovedSession) (listed : Nat) : Bool :=
  !s.faulted && s.keysAgree m && (s.area (handleTenant m.session)).takes (storeNeed m.objects listed) &&
    !s.ivsOk (ceilDiv listed 818)

/-- BULK traffic is taken. -/
def State.bulkIn (s : State) (port dst : Nat) (b : Bulk) : State :=
  match b with
  | .mirrored m => s.onChannel port (.bulk dst b) (port == 0 && s.pairing.state == 2 && !m.more && s.waitsIv m m.listed.length) (fun s =>
      if port = 0 then s.mirroredArrives m else s.forMe dst (fun q => .bulk q dst b) (fun s => s))
  | .moved _ m => s.onChannel port (.bulk dst b)
      (port != 0 && dst == s.job.rank && m.state == 4 && s.waitsIv m m.objects.length) (fun s =>
        if port = 0 then s else s.forMe dst (fun q => .bulk q dst b) (fun s => s.bulkArrives b))
  | b => s.onChannel port (.bulk dst b) false (fun s =>
      if port = 0 then s else s.forMe dst (fun q => .bulk q dst b) (fun s => s.bulkArrives b))

/-- BULK: a message of a neighbour, which is a sender of commands. (Log entry 94: DESIGN CHOICE, safe.) -/
def execBulk (port dst : Nat) (b : Bulk) (s : State) : Host.Outcome State Fault Refusal := .next (s.bulkIn port dst b)

/-! ### ACKP (R305, R311) -/

/-- The target's answer to a MOVE. -/
def State.moveAnswered (s : State) (h : U64) (status : Nat) : State :=
  match s.session? h with
  | none => s
  | some x =>
    match x.movingNow with
    | none => s
    | some q =>
      let root := (q.taken.map (·.root)).getD 0
      let sent := (q.taken.map (·.entries.length)).getD 0
      if status == stOk then
        let fresh := q.cause.fromState != 4
        let s := s.modSession h (fun x => { x with sealing := x.sealing.drop 1 })
        let s := { s with granary := { s.granary with
            movesOut := s.granary.movesOut + 1,
            seals := if fresh then s.granary.seals + 1 else s.granary.seals,
            sealBales := if fresh then s.granary.sealBales + BitVec.ofNat 64 q.written
              else s.granary.sealBales } }
        let s := s.count (handleTenant h) (fun c => { c with seals := if fresh then c.seals + 1 else c.seals })
        ((s.closeSession h).completeCause q.cause [] stOk (moveResult 7 root sent q.cause.rank 0)).sendMoves
      else (s.refuseMove h status).sendMoves

/-- The twin's receipt of a seal (R305, R440): the receipt is in; or the seal fails with NO_SPACE; or it goes
on unmirrored because the keys differ. -/
def State.receiptFor (s : State) (h key : U64) (no : U64) (status : Nat) : State :=
  match s.session? h with
  | none => s
  | some x =>
    match x.sealing with
    | [] => s
    | q :: _ =>
      if !q.awaits.contains (key, no) then s
      else if status == stOk then (if s.pairing.owes (key, no) then s
        else s.modSealing h (fun q => { q with awaits := q.awaits.erase (key, no) }))
      else if status == stDenied then (s.modSealing h (fun q => { q with
        awaits := q.awaits.erase (key, no), mirror := false })).dropMirror [(key, no)]
      else s.failSeal h stNoSpace

/-- A receipt may answer the child's seal of a FORK, which its source awaits. -/
def State.twinReceipt (s : State) (key no : U64) (status : Nat) : State :=
  ((s.granary.directory.map (·.handle)).foldl (fun s h => s.receiptFor h key no status)
    (s.receiptIn key no (status == stOk))).startWaiters

def State.ackArrives (s : State) (a : AckMsg) : State :=
  match a with
  | .moveAck h status => s.moveAnswered h status
  | .twinReceipt _ _ _ => s

/-- ACKP traffic is taken. -/
def State.ackIn (s : State) (port dst : Nat) (a : AckMsg) : State :=
  s.onChannel port (.ackp dst a) false (fun s =>
    if port = 0 then (match a with
      | .twinReceipt h no status =>
        if s.faulted || s.pairing.state != 2 then s else (s.twinReceipt h no status).finishDrained
      | .moveAck _ _ => s)
    else s.forMe dst (fun q => .ackp q dst a) (fun s => s.ackArrives a))

def execAckp (port dst : Nat) (a : AckMsg) (s : State) : Host.Outcome State Fault Refusal := .next (s.ackIn port dst a)

/-! ### SLACK (R501 to R503) -/

/-- A slack report: its grant joins the balance, which `reset` zeroes first. (Log entry 79: DEDUCED, unsafe.) -/
def State.slackArrives (s : State) (p : Nat) (m : Message) : State :=
  if s.faulted || !s.slackPorts.contains p then s
  else
    let grant : Int := bytesLe (lineBytes m 16) 8 2
    s.modPort p (fun x => { x with
      balance := (if bitAt m 8 then 0 else x.balance) + grant,
      report := some (field m 4 4, field m 10 2) })

/-- SLACK traffic is taken. -/
def State.slackIn (s : State) (port : Nat) (m : Message) : State :=
  s.onChannel port (.slack m) false (fun s => s.slackArrives port m)

def execSlackReport (port : Nat) (m : Message) (s : State) : Host.Outcome State Fault Refusal :=
  .next (s.slackIn port m)

end Sys2Proof.Machine
end

