-- ==== Sys2Proof/Machine/Pairing.lean ====
section
/-!
DEFINITION. Twin pairing on peer port 0 (19 R516 to R520; 17 R480; 20 R531).
-/

namespace Sys2Proof.Machine

/-- A pairing message: on another port, or with an opcode that Table 19-6 does not give, it raises the peer
link fault (R516). (Log entry 80: DEDUCED, unsafe.) -/
def State.pairing_ (s : State) (port row : Nat) (m : Message) (k : State → State) : State :=
  s.onChannel port (.pair row m) false (fun s =>
    if 0x60 ≤ field m 0 1 && field m 0 1 ≤ 0x64 then k s else s.raiseFault srcPeer)

def messageSerial (m : Message) : U64 := m.extractLsb' 64 64

/-- Why a HELLO is incompatible: 0 for none (R516). (Log entry 80: DEDUCED, unsafe.) -/
def State.helloFault (s : State) (m : Message) : Nat :=
  if field m 4 4 != s.ident.fwGen.toNat then 1 else if bitAt m 8 then 2 else 0

/-- HELLO received: judged while PAIRING. -/
def State.hello (s : State) (m : Message) : State :=
  if s.pairing.state != 1 then s
  else
    let why := s.helloFault m
    let s := { s with pairing := { s.pairing with
      fail := why, readySent := s.pairing.readySent || why == 0 } }
    if why == 0 then s.putOnPort 0 (.peer 0 (s.pairMessage 0x61)) else s

def State.helloIn (s : State) (port : Nat) (m : Message) : State := s.pairing_ port 0 m (fun s => s.hello m)

def execHello (port : Nat) (m : Message) (s : State) : Host.Outcome State Fault Refusal := .next (s.helloIn port m)

/-- HELLO_TIMER: 10 ms while PAIRING. -/
def execHelloTimer (s : State) : Host.Outcome State Fault Refusal :=
  .next (if s.pairing.state == 1 && !s.faulted then s.putOnPort 0 (.peer 0 (s.pairMessage 0x60)) else s)

/-- PAIRED: a partner of another serial clears the mirror index (R517, R518). -/
def State.pairUp (s : State) (serial : U64) : State :=
  let s := if serial == s.pairing.twinSerial then s
    else { s with granary := { s.granary with mirror := [] } }
  let s := s.setPair 2
  { s with pairing := { s.pairing with
      twinSerial := serial, pairings := s.pairing.pairings + 1, mirroredOnce := [] } }

def State.readyIn (s : State) (port : Nat) (m : Message) : State :=
  s.pairing_ port 1 m (fun s =>
    if s.pairing.state == 1 && s.pairing.readySent then s.pairUp (messageSerial m) else s)

def execReady (port : Nat) (m : Message) (s : State) : Host.Outcome State Fault Refusal := .next (s.readyIn port m)

/-- Out of PAIRED: seals that wait for the twin go on without it (R518). -/
def State.leavePaired (s : State) (state : Nat) : State := (s.setPair state).unpairSeals

def State.detachIn (s : State) (port : Nat) (m : Message) : State :=
  s.pairing_ port 2 m (fun s =>
    if s.pairing.state == 2 then (s.leavePaired 3).putOnPort 0 (.peer 0 (s.pairMessage 0x63)) else s)

def execDetach (port : Nat) (m : Message) (s : State) : Host.Outcome State Fault Refusal := .next (s.detachIn port m)

def State.detachedIn (s : State) (port : Nat) (m : Message) : State :=
  s.pairing_ port 3 m (fun s => if s.pairing.state == 3 then s.endPair else s)

def execDetached (port : Nat) (m : Message) (s : State) : Host.Outcome State Fault Refusal := .next (s.detachedIn port m)

def execDetachTimeout (s : State) : Host.Outcome State Fault Refusal :=
  .next (if s.pairing.state == 3 then s.endPair else s)

/-- The partner fault message sets the twin cause and ends PAIRED (R480, R517). -/
def State.faultIn (s : State) (port : Nat) (m : Message) : State :=
  s.pairing_ port 4 m (fun s =>
    let s := s.setSys sysTwin
    if s.pairing.state == 2 then s.leavePaired 1 else s)

/-- FAULT. -/
def execFault (port : Nat) (m : Message) (s : State) : Host.Outcome State Fault Refusal := .next (s.faultIn port m)

/-! ### What waited to be taken -/

/-- Traffic of a port is taken. -/
def State.peerIn (s : State) (p : Nat) (x : PeerIn) : State :=
  match x with
  | .sync d m => s.syncIn p d m
  | .bulk d b => s.bulkIn p d b
  | .ackp d a => s.ackIn p d a
  | .slack m => s.slackIn p m
  | .pair 0 m => s.helloIn p m
  | .pair 1 m => s.readyIn p m
  | .pair 2 m => s.detachIn p m
  | .pair 3 m => s.detachedIn p m
  | .pair _ m => s.faultIn p m

/-- What waited to be taken is taken in order. -/
def State.takeInbox (s : State) : State := s.inbox.foldl (fun s e => s.peerIn e.1 e.2) { s with inbox := [] }

/-- TWIN_SENSE_N: while it is high, port 0 does not train (R531). -/
def execTwinSenseN (low : Bool) (s : State) : Host.Outcome State Fault Refusal :=
  .next (
    let s := { s with pairing := { s.pairing with cabled := low } }
    if low then (if (s.port 0).state == 0 && s.linksRun then s.movePort 0 (fun x => { x with state := 1 }) else s)
    else if (s.port 0).state == 4 then s else s.portDown 0 0)

end Sys2Proof.Machine
end

