-- ==== Sys2Proof/Machine/Trust.lean ====
section
/-!
DEFINITION. The safety partition (15 R426 to R449): firmware images, quotes, tenant keys, trust operations,
image staging, presence and the tamper loop. What a reset does stands in StartUp.lean.
-/

namespace Sys2Proof.Machine

/-! ### Presence (R442) -/

/-- Presence is held by the button's window, the jumper or `opened`. -/
def State.presence (s : State) : Bool := s.part.button || s.part.jumper || s.part.opened

/-- `presence_s`: whole seconds left of the 120 s since the last press. -/
def State.presenceS (s : State) : Nat :=
  if s.part.button then (120 * 95000000 - (s.timestamp - s.part.buttonAt).toNat) / 95000000 else 0

/-- PRESENCE_BUTTON: a press of at least 20 ms opens the window, or starts its 120 s again. -/
def execPresenceButton (s : State) : Host.Outcome State Fault Refusal :=
  .next { s with part := { s.part with button := true, buttonAt := s.timestamp } }

def execPresenceWindowExpiry (s : State) : Host.Outcome State Fault Refusal :=
  .next { s with part := { s.part with button := false } }

def execPresenceJumper (fitted : Bool) (s : State) : Host.Outcome State Fault Refusal :=
  .next { s with part := { s.part with jumper := fitted } }

/-! ### Firmware images (R428) -/

/-- Zero bytes at [a, b) of an image. -/
def zerosAt (bs : List Byte) (a b : Nat) : Bool := ((bs.drop a).take (b - a)).all (· == 0)

def imageFwGen (bs : List Byte) : U32 := BitVec.ofNat 32 (bytesLe bs 4 4)
def imageCounter (bs : List Byte) : Nat := bytesLe bs 8 1
def imageBodyLen (bs : List Byte) : Nat := bytesLe bs 12 4
def imageCommit (bs : List Byte) : Bool := bytesLe bs 3 1 % 2 == 1

/-- Kind, target, ranges and reserved bytes. -/
def imageForm (target : Nat) (bs : List Byte) : Bool :=
  bytesLe bs 0 2 == 0x00C0 && bytesLe bs 2 1 == target && decide (bytesLe bs 3 1 < 2) &&
    decide (imageCounter bs ≤ 128) && zerosAt bs 9 12 &&
    decide (65536 ≤ imageBodyLen bs ∧ imageBodyLen bs ≤ 67108864) && imageBodyLen bs % 64 == 0 &&
    zerosAt bs 0x70 0x100 && zerosAt bs 0x7560 0x7580

/-- Signer, signature and body digest. -/
def imageSigned (fused : Digest) (bs : List Byte) : Bool :=
  let signer := (bs.drop 0x30).take 64
  digest256 signer == fused &&
    Config.slh256Valid signer ((bs.drop 0x100).take 29792) (bs.take 0x100) &&
    digest256 (bs.drop 30080) == BitVec.ofNat 256 (bytesLe bs 0x10 32)

/-- Counter and generation of the shipped image, as its fuses and object 0x1000 tell (R537). -/
def shippedCounter : Nat := 0
def shippedGen : U32 := 1

def Firmware.gen : Firmware → U32
  | .image bs => imageFwGen bs
  | _ => shippedGen

/-- Measurement of a booted image (R433). -/
def Firmware.measure (target : Nat) : Firmware → Digest
  | .image bs => digest256 bs
  | _ => Config.shippedDigest target

/-- Result code of Table 15-12 for an image of `len` bytes; 2 when it is valid and new enough. -/
def State.judgeImage (s : State) (target : Nat) (bs : List Byte) (len : Nat) : Nat :=
  if len < 30080 || !imageForm target bs then 3
  else if len != 30080 + imageBodyLen bs then 5
  else if !imageSigned s.part.signerDigest bs then 3
  else if imageCounter bs < s.part.rollback then 4
  else 2

/-- A slot holds an image that is valid for a target (R428). -/
def State.slotValid (s : State) (target : Nat) (f : Firmware) : Bool :=
  match f with
  | .empty => false
  | .shipped => decide (s.part.rollback ≤ shippedCounter)
  | .image bs => s.judgeImage target bs bs.length == 2

/-! ### Quotes (R434, R435) -/

/-- Bytes 0x000 to 0x73F of a quote. -/
def State.quoteBody (s : State) : List Byte :=
  let p := s.part
  let bit (b : Bool) (n : Nat) : Nat := if b then n else 0
  let nonce := [1, 2, 3, 4].flatMap (fun i => toLe 8 (s.setting 0x1020 i))
  let head := toLe 2 0xB0 ++ [1] ++
    toLe 1 (bit p.opened 1 + bit p.debug 2 + bit p.jumper 4 + bit (p.spState == 1) 8) ++
    toLe 4 s.ident.fwGen.toNat ++ toLe 4 s.ident.spFwGen.toNat ++ toLe 1 p.rollback ++ [0] ++
    toLe 2 p.idGen.toNat ++ toLe 8 s.ident.serial.toNat ++ toLe 8 s.job.jobId.toNat ++ nonce ++
    lineBytes p.mRom 32 ++ lineBytes p.mSp 32 ++ lineBytes p.mMain 32 ++ lineBytes p.signerDigest 32
  padTo 1856 (padTo 0xE0 head ++ shake256 p.ek 32 ++ padTo 1568 p.ek)

/-- A quote: the body and its signature by the current identity key. -/
def State.makeQuote (s : State) : List Byte :=
  s.quoteBody ++ padTo 17088 (Config.slhSign s.part.idPriv s.quoteBody)

/-- A write of 1 to `go`: the quote is built, and is to be written at `dest`. -/
def State.startQuote (s : State) : State :=
  { s with part := { s.part with qstate := 1, quote := s.makeQuote, quoteDest := s.setting 0x1020 5 } }

/-- The built quote reaches T2, or cannot. -/
def State.endQuote (s : State) : State :=
  let d := s.part.quoteDest
  if s.part.spState == 1 || !s.linkUp || d % 64 != 0 || !s.t2Ok d 18944 then
    { s with part := { s.part with qstate := 3 } }
  else (({ s with part := { s.part with qstate := 2 } }).writeT2 d s.part.quote)

def execQuoteWritten (s : State) : Host.Outcome State Fault Refusal :=
  .next (if s.part.qstate == 1 then s.endQuote else s)

/-- `q_line`: 8 bytes of the last quote built. -/
def State.quoteLine (s : State) (i : Nat) : Nat := bytesLe s.part.quote (8 * i) 8

/-! ### Tenant keys (R436 to R440) -/

/-- Destroys every tenant key. -/
def State.destroyKeys (s : State) : State :=
  { s with tenants := s.tenants.map (fun (t : Tenant) => { t with key := none }) }

/-- The tenant has a session that is not CLOSED, or a seal in progress. -/
def State.keyBusy (s : State) (t : Nat) : Bool :=
  s.granary.directory.any (fun x => handleTenant x.handle == t && (x.state != 7 || !x.sealing.isEmpty))

/-- The key that an import blob holds for a tenant on this module and boot. -/
def State.blobKey (s : State) (t : Nat) (blob : List Byte) : Option (BitVec 256) :=
  let secret := Config.mlkemDecaps s.part.ekSecret (blob.take 0x620)
  let ascii : List Byte := [0x4C, 0x4D, 0x39, 0x2D, 0x4B, 0x45, 0x4B]
  let kek := shake256 (ascii ++ padTo 32 (secret.take 32) ++ toLe 2 t ++ toLe 4 s.ident.nonceId.toNat) 32
  if zerosAt blob 0x648 0x680 then
    (keyUnwrap kek ((blob.drop 0x620).take 40)).map (ofBytes 256)
  else none

/-- Another tenant of the job holds a key with this identifier. -/
def State.keyIdTaken (s : State) (t : Nat) (k : BitVec 256) : Bool :=
  s.tenants.any (fun x => x.number != t && x.key.any (fun y => keyId y.bits == keyId k))

/-- A write of 1 to `import`: status of R438 and the state after it. -/
def State.importKey (s : State) (t : Nat) : State × Nat :=
  match s.tenant? t with
  | none => (s, stDenied)
  | some x =>
    if s.part.debug || s.part.spState == 1 then (s, stDenied)
    else
      let src := x.keySrc.toNat
      let s := if s.t2Ok src 1664 && !s.inWindow src 1664 then s.readSources [(src, 1664)] else s
      match (if s.t2Ok src 1664 && !s.inWindow src 1664 then s.blobKey t (readBytes s.t2 src 1664) else none) with
      | none => (s, stBadParam)
      | some k =>
        if s.keyIdTaken t k then (s, stBadParam)
        else if x.key.any (·.imported) || s.keyBusy t then (s, stWrongState)
        else (s.modTenant t (fun x => { x with key := some ⟨k, true⟩ }), stOk)

/-- A write of 1 to `erase`: a fresh local key. -/
def State.eraseKey (s : State) (t : Nat) : State × Nat :=
  match s.tenant? t with
  | none => (s, stDenied)
  | some _ =>
    if s.keyBusy t then (s, stWrongState)
    else ((s.modTenant t (fun x => { x with key := some ⟨Config.random s.draws, false⟩ })).drew 1, stOk)

/-! ### Trust operations (R444) -/

/-- The job ends at once, as JOB_END with `grace_ms` 0 would end it. -/
def State.endJobNow (s : State) : State :=
  if s.job.state == 0 then s
  else if s.job.state == 3 then s.finishJob
  else
    let s := ((({ s with job := { s.job with state := 3 } }).stopTaken.stopRuns).stopRecords 0).freeJob
    { s with faults := { s.faults with owed := false } }

/-- Debug unlock (R448): the job ends, keys are destroyed, T0 and T1 are zeroed, the port opens. -/
def State.unlockDebug (s : State) : State :=
  let s := (s.endJobNow).destroyKeys
  { s with
    cores := { s.cores with vcores := [], lofts := Vector.replicate 4 [], handoffs := [] },
    tiers := { s.tiers with pages := [], host := [], windows := [], leftWindows := [] },
    part := { s.part with debug := true } }

/-- A write of `op` that is accepted: the operation starts with `src`, `len` and `dest` as they stand. A
debug unlock acts at once; the others change nothing until they complete. (Log entry 83: DEDUCED, unsafe.) -/
def State.startOp (s : State) (op : Nat) : State :=
  let s := { s with part := { s.part with
    result := 1, op := op, opSrc := s.setting 0x8100 2, opLen := s.setting 0x8100 3,
    opDest := s.setting 0x8100 4 } }
  if op == 4 then s.unlockDebug else s

def State.endOp (s : State) (result : Nat) : State :=
  { s with part := { s.part with result := result, op := 0 } }

/-- Slot that an install of a target writes: the one not booted. -/
def State.inactiveSlot (s : State) (target : Nat) : Nat := if s.part.bootSlot.getLsbD target then 0 else 1

def State.putSlot (s : State) (target slot : Nat) (f : Firmware) : State :=
  { s with part :=
    if target = 0 then { s.part with mainSlots := vMod s.part.mainSlots slot (fun _ => f) }
    else { s.part with spSlots := vMod s.part.spSlots slot (fun _ => f) } }

/-- An install ends: the image is verified and written into the inactive slot, which the next reset boots. (Log entry 83: DEDUCED, unsafe.) -/
def State.endInstall (s : State) (target : Nat) : State :=
  let len := s.part.opLen
  let recovery := s.part.spState == 1
  if recovery && s.part.staged < len then s.endOp 5
  else if !recovery && !s.t2Ok s.part.opSrc len then s.endOp 5
  else
    let bs := if recovery then readBytes s.part.staging 0 len else readBytes s.t2 s.part.opSrc len
    let s := if recovery then s else s.readSources [(s.part.opSrc, len)]
    let r := s.judgeImage target bs len
    if r == 2 then
      let slot := s.inactiveSlot target
      let s := s.putSlot target slot (.image bs)
      { s with part := { s.part with
          pendingSlot := putBit s.part.pendingSlot target (slot == 1) } }.endOp 2
    else s.endOp r

/-- Bytes 0x0000 to 0x007F of a rotation certificate (Table 15-6). -/
def State.certHead (s : State) (newPub : BitVec 256) : List Byte :=
  padTo 128 (padTo 32 (toLe 2 0xB1 ++ toLe 2 s.part.idGen.toNat ++ toLe 2 (s.part.idGen + 1).toNat ++ [0, 0] ++
    toLe 8 s.ident.serial.toNat) ++ lineBytes s.part.idPub 32 ++ lineBytes newPub 32)

/-- A rotation ends: a new pair, signed for by the old key, which is destroyed (R432, R446). -/
def State.endRotate (s : State) : State :=
  if s.part.opened then s.endOp 7
  else if !s.t2Ok s.part.opDest 17216 then s.endOp 5
  else
    let priv := Config.random s.draws
    let pub := Config.slhPublic priv
    let head := s.certHead pub
    let cert := head ++ padTo 17088 (Config.slhSign s.part.idPriv head)
    let s := (s.drew 1).writeT2 s.part.opDest cert
    { s with part := { s.part with idPub := pub, idPriv := priv, idGen := s.part.idGen + 1 } }.endOp 2

/-- The input falls below 62 V: an install, a rotation or a factory reset in progress is abandoned, and what it would
have replaced stays (R488, Table 15-12). -/
def State.abandonOp (s : State) : State :=
  if s.part.result != 1 then s
  else if s.part.op == 1 || s.part.op == 2 then
    (s.putSlot (s.part.op - 1) (s.inactiveSlot (s.part.op - 1)) .empty).endOp 6
  else if s.part.op == 3 || s.part.op == 5 then s.endOp 6
  else s

/-! ### Image staging (R445) -/

/-- Bytes of the staging area. -/
def stageSize : Nat := 67108864 + 30080

/-- An accepted write of `stage_off`; 0 empties the area. -/
def State.setStageOff (s : State) (v : Nat) : State :=
  if v = 0 then { s with part := { s.part with stageOff := 0, staged := 0, staging := [] } }
  else { s with part := { s.part with stageOff := v } }

/-- An accepted write of `stage_data`. -/
def State.stageWord (s : State) (v : Nat) : State :=
  let o := s.part.stageOff
  { s with part := { s.part with
      staging := writeBytes s.part.staging o (toLe 8 v), stageOff := o + 8, staged := max s.part.staged (o + 8) } }

/-! ### The tamper loop (R447) -/

/-- A break: the tamper fault, every key destroyed, `opened` for good; the fuse is blown at 62 V or above. -/
def State.tamper (s : State) : State :=
  let s := (s.holdFault srcTamper).destroyKeys
  { s with part := { s.part with
      opened := true, fusePending := s.part.fusePending || (!s.part.opened && s.power.nvInhibit) } }

def execTamperBreak (s : State) : Host.Outcome State Fault Refusal := .next s.tamper

end Sys2Proof.Machine
end

