-- ==== Sys2Proof/Machine/Power.lean ====
section
/-!
DEFINITION. Power, thermal and clocks (18 R487 to R505): Hold, Sleep, Idle, the throttle level, droop, the
input's thresholds and energy. Undervoltage lockout stands with the resets.
-/

namespace Sys2Proof.Machine

/-! ### Hold (R495) -/

/-- A cause of Hold (Table 18-6) is asserted. -/
def State.hold (s : State) (cause : Nat) : State :=
  let p := s.power
  if p.holdWhy.getLsbD cause then s
  else
    (s.modPower (fun p => { p with
      holdWhy := putBit p.holdWhy cause true, pstate := 2,
      holds := if p.holdWhy == 0 then p.holds + 1 else p.holds,
      memHot := if cause == 4 then p.memHot + 1 else p.memHot })).refreshSys

/-- A cause of Hold ends. When none remains Run resumes: rings move again, peer traffic that waited is taken, and a
boundary that is due closes. -/
def State.unhold (s : State) (cause : Nat) : State :=
  let p := s.power
  if !p.holdWhy.getLsbD cause then s
  else
    let why := putBit p.holdWhy cause false
    let s := s.modPower (fun p => { p with holdWhy := why, pstate := if why == 0 then 0 else 2 })
    let t := s.resumeTraffic.takeInbox
    if why != 0 then s else if t.sheaf.due then t.boundaryDue.closeDue else t

/-! ### Junction temperature (R495, R500) -/

def State.tripC (s : State) : Nat := s.setting 0x8010 2

/-- The throttle temperature in force. -/
def State.throttleC (s : State) : Nat := min (s.setting 0x2000 2) (s.tripC - 5)

/-- The thermal source is asserted: the junction is at `trip_c` or above, or a package fault lasts. -/
def State.thermalLive (s : State) : Bool := decide (s.tripC ≤ s.power.tjMax) || !s.power.hotFault.isEmpty

/-- The source follows its conditions; an assertion sets the sticky bit. -/
def State.senseThermal (s : State) : State :=
  if s.thermalLive then s.holdFault srcThermal else s.setLive srcThermal false false

/-- Cause 3 ends once the `thermal` bit is clear and the junction is below `trip_c` − 5 °C. -/
def State.endTrip (s : State) : State :=
  if !s.faults.sticky.getLsbD srcThermal && decide (s.power.tjMax + 5 < s.tripC) then s.unhold 3 else s

/-- The hottest junction as sensed: at `trip_c` Hold is forced and the thermal fault is raised. -/
def State.senseTj (s : State) (tj : Nat) : State :=
  let s := s.modPower (fun p => { p with tjMax := tj })
  let s := if s.tripC ≤ tj then s.hold 3 else s
  (s.senseThermal).endTrip

def execThermalTrip (tj : Nat) (s : State) : Host.Outcome State Fault Refusal :=
  .next (((s.modPower (fun p => { p with tjMax := max tj s.tripC })).hold 3).senseThermal)

/-! ### The throttle level (R490, R499, R500) -/

/-- The cap in force (R498). -/
def State.capInW (s : State) : Nat :=
  min (max ((s.setting 0x2000 1 : Int) + s.shiftW) 600).toNat (s.setting 0x8010 1)

/-- The limits of R499 as the last updates sensed them: the mean power of 1 ms is above the cap by more than 2 %, that
of 10 ms is above it, or the mean current of 1 ms is above 40 A. -/
def State.overLimits (s : State) : Bool :=
  let l := s.power.samples
  let ms := l.take 100
  decide (102 * s.capInW * ms.length < 100 * sumOf (·.1) ms) || decide (s.capInW * l.length < sumOf (·.1) l) ||
    decide (40000 * ms.length < sumOf (·.2) ms)

/-- The level after an update, within 0 to 30 and at most 4 from the last: it rises while a limit asks for it or the
junction is more than 1 °C above the throttle temperature, stays while the junction is not below that temperature, and
else may fall. How far it moves is left open. (Log entry 92: DESIGN CHOICE, safe.) -/
def State.nextThrottle (s : State) (asked : Bool) : Nat :=
  if asked || decide (s.throttleC + 1 < s.power.tjMax) then min 30 (s.power.throttle + 1 + s.free 0 % 4)
  else if s.throttleC ≤ s.power.tjMax then s.power.throttle
  else s.power.throttle - s.free 0 % 5

/-- THROTTLE_UPDATE, every 10 µs: input and junction are sensed, and s is set. The power manager may raise s before a
limit is passed (`overCap`). (Log entry 92: DESIGN CHOICE, safe.) -/
def State.throttleUpdate (s : State) (vinMv inputW tj : Nat) (overCap : Bool) : State :=
  let s := s.modPower (fun p => { p with
    vinMv := vinMv, pInW := inputW, samples := ((inputW, inputW * 1000000 / vinMv) :: p.samples).take 1000 })
  let s := if decide (64000 ≤ vinMv ∧ vinMv ≤ 80000) then s.setLive srcVin false false else s
  let s := s.senseTj tj
  let n := s.nextThrottle (overCap || s.overLimits)
  ((s.modPower (fun p => { p with
    throttle := n, capping := n != 0,
    cappedUs := if n == 0 then s.power.cappedUs else s.power.cappedUs + 10 })).drew 1).refreshSys

def execThrottleUpdate (vinMv inputW tj : Nat) (overCap : Bool) (s : State) :
    Host.Outcome State Fault Refusal :=
  .next (s.throttleUpdate vinMv inputW tj overCap)

/-- The level in force in a quadrant (R490, R491). -/
def State.levelInForce (s : State) (q : Nat) : Nat :=
  if s.power.droop.getLsbD q then max 8 s.power.throttle else s.power.throttle

def execDroopDetection (quadrant : Nat) (s : State) : Host.Outcome State Fault Refusal :=
  .next (s.modPower (fun p => { p with
    droop := putBit s.power.droop quadrant true, droops := s.power.droops + 1 }))

def execDroopRelease (quadrant : Nat) (s : State) : Host.Outcome State Fault Refusal :=
  .next (s.modPower (fun p => { p with droop := putBit s.power.droop quadrant false }))

/-! ### LPDDR6 temperature (R369, R495) -/

/-- A package is above its rating. (Log entry 93: DEDUCED, unsafe.) -/
def execLpddr6Hot (package : Nat) (s : State) : Host.Outcome State Fault Refusal :=
  .next ((s.modPower (fun p => { p with
    hotPackages := package :: s.power.hotPackages.filter (· != package) })).hold 4)

def execLpddr6HotFault (package : Nat) (s : State) : Host.Outcome State Fault Refusal :=
  .next (((s.modPower (fun p => { p with
    hotPackages := package :: s.power.hotPackages.filter (· != package),
    hotFault := package :: s.power.hotFault.filter (· != package) })).hold 4).senseThermal)

/-- A package's temperature as read: above its rating it forces Hold. Cause 4, and the package part of the
thermal fault, end once every package is at least 5 °C below its rating. -/
def State.readPackage (s : State) (package : Nat) (temp rated : Int) : State :=
  let others := s.power.hotPackages.filter (· != package)
  let s := s.modPower (fun p => { p with
    pkgTemps := vMod s.power.pkgTemps package (fun _ => temp),
    hotPackages := if temp + 5 ≤ rated then others else package :: others })
  let s := if rated < temp then s.hold 4 else s
  if s.power.hotPackages.isEmpty then
    ((s.modPower (fun p => { p with hotFault := [] })).senseThermal).unhold 4
  else s

def execPackageTemperatureReadout (package : Nat) (temp rated : Int) (s : State) :
    Host.Outcome State Fault Refusal :=
  .next (s.readPackage package temp rated)

/-! ### Alerts (R495) -/

/-- The rack alert is honoured. -/
def State.rackEnabled (s : State) : Bool := s.setting 0x8010 3 == 1

/-- RACK_ALERT_N changes: low while enabled forces Hold. -/
def execRackAlert (low : Bool) (s : State) : Host.Outcome State Fault Refusal :=
  .next (
    let s := s.modPower (fun p => { p with rackLow := low })
    if low && s.rackEnabled then s.hold 0 else s)

def execRegulatorAlert (asserted : Bool) (s : State) : Host.Outcome State Fault Refusal :=
  .next (
    let s := s.modPower (fun p => { p with regulator := asserted })
    if asserted then s.hold 1 else s)

/-- `alert_hold_ms` have passed since an alert counts as released. -/
def execAlertHoldExpiry (regulator : Bool) (s : State) : Host.Outcome State Fault Refusal :=
  .next (if regulator then (if s.power.regulator then s else s.unhold 1)
    else if s.power.rackLow && s.rackEnabled then s else s.unhold 0)

/-! ### The input (R487, R488) -/

/-- The input stays above 80 V or below 64 V for 10 ms. -/
def execVinFault (s : State) : Host.Outcome State Fault Refusal := .next (s.holdFault srcVin)

/-- The input falls below 62 V: no non-volatile write starts, long ones are abandoned, Hold is forced. -/
def execNvWriteInhibit (s : State) : Host.Outcome State Fault Refusal :=
  .next (((s.modPower (fun p => { p with nvInhibit := true, sag := true })).abandonOp).hold 2)

/-- The input has held 62 V for 100 ms: commits and fuse programming start again, fuses that waited are blown, and
sealed objects that waited for an invocation are taken (R430, R441, R447, R488). -/
def execNvWriteResume (s : State) : Host.Outcome State Fault Refusal :=
  .next (({ s with part := { s.part with
      fusePending := false, rollback := max s.part.rollback s.part.fusesDue, fusesDue := 0 } }.modPower
    (fun p => { p with nvInhibit := false })).takeInbox)

/-- The input has held 63 V for 1 ms. -/
def execInputSagEnd (s : State) : Host.Outcome State Fault Refusal :=
  .next ((s.modPower (fun p => { p with sag := false })).unhold 2)

/-! ### Clocks, Idle and Sleep (R489, R494, R497) -/

/-- The root clock loses lock or drifts. (Log entry 93: DEDUCED, unsafe.) -/
def execClockFault (s : State) : Host.Outcome State Fault Refusal := .next (s.raiseFault srcClock)

/-- A virtual core whose program has begun and has not ended, or whose walks have not retired. -/
def VCore.busy (c : VCore) : Bool := (c.pc != 0 && decide (c.wait ≠ .halted)) || !c.walks.isEmpty

/-- Nothing runs: no step, no engine command (a waiting TALLY_WAIT is none), no engine work without a record, no
unfinished instruction. (Log entry 93: DEDUCED, unsafe.) -/
def State.quiet (s : State) : Bool :=
  s.step.isNone && s.running.all (fun r => r.record.opcode == 0x0703) && s.front.isEmpty &&
    s.partitions.all (fun p => p.merge.isNone) && s.granary.directory.all (fun x => x.sealing.isEmpty) &&
    s.cores.vcores.all (fun c => !c.2.busy)

/-- IDLE_ENTRY: `idle_us` without work. -/
def execIdleEntry (s : State) : Host.Outcome State Fault Refusal :=
  .next (if s.power.pstate == 0 && s.quiet then s.modPower (fun p => { p with pstate := 1 }) else s)

/-- No record taken is incomplete. -/
def State.allComplete (s : State) : Bool :=
  s.running.isEmpty && s.cmdRings.toList.all (fun r => r.taken.isEmpty) &&
    s.link.deferred.all (fun d => match d.write with
      | .completion _ => false
      | .producer _ _ => true)

/-- A write of 1 to `sleep` is accepted (R497). -/
def State.maySleep (s : State) : Bool :=
  decide (s.job.state ≤ 1) && s.tiers.mode == 0 && s.allComplete

/-- Sleep is entered with an all-bank refresh of every channel, then self refresh (R359); Hold overrides it. -/
def State.enterSleep (s : State) : State :=
  if s.power.holdWhy == 0 then
    ((List.range 192).foldl State.refreshAll s).modPower (fun p => { p with pstate := 3, waking := false })
  else s

/-- Sleep ends; what waited goes on. -/
def State.leaveSleep (s : State) : State :=
  (s.modPower (fun p => { p with pstate := 0, waking := false })).resumeTraffic.takeInbox.closeDue

/-- SLEEP_EXIT: within 1 ms of a wake event (R497); without one nothing happens. -/
def execSleepExit (s : State) : Host.Outcome State Fault Refusal :=
  .next (if s.power.pstate == 3 && s.power.waking then s.leaveSleep else s)

/-! ### Energy (R504, R505) -/

/-- One interval's energy: shares by units, the remainder unassigned. -/
def State.apportion (s : State) (e : Nat) : State :=
  let u := sumOf (·.recentUnits) s.tenants
  let share (t : Tenant) : Nat := if u = 0 then 0 else e * t.recentUnits / u
  let given := sumOf share s.tenants
  ({ s with tenants := s.tenants.map (fun (t : Tenant) => { t with
      recentUnits := 0, counts := { t.counts with energyNj := t.counts.energyNj + share t } }) }).modPower
    (fun p => { p with jobNj := s.power.jobNj + e, unassignedNj := s.power.unassignedNj + (e - given) })

/-- ENERGY_INTERVAL: 1 ms of energy. -/
def execEnergyInterval (nanojoules : Nat) (s : State) : Host.Outcome State Fault Refusal :=
  .next (
    let s := s.modPower (fun p => { p with moduleNj := s.power.moduleNj + nanojoules })
    if s.job.state == 0 then s else s.apportion nanojoules)

end Sys2Proof.Machine
end

