-- ==== Sys2Proof/Machine/StartUp.lean ====
section
/-!
DEFINITION. Resets, the stages of start-up and its report (19 R509 to R515; 15 R429 to R431; 16 R465 to
R467; 01 R29 to R31), and the pins and test port (20 R526 to R532; 15 R448).
-/

namespace Sys2Proof.Machine

/-! ### Resets (R514) -/

/-- The module is held in reset: RESET_N is low, or the input stage is off or in lockout. -/
def State.held (s : State) : Bool := s.startUp.resetLow || !s.startUp.powered

/-- What the partition keeps over a reset: slots, fuses, the staging area in its flash, identity, the reservation, the
jumper. After a loss of power counting resumes at the last reserved end (R441, R445). -/
def Partn.kept (p : Partn) (powerLost : Bool) : Partn :=
  { Partn.reset with
    bootSlot := p.bootSlot, pendingSlot := p.pendingSlot, rollback := p.rollback, opened := p.opened,
    fusePending := p.fusePending, jumper := p.jumper, idGen := p.idGen, ivReserve := p.ivReserve,
    ivNext := if powerLost then p.ivReserve else p.ivNext, idPub := p.idPub, idPriv := p.idPriv,
    signerDigest := p.signerDigest, mRom := p.mRom, mSp := p.mSp, mMain := p.mMain,
    mainSlots := p.mainSlots, spSlots := p.spSlots, staged := p.staged, staging := p.staging }

/-- What is sensed stays as it is over a reset; counts and levels do not. (Log entry 7: DESIGN CHOICE, unsafe.) -/
def Power.kept (p : Power) : Power :=
  { Power.reset with
    vinMv := p.vinMv, pInW := p.pInW, tjMax := p.tjMax, nvInhibit := p.nvInhibit, sag := p.sag, rackLow := p.rackLow,
    regulator := p.regulator, pkgTemps := p.pkgTemps }

/-- The committed value of `rack_alert_en`. -/
def State.rackCommitted (s : State) : Bool := lookupD s.dict.store (0x8010, 3) (settingDefault 0x8010 3) == 1

/-- Causes that last force Hold again. -/
def State.holdAgain (s : State) : State :=
  let s := if s.power.rackLow && s.rackCommitted then s.hold 0 else s
  let s := if s.power.regulator then s.hold 1 else s
  if s.power.sag then s.hold 2 else s

/-- At reset release MGT_TERM_N is sampled (R529). -/
def State.sampleTerm (s : State) : State :=
  if s.held then s else { s with startUp := { s.startUp with terminated := s.startUp.termLow } }

/-- A reset of a kind: everything but what Table 19-3 and R514 keep. (Log entry 90: DEDUCED, unsafe.) -/
def State.doReset (s : State) (kind : Nat) : State :=
  let r := State.reset
  ({ r with
    pending := s.pending,
    ident := s.ident,
    startUp := { StartUp.reset with
      lastReset := kind, resetLow := s.startUp.resetLow, powered := s.startUp.powered,
      mated := s.startUp.mated, termLow := s.startUp.termLow, terminated := s.startUp.terminated },
    dict := { Dict.reset with store := s.dict.store, commits := s.dict.commits },
    mgmt := { Mgmt.reset with link := s.mgmt.link },
    t2 := s.t2,
    sent := s.sent,
    part := s.part.kept (kind == 0),
    power := s.power.kept,
    pairing := { Pairing.reset with cabled := s.pairing.cabled },
    timestamp := if kind = 0 then 0 else s.timestamp,
    draws := s.draws }).holdAgain.sampleTerm

/-- POWER_ON_RESET: the input has held 61 V for 100 ms. -/
def execPowerOnReset (s : State) : Host.Outcome State Fault Refusal :=
  .next (if s.startUp.mated then
      ({ s with startUp := { s.startUp with powered := true } }).doReset 0
    else s)

/-- PIN_RESET: RESET_N low resets the module and holds it until it rises. -/
def execPinReset (low : Bool) (s : State) : Host.Outcome State Fault Refusal :=
  .next (
    let s := { s with startUp := { s.startUp with resetLow := low } }
    if low then s.doReset 1 else s.sampleTerm)

/-- PMATE_N opens or closes (R526). Open turns the input stage off; the thresholds of Table 18-1 follow. A module that
mates again runs a power-on reset, and is held until the input has held 61 V for 100 ms. (Log entry 93: DEDUCED,
unsafe.) -/
def execPmateN (closed : Bool) (s : State) : Host.Outcome State Fault Refusal :=
  .next (
    if closed == s.startUp.mated then s
    else
      let s := { s with startUp := { s.startUp with mated := closed, powered := false } }
      if closed then s.doReset 0 else s)

/-- UNDERVOLTAGE_LOCKOUT (R487): every domain is held in reset and nothing in T0 or T1 survives. -/
def execUndervoltageLockout (s : State) : Host.Outcome State Fault Refusal :=
  .next (({ s with startUp := { s.startUp with powered := false } }).doReset 0)

/-- The soft reset of R515, and step 3 of R449. (Log entry 90: DEDUCED, unsafe.) -/
def State.softReset (s : State) : State := s.doReset 2

/-- Factory reset (R449): keys destroyed, persistent values at their defaults, the module reset. -/
def State.doFactoryReset (s : State) : State :=
  let s := s.destroyKeys
  ({ s with dict := { s.dict with store := [], queue := [] } }).doReset 3

/-- TRUST_OPERATION_END (R444): the operation in progress ends. -/
def execTrustOperationEnd (s : State) : Host.Outcome State Fault Refusal :=
  .next (
    if s.part.result != 1 then s
    else match s.part.op with
      | 1 => if s.power.nvInhibit then s.abandonOp else s.endInstall 0
      | 2 => if s.power.nvInhibit then s.abandonOp else s.endInstall 1
      | 3 => if s.power.nvInhibit then s.abandonOp else s.endRotate
      | 4 => s.endOp 2
      | 5 => if s.power.nvInhibit then s.abandonOp else s.doFactoryReset
      | _ => s)

/-! ### Stage 0: the boot chain (R429, R433) and the restore (R467) -/

def activeSlot (p : Partn) (target : Nat) : Nat := if p.pendingSlot.getLsbD target then 1 else 0

def State.firmware (s : State) (target slot : Nat) : Firmware :=
  if target = 0 then vGet s.part.mainSlots slot .empty else vGet s.part.spSlots slot .empty

/-- The slot that boots: the active one, or the other, if it reads as written and holds a valid image (R428, R429). The
first `damaged` of the two do not read as written. -/
def State.bootedSlot (s : State) (target damaged : Nat) : Option Nat :=
  let a := activeSlot s.part target
  ((List.range 2).find? (fun i => decide (damaged ≤ i) && s.slotValid target (s.firmware target ((a + i) % 2)))).map
    (fun i => (a + i) % 2)

/-- A stored value passes the checks of its subindex. -/
def storedOk (e : (Nat × Nat) × Nat) : Bool :=
  persistentSub e.1.1 e.1.2 && (match subInfo e.1.1 e.1.2 with
    | some i => decide (e.2 < 2 ^ i.width) && rangeOk e.1.1 e.1.2 e.2
    | none => false)

/-- Every persistent subindex takes its stored value; values that fail are counted. The loft sum is checked
last. The rate and the retired channels of this start-up, and the arbitration mode, are those restored: later writes
apply at the next reset or step (R361, R372, R374). -/
def State.restore (s : State) : State :=
  let good := s.dict.store.filter storedOk
  let bad := (s.dict.store.filter (fun e => !storedOk e)).length
  let s := { s with dict := { s.dict with settings := good, restoreFail := BitVec.ofNat 16 bad } }
  let s := { s with
    startUp := { s.startUp with rateReq := s.setting 0x2400 1, retire := (List.range 4).map (fun q => s.setting 0x2400 (7 + q)) },
    deadlineFirst := s.setting 0x2400 3 == 1 }
  if 16 + s.setting 0x4200 3 + s.setting 0x5010 1 ≤ 128 then s
  else { s with dict := { s.dict with
    settings := good.filter (fun e => e.1 != (0x5010, 1)), restoreFail := BitVec.ofNat 16 (bad + 1) } }

def State.recovery (s : State) (noPartition : Bool) : State :=
  { s with
    startUp := { s.startUp with stage := 0xFF, noPartition := noPartition },
    part := { s.part with spState := 1 } }

/-- The partition firmware runs: its measurement, and the key pair of this boot. -/
def State.bootSp (s : State) (f : Found) (sp : Nat) : State :=
  let fw := s.firmware 1 sp
  let seed := BitVec.ofNat 256 f.seed
  { s with
    ident := { s.ident with spFwGen := fw.gen },
    part := { s.part with
      bootSlot := putBit s.part.bootSlot 1 (sp == 1), pendingSlot := putBit s.part.pendingSlot 1 (sp == 1),
      mSp := fw.measure 1, ek := Config.mlkemKey seed, ekSecret := seed } }

/-- The main image runs: its measurement, and stage 1. -/
def State.bootImage (s : State) (n : Nat) : State :=
  let fw := s.firmware 0 n
  { s with
    ident := { s.ident with fwGen := fw.gen },
    part := { s.part with
      bootSlot := putBit s.part.bootSlot 0 (n == 1), pendingSlot := putBit s.part.pendingSlot 0 (n == 1),
      mMain := fw.measure 0 },
    startUp := { s.startUp with stage := 1 } }

/-- A boot that the active slot did not give sets the boot cause. -/
def State.bootCause (s : State) (target slot : Nat) : State :=
  if slot = activeSlot s.part target then s else s.setSys sysBoot

/-- The partition boots, then the main image. -/
def State.bootMain (s : State) (f : Found) (sp : Nat) : State :=
  let s := (s.bootCause 1 sp).bootSp f sp
  match s.bootedSlot 0 f.mainBoot with
  | none => s.recovery false
  | some n => (s.bootCause 0 n).bootImage n

def State.bootChain (s : State) (f : Found) : State :=
  if !f.romOk then { s with startUp := { s.startUp with halted := true } }
  else
    let s := s.restore
    match s.bootedSlot 1 f.spBoot with
    | none => s.recovery true
    | some sp => s.bootMain f sp

/-! ### Stages 1 to 4 -/

/-- Stage 1 ends: every link and port begins to train. -/
def State.beginTraining (s : State) : State :=
  let s := { s with startUp := { s.startUp with stage := 2 } }
  let s := s.modLink (fun l => { l with state := if l.state == 0 then 1 else l.state })
  (List.range 8).foldl (fun s p =>
    if s.portTrains p && (s.port p).state == 0 then s.movePort p (fun x => { x with state := 1 }) else s) s

/-- The channel was named in `retire_q` as this start-up found it (R372). -/
def State.retiring (s : State) (h : Nat) : Bool := (s.startUp.retire.getD (channelQuadrant h) 0).testBit (h % 48)

/-- Stage 2 ends once the coherent link is up: channels are trained, or left untrained (R360, R370). -/
def State.endTraining (s : State) (f : Found) : State :=
  if !s.linkUp then s
  else
    let set (h : Nat) (c : Channel) : Channel :=
      let retired := s.retiring h
      { c with retired := retired, trained := !retired && !f.failed.contains h && !f.mismatch.contains (h / 8) }
    { s with
      channels := s.channels.mapFinIdx (fun h c _ => set h c),
      cap := { s.cap with rate := s.startUp.rateReq },
      startUp := { s.startUp with stage := 3 } }

/-- The pattern test fails a channel: an uncorrectable line, or more than `ce_limit` corrected symbols (R370). -/
def State.patternFails (s : State) (f : Found) (h : Nat) : Bool :=
  f.pattern.any (fun e => e.1 == h && (e.2.1 || decide (s.setting 0x2400 6 < e.2.2)))

/-- One suspect channel after its pattern test. -/
def State.testSuspect (f : Found) (s : State) (h : Nat) : State :=
  if !((s.channel h).trained && s.channelBit 11 h) then s
  else if s.patternFails f h then s.modChannel h (fun c => { c with trained := false })
  else
    let sub := 11 + channelQuadrant h
    s.putPersistent 0x2400 sub (s.setting 0x2400 sub - 2 ^ (h % 48))

def State.testSuspects (s : State) (f : Found) : State :=
  let s := (List.range 192).foldl (State.testSuspect f) s
  { s with startUp := { s.startUp with stage := 4 } }

/-- Two-bit width code of a core from its bypass set (Table 1-11). -/
def widthCode (b : BitVec 4) : Nat := 3 - (bitList b).length

/-- Trained channels of a quadrant, as a mask. -/
def State.trainedMask (s : State) (q : Nat) : BitVec 48 :=
  (List.range 48).foldl (fun m i => putBit m i (s.channel (48 * q + i)).trained) 0

/-- A quadrant is in service (R30). -/
def State.quadrantOk (s : State) (f : Found) (q : Nat) : Bool :=
  f.crossbars.getLsbD q && f.engines.getLsbD (4 * q + 3) && decide (8 ≤ countBits (s.trainedMask q)) &&
    (List.range 16).any (fun c => widthCode (vGet f.bypass (16 * q + c) 0) != 0)

/-- Width codes of 32 cores from core `c0` on; cores of withdrawn quadrants read 0. -/
def widthWord (f : Found) (quadrants : BitVec 4) (c0 : Nat) : U64 :=
  BitVec.ofNat 64 ((List.range 32).foldl (fun n i =>
    let c := c0 + i
    n + (if quadrants.getLsbD (c / 16) then widthCode (vGet f.bypass c 0) else 0) * 4 ^ i) 0)

/-- GiB of one channel by the product (Table 0-1). -/
def gibOf (part : U16) : Nat := if part == 0x0300 then 4 else 8

/-- The record of what was found (R29 to R31, R200). -/
def State.findCapability (s : State) (f : Found) : Capability :=
  let qs : BitVec 4 := (List.range 4).foldl (fun m q => putBit m q (s.quadrantOk f q)) 0
  let trained := (bitList qs).foldl (fun n q => n + countBits (s.trainedMask q)) 0
  { widthLo := widthWord f qs 0, widthHi := widthWord f qs 32,
    chan := #v[s.trainedMask 0, s.trainedMask 1, s.trainedMask 2, s.trainedMask 3],
    quadrants := qs,
    engines := BitVec.ofNat 16 ((bitList qs).foldl (fun n q =>
      n + bitsOf f.engines (4 * q + 3) (4 * q) * 16 ^ q) 0),
    threshers := f.threshers, linkLanes := s.link.width, peerPorts := f.peerPorts,
    t1Gib := gibOf s.ident.part * trained, rate := s.cap.rate, cols := f.bypass,
    base := qs != 0 && s.linkUp }

/-- The fuses follow a booted image whose `commit` is set; below 62 V they wait for the input's return (R430, R488). -/
def State.commitFuses (s : State) (f : Firmware) : State :=
  match f with
  | .image bs =>
    if imageCommit bs && decide (s.part.rollback < imageCounter bs) then
      (if s.power.nvInhibit then { s with part := { s.part with fusesDue := max s.part.fusesDue (imageCounter bs) } }
       else { s with part := { s.part with rollback := imageCounter bs } })
    else s
  | _ => s

def State.fixCapability (s : State) (f : Found) : State :=
  let c := s.findCapability f
  let s := { s with cap := c, startUp := { s.startUp with stage := 5, st4Ms := f.ms } }
  if c.base then
    (s.commitFuses (s.firmware 1 (if s.part.bootSlot.getLsbD 1 then 1 else 0))).commitFuses
      (s.firmware 0 (if s.part.bootSlot.getLsbD 0 then 1 else 0))
  else s

/-! ### Stage 5: the report (R513) -/

/-- Byte of a channel in the report. -/
def State.channelCode (s : State) (f : Found) (h : Nat) : Nat :=
  if (s.channel h).retired then 2
  else if f.mismatch.contains (h / 8) then 4
  else if f.failed.contains h then 1
  else if (s.channel h).trained then 0 else 3

/-- Object 0x1010 subindices 0x01 to 0x0C. -/
def capabilityWords (c : Capability) : List Nat :=
  [c.widthLo.toNat, c.widthHi.toNat] ++ (c.chan.toList.map (·.toNat)) ++
    [c.quadrants.toNat, c.engines.toNat, c.threshers.toNat, c.linkLanes, c.peerPorts.toNat, c.t1Gib]

/-- The start-up report (Table 19-4). -/
def State.startReport (s : State) (f : Found) : List Byte :=
  let m := writeLe [] 0 2 0x00D0
  let m := writeLe m 2 1 s.startUp.lastReset
  let m := writeLe m 3 1 (if s.cap.base then 0 else 1)
  let m := writeLe m 4 4 s.ident.fwGen.toNat
  let m := writeLe m 8 8 s.ident.serial.toNat
  let m := writeLe m 0x10 4 s.startUp.st4Ms
  let m := writeBytes m 0x20 ((capabilityWords s.cap).flatMap (toLe 8))
  let m := writeBytes m 0x80 ((List.range 192).flatMap (fun h => toLe 1 (s.channelCode f h)))
  let m := writeBytes m 0x140 ((List.range 64).flatMap (fun c =>
    toLe 1 ((vGet f.bypass c 0).toNat + 16 * (vGet f.badArrays c 0).toNat)))
  let m := writeLe m 0x180 1 f.threshers.toNat
  let m := writeLe m 0x181 2 f.engines.toNat
  readBytes m 0 65536

/-- `su_dest` can take the report. (Log entry 91: DEDUCED, unsafe.) -/
def State.reportFits (s : State) (a : Nat) : Bool :=
  a % 65536 == 0 && s.t2Ok a 65536 && s.fixedRanges.all (fun r => !overlap a 65536 r.1 r.2)

/-- The report goes to `su_dest` if that names a place that can take it: through the module's own window of one frame
where a quadrant is in service, whose fill and write-back count (R341, R345). (Log entry 116: DEDUCED, unsafe.) -/
def State.placeReport (s : State) (f : Found) : State :=
  let a := s.setting 0x11C0 4
  if a = 0 then s
  else if s.reportFits a then
    let n := if s.cap.quadrants == 0 then 0 else 1
    let t := s.writeT2 a (s.startReport f)
    { t with
      startUp := { s.startUp with report := some (newWrites s t) },
      tiers := { s.tiers with fills := s.tiers.fills + n, writebacks := s.tiers.writebacks + n } }
  else { s with startUp := { s.startUp with suWritten := 2 } }

/-- Stage 5 is over. -/
def State.endReport (s : State) (f : Found) : State :=
  if s.cap.base then { s with startUp := { s.startUp with stage := 6 } }
  else ({ s with startUp := { s.startUp with stage := 0xFE, stMs := f.ms } }).refreshSys

/-- Stage 5: the report is written, and the stage ends once its lines are acknowledged. A fault meanwhile makes the
stage repeat (R510, R513). (Log entry 89: DESIGN CHOICE, safe.) -/
def State.writeReport (s : State) (f : Found) : State :=
  match s.startUp.report with
  | none =>
    let s := s.placeReport f
    if s.startUp.report.isSome then s else s.endReport f
  | some l =>
    if l.any s.link.writes.contains then s
    else ({ s with startUp := { s.startUp with report := none, suWritten := 1 } }).endReport f

/-! ### Stages 6 and 7 -/

/-- The default job loads, and stage 7 begins: mode 0, the rings enabled by default are enabled, pairing may
start (R15, R339, R509). -/
def State.beginService (s : State) (f : Found) : State :=
  let s := s.loadDefaultJob
  let s := { s with
    startUp := { s.startUp with stage := 7, stMs := f.ms }, tiers := { s.tiers with mode := 0 } }
  let s := if s.setting (cmdObj 0) 1 == 1 && !(s.cmdRing 0).enabled then s.enableCmd 0 else s
  let s := if s.setting (cqObj 0) 1 == 1 && !(s.cqRing 0).enabled then s.enableCq 0 else s
  s.tryPair

/-- START_UP_STAGE: the work of the stage in progress completes. A sticky bit holds start-up at its stage
(R510). (Log entry 89: DESIGN CHOICE, safe.) -/
def State.startUpStage (s : State) (f : Found) : State :=
  if s.faulted || s.held || s.startUp.halted then s
  else match s.startUp.stage with
    | 0 => s.bootChain f
    | 1 => s.beginTraining
    | 2 => s.endTraining f
    | 3 => s.testSuspects f
    | 4 => s.fixCapability f
    | 5 => s.writeReport f
    | 6 => s.beginService f
    | _ => s

def execStartUpStage (f : Found) (s : State) : Host.Outcome State Fault Refusal := .next (s.startUpStage f)

/-- MANAGEMENT_LINK_CHANGE (R459). -/
def execManagementLinkChange (up : Bool) (s : State) : Host.Outcome State Fault Refusal :=
  .next { s with mgmt := { s.mgmt with link := if up then 1 else 0 } }

end Sys2Proof.Machine
end

