-- ==== Sys2Proof/Machine/Tallies.lean ====
section
/-!
DEFINITION. Tallies (14 R403 to R408): the unit's signal and wait, and the tally commands.
-/

namespace Sys2Proof.Machine

/-! ### The unit (R404) -/

def State.tally? (s : State) (n : Nat) : Option Tally := s.sync.tallies.find? (fun t => t.number == n)

/-- A tally; one that is not held is unclaimed with value 0. -/
def State.tally (s : State) (n : Nat) : Tally := (s.tally? n).getD ⟨n, none, 0, []⟩

/-- Holds a tally while it is claimed, has a value or has waiters. -/
def State.putTally (s : State) (t : Tally) : State :=
  let others := s.sync.tallies.filter (fun x => x.number != t.number)
  { s with sync := { s.sync with
      tallies := if t.owner.isNone && t.value == 0 && t.waiters.isEmpty then others else others ++ [t] } }

def State.countTallyOp (s : State) : State := { s with sync := { s.sync with ops := s.sync.ops + 1 } }

/-- A signal of `n` carries the value past 2^64 − 1 (R405). -/
def Tally.overflows (t : Tally) (n : Nat) : Bool :=
  decide (2 ^ 64 ≤ t.value.toNat + (n - min n t.waiters.length))

/-- A signal of `n`: waiters released, oldest first, and the tally after it. -/
def Tally.signal (t : Tally) (n : Nat) : List Waiter × Tally :=
  (t.waiters.take n, { t with
    waiters := t.waiters.drop n, value := t.value + BitVec.ofNat 64 (n - min n t.waiters.length) })

/-- A wait: released at once, with the tally after it, or it joins the queue. -/
def Tally.wait (t : Tally) (w : Waiter) : Bool × Tally :=
  if t.value != 0 then (true, { t with value := t.value - 1 })
  else (false, { t with waiters := t.waiters ++ [w] })

/-- What ends a waiting command or resumes a virtual core. -/
def State.endWaiter (s : State) (status : Nat) (results : List Byte) (w : Waiter) : State :=
  match w with
  | .record id _ => s.completeId id status results
  | .core vc => { s with cores := { s.cores with
      vcores := updWhere (fun e => e.1 == vc) (fun (e : Nat × VCore) => (e.1, { e.2 with wait := .none }))
        s.cores.vcores } }

/-- Result bytes 24 to 31, with `a` in 12 to 15 and `b` in 16 to 23. -/
def tallyResult (a b : Nat) (v : U64) : List Byte := toLe 4 a ++ toLe 8 b ++ toLe 8 v.toNat

/-- Signals a tally and releases waiters. -/
def State.signalTally (s : State) (n count : Nat) : State :=
  let r := (s.tally n).signal count
  r.1.foldl (State.endWaiter · stOk (tallyResult 0 0 r.2.value)) (s.putTally r.2).countTallyOp

/-! ### Handles (R403) -/

def tallyReserved (h : U64) : Bool := bitsOf h 63 48 == 0 && bitsOf h 35 16 == 0
def tallyNumber (h : U64) : Nat := bitsOf h 15 0

/-- Step 5 but for the claim: own tenant, a tenant tally. -/
def tallyNames (r : Record) : Bool :=
  handleTenant r.handle == r.tenant && decide (4096 ≤ tallyNumber r.handle)

/-- Step 5: a tally that the tenant has claimed. -/
def tallyHandleOk (s : State) (r : Record) : Bool :=
  tallyNames r && (s.tally (tallyNumber r.handle)).owner == some r.tenant

/-- Tallies that a tenant has claimed. (Log entry 71: DEDUCED, unsafe.) -/
def State.claimed (s : State) (t : Nat) : Nat := (s.sync.tallies.filter (fun x => x.owner == some t)).length

/-! ### The commands (Table 14-1) -/

def runTallyClaim (r : Record) (id : Nat) (s : State) : State :=
  let v : U64 := BitVec.ofNat 64 (r.fieldN 16 8)
  ((s.putTally ⟨tallyNumber r.handle, some r.tenant, v, []⟩).countTallyOp).completeId id stOk
    (tallyResult 0 0 v)

def planTallyClaim (r : Record) (s : State) : Plan :=
  let o := (s.tally (tallyNumber r.handle)).owner
  { reserved := tallyReserved r.handle && zeroBytes r 24 64, served := s.serviceBase, tenantOk := s.tenantOk r,
    checks := [(tallyNames r && (o.isNone || o == some r.tenant), stDenied), (o.isNone, stWrongState),
      (decide (s.claimed r.tenant < 4096), stNoSpace)],
    run := runTallyClaim r }

def execTallyClaim (r : Record) (s : State) : Host.Outcome State Fault Refusal :=
  .next (s.record r 0x0700 planTallyClaim)

/-- The tally is unclaimed with value 0; its waiters end with TALLY_GONE in queue order (R408). -/
def runTallyRelease (r : Record) (id : Nat) (s : State) : State :=
  let t := s.tally (tallyNumber r.handle)
  let s := (s.putTally ⟨t.number, none, 0, []⟩).countTallyOp
  (t.waiters.foldl (State.endWaiter · stTallyGone []) s).completeId id stOk (toLe 4 (count32 t.waiters.length))

def planTallyRelease (r : Record) (s : State) : Plan :=
  { reserved := tallyReserved r.handle && zeroBytes r 16 64, served := s.serviceBase, tenantOk := s.tenantOk r,
    checks := [(tallyHandleOk s r, stDenied)], run := runTallyRelease r }

def execTallyRelease (r : Record) (s : State) : Host.Outcome State Fault Refusal :=
  .next (s.record r 0x0701 planTallyRelease)

def runTallySignal (r : Record) (id : Nat) (s : State) : State :=
  let n := tallyNumber r.handle
  let t := (s.tally n).signal (r.fieldN 16 8)
  (s.signalTally n (r.fieldN 16 8)).completeId id stOk (tallyResult (count32 t.1.length) 0 t.2.value)

def planTallySignal (r : Record) (s : State) : Plan :=
  let n := r.fieldN 16 8
  { reserved := tallyReserved r.handle && zeroBytes r 24 64, served := s.serviceBase, tenantOk := s.tenantOk r,
    checks := [(tallyHandleOk s r, stDenied), (decide (1 ≤ n), stBadParam),
      (!(s.tally (tallyNumber r.handle)).overflows n, stBadParam)],
    run := runTallySignal r }

def execTallySignal (r : Record) (s : State) : Host.Outcome State Fault Refusal :=
  .next (s.record r 0x0702 planTallySignal)

def runTallyWait (r : Record) (id : Nat) (s : State) : State :=
  let w := (s.tally (tallyNumber r.handle)).wait (.record id (r.fieldN 16 4))
  let s := (s.putTally w.2).countTallyOp
  if w.1 then s.completeId id stOk (tallyResult 0 0 w.2.value) else s

def planTallyWait (r : Record) (s : State) : Plan :=
  { reserved := tallyReserved r.handle && zeroBytes r 20 64, served := s.serviceBase, tenantOk := s.tenantOk r,
    checks := [(tallyHandleOk s r, stDenied), (decide (r.fieldN 16 4 ≤ 86400000), stBadParam)],
    run := runTallyWait r }

def execTallyWait (r : Record) (s : State) : Host.Outcome State Fault Refusal :=
  .next (s.record r 0x0703 planTallyWait)

/-- TALLY_READ: the timestamp and the value (R407, R416). -/
def runTallyRead (r : Record) (id : Nat) (s : State) : State :=
  s.countTallyOp.completeId id stOk
    (tallyResult 0 s.timestamp.toNat (s.tally (tallyNumber r.handle)).value)

def planTallyRead (r : Record) (s : State) : Plan :=
  { reserved := tallyReserved r.handle && zeroBytes r 16 64, served := s.serviceBase, tenantOk := s.tenantOk r,
    checks := [(tallyHandleOk s r, stDenied)], run := runTallyRead r }

def execTallyRead (r : Record) (s : State) : Host.Outcome State Fault Refusal :=
  .next (s.record r 0x0704 planTallyRead)

/-! ### TALLY_TIMEOUT (R408) -/

/-- The waiter is that of the running record with this ring and `seq`, and has a limit. -/
def State.timesOut (s : State) (ring : Nat) (seq : U32) (w : Waiter) : Bool :=
  match w with
  | .record id ms => ms != 0 && (s.running? id).any (fun r => r.record.ring == ring && r.record.seq == seq)
  | .core _ => false

/-- TALLY_TIMEOUT: the wait leaves the queue and consumes nothing. -/
def execTallyTimeout (tally ring : Nat) (seq : U32) (s : State) : Host.Outcome State Fault Refusal :=
  let t := s.tally tally
  .next (match t.waiters.find? (s.timesOut ring seq) with
    | some w => (s.putTally { t with waiters := t.waiters.erase w }).endWaiter stTallyTimeout [] w
    | none => s)

end Sys2Proof.Machine
end

