-- ==== Sys2Proof/Machine/Reports.lean ====
section
/-!
DEFINITION. What the subindices of each object read as (16 R450 to R456 and the object tables of every
chapter). A subindex that is not computed here reads as the setting held.
-/

namespace Sys2Proof.Machine

/-- A Bool as a value. -/
def flag (b : Bool) : Nat := if b then 1 else 0

/-- A signed value in its 64 bits. -/
def i64 (n : Int) : Nat := (BitVec.ofInt 64 n).toNat

/-- Stage 4 has begun: figures that are read as found no longer read zero (R511). (Log entry 68: DEDUCED, unsafe.) -/
def State.foundRead (s : State) : Bool := decide (4 ≤ s.startUp.stage) && s.startUp.stage != 0xFF

/-- The tenant that a route has selected. -/
def State.selectedTenant (s : State) (route : Nat) : Nat := s.selector route 0x3000 1

/-- Route 1 alone serves: the base set is absent, the link is down, or recovery (R457). -/
def State.windowClosed (s : State) : Bool := s.baseAbsent || !s.linkUp || s.startUp.stage == 0xFF

/-! ### Identity, start-up, links -/

def State.readIdentity (s : State) (sub : Nat) : Nat :=
  match sub with
  | 1 => 0x444C4D57
  | 2 => s.ident.part.toNat
  | 3 => s.ident.boardIssue.toNat
  | 4 => s.ident.serial.toNat
  | 5 => s.ident.fwGen.toNat
  | _ => s.ident.spFwGen.toNat

/-- `link`: down, or how the port shares the segment by `plca_id` (Table 16-6). -/
def State.mgmtLink (s : State) : Nat :=
  let id := s.setting 0x1100 4
  if s.mgmt.link = 0 then 0 else if id = 255 then 1 else if id = 0 then 3 else 2

def State.readMgmt (s : State) (sub : Nat) : Nat :=
  match sub with
  | 1 => if s.windowClosed then 1 else s.setting 0x1100 1
  | 2 => s.ident.mac.toNat
  | 9 => if s.foundRead then s.mgmtLink else 0
  | 10 => s.mgmt.rxFrames.toNat
  | 11 => s.mgmt.badFrames.toNat
  | 12 => s.mgmt.rxDrops.toNat
  | 13 => s.mgmt.replays.toNat
  | _ => s.setting 0x1100 sub

def State.readStore (s : State) (sub : Nat) : Nat :=
  match sub with
  | 1 => s.dict.queue.length
  | 2 => s.dict.commits.toNat
  | 3 => s.dict.abandoned.toNat
  | 4 => s.dict.restoreFail.toNat
  | _ => min 255 (100 * s.dict.commits.toNat / 100000000)

def State.readLink (s : State) (sub : Nat) : Nat :=
  let l := s.link
  match sub with
  | 1 => l.state
  | 2 => l.width
  | 3 => l.lanesOk.toNat
  | 4 => l.reqCredits
  | 6 => l.fecCorrected.toNat
  | 7 => l.fecUncorr.toNat
  | 8 => l.replays.toNat
  | 9 => l.retrains.toNat
  | 10 => l.winOverruns.toNat
  | 11 => 4096
  | _ => s.setting 0x1110 sub

def State.readRouting (s : State) (sub : Nat) : Nat :=
  if sub = 5 then
    let c := coordsOf s.job.dims s.job.rank
    c.1 + 0x10000 * c.2.1 + 0x100000000 * c.2.2
  else s.setting 0x1118 sub

/-- Working lanes of a port that is up. -/
def PeerPort.width (p : PeerPort) : Nat :=
  if p.state == 2 then countBits p.lanesOk else 0

def State.readPort (s : State) (index p sub : Nat) : Nat :=
  let x := s.port p
  match sub with
  | 2 => if p = 0 && !s.pairing.cabled then 0 else x.state
  | 3 => x.width
  | 4 => x.lanesOk.toNat
  | 5 => x.nbrSerial.toNat
  | 6 => x.nbrRank
  | 7 => x.nbrJob.toNat
  | 8 => (x.txBytes - BitVec.ofNat 64 (64 * (vGet s.layers (1 + p) FlitLayer.reset).unsent)).toNat
  | 9 => x.rxBytes.toNat
  | 10 => x.relayed.toNat
  | 11 => x.replays.toNat
  | _ => s.setting index sub

def State.readWindow (s : State) (sub : Nat) : Nat :=
  match sub with
  | 1 => s.link.t2Base.toNat
  | 2 => s.link.t2Size
  | _ => s.t2Capacity

/-- `status` of a command ring (R16). -/
def State.ringStatus (s : State) (index n : Nat) : Nat :=
  if s.setting index 1 = 0 then 1 else if (s.cmdRing n).overrun then 2 else 0

def State.readCmd (s : State) (index n sub : Nat) : Nat :=
  if sub = 7 then s.ringStatus index n else s.setting index sub

def State.readCq (s : State) (index n sub : Nat) : Nat :=
  if sub = 5 then (s.cqRing n).held.length else s.setting index sub

def State.readStartUp (s : State) (sub : Nat) : Nat :=
  match sub with
  | 1 => s.startUp.stage
  | 2 => s.startUp.lastReset
  | 5 => s.startUp.suWritten
  | 6 => s.startUp.stMs
  | _ => s.setting 0x11C0 sub

def State.readPairing (s : State) (sub : Nat) : Nat :=
  match sub with
  | 2 => s.pairing.state
  | 3 => s.pairing.twinSerial.toNat
  | 4 => s.pairing.fail
  | 6 => s.pairing.pairings.toNat
  | _ => s.setting 0x11C8 sub

/-! ### Power, cores, memory -/

def State.readPower (s : State) (sub : Nat) : Nat :=
  let p := s.power
  match sub with
  | 1 => p.pstate
  | 2 => p.holdWhy.toNat
  | 3 => p.throttle
  | 4 => s.capInW
  | 5 => i64 s.shiftW
  | 6 => p.vinMv
  | 7 => p.pInW
  | 8 => p.tjMax
  | 9 => p.moduleNj / 1000
  | 10 => p.jobNj / 1000
  | 11 => p.unassignedNj / 1000
  | 12 => p.droops.toNat
  | 13 => p.holds.toNat
  | 14 => p.cappedUs.toNat
  | _ => p.memHot.toNat

def State.readCore (s : State) (route sub : Nat) : Nat :=
  let c := s.selector route 0x2100 2
  let x := vGet s.cores.counts c ⟨0, 0, 0⟩
  match sub with
  | 3 => (vGet s.cap.cols c 0).toNat
  | 4 => x.steps.toNat
  | 5 => x.rowSplits.toNat
  | 6 => x.stalls.toNat
  | _ => s.setting 0x2100 sub

/-- Frames of T1 in use by every tenant, quarantine and retained bales included; of a window's frames only those
that hold a bale are mapped. -/
def State.t1Used (s : State) : Nat :=
  sumOf s.usedT1 (0 :: s.tenants.map (·.number)).eraseDups -
    sumOf (fun (w : Window) => w.frames - w.held.length) s.tiers.windows

def State.readMode (s : State) (sub : Nat) : Nat :=
  match sub with
  | 1 => s.tiers.mode
  | 2 => (s.tiers.windows.map (fun (w : Window) => 2 ^ w.number)).foldl (· + ·) 0
  | 3 => s.t1Capacity
  | 4 => s.t1Capacity - s.t1Used
  | 5 => sumOf (fun (w : Window) => w.dirty.length) s.tiers.windows
  | 6 => s.tiers.fills.toNat
  | _ => s.tiers.writebacks.toNat

/-- `state` of a channel (Table 12-6). -/
def State.channelState (s : State) (h : Nat) : Nat :=
  let c := s.channel h
  if c.retired then 3 else if !c.trained then 0
  else if s.inService (channelQuadrant h) then 1 else 2

def State.readChannel (s : State) (route sub : Nat) : Nat :=
  let h := s.selector route 0x2410 1
  let c := s.channel h
  match sub with
  | 2 => if s.foundRead then s.channelState h else 0
  | 3 => c.corrected.toNat
  | 4 => c.uncorrected.toNat
  | 5 => c.misdirected.toNat
  | 6 => c.retrains.toNat
  | 7 => c.refreshes.toNat
  | 8 => c.scrubbed.toNat
  | _ => (s.lateCount h).toNat

/-- A command waits for a tally. -/
def Waiter.isRecord : Waiter → Bool
  | .record _ _ => true
  | .core _ => false

def State.readSync (s : State) (route sub : Nat) : Nat :=
  match sub with
  | 2 =>
    let n := s.selector route 0x2500 1
    let x := s.tally n
    if 4096 ≤ n && !(x.owner == some (s.selectedTenant route)) then 0 else x.value.toNat
  | 4 => (s.barrierAt (s.selector route 0x2500 3)).epoch.toNat
  | 6 => s.timestamp.toNat
  | 7 => s.sync.ops.toNat
  | 8 => sumOf (fun (t : Tally) => (t.waiters.filter Waiter.isRecord).length) s.sync.tallies
  | _ => s.setting 0x2500 sub

/-! ### Tenants -/

def Tenant.readKey (x : Tenant) (sub : Nat) : Nat :=
  match sub, x.key with
  | 1, some k => if k.imported then 2 else 1
  | 2, some k => (keyId k.bits).toNat
  | 3, _ => x.keySrc.toNat
  | _, _ => 0

def Tenant.readText (x : Tenant) (sub : Nat) : Nat :=
  if sub = 1 then flag x.eosOnEmpty else flag x.showSpecials

def Tenant.readServing (x : Tenant) (sub : Nat) : Nat :=
  match sub with
  | 1 => x.rate.toNat
  | 2 => x.burst.toNat
  | 3 => x.prio
  | 4 => flag x.pad
  | _ => x.slowAlert

def Tenant.readActivity (x : Tenant) (sub : Nat) : Nat :=
  let c := x.counts
  match sub with
  | 1 => i64 x.level
  | 2 => c.units.toNat
  | 3 => c.genTokens.toNat
  | 4 => c.inTokens.toNat
  | 5 => c.drafted.toNat
  | 6 => c.accepted.toNat
  | 7 => c.held.toNat
  | 8 => c.slowdown
  | _ => c.slowMax

def SealArea.read (a : SealArea) (sub : Nat) : Nat :=
  match sub with
  | 1 => a.base.toNat
  | 2 => a.bales
  | 3 => a.cursor
  | 4 => a.floor
  | 5 => a.sealMs
  | 6 => flag a.implicitRevive
  | _ => flag a.retain

def State.readTiers (s : State) (x : Tenant) (sub : Nat) : Nat :=
  let t := x.number
  match sub with
  | 1 => x.qT0
  | 2 => x.qT1
  | 3 => x.qT2
  | 4 => s.usedT0 t
  | 5 => s.usedT1 t
  | 6 => s.usedT2 t
  | 7 => x.counts.peakT1
  | 8 => x.counts.refused.toNat
  | _ => sumOf (·.frames) (s.epochs.quarantine.filter (fun q => q.tenant == t))

def Tenant.readEnergy (x : Tenant) (sub : Nat) : Nat :=
  if sub = 1 then x.counts.energyNj / 1000 else x.counts.energyUnits.toNat

/-! ### Search, selection, tables, text -/

def IndexSlot.read (x : IndexSlot) (sub : Nat) : Nat :=
  match sub with
  | 1 => x.state
  | 2 => x.owner
  | 3 => x.dim
  | 4 => x.format
  | 5 => x.metric
  | 6 => x.homeBits
  | 7 => x.echoTables
  | 8 => x.echoBits
  | 9 => flag x.learned
  | 10 => x.probes
  | 11 => x.k
  | 12 => x.exactBelow
  | 13 => x.publishMs
  | _ => x.deltaMax

def State.readPartition (s : State) (route t sub : Nat) : Nat :=
  let i := s.selector route 0x4100 1
  let p := s.partition i t
  match sub with
  | 2 => p.generation.toNat
  | 3 => p.live.length
  | 4 => pendingInserts p.delta
  | 5 => p.delta.length - pendingInserts p.delta
  | 6 => p.mode
  | 7 => p.homeBits
  | 8 => p.bales (s.slot i)
  | 9 => p.clippedIn.toNat
  | 10 => p.absentDel.toNat
  | 11 => p.searches.toNat
  | _ => p.probed.toNat

def Counts.readWinnow (c : Counts) (sub : Nat) : Nat :=
  match sub with
  | 1 => c.rows.toNat
  | 2 => c.elements.toNat
  | 3 => c.nanExcluded.toNat
  | 4 => c.shortRows.toNat
  | 5 => c.dups.toNat
  | 6 => c.conflicts.toNat
  | _ => c.radixRows.toNat

def Counts.readText (c : Counts) (sub : Nat) : Nat :=
  match sub with
  | 1 => c.bytesIn.toNat
  | 2 => c.tokensOut.toNat
  | 3 => c.offending.toNat
  | 4 => c.bytesOut.toNat
  | 5 => c.masks.toNat
  | 6 => c.empties.toNat
  | 7 => c.eosForced.toNat
  | _ => c.packs.toNat

/-- The table that a number names for a tenant (R156). -/
def State.reportedTable (s : State) (t n : Nat) : Option Table :=
  s.sheaf.tables.find? (fun x => x.number == n && (x.shared || x.owner == t))

def Table.read (x : Table) (t sub : Nat) : Nat :=
  let c := x.countsOf t
  match sub with
  | 2 => x.rows
  | 3 => x.width
  | 4 => x.format
  | 5 => x.flags.toNat
  | 6 => x.bales
  | 7 => (x.hot.filter (·.hot)).length
  | 8 => c.lookups.toNat
  | 9 => c.updates.toNat
  | 10 => c.clipped.toNat
  | _ => c.skipped.toNat

def State.readTable (s : State) (route t sub : Nat) : Nat :=
  if sub = 11 then s.sheaf.tstep.toNat
  else match s.reportedTable t (s.selector route 0x4210 1) with
    | some x => x.read t sub
    | none => 0

/-! ### Serving and models -/

def State.readService (s : State) (sub : Nat) : Nat :=
  match sub with
  | 7 => s.job.state
  | 8 => s.job.jobId.toNat
  | 9 => s.job.steps.toNat
  | 10 => s.job.tokens.toNat
  | 11 => s.job.nanLogits.toNat
  | 12 => s.job.restarts.toNat
  | _ => s.setting 0x5000 sub

def State.readCache (s : State) (sub : Nat) : Nat :=
  match sub with
  | 2 => s.cacheMib
  | 3 => s.pinnedBales / 16
  | 4 => s.models.hits.toNat
  | 5 => s.models.misses.toNat
  | 6 => s.models.evictions.toNat
  | 7 => s.models.swapBytes.toNat
  | 8 => s.job.loftMib
  | _ => s.setting 0x5010 sub

/-- The loaded version that a handle in an object names: its tenant is in the job and may use the model. Version number
0 is resolved at each read. (Log entry 138: DESIGN CHOICE, unsafe.) -/
def State.handleVersion (s : State) (h : U64) : Option Version :=
  if modelNumber h != 0 && (s.tenant? (handleTenant h)).isSome && s.modelFor (handleTenant h) (modelNumber h)
  then s.resolve h else none

def State.readVersion (s : State) (v : Version) (sub : Nat) : Nat :=
  match sub with
  | 2 => v.state
  | 3 => v.version
  | 4 => s.pinCount v
  | 5 => v.bales
  | 6 => (s.models.resident v).length
  | 7 => v.draftMax
  | 8 => v.maxLen
  | _ => v.params.toNat

/-- Object 0x5020: only a handle of the tenant now selected shows anything (R285, R422). -/
def State.readModel (s : State) (route t sub : Nat) : Nat :=
  let h : U64 := BitVec.ofNat 64 (s.selector route 0x5020 1)
  if handleTenant h != t then 0
  else match s.handleVersion h with
    | some v => s.readVersion v sub
    | none => 0

def Layer.read (l : Layer) (t sub : Nat) : Nat :=
  let c := lookupD l.counts t (0, 0, 0, 0)
  match sub with
  | 3 => l.format
  | 4 => l.staticClip.toNat
  | 5 => l.weights.toNat
  | 6 => flag l.route
  | 7 => c.1.toNat
  | 8 => c.2.1.toNat
  | 9 => c.2.2.1.toNat
  | _ => c.2.2.2.toNat

/-- Object 0x5210. Its selectors keep what was written: where the version has been freed, or has no layer of that
number, the other subindices read zero. (Log entry 104: DESIGN CHOICE, unsafe.) -/
def State.readLayer (s : State) (route t sub : Nat) : Nat :=
  match s.handleVersion (BitVec.ofNat 64 (s.selector route 0x5210 1)) with
  | some v => match v.layers[s.selector route 0x5210 2]? with
    | some l => l.read t sub
    | none => 0
  | none => 0

def Vocab.read (v : Vocab) (sub : Nat) : Nat :=
  match sub with
  | 2 => v.size
  | 3 => v.eos
  | 4 => v.byteBase
  | 5 => flag v.byteLevel
  | _ => bitsOf v.digest (64 * (sub - 6) + 63) (64 * (sub - 6))

def State.readVocab (s : State) (route sub : Nat) : Nat :=
  match (s.handleVersion (BitVec.ofNat 64 (s.selector route 0x5310 1))).bind (·.vocab) with
  | some v => v.read sub
  | none => 0

/-! ### Attention, sessions -/

/-- `oldest`: the oldest epoch with an unretired walk. -/
def State.oldestEpoch (s : State) : U32 :=
  s.epochs.walks.foldl (fun o w => if epochLe w o then w else o) s.epochs.epoch

def State.readEpochs (s : State) (sub : Nat) : Nat :=
  match sub with
  | 1 => s.epochs.epoch.toNat
  | 2 => s.oldestEpoch.toNat
  | 3 => s.quarantined
  | 4 => s.epochs.epochStalls.toNat
  | 6 => s.epochs.kvRead.toNat
  | 7 => s.epochs.rowsWalked.toNat
  | 8 => s.epochs.quarStalls.toNat
  | _ => s.setting 0x5400 sub

def State.readKv (s : State) (x : Tenant) (sub : Nat) : Nat :=
  let t := x.number
  match sub with
  | 1 => (s.granary.frames.filter (fun f => f.tenant == t)).length +
      sumOf (·.frames) (s.epochs.quarantine.filter (fun q => q.tenant == t && q.kv))
  | 2 => x.counts.rolledBack.toNat
  | 3 => x.counts.rollbackBales.toNat
  | 4 => x.counts.cowCopies.toNat
  | _ => x.counts.kvStops.toNat

/-- Sessions not CLOSED whose latest seal is not mirrored. (Log entry 68: DEDUCED, unsafe.) -/
def State.unmirrored (s : State) : Nat :=
  (s.granary.directory.filter (fun (x : Session) => x.state != 7 && (match x.latest with
    | some i => !i.mirrored
    | none => false))).length

def State.readGranary (s : State) (sub : Nat) : Nat :=
  let g := s.granary
  match sub with
  | 2 => (g.directory.filter (fun (x : Session) => x.state != 7)).length
  | 3 => (g.directory.filter (fun (x : Session) => x.state == 7)).length
  | 4 => g.seals.toNat
  | 5 => g.sealBales.toNat
  | 6 => g.reviveBales.toNat
  | 7 => g.movesOut.toNat
  | 8 => g.movesIn.toNat
  | 9 => g.mirror.length
  | 10 => s.unmirrored
  | _ => s.setting 0x6000 sub

def State.readSessions (s : State) (x : Tenant) (sub : Nat) : Nat :=
  let mine := s.granary.directory.filter (fun (y : Session) => handleTenant y.handle == x.number)
  match sub with
  | 1 => (mine.filter Session.resident).length
  | 2 => (mine.filter (fun (y : Session) => y.state == 4)).length
  | 3 => x.counts.seals.toNat
  | 4 => x.counts.autoSeals.toNat
  | 5 => x.counts.sealFail.toNat
  | 6 => x.counts.written.toNat
  | 7 => x.counts.read.toNat
  | 8 => (((s.granary.retained.filter (fun r => r.tenant == x.number)).map (·.frame)).eraseDups).length
  | _ => x.counts.reused.toNat

def Session.read (x : Session) (sub : Nat) : Nat :=
  match sub with
  | 2 => x.state
  | 3 => if x.state == 4 then x.parkedFrom else 0
  | 4 => x.length
  | 5 => if x.state == 7 then 0 else modelHandle (handleTenant x.handle) x.model x.version
  | 6 => match x.latest with
    | some i => i.number.toNat
    | none => 0
  | 7 => match x.latest with
    | some i => i.root
    | none => 0xFFFFFFFF
  | _ => match x.latest with
    | some i => flag i.mirrored
    | none => 0

def State.readSession (s : State) (route t sub : Nat) : Nat :=
  let h : U64 := BitVec.ofNat 64 (s.selector route 0x6020 1)
  match (if handleTenant h = t then s.session? h else none) with
  | some x => x.read sub
  | none => if sub = 7 then 0xFFFFFFFF else 0

/-! ### Causes, faults, the partition -/

def State.readFaults (s : State) (sub : Nat) : Nat :=
  let f := s.faults
  match sub with
  | 1 => bitsOf f.sticky 63 0
  | 2 => bitsOf f.sticky 95 64
  | 3 => bitsOf f.live 63 0
  | 4 => bitsOf f.live 95 64
  | 5 => bitsOf f.rail 63 0
  | 6 => bitsOf f.rail 95 64
  | _ => f.faultStates.toNat

def State.readPartn (s : State) (sub : Nat) : Nat :=
  let p := s.part
  match sub with
  | 1 => p.spState
  | 2 => p.bootSlot.toNat
  | 3 => p.rollback
  | 4 => flag p.opened
  | 5 => flag p.debug
  | 6 => flag p.button + 2 * flag p.jumper + 4 * flag p.opened
  | 7 => s.presenceS
  | 8 => s.ident.nonceId.toNat
  | 9 => p.idGen.toNat
  | _ => p.ivReserve.toNat

def State.readTrust (s : State) (sub : Nat) : Nat :=
  match sub with
  | 5 => s.part.result
  | 6 => s.part.pendingSlot.toNat
  | _ => s.setting 0x8100 sub

def State.readQuote (s : State) (route sub : Nat) : Nat :=
  match sub with
  | 7 => s.part.qstate
  | 9 => s.quoteLine (s.selector route 0x1020 8)
  | _ => s.setting 0x1020 sub

/-! ### One subindex -/

/-- A subindex of an object that addresses the tenant selected on the route (R456). -/
def State.readTenant (s : State) (route index sub : Nat) (x : Tenant) : Nat :=
  match index with
  | 0x2020 => x.readEnergy sub
  | 0x3010 => x.readKey sub
  | 0x3020 => x.readText sub
  | 0x3030 => x.readServing sub
  | 0x3031 => x.readActivity sub
  | 0x3040 => (s.area x.number).read sub
  | 0x3050 => s.readTiers x sub
  | 0x4100 => s.readPartition route x.number sub
  | 0x4140 => x.counts.readWinnow sub
  | 0x4210 => s.readTable route x.number sub
  | 0x5020 => s.readModel route x.number sub
  | 0x5210 => s.readLayer route x.number sub
  | 0x5300 => x.counts.readText sub
  | 0x5401 => s.readKv x sub
  | 0x6010 => s.readSessions x sub
  | 0x6020 => s.readSession route x.number sub
  | _ => 0

/-- A subindex of an object of the module. -/
def State.readModule (s : State) (route index sub : Nat) : Nat :=
  match objectKind index with
  | 0x1000 => s.readIdentity sub
  | 0x1010 => (capabilityWords s.cap).getD (sub - 1) 0
  | 0x1020 => s.readQuote route sub
  | 0x1100 => s.readMgmt sub
  | 0x1101 => s.readStore sub
  | 0x1110 => s.readLink sub
  | 0x1118 => s.readRouting sub
  | 0x1120 => s.readPort index (objectNumber index) sub
  | 0x1130 => s.readWindow sub
  | 0x1140 => s.readCmd index (objectNumber index) sub
  | 0x1180 => s.readCq index (objectNumber index) sub
  | 0x11C0 => s.readStartUp sub
  | 0x11C8 => s.readPairing sub
  | 0x2010 => s.readPower sub
  | 0x2100 => s.readCore route sub
  | 0x2200 => s.readMode sub
  | 0x2400 => if sub = 2 then s.cap.rate else s.setting index sub
  | 0x2410 => s.readChannel route sub
  | 0x2500 => s.readSync route sub
  | 0x3000 => s.tenants.length
  | 0x4010 => (s.slot (objectNumber index)).read sub
  | 0x5000 => s.readService sub
  | 0x5010 => s.readCache sub
  | 0x5310 => s.readVocab route sub
  | 0x5400 => s.readEpochs sub
  | 0x6000 => s.readGranary sub
  | 0x7000 => if sub = 1 then s.intPending.toNat else s.setting index sub
  | 0x7010 => s.causes.cq.toNat
  | 0x7011 => s.causes.overrun.toNat
  | 0x7012 => s.causes.link.toNat
  | 0x7013 => bitsOf s.causes.slow (64 * (sub - 1) + 63) (64 * (sub - 1))
  | 0x7014 => s.causes.sys.toNat
  | 0x7100 => s.readFaults sub
  | 0x8000 => s.readPartn sub
  | 0x8100 => s.readTrust sub
  | 0x8110 => if sub = 1 then s.part.stageOff else s.part.staged
  | 0xF000 => if sub = 2 then s.faults.injected.toNat else s.setting index sub
  | _ => s.setting index sub

/-- The value that a subindex holds, as a read on a route returns it; none when no such subindex exists.
A WO subindex reads zero (R452). -/
def State.held? (s : State) (route index sub : Nat) : Option Nat :=
  match subInfo index sub with
  | none => none
  | some i =>
    if sub = 0 then some i.dflt
    else if i.access = .wo then some 0
    else if tenantObject index && s.job.state == 0 then some 0
    else if routeSub index sub then some (s.selector route index sub)
    else if tenantObject index then some (match s.tenant? (s.selectedTenant route) with
      | some x => s.readTenant route index sub x % 2 ^ i.width
      | none => 0)
    else some (s.readModule route index sub % 2 ^ i.width)

end Sys2Proof.Machine
end

