-- ==== Sys2Proof/Machine/Dictionary.lean ====
section
/-!
DEFINITION. Writes to the object dictionary (16 R450 to R457, R465 and every chapter's own objects): the
checks of Table 16-3 in their order, and what an accepted write does.
-/

namespace Sys2Proof.Machine

/-! ### Values as they are written -/

/-- Reserved bits of a value are ignored (R8): those above the type's width, of channel masks, of the
safeguard enables, of the interrupt enables, and of handles. -/
def writtenValue (index sub width v : Nat) : Nat :=
  let v := v % 2 ^ width
  match index, sub with
  | 0x2400, 7 | 0x2400, 8 | 0x2400, 9 | 0x2400, 10 => v % 2 ^ 48
  | 0x5200, 3 => v % 4
  | 0x7000, 2 => v % 64
  | 0x5020, 1 | 0x5210, 1 | 0x5310, 1 => v % 2 ^ 26 + v / 2 ^ 36 % 2 ^ 12 * 2 ^ 36
  | 0x6020, 1 => v % 2 ^ 48
  | _, _ => v

/-- Holds a value in a setting; a persistent one is queued for commit (R465). -/
def State.putSub (s : State) (index sub v : Nat) : State :=
  if persistentSub index sub then s.putPersistent index sub v else s.putSetting index sub v

def State.putSelector (s : State) (route index sub v : Nat) : State :=
  { s with dict := { s.dict with selectors := insertKey s.dict.selectors (route, index, sub) v } }

/-! ### Rings (R14 to R19, R325, R343) -/

/-- A ring and its control area lie below `size`, with one of its subindices at a new value. -/
def State.ringFits (s : State) (index unit sub v : Nat) : Bool :=
  let at_ (x : Nat) : Nat := if x = sub then v else s.setting index x
  (sub == 4 || s.t2Ok (at_ 2) (unit * 2 ^ at_ 3)) && (sub == 2 || sub == 3 || s.t2Ok (at_ 4) 128)

/-- A ring or its control area overlaps an open window. -/
def State.ringInWindow (s : State) (index unit : Nat) : Bool :=
  s.inWindow (s.setting index 2) (unit * 2 ^ s.setting index 3) || s.inWindow (s.setting index 4) 128

/-- Step 5 of a ring object: what is set or enabled does not reach past `size`, and what is enabled
overlaps no open window. (Log entry 87: DEDUCED, unsafe.) -/
def State.ringRange (s : State) (index unit sub v : Nat) : Bool :=
  match sub with
  | 1 => v == 0 || s.setting index 1 == 1 || (s.ringFits index unit 0 0 && !s.ringInWindow index unit)
  | 2 | 3 | 4 => s.ringFits index unit sub v
  | _ => true

/-- Completion ring `c` is owed nothing (R19). A completion whose producer line is still to be written is owed. -/
def State.cqFree (s : State) (c : Nat) : Bool :=
  (s.cqRing c).held.isEmpty &&
    s.running.all (fun (r : Running) => s.cqOf r.record.ring != c) &&
    (List.range 64).all (fun n => (s.cmdRing n).taken.isEmpty || s.cqOf n != c) &&
    s.link.deferred.all (fun d => match d.write with
      | .completion p => p.cq != c
      | .producer c' _ => c' != c) &&
    s.granary.directory.all (fun (x : Session) => match x.run with
      | some r => r.id.isNone || r.cq != c
      | none => true)

/-- A write of a command ring's `enable`. A disabled ring is overrun no longer. -/
def State.setCmdEnable (s : State) (n v : Nat) : State :=
  if v = 0 then s.disableCmd n else if s.setting (cmdObj n) 1 = 1 then s else s.enableCmd n

def State.setCqEnable (s : State) (n v : Nat) : State :=
  if v = 0 then s.disableCq n else if s.setting (cqObj n) 1 = 1 then s else s.enableCq n

/-! ### The seal area (R302 to R304, R325, R343) -/

/-- Area positions that a seal lists or consists of. -/
def SealInfo.positions (i : SealInfo) : List Nat := i.entries.map (·.place) ++ i.parts

/-- Positions that a session pins: its latest seal's, and what a seal in progress has written. -/
def Session.positions (x : Session) : List Nat :=
  (match x.latest with
    | some i => if x.state == 0 || x.state == 7 then [] else i.positions
    | none => []) ++ x.sealing.flatMap (·.places)

/-- Pinned positions of a tenant's area (R303). -/
def State.pinnedPlaces (s : State) (t : Nat) : List Nat :=
  (s.granary.directory.filter (fun (x : Session) => handleTenant x.handle == t)).flatMap Session.positions ++
  (s.granary.mirror.filter (fun (m : MirrorEntry) => handleTenant m.session == t)).flatMap
    (fun (m : MirrorEntry) => m.entries.map (·.place) ++ m.parts) ++
  (s.pairing.incoming.filter (fun e => handleTenant e.1.1 == t)).flatMap (fun e => e.2.map (·.place))

/-- `floor` may move to `v`: a position of the used region, which does not hold `cursor`, so that no pinned
position is passed (R302, R303). -/
def State.floorOk (s : State) (t v : Nat) : Bool :=
  let a := s.area t
  if a.bales = 0 then v == 0
  else
    let d := (v + a.bales - a.floor) % a.bales
    decide (v < a.bales) && decide (d < a.used) &&
      (s.pinnedPlaces t).all (fun p => decide (d ≤ (p + a.bales - a.floor) % a.bales))

/-- An area at `base` of `n` bales is in the T2 window and overlaps no open window. -/
def State.areaFits (s : State) (base n : Nat) : Bool :=
  n == 0 || (s.t2Ok base (n * 65536) && !s.inWindow base (n * 65536))

def State.areaRange (s : State) (x : Tenant) (sub v : Nat) : Bool :=
  let a := s.area x.number
  match sub with
  | 1 => s.areaFits v a.bales
  | 2 => (v == 0 || decide (16 ≤ v)) && decide (v ≤ x.qT2) && s.areaFits a.base.toNat v
  | 4 => s.floorOk x.number v
  | _ => true

def SealArea.put (a : SealArea) (sub v : Nat) : SealArea :=
  match sub with
  | 1 => { a with base := BitVec.ofNat 64 v, cursor := 0, floor := 0 }
  | 2 => { a with bales := v, cursor := 0, floor := 0 }
  | 4 => { a with floor := v }
  | 5 => { a with sealMs := v }
  | 6 => { a with implicitRevive := v == 1 }
  | _ => { a with retain := v == 1 }

/-! ### Quotas (R338) -/

/-- No tier's quotas, summed over the job's tenants, exceed its capacity in service, and `q_t2` holds the
tenant's seal area. -/
def State.quotaRange (s : State) (x : Tenant) (sub v : Nat) : Bool :=
  let others := s.tenants.filter (fun (y : Tenant) => y.number != x.number)
  match sub with
  | 1 => decide (v + sumOf (·.qT0) others ≤ s.t0Capacity)
  | 2 => decide (v + sumOf (·.qT1) others ≤ s.t1Capacity)
  | _ => decide (v + sumOf (·.qT2) others ≤ s.t2Capacity) && decide ((s.area x.number).bales ≤ v)

def Tenant.putQuota (x : Tenant) (sub v : Nat) : Tenant :=
  match sub with
  | 1 => { x with qT0 := v }
  | 2 => { x with qT1 := v }
  | _ => { x with qT2 := v }

/-! ### Serving options (R274, R286) -/

/-- A lower `burst` cuts the level at once. (Log entry 64: DEDUCED, unsafe.) -/
def Tenant.putServing (x : Tenant) (sub v : Nat) : Tenant :=
  match sub with
  | 1 => { x with rate := BitVec.ofNat 32 v }
  | 2 =>
    if (v : Int) < x.level then { x with burst := BitVec.ofNat 32 v, level := v, frac := 0 }
    else { x with burst := BitVec.ofNat 32 v }
  | 3 => { x with prio := v }
  | 4 => { x with pad := v == 1 }
  | _ => { x with slowAlert := v }

def Tenant.putText (x : Tenant) (sub v : Nat) : Tenant :=
  if sub = 1 then { x with eosOnEmpty := v == 1 } else { x with showSpecials := v == 1 }

/-! ### Index slots (R107) -/

def IndexSlot.put (x : IndexSlot) (sub v : Nat) : IndexSlot :=
  match sub with
  | 10 => { x with probes := v }
  | 11 => { x with k := v }
  | _ => { x with publishMs := v }

/-! ### Selectors that must name something (R63, R156, R189, R285, R321, R456) -/

def State.selects (s : State) (route index sub v : Nat) : Bool :=
  let t := s.selectedTenant route
  let h : U64 := BitVec.ofNat 64 v
  match index, sub with
  | 0x3000, 1 => (s.tenant? v).isSome
  | 0x4210, 1 => (s.reportedTable t v).isSome
  | 0x5020, 1 => v == 0 || (handleTenant h == t && modelNumber h != 0 && s.modelFor t (modelNumber h))
  | 0x5210, 1 | 0x5310, 1 => (s.handleVersion h).isSome
  | 0x5210, 2 => match s.handleVersion (BitVec.ofNat 64 (s.selector route 0x5210 1)) with
    | some m => decide (v < m.layers.length)
    | none => v == 0
  | 0x6020, 1 => handleTenant h == t
  | _, _ => true

/-! ### Causes and sticky bits (R477, R482) -/

def Causes.clear (c : Causes) (index sub v : Nat) : Causes :=
  match index with
  | 0x7010 => { c with cq := c.cq &&& ~~~(BitVec.ofNat 64 v) }
  | 0x7011 => { c with overrun := c.overrun &&& ~~~(BitVec.ofNat 64 v) }
  | 0x7012 => { c with link := c.link &&& ~~~(BitVec.ofNat 16 v) }
  | 0x7013 => { c with slow := c.slow &&& ~~~(BitVec.ofNat 4096 (v * 2 ^ (64 * (sub - 1)))) }
  | _ => { c with sys := c.sys &&& ~~~(BitVec.ofNat 16 v) }

/-- Ones clear cause bits; a level whose condition holds is set again. -/
def State.clearCause (s : State) (index sub v : Nat) : State :=
  ({ s with causes := s.causes.clear index sub v }).refreshSys

/-- Ones clear sticky bits whose sources are quiet. Clearing `thermal` may end the thermal trip. -/
def State.clearStickyWord (s : State) (sub v : Nat) : State :=
  let ones : BitVec 96 := BitVec.ofNat 96 (if sub = 1 then v else v % 2 ^ 32 * 2 ^ 64)
  (s.clearSticky ones).endTrip

/-! ### Ports and pairing (R402, R517) -/

/-- A valid write of a port's `enable`. -/
def State.setPortEnable (s : State) (p v : Nat) : State :=
  if v = 0 then s.portDown p 4
  else if (s.port p).state = 4 then
    let s := s.movePort p (fun x => { x with state := 0 })
    if s.portTrains p then s.movePort p (fun x => { x with state := 1 }) else s
  else s

/-- A valid write of `pair_en`. -/
def State.setPairEn (s : State) (v : Nat) : State :=
  if v = 1 then s.tryPair else if s.pairing.state == 1 then s.endPair else s

/-- A write of 1 to `detach` while PAIRED: DETACH is sent. -/
def State.detachNow (s : State) : State := (s.leavePaired 3).putOnPort 0 (.peer 0 (s.pairMessage 0x62))

/-! ### Settings whose write acts at once -/

/-- A safety limit changes (R427): the temperatures and the rack alert are judged anew (Table 18-6). -/
def State.limitChanged (s : State) (sub : Nat) : State :=
  if sub = 2 then s.senseTj s.power.tjMax
  else if sub = 3 && s.power.rackLow && s.rackEnabled then s.hold 0 else s

/-! ### The checks of Table 16-3 -/

/-- Step 3: in recovery the writes served are those of the attestation window, the staging object and
firmware installation; the boot ROM installs only a partition image (R431). (Log entry 84: DEDUCED, unsafe.) -/
def State.recoveryServes (s : State) (index sub v : Nat) : Bool :=
  index == 0x1020 || index == 0x8110 ||
    (index == 0x8100 && (sub != 1 || v == 2 || (v == 1 && !s.startUp.noPartition) || v == 0 || decide (5 < v)))

/-- Step 5: range, alignment, and what a selector or a limit names. (Log entry 87: DEDUCED, unsafe.) -/
def State.valueOk (s : State) (route index sub v : Nat) : Bool :=
  rangeOk index sub v && s.selects route index sub v &&
    (match objectKind index, sub, s.tenant? (s.selectedTenant route) with
      | 0x1140, sub, _ => s.ringRange index 64 sub v
      | 0x1180, sub, _ => s.ringRange index 32 sub v
      | 0x2000, 1, _ => decide (v ≤ s.setting 0x8010 1)
      | 0x3040, sub, some x => s.areaRange x sub v
      | 0x3050, sub, some x => s.quotaRange x sub v
      | 0x4200, 3, _ => decide (16 + v + max (s.setting 0x5010 1) s.job.loftMib ≤ 128)
      | 0x5010, 1, _ => decide (16 + s.setting 0x4200 3 + v ≤ 128)
      | 0x8110, 1, _ => decide (v < stageSize)
      | 0x8110, 2, _ => decide (s.part.stageOff < stageSize)
      | _, _, _ => true)

/-- Step 6: the object is in a state that allows the write; a key's import and erase have checks of their own (R438). (Log entry 84: DEDUCED, unsafe.) -/
def State.stateOk (s : State) (route index sub v : Nat) : Bool :=
  if index == 0x3010 && (sub == 4 || sub == 5) then true
  else if tenantObject index && s.job.state == 0 then false
  else match objectKind index, sub with
    | 0x1020, 6 => s.part.qstate != 1
    | 0x1100, 1 => v == 1 || !s.windowClosed
    | 0x1118, _ => decide (s.job.state ≤ 1)
    | 0x1120, 1 => v == 1 || !(s.onRoute (objectNumber index) || (objectNumber index == 0 && s.pairing.state == 2))
    | 0x1140, 1 => true
    | 0x1140, _ => s.setting index 1 == 0
    | 0x1180, 1 => v == 1 || s.cqFree (objectNumber index)
    | 0x1180, _ => s.setting index 1 == 0
    | 0x11C8, 1 => v == 1 || decide (s.pairing.state < 2)
    | 0x11C8, _ => s.pairing.state == 2
    | 0x2000, 9 => s.maySleep
    | 0x3040, 1 | 0x3040, 2 => (s.pinnedPlaces (s.selectedTenant route)).isEmpty
    | 0x4010, _ => (s.slot (objectNumber index)).state != 0
    | 0x8100, 1 => s.part.result != 1
    | 0x8110, _ => s.part.spState == 1 && !s.power.nvInhibit
    | _, _ => true

/-- Status of the first check of Table 16-3 that a write fails, from step 2 on; OK when none does. -/
def State.writeStatus (s : State) (route index sub v : Nat) : Nat :=
  match subInfo index sub with
  | none => stNotSupported
  | some i =>
    if s.startUp.stage == 0xFF && !s.recoveryServes index sub (v % 2 ^ i.width) then stNotSupported
    else match i.access with
      | .ro | .sp => stDenied
      | _ =>
        let v := writtenValue index sub i.width v
        if i.access = .rwp && !s.presence then stPresence
        else if !s.valueOk route index sub v then stBadParam
        else if !s.stateOk route index sub v then stWrongState
        else stOk

/-! ### What an accepted write does -/

/-- An accepted write to an object of the selected tenant, keys apart. -/
def State.putTenant (s : State) (t index sub v : Nat) : State :=
  match index with
  | 0x3010 => s.modTenant t (fun x => { x with keySrc := BitVec.ofNat 64 v })
  | 0x3020 => s.modTenant t (fun x => x.putText sub v)
  | 0x3030 => s.modTenant t (fun x => x.putServing sub v)
  | 0x3040 => s.modArea t (fun a => a.put sub v)
  | 0x3050 => s.modTenant t (fun x => x.putQuota sub v)
  | _ => s

/-- An accepted write to an object of the module. A soft reset is left to the caller: it begins after the
response is sent. -/
def State.putModule (s : State) (index sub v : Nat) : State :=
  match objectKind index, sub with
  | 0x1020, 6 => s.startQuote
  | 0x1120, 1 => (s.putSub index 1 v).setPortEnable (objectNumber index) v
  | 0x1140, 1 => s.setCmdEnable (objectNumber index) v
  | 0x1180, 1 => s.setCqEnable (objectNumber index) v
  | 0x11C0, 3 => s
  | 0x11C8, 1 => (s.putSub index 1 v).setPairEn v
  | 0x11C8, 5 => s.detachNow
  | 0x2000, 9 => s.enterSleep
  | 0x4010, _ => s.modSlot (objectNumber index) (fun x => x.put sub v)
  | 0x7010, _ | 0x7011, _ | 0x7012, _ | 0x7013, _ | 0x7014, _ => s.clearCause index sub v
  | 0x7100, _ => s.clearStickyWord sub v
  | 0x8010, _ => (s.putSub index sub v).limitChanged sub
  | 0x8100, 1 => (s.putSub index 1 v).startOp v
  | 0x8110, 1 => s.setStageOff v
  | 0x8110, 2 => s.stageWord v
  | _, _ => s.putSub index sub v

/-- A write that passed the checks: the state after it and its status. A key import or erase has statuses
of its own (R438). -/
def State.acceptWrite (s : State) (route index sub v : Nat) : State × Nat :=
  let t := s.selectedTenant route
  if index = 0x3010 && sub = 4 then s.importKey t
  else if index = 0x3010 && sub = 5 then s.eraseKey t
  else if routeSub index sub then (s.putSelector route index sub v, stOk)
  else if tenantObject index then (s.putTenant t index sub v, stOk)
  else (s.putModule index sub v, stOk)

/-- A write of a subindex on a route: the state after it and its status. -/
def State.dictWrite (s : State) (route index sub v : Nat) : State × Nat :=
  let st := s.writeStatus route index sub v
  if st != stOk then (s, st)
  else
    let w := match subInfo index sub with
      | some i => i.width
      | none => 0
    s.acceptWrite route index sub (writtenValue index sub w v)

/-- The write starts a soft reset once its response is sent. -/
def startsReset (index sub status : Nat) : Bool := index == 0x11C0 && sub == 3 && status == stOk

end Sys2Proof.Machine
end

