-- ==== Sys2Proof/Machine/Debug.lean ====
section
/-!
DEFINITION. The test access port (20 R532; 15 R448).
-/

namespace Sys2Proof.Machine

/-- IDCODE (R532). -/
def execIdcode (s : State) : Host.Outcome State Fault Refusal := .next (s.send (.jtag 0x1009C4AF))

/-- A bit passes through the bypass register. -/
def State.bypass (s : State) (tdi : Bool) : State := s.send (.jtag (if tdi then 1 else 0))

def execBypass (tdi : Bool) (s : State) : Host.Outcome State Fault Refusal := .next (s.bypass tdi)

/-- What a place holds; a register whose layout is not stated reads a free value. (Log entry 145: DESIGN CHOICE,
unsafe.) -/
def State.debugRead (s : State) (p : DebugPlace) : Nat :=
  match p with
  | .sram core addr => (memGet (s.vcore core).sram addr).toNat
  | .reg core reg => ((s.vcore core).reg reg).toNat
  | .loft q addr => (memGet (vGet s.cores.lofts q []) addr).toNat
  | .frame n addr => (memGet (s.kvData n) addr).toNat
  | .host tenant addr => (memGet (s.hostMem tenant) addr).toNat
  | .object index sub => ((s.held? 1 index sub).getD (s.free 0))
  | .other _ _ => s.free 0

/-- A place takes a value. (Log entry 145: DESIGN CHOICE, unsafe.) -/
def State.debugWrite (s : State) (p : DebugPlace) (v : U64) : State :=
  match p with
  | .sram core addr => s.modVcore core (fun c => { c with sram := memSet c.sram addr (v.setWidth 8) })
  | .reg core reg => s.modVcore core (fun c => c.putReg reg v)
  | .loft q addr =>
    { s with cores := { s.cores with lofts := vMod s.cores.lofts q (fun m => memSet m addr (v.setWidth 8)) } }
  | .frame n addr => s.putKvData n (memSet (s.kvData n) addr (v.setWidth 8))
  | .host tenant addr => s.writeHost tenant addr [v.setWidth 8]
  | .object index sub => s.putSub index sub v.toNat
  | .other _ _ => s

/-- DEBUG_PORT_ACCESS (R448): while the port is locked every instruction behaves as BYPASS. -/
def State.debugAccess (s : State) (a : DebugAccess) : State :=
  if !s.part.debug then s.bypass a.tdi
  else match a.act with
    | .read p => (s.drew 1).send (.jtag (BitVec.ofNat 64 (s.debugRead p)))
    | .write p v => s.debugWrite p v
    | .halt => s.raiseFault srcDebugHalt

def execDebugPortAccess (a : DebugAccess) (s : State) : Host.Outcome State Fault Refusal := .next (s.debugAccess a)

end Sys2Proof.Machine
end

