-- ==== Sys2Proof/Machine/MoveEngine.lean ====
section
/-!
DEFINITION. MOVE (07 R207, R210; 11 R330 to R334) and HANDOFF (07 R209).
-/

namespace Sys2Proof.Machine

/-! ### Translated addresses (R331, R334) -/

/-- What a program's address in a tenant's space leads to. -/
inductive FarPlace where
  /-- The host region as it stands. -/
  | host
  /-- A bale of an open window. -/
  | window
  /-- A page unmapped in the present epoch: its bytes stay readable to programs of the epoch. -/
  | left (p : Page)
  /-- A key-value bale of a session. -/
  | kv (session : U64) (k : KvBale)
  /-- A window closed in the present epoch: its bales are read and written in T2, where its flush put them. -/
  | leftWindow (w : Window)
  /-- A bale of an object of the module region or of the job space. -/
  | object (kind number bale : Nat)
  deriving DecidableEq, Repr

/-- A window as the programs of the present epoch see it: opened before the epoch. -/
def State.windowFor (s : State) (t va : Nat) : Option Window :=
  (s.windowAt t va).filter (fun w => w.since != s.epochs.epoch)

/-- A window that was closed in the present epoch, and opened before it. -/
def State.leftWindowFor (s : State) (t va : Nat) : Option Window :=
  (s.tiers.leftWindows.find? (fun x => x.1 == s.epochs.epoch && x.2.since != s.epochs.epoch && x.2.tenant == t &&
    decide (x.2.va ≤ va) && decide (va < x.2.va + 65536 * x.2.bales))).map (·.2)

/-- A page as the programs of the present epoch see it: mapped before the epoch opened, and not unmapped before it. -/
def State.pageFor (s : State) (t va : Nat) : Option Page :=
  s.tiers.pages.find? (fun p => p.tenant == t && decide (p.va ≤ va) && decide (va < p.va + p.size) &&
    p.since != s.epochs.epoch && (if p.left.isNone then p.window.isNone else p.left == some s.epochs.epoch))

/-! ### The module region and the job space (R330, R331) -/

/-- First address of an object, in the module region. (Log entry 114: DESIGN CHOICE, safe.) -/
def PlacedObject.base (o : PlacedObject) : Nat :=
  2 ^ 47 + 65536 * (Config.objectPage o.space o.kind o.number % 2 ^ 31)

/-- Bytes of a frame as the open epoch sees it: one whose last mapping has gone since keeps them (R235, R334).
(Log entry 134: DEDUCED, unsafe.) -/
def State.frameBytes (s : State) (f : Nat) : Mem :=
  (((s.kvFrame? f).orElse (fun _ => s.epochs.view.bind (fun v => v.frames.find? (fun x => x.frame == f)))).map
    (·.data)).getD []

/-- The object of a space at an address, and the bale of it, as the open epoch sees them. -/
def State.objectAt (s : State) (space va : Nat) : Option FarPlace :=
  (((s.epochs.view.map (·.objects)).getD s.placedObjects).find? (fun o => o.space == space && decide (o.base ≤ va) &&
    decide (va < o.base + 65536 * o.bales))).map (fun o => .object o.kind o.number ((va - o.base) / 65536))

/-- Bytes of a bale of an object: index bales, row bales and retained bales as their chapters lay them out; the rest
as loaded, in a form that is not stated. (Log entry 114: DESIGN CHOICE, safe.) -/
def State.objectBale (s : State) (kind number bale : Nat) : List Byte :=
  match kind with
  | 0 =>
    let slot := number / 4096
    let p := (s.epochs.view.bind (fun v => v.partitions.find? (fun p => p.slot == slot && p.tenant == number % 4096))).getD
      (s.partition slot (number % 4096))
    let d := (s.epochs.view.map (fun v => vGet v.slots slot IndexSlot.empty)).getD (s.slot slot)
    (((indexImage d p).drop 1)[bale]?).getD []
  | 1 => ((findTable (s.sheaf.view.getD s.sheaf.tables) number).map (fun t => t.rowBale bale)).getD []
  | 6 => readBytes (s.frameBytes number) 0 65536
  | _ => (List.range 65536).map (fun i => Config.objectByte kind number bale i)

/-- Translation of one address: the tenant's space, then the job space; none refuses it.
(Log entries 46: DEDUCED, unsafe; 114: DESIGN CHOICE, safe.) -/
def State.translate (s : State) (t va : Nat) : Option FarPlace :=
  if (s.windowFor t va).isSome then some .window
  else match s.pageFor t va with
    | some p => some (if p.left.isNone then .host else .left p)
    | none => ((s.leftWindowFor t va).map FarPlace.leftWindow).orElse (fun _ =>
        ((s.kvAt t va).map (fun k => FarPlace.kv k.1 k.2)).orElse (fun _ =>
          (s.objectAt t va).orElse (fun _ => s.objectAt 0x1000 va)))

/-- A MOVE may write there: nothing in the job space, and none of the module's own objects.
(Log entry 125: DESIGN CHOICE, unsafe.) -/
def FarPlace.writable : FarPlace → Bool
  | .object _ _ _ => false
  | _ => true

/-- Bytes of a piece that lies in one 64 KiB page; a window's bale is filled first. -/
def State.readPiece (s : State) (t va n : Nat) : State × List Byte :=
  match s.translate t va with
  | some .host => (s, readBytes (s.hostMem t) va n)
  | some .window =>
    let s := s.touchHost t va false
    (s, readBytes (s.hostMem t) va n)
  | some (.left p) => (s, readBytes p.old va n)
  | some (.kv _ k) => (s, readBytes (s.frameBytes k.frame) (va % 65536) n)
  | some (.leftWindow w) => (s, readBytes s.t2 (w.t2 + (va - w.va)) n)
  | some (.object kind number bale) => (s, ((s.objectBale kind number bale).drop (va % 65536)).take n)
  | none => (s, List.replicate n 0)

/-- Writes the bytes that a page unmapped in the present epoch keeps. -/
def State.writeOld (s : State) (p : Page) (va : Nat) (bs : List Byte) : State :=
  let put (x : Page) : Page := { x with old := writeBytes x.old va bs }
  { s with tiers := { s.tiers with pages := updWhere (fun x => decide (x = p)) put s.tiers.pages } }

/-- Writes into the bytes that a frame unmapped in the present epoch keeps. -/
def State.writeGone (s : State) (f o : Nat) (bs : List Byte) : State :=
  let put (x : KvFrame) : KvFrame := { x with data := writeBytes x.data o bs }
  { s with epochs := { s.epochs with view := s.epochs.view.map (fun v => { v with
      frames := updWhere (fun x => x.frame == f) put v.frames }) } }

/-- Writes into a key-value bale of a session, which is then dirty. -/
def State.writeKv (s : State) (h : U64) (k : KvBale) (o : Nat) (bs : List Byte) : State :=
  let mark (b : KvBale) : KvBale := { b with dirty := true }
  if (s.kvFrame? k.frame).isSome then
    (s.putKvData k.frame (writeBytes (s.kvData k.frame) o bs)).modSession h
      (fun x => { x with kv := updWhere (fun b => b.frame == k.frame) mark x.kv })
  else s.writeGone k.frame o bs

/-- Writes a piece. -/
def State.writePiece (s : State) (t va : Nat) (bs : List Byte) : State :=
  match s.translate t va with
  | some .host => s.writeHost t va bs
  | some .window => (s.touchHost t va true).writeHost t va bs
  | some (.left p) => s.writeOld p va bs
  | some (.kv h k) => s.writeKv h k (va % 65536) bs
  | some (.leftWindow w) => s.writeT2 (w.t2 + (va - w.va)) bs
  | some (.object _ _ _) | none => s

/-- Every piece of a range translates, for a write to places that take one. -/
def State.translates (s : State) (t va n : Nat) (write : Bool) : Bool :=
  (balePieces va n).all (fun p => match s.translate t p.1 with
    | some x => !write || x.writable
    | none => false)

/-! ### Staging ranges -/

/-- A range lies within one staging range that the program's version declares. -/
def State.staged (s : State) (c : VCore) (where_ : Nat × Nat) (a n : Nat) : Bool :=
  ((s.coreVersion c).map (·.staging)).getD [] |>.any (fun g => g.1.1 == where_.1 && g.1.2 == where_.2 &&
    decide (g.2.1 ≤ a) && decide (a + n ≤ g.2.1 + g.2.2))

/-! ### MOVE -/

/-- The conditions of R207 and the work area. (Log entry 46: DEDUCED, unsafe.) -/
def State.moveOk (s : State) (c : VCore) (w : CoreWord) : Bool :=
  let a := moveArgs c w
  c.inArea (xLocal w) a.bytes && a.addr % xUnit w == 0 &&
    (match a.far with
     | 0 => match a.tenant with
       | some t => s.translates t a.addr a.bytes (xToFar w)
       | none => false
     | 1 => s.inService a.who && s.staged c (0, a.who) a.addr a.bytes
     | _ => s.staged c (1, a.who) a.addr a.bytes && (s.vcore? a.who).isSome)

/-- Bytes that a MOVE reads at its far address. -/
def State.readFar (s : State) (a : MoveArgs) : State × List Byte :=
  match a.far with
  | 0 => (balePieces a.addr a.bytes).foldl (fun (r : State × List Byte) p =>
      let q := r.1.readPiece (a.tenant.getD 0) p.1 p.2
      (q.1, r.2 ++ q.2)) (s, [])
  | 1 => (s, readBytes (vGet s.cores.lofts a.who []) a.addr a.bytes)
  | _ => (s, readBytes (s.vcore a.who).sram a.addr a.bytes)

def State.writeFar (s : State) (a : MoveArgs) (bs : List Byte) : State :=
  match a.far with
  | 0 => (balePieces a.addr a.bytes).foldl (fun s p =>
      s.writePiece (a.tenant.getD 0) p.1 ((bs.drop (p.1 - a.addr)).take p.2)) s
  | 1 => { s with cores := { s.cores with lofts := vMod s.cores.lofts a.who (fun m => writeBytes m a.addr bs) } }
  | _ => s.modVcore a.who (fun c => { c with sram := writeBytes c.sram a.addr bs })

def execMoveInstruction (vc : Nat) (w : CoreWord) (s : State) : Host.Outcome State Fault Refusal :=
  .next (s.issueIn vc w (isOp w 4 0) (fun c s => s.moveOk c w) (fun c s =>
    let a := moveArgs c w
    if xToFar w then s.writeFar a (readBytes c.sram (xLocal w) a.bytes)
    else
      let r := s.readFar a
      r.1.modVcore vc (fun x => { x with sram := writeBytes x.sram (xLocal w) r.2 })))

/-! ### HANDOFF (Table 7-16) -/

/-- Bytes of output entries at `a`: each one slot, or two when bit 3 of its flags is set (Table 9-7). -/
def outputBytes (m : Mem) (a : Nat) : Nat → Nat
  | 0 => 0
  | n + 1 =>
    let size := if (memGet m (a + 9)).getLsbD 3 then 64 else 32
    size + outputBytes m (a + size) n

/-- Bytes that the entries take from the second line on. (Log entry 50: DESIGN CHOICE, safe.) -/
def State.handoffBytes (s : State) (c : VCore) (w : CoreWord) : Nat :=
  let a := hSrc w
  match wOp w with
  | 0 => 8 * readLe c.sram (a + 2) 2
  | 1 => 2 * (vGet s.slots (readLe c.sram (a + 2) 1) IndexSlot.empty).dim + 96 * readLe c.sram (a + 3) 1
  | 2 => 8 * readLe c.sram (a + 2) 2
  | _ => outputBytes c.sram (a + 64) (readLe c.sram (a + 2) 2)

/-- The range lies in the work area, its header's kind matches, and its entries stay within it. (Log entry 50: DESIGN CHOICE, safe.) -/
def State.handoffOk (s : State) (c : VCore) (w : CoreWord) : Bool :=
  c.inArea (hSrc w) (64 * hLines w) && readLe c.sram (hSrc w) 2 == 0xE1 + wOp w &&
    decide (s.handoffBytes c w ≤ 64 * (hLines w - 1))

/-- The range handed over. -/
def VCore.handed (c : VCore) (w : CoreWord) : List Byte := readBytes c.sram (hSrc w) (64 * hLines w)

/-- HANDOFF: the range goes to the unit, which reads it at once and releases it; it is held to the step's end. What
the units make of it, R265 to R269, R71 and R110 state for the step and the request. (Log entry 50: DESIGN CHOICE, safe.) -/
def execHandoff (vc : Nat) (w : CoreWord) (s : State) : Host.Outcome State Fault Refusal :=
  .next (s.issueIn vc w (wClass w == 7 && decide (wOp w ≤ 3)) (fun c s => s.handoffOk c w) (fun c s =>
    { s with cores := { s.cores with handoffs := s.cores.handoffs ++ [(vc, wOp w, c.handed w)] } }))

end Sys2Proof.Machine
end

