-- ==== Sys2Proof/Machine/Records.lean ====
section
/-!
DEFINITION. RECORD_START: records that were taken and wait start in ring order (01 R17, R21, R22, R25, R27).
-/

namespace Sys2Proof.Machine

/-- The plan of an opcode. Opcodes of records that only the module writes, and those that no chapter assigns,
are not supported (R27, R51, R407). -/
def planOf (r : Record) : Record → State → Plan :=
  match r.opcode with
  | 0x0100 => planIndexCreate
  | 0x0101 => planIndexLoad
  | 0x0102 => planIndexDrop
  | 0x0103 => planIndexSave
  | 0x0110 => planVecInsert
  | 0x0111 => planVecDelete
  | 0x0112 => planIndexPublish
  | 0x0120 => planSearch
  | 0x0140 => planTopk
  | 0x0141 => planTopkMerge
  | 0x0200 => planTokenise
  | 0x0201 => planDetokenise
  | 0x0210 => planGrammarLoad
  | 0x0211 => planGrammarDrop
  | 0x0220 => planTemplateLoad
  | 0x0221 => planTemplateDrop
  | 0x0230 => planPassageLoad
  | 0x0231 => planPassageDrop
  | 0x0240 => planPack
  | 0x0300 => planTableCreate
  | 0x0301 => planTableDrop
  | 0x0302 => planRowLoad
  | 0x0303 => planTableSave
  | 0x0310 => planGather
  | 0x0311 => planPool
  | 0x0320 => planScatter
  | 0x0400 => planJobLoad
  | 0x0401 => planJobEnd
  | 0x0410 => planRequest
  | 0x0420 => planEmbed
  | 0x0480 => planSafeguardRead
  | 0x0500 => planOpen
  | 0x0501 => planAppend
  | 0x0502 => planGenerate
  | 0x0503 => planResume
  | 0x0504 => planPark
  | 0x0505 => planRevive
  | 0x0506 => planMove
  | 0x0507 => planFork
  | 0x0508 => planClose
  | 0x0509 => planSeal
  | 0x0600 => planPageMap
  | 0x0601 => planPageUnmap
  | 0x0602 => planCopyIn
  | 0x0603 => planCopyOut
  | 0x0610 => planTierMode
  | 0x0611 => planWindowOpen
  | 0x0612 => planWindowFlush
  | 0x0613 => planWindowClose
  | 0x0640 => planModelLoad
  | 0x0641 => planModelRetire
  | 0x0642 => planModelCurrent
  | 0x0643 => planModelPin
  | 0x0700 => planTallyClaim
  | 0x0701 => planTallyRelease
  | 0x0702 => planTallySignal
  | 0x0703 => planTallyWait
  | 0x0704 => planTallyRead
  | 0x0F00 => planDiagEcho
  | 0x0F01 => planFaultInject
  | 0x0F02 => planFaultRead
  | _ => unassigned

/-- Starts a record of a ring that was taken before `enable` was last set: its `seq` is held against the value
kept then, and the value for the later records stays (R23). -/
def State.startFormer (s : State) (r : Record) (n : Nat) (k : Option U32) (rest : List (Nat × Option U32)) :
    State :=
  let kept := (s.cmdRing r.ring).lastSeq
  let s := (s.modCmd r.ring (fun c => { c with lastSeq := k })).startRecord r (planOf r)
  s.modCmd r.ring (fun c => { c with
    lastSeq := kept,
    former := if c.former.isEmpty then [] else if n ≤ 1 then rest else (n - 1, c.lastSeq) :: rest })

/-- The oldest unstarted record of a ring starts when it may; its place is free for the fetcher. -/
def State.startHead (s : State) (ring : Nat) : State :=
  match (s.cmdRing ring).taken with
  | [] => s
  | r :: rest =>
    if s.canStart r then
      let s := s.modCmd ring (fun c => { c with taken := rest })
      match (s.cmdRing ring).former with
      | [] => (s.startRecord r (planOf r)).placeFreed ring
      | (n, k) :: old => (s.startFormer r n k old).placeFreed ring
    else s

def execRecordStart (ring : Nat) (s : State) : Host.Outcome State Fault Refusal := .next (s.startHead ring)

end Sys2Proof.Machine
end

