-- ==== Sys2Proof/Machine/Requests.lean ====
section
/-!
DEFINITION. Dictionary requests and the commands that carry them: window slots, management frames, single
requests on a route, and commits (13 R392 to R394; 16 R453 to R466; and the rules of the rows).
-/

namespace Sys2Proof.Machine

/-! ### One request -/

/-- What a request leaves: the state, what its response carries, and whether a soft reset follows it. -/
structure Answer where
  state : State
  status : Nat
  value : U64
  reset : Bool

/-- A response whose value field is `v`; where the rules state no value, it is a free one. (Log entry 86: DESIGN CHOICE, safe.) -/
def State.answers (s : State) (status : Nat) (v : Option Nat) (reset : Bool) : Answer :=
  match v with
  | some n => { state := s, status := status, value := BitVec.ofNat 64 n, reset := reset }
  | none => { state := s.drew 1, status := status, value := BitVec.ofNat 64 (s.free 0), reset := reset }

/-- A read. A count that depends on free values is drawn anew at the next read. (Log entry 86: DESIGN CHOICE, safe.) -/
def State.readRequest (s : State) (route index sub : Nat) : Answer :=
  match s.held? route index sub with
  | none => s.answers stNotSupported none false
  | some v => (if index = 0x2410 && sub = 9 then s.drew 192 else s).answers stOk (some v) false

/-- A write: its response carries the value now held. -/
def State.writeRequest (s : State) (route index sub v : Nat) : Answer :=
  let r := s.dictWrite route index sub v
  r.1.answers r.2 (r.1.held? route index sub) (startsReset index sub r.2)

/-- A request of either route: step 1 of Table 16-3, then the read or the write. (Log entry 85: DEDUCED, unsafe.) -/
def State.request (s : State) (route op index sub v : Nat) (zeros : Bool) : Answer :=
  if op = 1 then
    (if zeros then s.readRequest route index sub else s.answers stBadParam none false)
  else if op = 2 then
    (if zeros then s.writeRequest route index sub v
     else s.answers stBadParam (s.held? route index sub) false)
  else s.answers stBadParam none false

/-- A soft reset begins once the response is on its way. -/
def Answer.finish (a : Answer) (s : State) : State := if a.reset then s.softReset else s

/-- A route serves requests (R457, R459, R511): the module runs, and for route 0 the link is up with the
base set present. (Log entry 85: DEDUCED, unsafe.) -/
def State.serves (s : State) (route : Nat) : Bool :=
  !s.held && !s.startUp.halted && decide (2 ≤ s.startUp.stage) &&
    (if route = 0 then !s.windowClosed else s.readMgmt 1 == 1)

/-- A write that comes as a command of its own. It wakes the module (R497). -/
def State.rowWrite (s : State) (route index sub : Nat) (value : U64) : State :=
  if s.serves route then
    let a := s.wake.request route 2 index sub value.toNat true
    a.finish (a.state.send (.answer route a.status a.value))
  else s

/-! ### The window (R392 to R394) -/

/-- A response line of Table 13-6. -/
def responseLine (tag : Byte) (a : Answer) : Line :=
  ofBytes 512 ([1, tag] ++ toLe 2 a.status ++ toLe 4 0 ++ toLe 8 a.value.toNat)

/-- Reserved bytes of a request line are zero. -/
def requestZeros (l : Line) : Bool := field l 5 3 == 0 && field l 16 48 == 0

def State.putSlotLine (s : State) (slot : Nat) (f : WinSlot → WinSlot) : State :=
  s.modLink (fun l => { l with slots := vMod l.slots slot f })

/-- The request of a slot is carried out, and its response line written whole. (Log entry 24: DESIGN CHOICE, unsafe.) -/
def State.runSlot (s : State) (slot : Nat) (l : Line) : State :=
  let s := s.putSlotLine slot (fun x => { x with response := setField x.response 0 1 0 })
  let a := s.request 0 (field l 0 1) (field l 2 2) (field l 4 1) (field l 8 8) (requestZeros l)
  a.finish (a.state.putSlotLine slot (fun x => { x with
    response := responseLine (l.extractLsb' 8 8) a, unread := true }))

/-- The slot's previous request may still be in progress: the host has not read its response, and how long it takes is
a free value (R394). (Log entry 120: DESIGN CHOICE, safe.) -/
def State.slotBusy (s : State) (slot : Nat) : Bool :=
  (vGet s.link.slots slot ⟨0, 0, false⟩).unread && s.free 0 % 2 == 1

/-- A request at a slot: ignored and counted while the previous one is in progress, else carried out (R393, R394). -/
def State.requestAt (s : State) (slot : Nat) (l : Line) : State :=
  if s.slotBusy slot then (s.drew 1).modLink (fun k => { k with winOverruns := k.winOverruns + 1 })
  else (if (vGet s.link.slots slot ⟨0, 0, false⟩).unread then s.drew 1 else s).runSlot slot l

/-- WIN_WR: a line that is no request line of a slot is ignored. -/
def State.winWr (s : State) (tag : U16) (off : Nat) (l : Line) : State :=
  let s := s.wake.send (.winDone tag)
  if off < 4096 && off % 128 == 0 then
    let s := s.putSlotLine (off / 128) (fun x => { x with request := l })
    if s.serves 0 then s.requestAt (off / 128) l else s
  else s

def execWinWr (tag : U16) (off : Nat) (line : Line) (s : State) : Host.Outcome State Fault Refusal :=
  .next (s.winWr tag off line)

/-! ### The management port (R460 to R463) -/

/-- The byte of a frame's payload. -/
def frameAt (f : MgmtFrame) (o k : Nat) : Nat := bytesLe f.payload o k

/-- A dictionary frame that is addressed to the module. (Log entry 88: DEDUCED, unsafe.) -/
def State.takesFrame (s : State) (f : MgmtFrame) : Bool :=
  !f.vlan && f.etherType.toNat == s.setting 0x1100 3 &&
    (f.dst == s.ident.mac || f.dst == 0xFFFFFFFFFFFF#48)

def broadcastOk (f : MgmtFrame) : Bool :=
  (List.range (frameAt f 2 1)).all (fun i => frameAt f (8 + 16 * i) 1 == 1 && frameAt f (10 + 16 * i) 2 == 0x1000)

/-- The frame is one that R461 accepts. (Log entry 88: DEDUCED, unsafe.) -/
def frameOk (f : MgmtFrame) : Bool :=
  f.fcsGood && frameAt f 0 1 == 1 && frameAt f 1 1 == 0 && decide (1 ≤ frameAt f 2 1 ∧ frameAt f 2 1 ≤ 32) && frameAt f 3 1 == 0 &&
    decide (8 + 16 * frameAt f 2 1 ≤ f.payload.length) && (f.dst != 0xFFFFFFFFFFFF#48 || broadcastOk f)

/-- Entries run in order from the `i`th on: the state, the response entries, and whether a reset follows. -/
def State.runEntries (s : State) (f : MgmtFrame) (i : Nat) : Nat → State × List Byte × Bool
  | 0 => (s, [], false)
  | n + 1 =>
    let o := 8 + 16 * i
    let a := s.request 1 (frameAt f o 1) (frameAt f (o + 2) 2) (frameAt f (o + 4) 1) (frameAt f (o + 8) 8) (frameAt f (o + 5) 3 == 0)
    let r := a.state.runEntries f (i + 1) n
    let entry := (f.payload.drop o).take 2 ++ toLe 2 a.status ++ (f.payload.drop (o + 2)).take 3 ++ [0] ++
      toLe 8 a.value.toNat
    (r.1, entry ++ r.2.1, a.reset || r.2.2)

/-- The response payload, padded to 46 bytes. -/
def framePayload (f : MgmtFrame) (entries : List Byte) : List Byte :=
  padTo 46 ([1, 1] ++ toLe 1 (frameAt f 2 1) ++ [0] ++ (f.payload.drop 4).take 4 ++ entries)

/-- Keeps a source's last response; 8 sources are kept, the most recently accepted first. -/
def Mgmt.keep (m : Mgmt) (k : KeptFrame) : Mgmt :=
  { m with kept := (k :: m.kept.filter (fun (x : KeptFrame) => x.src != k.src)).take 8 }

def State.sendKept (s : State) (k : KeptFrame) : State :=
  ({ s with mgmt := s.mgmt.keep k }).send (.mgmtFrame k.src k.etherType k.response)

/-- An accepted frame: answered from the kept response, or carried out. -/
def State.acceptFrame (s : State) (f : MgmtFrame) : State :=
  let s := ({ s with mgmt := { s.mgmt with rxFrames := s.mgmt.rxFrames + 1 } }).wake
  let xid : U32 := BitVec.ofNat 32 (frameAt f 4 4)
  match s.mgmt.kept.find? (fun (k : KeptFrame) => k.src == f.src && k.xid == xid) with
  | some k => ({ s with mgmt := { s.mgmt with replays := s.mgmt.replays + 1 } }).sendKept k
  | none =>
    let et : U16 := BitVec.ofNat 16 (s.setting 0x1100 3)
    let r := s.runEntries f 0 (frameAt f 2 1)
    let s := r.1.sendKept { src := f.src, xid := xid, etherType := et, response := framePayload f r.2.1 }
    if r.2.2 then s.softReset else s

/-- Four accepted frames may wait in the receive buffer; how long a frame waits there is a free value (R461). (Log entry
120: DESIGN CHOICE, safe.) -/
def State.bufferFull (s : State) : Bool := decide (4 ≤ s.mgmt.rxFrames.toNat) && s.free 0 % 2 == 1

/-- A dictionary frame that the buffer has room for. -/
def State.judgeFrame (s : State) (f : MgmtFrame) : State :=
  if frameOk f then s.acceptFrame f
  else { s with mgmt := { s.mgmt with badFrames := s.mgmt.badFrames + 1 } }

/-- DICTIONARY_FRAME: one that finds the buffer full is lost and counted. -/
def State.mgmtFrame (s : State) (f : MgmtFrame) : State :=
  if s.serves 1 && s.takesFrame f then
    (if s.bufferFull then { (s.drew 1) with mgmt := { s.mgmt with rxDrops := s.mgmt.rxDrops + 1 } }
     else (if 4 ≤ s.mgmt.rxFrames.toNat then s.drew 1 else s).judgeFrame f)
  else s

def execDictionaryFrame (f : MgmtFrame) (s : State) : Host.Outcome State Fault Refusal :=
  .next (s.mgmtFrame f)

/-! ### Commits (R465, R466) -/

/-- A queued value is written as one journal record; below 62 V no commit starts. -/
def State.commit (s : State) (index sub : Nat) : State :=
  match s.dict.queue.find? (fun e => e.1 == (index, sub)) with
  | some e =>
    if s.power.nvInhibit || s.held then s
    else { s with dict := { s.dict with
      store := insertKey s.dict.store e.1 e.2,
      queue := s.dict.queue.filter (fun x => x.1 != e.1),
      commits := s.dict.commits + 1 } }
  | none => s

def execDictionaryCommit (index sub : Nat) (s : State) : Host.Outcome State Fault Refusal :=
  .next (s.commit index sub)

/-! ### Rows that are writes of one subindex -/

def execDictionaryWrite (route index sub : Nat) (value : U64) (s : State) : Host.Outcome State Fault Refusal :=
  .next (s.rowWrite route index sub value)

def execCommandRingEnable (route ring : Nat) (value : U64) (s : State) : Host.Outcome State Fault Refusal :=
  .next (s.rowWrite route (cmdObj ring) 1 value)

def execCompletionRingEnable (route ring : Nat) (value : U64) (s : State) : Host.Outcome State Fault Refusal :=
  .next (s.rowWrite route (cqObj ring) 1 value)

def execQuote (route : Nat) (value : U64) (s : State) : Host.Outcome State Fault Refusal :=
  .next (s.rowWrite route 0x1020 6 value)

def execKeyImport (route : Nat) (value : U64) (s : State) : Host.Outcome State Fault Refusal :=
  .next (s.rowWrite route 0x3010 4 value)

def execKeyErase (route : Nat) (value : U64) (s : State) : Host.Outcome State Fault Refusal :=
  .next (s.rowWrite route 0x3010 5 value)

def execInstallMainFirmware (route : Nat) (s : State) : Host.Outcome State Fault Refusal :=
  .next (s.rowWrite route 0x8100 1 1)

def execInstallPartitionFirmware (route : Nat) (s : State) : Host.Outcome State Fault Refusal :=
  .next (s.rowWrite route 0x8100 1 2)

def execRotateIdentity (route : Nat) (s : State) : Host.Outcome State Fault Refusal :=
  .next (s.rowWrite route 0x8100 1 3)

def execDebugUnlock (route : Nat) (s : State) : Host.Outcome State Fault Refusal :=
  .next (s.rowWrite route 0x8100 1 4)

def execFactoryReset (route : Nat) (s : State) : Host.Outcome State Fault Refusal :=
  .next (s.rowWrite route 0x8100 1 5)

def execStageOff (route : Nat) (value : U64) (s : State) : Host.Outcome State Fault Refusal :=
  .next (s.rowWrite route 0x8110 1 value)

def execStageData (route : Nat) (value : U64) (s : State) : Host.Outcome State Fault Refusal :=
  .next (s.rowWrite route 0x8110 2 value)

def execStickyClear (route sub : Nat) (value : U64) (s : State) : Host.Outcome State Fault Refusal :=
  .next (s.rowWrite route 0x7100 sub value)

def execCauseClear (route index sub : Nat) (value : U64) (s : State) : Host.Outcome State Fault Refusal :=
  .next (s.rowWrite route index sub value)

def execSleep (route : Nat) (value : U64) (s : State) : Host.Outcome State Fault Refusal :=
  .next (s.rowWrite route 0x2000 9 value)

def execSoftReset (route : Nat) (value : U64) (s : State) : Host.Outcome State Fault Refusal :=
  .next (s.rowWrite route 0x11C0 3 value)

def execPeerPortEnable (route port : Nat) (value : U64) (s : State) : Host.Outcome State Fault Refusal :=
  .next (s.rowWrite route (0x1120 + port) 1 value)

def execPairEn (route : Nat) (value : U64) (s : State) : Host.Outcome State Fault Refusal :=
  .next (s.rowWrite route 0x11C8 1 value)

def execDetachPair (route : Nat) (value : U64) (s : State) : Host.Outcome State Fault Refusal :=
  .next (s.rowWrite route 0x11C8 5 value)

end Sys2Proof.Machine
end

