-- ==== Sys2Proof/Machine/RowPort.lean ====
section
/-!
DEFINITION. The row port: ROWGET, ROWPOOL and ROWPUT (07 R208, R212; 05 R134, R137, R148 to R150, R152).
-/

namespace Sys2Proof.Machine

/-! ### A request that a violation ends (R152) -/

/-- The session's request ends with `status` at the step's end: no token of the step is accepted. -/
def OpenStep.stopSession (o : OpenStep) (h : U64) (status : Nat) : OpenStep :=
  { o with
    decode := updWhere (fun (q : StepSeq) => q.session == h) (fun q => { q with stop := status }) o.decode,
    prefill := o.prefill.map (fun (c : Chunk) =>
      if c.session == h then { c with sample := none, stop := status } else c) }

/-- A row violation ends the session's request, which changes no table: the updates of its step have not joined a batch
(R28, R152). (Log entry 133: DESIGN CHOICE, unsafe.) -/
def State.endRequest (s : State) (h : U64) (status : Nat) : State :=
  ({ s with step := s.step.map (fun (o : OpenStep) => o.stopSession h status) }).modSheaf (fun x => { x with
    puts := x.puts.map (fun (l : List RowUpdate) => l.filter (fun u => u.session != h)) })

/-- The session's request has been stopped in the open step. -/
def State.requestStopped (s : State) (h : U64) : Bool :=
  s.step.any (fun o => o.decode.any (fun q => q.session == h && q.stop != 0) ||
    o.prefill.any (fun c => c.session == h && c.stop != 0))

/-! ### Lookups -/

/-- Counts a program's lookups of a table, unless that table has been dropped since the step began. -/
def State.modRead (s : State) (n : Nat) (f : Table → Table) : State :=
  if s.sheaf.gone.contains n then s else s.modTable n f

/-- Index `e` of the list in core SRAM. -/
def portIndex (m : Mem) (w : CoreWord) (e : Nat) : Nat := readLe m (rIdx w + 4 * e) 4

/-- Every index names a row or no row. -/
def portInRange (m : Mem) (t : Table) (w : CoreWord) : Bool :=
  (List.range (rCount w)).all (fun e => portIndex m w e == noRow || decide (portIndex m w e < t.rows))

/-- Issues a row port instruction: a row whose tag names no sequence, or one whose request has been stopped, does
nothing; a table or row that
`find` refuses ends the session's request with BAD_PARAM; a range outside the work area is a core fault. (Log entry 47: DEDUCED, unsafe.) -/
def State.rowPort (s : State) (vc : Nat) (w : CoreWord) (op : Nat)
    (find : VCore → RowTag → State → Option Table) (ok : VCore → Table → Bool)
    (f : VCore → RowTag → Table → State → State) : State :=
  s.issue vc w (isOp w 5 op) (fun c s' =>
    match c.tag? (rTag w) with
    | none => s'
    | some g =>
      if s'.requestStopped g.session then s'
      else match find c g s' with
      | none => s'.endRequest g.session stBadParam
      | some t => if ok c t then f c g t s' else s.violation vc)

/-! ### ROWGET -/

def runRowget (vc : Nat) (w : CoreWord) (c : VCore) (g : RowTag) (t : Table) (s : State) : State :=
  let fmt := portFormat t w
  let idx := (List.range (rCount w)).map (portIndex c.sram w)
  let rows := idx.map (fun i => if i == noRow then (List.replicate (rowStride t.width fmt) (0 : Byte), 0)
    else
      let x := gatherRow t fmt i
      (rowImage fmt t.width x.1, x.2))
  let used := idx.filter (· != noRow)
  let s := s.modRead t.number (fun t => (used.foldl (fun t i => t.noteLookup i) t).count g.tenant
    used.length 0 (sumOf (fun x => x.2) rows) (rCount w - used.length))
  s.modVcore vc (fun x => { x with sram := writeBytes x.sram (rData w) (rows.flatMap (·.1)) })

def execRowget (vc : Nat) (w : CoreWord) (s : State) : Host.Outcome State Fault Refusal :=
  .next (s.rowPort vc w 0
    (fun c g s => (s.tableForRead g.tenant (rTable w)).filter (fun t => portInRange c.sram t w))
    (fun c t => c.inArea (rIdx w) (4 * rCount w) &&
      c.inArea (rData w) (rCount w * rowStride t.width (portFormat t w)))
    (runRowget vc w))

/-! ### ROWPOOL -/

def runRowpool (vc : Nat) (w : CoreWord) (c : VCore) (g : RowTag) (t : Table) (s : State) : State :=
  let a := portPool w
  let rows := (List.range a.bags).map (poolRow c.sram t a)
  let pooled := sumOf (fun x => x.2.2) rows
  let idx := ((List.range a.entries).map (fun e => (poolEntry c.sram a e).1)).filter (· != noRow)
  let s := s.modRead t.number (fun t => (idx.foldl (fun t i => t.noteLookup i) t).count g.tenant
    pooled 0 (sumOf (fun x => x.2.1) rows) (a.entries - pooled))
  s.modVcore vc (fun x => { x with
    sram := writeBytes x.sram a.dest (rows.flatMap (fun r => rowImage (poolFormat a) t.width r.1)) })

def execRowpool (vc : Nat) (w : CoreWord) (s : State) : Host.Outcome State Fault Refusal :=
  .next (s.rowPort vc w 1
    (fun c g s => (s.tableForRead g.tenant (rTable w)).filter (fun t =>
      poolOffsetsOk c.sram (portPool w) && poolInRange c.sram t (portPool w) &&
        poolWeightsOk c.sram (portPool w)))
    (fun c t => c.inArea (rIdx w) (8 * rCount w) && c.inArea (rOffs w) (4 * rBags w) &&
      c.inArea (rData w) (rBags w * rowStride t.width (poolFormat (portPool w))))
    (runRowpool vc w))

/-! ### ROWPUT -/

/-- FP32 values of entry `e`. -/
def portRow (m : Mem) (t : Table) (w : CoreWord) (e : Nat) : List U32 :=
  readRow m (portFormat t w) (rData w + e * rowStride t.width (portFormat t w)) t.width

/-- Every value of a row that is put is finite (R129). -/
def portFinite (m : Mem) (t : Table) (w : CoreWord) : Bool :=
  (List.range (rCount w)).all (fun e => portIndex m w e == noRow || (portRow m t w e).all finite32)

def runRowput (w : CoreWord) (c : VCore) (g : RowTag) (t : Table) (s : State) : State :=
  let ups := (List.range (rCount w)).filterMap (fun e =>
    let i := portIndex c.sram w e
    if i == noRow then none
    else some (RowUpdate.mk t.number i (portRow c.sram t w e) none g.tenant g.session))
  let s := s.modTable t.number (fun t => t.count g.tenant 0 0 0 (rCount w - ups.length))
  s.modSheaf (fun x => { x with puts := x.puts ++ [ups] })

def execRowput (vc : Nat) (w : CoreWord) (s : State) : Host.Outcome State Fault Refusal :=
  .next (s.rowPort vc w 2
    (fun c g s => (s.tableForWrite g.tenant (rTable w)).filter (fun t =>
      portInRange c.sram t w && portFinite c.sram t w && !(t.static && t.loaded)))
    (fun c t => c.inArea (rIdx w) (4 * rCount w) &&
      c.inArea (rData w) (rCount w * rowStride t.width (portFormat t w)))
    (runRowput w))

end Sys2Proof.Machine
end

