-- ==== Sys2Proof/Machine/Sequencer.lean ====
section
/-!
DEFINITION. The scalar sequencer's instructions (07 R203 to R206) and the synchronisation instructions
(14 R404, R405, R409 to R415).
-/

namespace Sys2Proof.Machine

def State.setPc (s : State) (vc n : Nat) : State := s.modVcore vc (fun c => { c with pc := n })

/-! ### Control flow (Table 7-11) -/

def execJump (vc : Nat) (w : CoreWord) (s : State) : Host.Outcome State Fault Refusal :=
  .next (s.issue vc w (isOp w 0 0) (fun _ s => s.setPc vc (wTarget w)))

/-- The comparison of BRANCH; the reserved codes are never loaded (R211). -/
def branchTaken (cond : Nat) (a b : U64) : Bool :=
  match cond with
  | 0 => a == b
  | 1 => a != b
  | 2 => a.ult b
  | 3 => !a.ult b
  | 4 => a.slt b
  | 5 => !a.slt b
  | _ => false

def execBranch (vc : Nat) (w : CoreWord) (s : State) : Host.Outcome State Fault Refusal :=
  .next (s.issue vc w (isOp w 0 1) (fun c s =>
    if branchTaken (wCond w) (c.reg (wBranchA w)) (c.reg (wBranchB w)) then s.setPc vc (wTarget w) else s))

def execLoop (vc : Nat) (w : CoreWord) (s : State) : Host.Outcome State Fault Refusal :=
  .next (s.issue vc w (isOp w 0 2) (fun c s =>
    let n := c.reg (wLoopReg w) - 1
    let s := s.modVcore vc (fun c => c.putReg (wLoopReg w) n)
    if n = 0 then s else s.setPc vc (wTarget w)))

/-- The program of the step that waits for the virtual core starts on it (R202). -/
def State.nextProgram (s : State) (vc : Nat) : State :=
  match s.cores.queued.find? (fun e => e.1 == vc) with
  | none => s
  | some e => { (s.putVcore vc e.2) with cores := { (s.putVcore vc e.2).cores with queued := s.cores.queued.erase e } }

/-- HALT: the program has ended for the step and starts again at instruction 0; another that waits for the virtual
core follows. -/
def execHalt (vc : Nat) (w : CoreWord) (s : State) : Host.Outcome State Fault Refusal :=
  .next (s.issue vc w (isOp w 0 3) (fun _ s =>
    (s.modVcore vc (fun c => { c with pc := 0, wait := .halted })).nextProgram vc))

/-- DRAIN issues once every earlier instruction has finished. -/
def execDrain (vc : Nat) (w : CoreWord) (s : State) : Host.Outcome State Fault Refusal :=
  .next (s.issue vc w (isOp w 0 4) (fun _ s => s))

/-! ### Scalar arithmetic (Table 7-12) -/

/-- The second operand: `rb`, or `imm` sign-extended. -/
def VCore.operandB (c : VCore) (w : CoreWord) : U64 := if wImmEn w then wImm w else c.reg (wRb w)

/-- rd = ra op b. -/
def State.scalar (s : State) (vc : Nat) (w : CoreWord) (op : Nat) (f : U64 → U64 → U64) : State :=
  s.issue vc w (isOp w 1 op) (fun c s =>
    s.modVcore vc (fun x => x.putReg (wRd w) (f (c.reg (wRa w)) (c.operandB w))))

def execAdd (vc : Nat) (w : CoreWord) (s : State) : Host.Outcome State Fault Refusal :=
  .next (s.scalar vc w 0 (· + ·))

def execSub (vc : Nat) (w : CoreWord) (s : State) : Host.Outcome State Fault Refusal :=
  .next (s.scalar vc w 1 (· - ·))

def execMul (vc : Nat) (w : CoreWord) (s : State) : Host.Outcome State Fault Refusal :=
  .next (s.scalar vc w 2 (· * ·))

def execAnd (vc : Nat) (w : CoreWord) (s : State) : Host.Outcome State Fault Refusal :=
  .next (s.scalar vc w 3 (· &&& ·))

def execOr (vc : Nat) (w : CoreWord) (s : State) : Host.Outcome State Fault Refusal :=
  .next (s.scalar vc w 4 (· ||| ·))

def execXor (vc : Nat) (w : CoreWord) (s : State) : Host.Outcome State Fault Refusal :=
  .next (s.scalar vc w 5 (· ^^^ ·))

/-- Shifts go by b[5:0]. -/
def execShl (vc : Nat) (w : CoreWord) (s : State) : Host.Outcome State Fault Refusal :=
  .next (s.scalar vc w 6 (fun a b => a <<< (b.toNat % 64)))

def execShr (vc : Nat) (w : CoreWord) (s : State) : Host.Outcome State Fault Refusal :=
  .next (s.scalar vc w 7 (fun a b => a >>> (b.toNat % 64)))

def execLoadi (vc : Nat) (w : CoreWord) (s : State) : Host.Outcome State Fault Refusal :=
  .next (s.issue vc w (isOp w 1 8) (fun _ s => s.modVcore vc (fun c => c.putReg (wRd w) (wImm64 w))))

/-- An aligned doubleword inside the work area (R206). -/
def VCore.doubleOk (c : VCore) (w : CoreWord) : Bool := c.address w % 8 == 0 && c.inArea (c.address w) 8

def execLd (vc : Nat) (w : CoreWord) (s : State) : Host.Outcome State Fault Refusal :=
  .next (s.issueIn vc w (isOp w 1 9) (fun c _ => c.doubleOk w) (fun c s =>
    s.modVcore vc (fun x => x.putReg (wRd w) (BitVec.ofNat 64 (readLe c.sram (c.address w) 8)))))

def execSt (vc : Nat) (w : CoreWord) (s : State) : Host.Outcome State Fault Refusal :=
  .next (s.issueIn vc w (isOp w 1 10) (fun c _ => c.doubleOk w) (fun c s =>
    s.modVcore vc (fun x => { x with sram := writeLe x.sram (c.address w) 8 (c.reg (wRb w)).toNat })))

/-! ### Tallies (R404, R405, R409) -/

/-- Count of TALLY_ADD. (Log entry 49: DEDUCED, unsafe.) -/
def VCore.tallyCount (c : VCore) (w : CoreWord) : Nat := (c.reg (wTallyReg w)).toNat + wTallyImm w

/-- TALLY_ADD: a signal; one that would pass 2^64 − 1 raises the synchronisation fault. -/
def execTallyAdd (vc : Nat) (w : CoreWord) (s : State) : Host.Outcome State Fault Refusal :=
  .next (s.issueIn vc w (isOp w 0 5) (fun c _ => c.tallyCount w != 0) (fun c s =>
    let n := wTally w
    if (s.tally n).overflows (c.tallyCount w) then s.raiseFault srcSync
    else s.signalTally n (c.tallyCount w)))

/-- TALLY_WAIT of a program: released at once, or the virtual core waits. -/
def execTallyWaitInstruction (vc : Nat) (w : CoreWord) (s : State) : Host.Outcome State Fault Refusal :=
  .next (s.issue vc w (isOp w 0 6) (fun _ s =>
    let n := wTally w
    let r := (s.tally n).wait (.core vc)
    let s := (s.putTally r.2).countTallyOp
    if r.1 then s else s.modVcore vc (fun c => { c with wait := .tally n })))

/-! ### Barriers and collectives (R409, R411 to R415) -/

/-- Member ranks that a BARRIER names. -/
def State.barrierRanks (s : State) (c : VCore) (w : CoreWord) : List Nat :=
  match wScope w with
  | 0 => [s.job.rank]
  | 1 => ((List.range 64).filter (fun i => (c.reg (wRankMaskReg w)).getLsbD i)).map
      (fun i => wRankWindow w * 64 + i)
  | _ => List.range s.job.ranks

/-- The masks hold the issuing virtual core and its own rank. -/
def State.barrierOk (s : State) (vc : Nat) (c : VCore) (w : CoreWord) : Bool :=
  (c.reg (wCoreMaskReg w)).getLsbD vc && (s.barrierRanks c w).contains s.job.rank

def execBarrier (vc : Nat) (w : CoreWord) (s : State) : Host.Outcome State Fault Refusal :=
  .next (s.issueIn vc w (isOp w 0 7) (fun c s => s.barrierOk vc c w) (fun c s =>
    s.coreArrival (wBarrier w) vc (c.reg (wCoreMaskReg w)) (s.barrierRanks c w) (.barrier (wBarrier w))))

/-- The group names the issuing virtual core alone and the own rank (R415), and the parts fit. (Log entry 49: DEDUCED,
unsafe.) -/
def State.collectOk (s : State) (vc : Nat) (c : VCore) (w : CoreWord) : Bool :=
  let g := s.collectGroup vc w
  g.1 == 1#64 <<< vc && g.2.contains s.job.rank && c.partBytes w % 64 == 0 &&
    decide (g.2.length * c.partTotal w ≤ 8388608) &&
    c.inArea (64 * wCollectSrc w) (c.partTotal w) &&
    c.inArea (64 * wCollectDst w) (c.collectOut w g.2.length)

/-- Eight collectives are in progress on the module and the word's is none of them: it waits to issue (R418). -/
def State.collectsFull (s : State) (b : Nat) : Bool :=
  let busy := (List.range 64).filter (fun n => !(s.barrierAt n).sorted.isEmpty)
  decide (8 ≤ busy.length) && !busy.contains b

/-- COLLECT: the own parts go to every other member, and the virtual core arrives and waits. -/
def execCollect (vc : Nat) (w : CoreWord) (s : State) : Host.Outcome State Fault Refusal :=
  .next (s.issueIn vc w (isOp w 0 8 && !s.collectsFull (wBarrier w)) (fun c s => s.collectOk vc c w) (fun c s =>
    let b := wBarrier w
    let g := s.collectGroup vc w
    let data := readBytes c.sram (64 * wCollectSrc w) (c.partTotal w)
    let e := (s.barrierAt b).epoch
    let r := s.job.rank
    let s := (g.2.filter (· != r)).foldl (fun s d => s.sendTo d (fun p =>
      .bulk p d (.collective b e r (c.partBytes w) (c.partCount w) data))) s
    let s := s.takeParts b ⟨e, r, c.partBytes w, c.partCount w, data⟩
    if s.faulted then s else s.coreArrival b vc g.1 g.2 (.collect b w)))

end Sys2Proof.Machine
end

