-- ==== Sys2Proof/Machine/VectorUnit.lean ====
section
/-!
DEFINITION. The vector unit (07 R213 to R216; 02 R48, R49, R52): each operation as a function of FP32 rows,
and the shared issue of a vector instruction.
-/

namespace Sys2Proof.Machine

/-! ### Functions of elements and rows (Table 7-7, R215, R216) -/

def neg32 (a : U32) : U32 := a ^^^ 0x80000000

/-- a × b + c, one rounding. -/
def fma32 (a b c : U32) : U32 := round32 (fpSum [fpMul (readFp32 a) (readFp32 b), readFp32 c])

/-- a × (1 / (1 + EXP(−a))), each step rounded. -/
def silu32 (a : U32) : U32 := mul32 a (recip32 (add32 0x3F800000 (exp32 (neg32 a))))

/-- Row sum in groups of 64. (Log entry 18: DEDUCED, unsafe.) -/
def rsum32 (xs : List U32) : U32 := groupSum 64 0 (xs.map readFp32)

/-- Sum of the exact squares of a row in groups of 64. -/
def sumSq32 (xs : List U32) : U32 := groupSum 64 0 (xs.map (fun x => fpMul (readFp32 x) (readFp32 x)))

/-- Row maximum. -/
def rmax32 : List U32 → U32
  | [] => 0xFF800000
  | x :: xs => xs.foldl max32 x

/-- A count as an FP32 value, exact to 2^24. -/
def count32Fp (n : Nat) : U32 := round32 (.fin false n 0)

/-- −∞. -/
def minusInf : U32 := 0xFF800000

def softmax32 (xs : List U32) : List U32 :=
  if xs.all (fun x => x == minusInf) then xs.map (fun _ => 0)
  else
    let m := rmax32 xs
    let es := xs.map (fun x => exp32 (sub32 x m))
    let r := recip32 (rsum32 es)
    es.map (fun e => mul32 e r)

/-- RSQRT((q / n) + ε). -/
def normScale (q : U32) (n : Nat) (eps : U32) : U32 := rsqrt32 (add32 (div32 q (count32Fp n)) eps)

def rmsnorm32 (eps : U32) (gain xs : List U32) : List U32 :=
  let r := normScale (sumSq32 xs) xs.length eps
  List.zipWith (fun x g => mul32 (mul32 x r) g) xs gain

def layernorm32 (eps : U32) (gain bias xs : List U32) : List U32 :=
  let mu := div32 (rsum32 xs) (count32Fp xs.length)
  let ds := xs.map (fun x => sub32 x mu)
  let r := normScale (sumSq32 ds) xs.length eps
  List.zipWith add32 (List.zipWith (fun d g => mul32 (mul32 d r) g) ds gain) bias

/-- The outputs of a ROPE pair: x·c − y·s and x·s + y·c, each one exact sum. -/
def ropePair (c s x y : U32) : List U32 :=
  let p (a b : U32) : Fp := fpMul (readFp32 a) (readFp32 b)
  [round32 (fpSum [p x c, fpNeg (p y s)]), round32 (fpSum [p x s, p y c])]

/-- Phase of pair `j` at position `p`: (p × f) mod 2^64, bits 63 to 32. -/
def ropePhase (p : U64) (f : U64) : U32 := (p * f).extractLsb' 32 32

/-- ROPE of a row, pair by pair; an element without a partner has no stated result. -/
def rope32 (p : U64) (freq : Nat → U64) : Nat → List U32 → List U32
  | j, x :: y :: xs =>
    let φ := ropePhase p (freq j)
    ropePair (Config.cosTurn φ) (Config.sinTurn φ) x y ++ rope32 p freq (j + 1) xs
  | _, xs => xs.map Config.openElem

/-- One butterfly stage at stride h over a block. -/
def butterfly (h : Nat) (xs : List U32) : List U32 :=
  xs.mapIdx (fun i x =>
    if i / h % 2 = 0 then add32 x (xs.getD (i + h) 0) else sub32 (xs.getD (i - h) 0) x)

/-- 2^−k as FP32 bits, for k up to 126. -/
def halfPow (k : Nat) : U32 := BitVec.ofNat 32 ((127 - k) * 2 ^ 23)

/-- Walsh–Hadamard transform of one block of 2^m elements (R52). -/
def hadamardBlock (m : Nat) (xs : List U32) : List U32 :=
  ((List.range m).foldl (fun xs i => butterfly (2 ^ i) xs) xs).map (fun x => mul32 x (halfPow (m / 2)))

/-- Blocks of 2^m elements; a shorter last block has no stated result. -/
def hadamard32 (m : Nat) (xs : List U32) : List U32 :=
  (chunks (2 ^ m) xs).flatMap (fun b => if b.length = 2 ^ m then hadamardBlock m b else b.map Config.openElem)

/-- ((s0 + s1) + …) over the rows of the partitions (R49). -/
def psum32 : List (List U32) → List U32
  | [] => []
  | p :: ps => ps.foldl (List.zipWith add32) p

/-! ### Operands -/

/-- What a vector operation has of its row. -/
structure VecRow where
  /-- The source row, `src2`'s row, and the second row at `src2`. -/
  a : List U32
  b : List U32
  gain : List U32
  bias : List U32
  /-- Parameter word and those after it. -/
  prm : Nat → U64
  /-- Position of the row. -/
  pos : U64
  /-- The row's partitions (PSUM). -/
  parts : List (List U32)

/-- FP32 parameter in the low half of the parameter word. -/
def VecRow.scalar (x : VecRow) : U32 := (x.prm 0).setWidth 32

/-- What an operation needs beside its source row. -/
structure VecForm where
  op : Nat
  /-- A second row at `src2` + r × `pitch`. -/
  second : Bool
  /-- Parameter rows at `src2`: 0, 1 (gain) or 2 (gain, then bias a `pitch` further on). -/
  params : Nat
  /-- Parameter words that it reads, for a row of n elements. -/
  words : Nat → Nat
  /-- It gives one element for each row. -/
  reduces : Bool
  /-- It sums partitions. -/
  sums : Bool

/-- A plain operation of one source row. -/
def VecForm.plain (op : Nat) : VecForm := ⟨op, false, 0, fun _ => 0, false, false⟩

/-- Source rows of the instruction: its own, and those of the partitions that follow. -/
def VCore.sourceRows (c : VCore) (f : VecForm) (w : CoreWord) : Nat :=
  if f.sums then vRows w * c.partitions w else vRows w

/-- Format that row `r` is written in: `dfmt`, or BF16 in place of FP8 (R57, R214). (Log entry 45: DEDUCED, unsafe.) -/
def State.vecOut (s : State) (c : VCore) (w : CoreWord) (r : Nat) : Nat :=
  if 2 ≤ vDfmt w && s.wideRow c (c.tag? ((c.tile (vSreg w)).tag + r)) (vLayer w) then 1 else vDfmt w

/-- Elements that a row gives. -/
def vecOutLen (f : VecForm) (w : CoreWord) : Nat := if f.reduces then 1 else vN w

/-- Every range of the instruction lies in the work area and every parameter word in the constants. -/
def State.vecOk (s : State) (f : VecForm) (c : VCore) (w : CoreWord) : Bool :=
  let p := (c.tile (vSreg w)).pitch
  let n := vN w * fmtBytes (vSfmt w)
  (List.range (c.sourceRows f w)).all (fun r => c.inArea (vSrc w + r * p) n) &&
    (List.range (if f.second then vRows w else f.params)).all (fun r => c.inArea (vSrc2 w + r * p) n) &&
    (List.range (vRows w)).all (fun r =>
      c.inArea (vDst w + r * p) (vecOutLen f w * fmtBytes (s.vecOut c w r))) &&
    decide (vPrm w + f.words (vN w) ≤ c.consts.length || f.words (vN w) = 0)

/-- The operands of row `r`. A row whose tag names no sequence has no stated position: a free value. (Log entry 45: DEDUCED, unsafe.) -/
def State.vecRow (s : State) (f : VecForm) (c : VCore) (w : CoreWord) (r : Nat) : VecRow :=
  let t := c.tile (vSreg w)
  let row (a : Nat) : List U32 := readWideRow c.sram (vSfmt w) a (vN w)
  { a := row (vSrc w + r * t.pitch),
    b := if f.second then row (vSrc2 w + r * t.pitch) else [],
    gain := if 1 ≤ f.params then row (vSrc2 w) else [],
    bias := if 2 ≤ f.params then row (vSrc2 w + t.pitch) else [],
    prm := fun i => c.consts.getD (vPrm w + i) 0,
    pos := match c.tag? (t.tag + r) with
      | some g => BitVec.ofNat 64 g.pos
      | none => BitVec.ofNat 64 (s.free r),
    parts := if f.sums then (List.range (c.partitions w)).map (fun π =>
        row (vSrc w + (π * vRows w + r) * t.pitch)) else [] }

/-- The result of row `r`, converted. -/
def State.vecResult (s : State) (f : VecForm) (g : VecRow → List U32) (c : VCore) (w : CoreWord) (r : Nat) :
    RowResult :=
  let t := c.tile (vSreg w)
  let out := s.vecOut c w r
  let y := convertRow out (g (s.vecRow f c w r))
  { addr := vDst w + r * t.pitch, bytes := y.1, tag := c.tag? (t.tag + r),
    values := if out = 0 then 0 else vecOutLen f w, clipped := y.2 }

/-- Issues a vector instruction: every row is read as the instruction found it, then the results are
written and their conversions counted. -/
def State.vector (s : State) (vc : Nat) (w : CoreWord) (f : VecForm) (g : VecRow → List U32) : State :=
  s.issueIn vc w (wClass w == 3 && vOp w == f.op) (fun c s => s.vecOk f c w) (fun c s =>
    let rows := (List.range (vRows w)).map (s.vecResult f g c w)
    let s := s.putRows vc (vLayer w) rows
    if f.op = 0x20 then s.drew (vRows w) else s)

/-- Two source rows, element by element. -/
def VecForm.two (op : Nat) : VecForm := ⟨op, true, 0, fun _ => 0, false, false⟩

/-! ### The instructions -/

def execVectorAdd (vc : Nat) (w : CoreWord) (s : State) : Host.Outcome State Fault Refusal :=
  .next (s.vector vc w (.two 0x00) (fun x => List.zipWith add32 x.a x.b))

def execVectorSub (vc : Nat) (w : CoreWord) (s : State) : Host.Outcome State Fault Refusal :=
  .next (s.vector vc w (.two 0x01) (fun x => List.zipWith sub32 x.a x.b))

def execVectorMul (vc : Nat) (w : CoreWord) (s : State) : Host.Outcome State Fault Refusal :=
  .next (s.vector vc w (.two 0x02) (fun x => List.zipWith mul32 x.a x.b))

def execFma (vc : Nat) (w : CoreWord) (s : State) : Host.Outcome State Fault Refusal :=
  .next (s.vector vc w ⟨0x03, true, 0, fun _ => 1, false, false⟩
    (fun x => List.zipWith (fun a b => fma32 a b x.scalar) x.a x.b))

def execMax (vc : Nat) (w : CoreWord) (s : State) : Host.Outcome State Fault Refusal :=
  .next (s.vector vc w (.two 0x04) (fun x => List.zipWith max32 x.a x.b))

def execExp (vc : Nat) (w : CoreWord) (s : State) : Host.Outcome State Fault Refusal :=
  .next (s.vector vc w (.plain 0x08) (fun x => x.a.map exp32))

def execRecip (vc : Nat) (w : CoreWord) (s : State) : Host.Outcome State Fault Refusal :=
  .next (s.vector vc w (.plain 0x09) (fun x => x.a.map recip32))

def execRsqrt (vc : Nat) (w : CoreWord) (s : State) : Host.Outcome State Fault Refusal :=
  .next (s.vector vc w (.plain 0x0A) (fun x => x.a.map rsqrt32))

def execSilu (vc : Nat) (w : CoreWord) (s : State) : Host.Outcome State Fault Refusal :=
  .next (s.vector vc w (.plain 0x0B) (fun x => x.a.map silu32))

def execGelu (vc : Nat) (w : CoreWord) (s : State) : Host.Outcome State Fault Refusal :=
  .next (s.vector vc w (.plain 0x0C) (fun x => x.a.map gelu32))

def execCvt (vc : Nat) (w : CoreWord) (s : State) : Host.Outcome State Fault Refusal :=
  .next (s.vector vc w (.plain 0x10) (fun x => x.a))

def execRsum (vc : Nat) (w : CoreWord) (s : State) : Host.Outcome State Fault Refusal :=
  .next (s.vector vc w ⟨0x18, false, 0, fun _ => 0, true, false⟩ (fun x => [rsum32 x.a]))

def execRmax (vc : Nat) (w : CoreWord) (s : State) : Host.Outcome State Fault Refusal :=
  .next (s.vector vc w ⟨0x19, false, 0, fun _ => 0, true, false⟩ (fun x => [rmax32 x.a]))

def execSoftmax (vc : Nat) (w : CoreWord) (s : State) : Host.Outcome State Fault Refusal :=
  .next (s.vector vc w (.plain 0x1A) (fun x => softmax32 x.a))

def execRmsnorm (vc : Nat) (w : CoreWord) (s : State) : Host.Outcome State Fault Refusal :=
  .next (s.vector vc w ⟨0x1B, false, 1, fun _ => 1, false, false⟩
    (fun x => rmsnorm32 x.scalar x.gain x.a))

def execLayernorm (vc : Nat) (w : CoreWord) (s : State) : Host.Outcome State Fault Refusal :=
  .next (s.vector vc w ⟨0x1C, false, 2, fun _ => 1, false, false⟩
    (fun x => layernorm32 x.scalar x.gain x.bias x.a))

def execRope (vc : Nat) (w : CoreWord) (s : State) : Host.Outcome State Fault Refusal :=
  .next (s.vector vc w ⟨0x20, false, 0, fun n => n / 2, false, false⟩
    (fun x => rope32 x.pos x.prm 0 x.a))

def execHadamard (vc : Nat) (w : CoreWord) (s : State) : Host.Outcome State Fault Refusal :=
  .next (s.vector vc w ⟨0x21, false, 0, fun _ => 1, false, false⟩
    (fun x => hadamard32 (x.prm 0).toNat x.a))

/-- PSUM: a count of no partitions has no stated result, so each element is then a free value. -/
def execPsum (vc : Nat) (w : CoreWord) (s : State) : Host.Outcome State Fault Refusal :=
  .next (s.vector vc w ⟨0x28, false, 0, fun _ => 1, false, true⟩
    (fun x => if x.parts.isEmpty then x.a.map Config.openElem else psum32 x.parts))

end Sys2Proof.Machine
end

