-- ==== Sys2Proof/Machine/Walker.lean ====
section
/-!
DEFINITION. ATTEND: appending keys and values, and attention by the walker (08 R220 to R235; 02 R43, R45, R46).
-/

namespace Sys2Proof.Machine

/-! ### Appending (R228, R229) -/

/-- The row's new key (0) or value (1), FP32. -/
def AttCtx.newEntry (a : AttCtx) (sram : Mem) (w : CoreWord) (i values : Nat) : List U32 :=
  readWideRow sram 0 (aKvNew w + i * a.x.pitch + 4 * a.d.headDim * values) a.d.headDim

/-- A row may append: its position is not below the step-start length and both bales are mapped. -/
def AttCtx.appendOk (a : AttCtx) (w : CoreWord) (r : AttRow) : Bool :=
  decide (r.x.length ≤ r.tag.pos) &&
    [0, 1].all (fun c => (r.x.bale? (a.stream w c) (r.x.place a.d r.tag.pos).1).isSome)

/-- Writes one vector at the row's position, dirties its bale, advances the mark and counts the conversions. -/
def State.appendOne (a : AttCtx) (sram : Mem) (w : CoreWord) (r : AttRow) (s : State) (values : Nat) : State :=
  let σ := a.stream w values
  let p := r.x.place a.d r.tag.pos
  match r.x.bale? σ p.1 with
  | none => s
  | some k =>
    let e := putEntry (s.kvData k.frame) a.d.headDim p.2.2 p.2.1 (a.newEntry sram w r.index values)
    let mark (b : KvBale) : KvBale := if b.stream == σ && b.bale == p.1 then { b with dirty := true } else b
    let s := (s.putKvData k.frame e.1).modSession r.tag.session (fun x => { x with
      kv := x.kv.map mark, through := x.through ++ [(σ, r.tag.pos)] })
    s.noteNarrow (some r.tag) (aLayer w) a.d.headDim e.2

def State.appendRow (a : AttCtx) (sram : Mem) (w : CoreWord) (s : State) (r : AttRow) : State :=
  [0, 1].foldl (State.appendOne a sram w r) s

/-! ### Masks and biases (R231, R232) -/

/-- Bucket of a distance. -/
def biasBucket (δ : Nat) : Nat :=
  if δ < 64 then δ else
    let e := Nat.log2 δ
    min 255 (64 + 8 * (e - 6) + δ / 2 ^ (e - 3) % 8)

/-- Entry of a query head's bias table for a key. -/
def AttDesc.biasEntry (d : AttDesc) (p j : Nat) : Nat :=
  if j ≤ p then biasBucket (p - j)
  else if d.bias = 2 then 256 + biasBucket (j - p) else biasBucket (j - p)

def AttCtx.bias (a : AttCtx) (head p j : Nat) : U32 :=
  if a.d.bias = 0 then 0
  else (lookupD a.v.bias a.d.layer []).getD (head * (256 * a.d.bias) + a.d.biasEntry p j) 0

/-! ### The walk (R233) -/

/-- Running values of one query head: m, l and the accumulators. -/
structure WalkAcc where
  m : U32
  l : U32
  acc : List U32
  deriving DecidableEq, Repr

def WalkAcc.start (d : Nat) : WalkAcc := ⟨minusInf, 0, List.replicate d 0⟩

/-- Dot product of a query and a key, in groups of 8 from +0. -/
def dotKey (q k : List U32) : U32 := groupSum 8 0 (List.zipWith (fun x y => fpMul (readFp32 x) (readFp32 y)) q k)

/-- One key of a block: score, e, and its value vector; a masked key has score −∞ and adds nothing. -/
structure WalkKey where
  score : U32
  masked : Bool
  value : List U32
  deriving DecidableEq, Repr

/-- An FP32 term that adds nothing. -/
def noTerm : Fp := .fin false 0 0

/-- One block of 64 key positions. -/
def WalkAcc.block (a : WalkAcc) (keys : List WalkKey) : WalkAcc :=
  if keys.all (fun k => k.score == minusInf) then a
  else
    let mn := max32 a.m (rmax32 (keys.map (·.score)))
    let c := exp32 (sub32 a.m mn)
    let es := keys.map (fun k => widenBf16 (toBf16 (readFp32 (exp32 (sub32 k.score mn)))).1)
    let term (i : Nat) (k : WalkKey) (e : U32) : Fp :=
      if k.masked then noTerm else fpMul (readFp32 e) (readFp32 (k.value.getD i 0))
    { m := mn,
      l := groupSum 8 (mul32 a.l c) (List.zipWith (fun k e => if k.masked then noTerm else readFp32 e) keys es),
      acc := a.acc.mapIdx (fun i x => groupSum 8 (mul32 x c) (List.zipWith (term i) keys es)) }

/-- The walk's outputs, FP32. -/
def WalkAcc.out (a : WalkAcc) : List U32 :=
  let r := recip32 a.l
  a.acc.map (fun x => if a.m == minusInf then 0 else mul32 x r)

/-- The vector of a session's stream at a position. -/
def State.entryAt (s : State) (a : AttCtx) (x : Session) (σ p : Nat) : List U32 :=
  let q := x.place a.d p
  match x.bale? σ q.1 with
  | some k => getEntry (s.kvData k.frame) a.d.headDim q.2.2 q.2.1
  | none => []

/-- Key j as query head `head` of the row sees it. -/
def State.walkKey (s : State) (a : AttCtx) (w : CoreWord) (r : AttRow) (head : Nat) (q : List U32)
    (keys : List Nat) (j : Nat) : WalkKey :=
  let b := a.bias head r.tag.pos j
  if keys.contains j && b != minusInf then
    ⟨add32 (dotKey q (s.entryAt a r.x (a.stream w 0) j)) b, false, s.entryAt a r.x (a.stream w 1) j⟩
  else ⟨minusInf, true, []⟩

/-- One row and one query head: blocks aligned at multiples of 64, ascending. -/
def State.walkHead (s : State) (a : AttCtx) (w : CoreWord) (r : AttRow) (head : Nat) (q : List U32) : List U32 :=
  let keys := s.keysOf a r
  ((List.range (ceilDiv (s.kEnd r.x) 64)).foldl (fun acc b =>
    acc.block ((List.range 64).map (fun i => s.walkKey a w r head q keys (64 * b + i))))
    (WalkAcc.start a.d.headDim)).out

/-- Output of a row: the group's heads one after another, in BF16. (Log entry 48: DEDUCED, unsafe.) -/
def State.walkRow (s : State) (a : AttCtx) (sram : Mem) (w : CoreWord) (r : AttRow) : RowResult :=
  let g := a.d.group
  let d := a.d.headDim
  let heads := (List.range g).flatMap (fun j => s.walkHead a w r (aKvHead w * g + j)
    (readWideRow sram 1 (aQ w + r.index * a.x.pitch + 2 * d * j) d))
  let y := convertRow 1 heads
  { addr := aDst w + r.index * a.x.pitch, bytes := y.1, tag := some r.tag, values := g * d, clipped := y.2 }

/-! ### Waiting for written-through marks (R230) -/

/-- The written-through mark of a stream: the lowest position at or above the step-start length that has not been
appended. -/
def Session.mark (x : Session) (σ : Nat) : Nat :=
  let mine := (x.through.filter (fun t => t.1 == σ)).map (·.2)
  x.length + (((List.range (mine.length + 1)).find? (fun i => !mine.contains (x.length + i))).getD 0)

/-- The marks of both streams have passed every position that the row needs at or above the step-start length. -/
def State.rowReady (s : State) (a : AttCtx) (w : CoreWord) (r : AttRow) : Bool :=
  (s.keysOf a r).all (fun j => decide (j < r.x.length) ||
    [0, 1].all (fun c => decide (j < r.x.mark (a.stream w c))))

/-- Every key position that a row reads is mapped. -/
def State.walkMapped (s : State) (a : AttCtx) (w : CoreWord) (r : AttRow) : Bool :=
  (s.keysOf a r).all (fun j => [0, 1].all (fun c => (r.x.bale? (a.stream w c) (r.x.place a.d j).1).isSome))

/-- The walk of all rows: outputs, conversions and counts. -/
def State.walkRows (s : State) (vc : Nat) (c : VCore) (a : AttCtx) (w : CoreWord) (rows : List AttRow) : State :=
  let bales := s.walkBales a w rows
  let t := s.putRows vc (aLayer w) (rows.map (s.walkRow a c.sram w))
  { t with epochs := { t.epochs with
      kvRead := t.epochs.kvRead + BitVec.ofNat 64 (65536 * bales.length),
      rowsWalked := t.epochs.rowsWalked + BitVec.ofNat 64 rows.length } }

/-- Walks when every row can, or leaves the walk unfinished; the sequencer goes on with what does not depend on it
(R204). (Log entry 48: DEDUCED, unsafe.) -/
def State.walkOrWait (s : State) (vc : Nat) (c : VCore) (a : AttCtx) (w : CoreWord) : State :=
  let rows := s.attRows c a w
  if rows.all (s.rowReady a w) then s.walkRows vc c a w rows
  else
    let s := s.modVcore vc (fun c => { c with walks := c.walks ++ [w] })
    { s with epochs := { s.epochs with walks := s.epochs.walks ++ [s.epochs.epoch] } }

/-! ### The instruction -/

/-- Core SRAM ranges of row `i`. -/
def AttCtx.rowFits (a : AttCtx) (c : VCore) (w : CoreWord) (i : Nat) : Bool :=
  let d := a.d.headDim
  let o := i * a.x.pitch
  (!aWalk w || (c.inArea (aQ w + o) (2 * d * a.d.group) && c.inArea (aDst w + o) (2 * d * a.d.group))) &&
    (!aAppend w || c.inArea (aKvNew w + o) (8 * d))

def State.attendOk (s : State) (c : VCore) (w : CoreWord) : Bool :=
  match s.attCtx c w with
  | none => false
  | some a =>
    (List.range (aRows w)).all (a.rowFits c w) &&
      (!aAppend w || (s.attRows c a w).all (a.appendOk w)) &&
      (!aWalk w || (s.attRows c a w).all (s.walkMapped a w))

/-- An append writes a position that an unfinished walk of the virtual core reads: it waits to issue (R204). -/
def State.appendHeld (s : State) (vc : Nat) (w : CoreWord) : Bool :=
  match s.vcore? vc with
  | none => false
  | some c => aAppend w && (match s.attCtx c w with
    | none => false
    | some a => c.walks.any (fun u => (s.attCtx c u).any (fun b => (s.attRows c b u).any (fun r =>
        (s.attRows c a w).any (fun n => n.tag.session == r.tag.session && aLayer u == aLayer w &&
          aKvHead u == aKvHead w && (s.keysOf b r).contains n.tag.pos)))))

def execAttend (vc : Nat) (w : CoreWord) (s : State) : Host.Outcome State Fault Refusal :=
  .next (s.issueIn vc w (isOp w 6 0 && !s.appendHeld vc w) (fun c s => s.attendOk c w) (fun c s =>
    match s.attCtx c w with
    | none => s
    | some a =>
      let s := if aAppend w then (s.attRows c a w).foldl (State.appendRow a c.sram w) s else s
      if aWalk w then s.walkOrWait vc c a w else s))

/-- An unfinished walk goes on if its rows are ready. -/
def State.resumeWalk (vc : Nat) (s : State) (w : CoreWord) : State :=
  match s.vcore? vc with
  | none => s
  | some c => match s.attCtx c w with
    | none => s
    | some a =>
      let rows := s.attRows c a w
      if rows.all (s.rowReady a w) then
        let s := (s.walkRows vc c a w rows).modVcore vc (fun c => { c with walks := c.walks.erase w })
        { s with epochs := { s.epochs with walks := s.epochs.walks.erase s.epochs.epoch } }
      else s

/-- WRITTEN_THROUGH_MARK: every unfinished walk of the virtual core whose positions the marks have passed goes on,
oldest first. -/
def execWrittenThroughMark (vc : Nat) (s : State) : Host.Outcome State Fault Refusal :=
  .next (match s.vcore? vc with
    | none => s
    | some c => if s.coresRun then c.walks.foldl (State.resumeWalk vc) s else s)

/-- WALK_WAIT_TIMEOUT: a walk has waited longer than `walk_wait_ms`: the core program fault. The limit does not count in
Hold (R496). -/
def execWalkWaitTimeout (vc : Nat) (s : State) : Host.Outcome State Fault Refusal :=
  .next (if (s.vcore vc).walks.isEmpty || s.power.pstate == 2 then s else s.violation vc)

end Sys2Proof.Machine
end

