-- ==== Sys2Proof/Machine/Dispatch.lean ====
section
/-!
DEFINITION. One arm for each command, in the order of the opcode table. Each arm is one call.
-/

namespace Sys2Proof.Machine

open Sys2Proof

def exec (i : Instr) (s : State) : Host.Outcome State Fault Refusal :=
  match i with
  | .snpInv tag addr => Sys2Proof.Machine.execSnpInv tag addr s
  | .data tag line => Sys2Proof.Machine.execData tag line s
  | .wrAck tag => Sys2Proof.Machine.execWrAck tag s
  | .err tag => Sys2Proof.Machine.execErr tag s
  | .winRd tag off => Sys2Proof.Machine.execWinRd tag off s
  | .winWr tag off line => Sys2Proof.Machine.execWinWr tag off line s
  | .recordStart ring => Sys2Proof.Machine.execRecordStart ring s
  | .indexCreate r => Sys2Proof.Machine.execIndexCreate r s
  | .indexLoad r => Sys2Proof.Machine.execIndexLoad r s
  | .indexDrop r => Sys2Proof.Machine.execIndexDrop r s
  | .indexSave r => Sys2Proof.Machine.execIndexSave r s
  | .vecInsert r => Sys2Proof.Machine.execVecInsert r s
  | .vecDelete r => Sys2Proof.Machine.execVecDelete r s
  | .indexPublish r => Sys2Proof.Machine.execIndexPublish r s
  | .generationSwitch slot tenant => Sys2Proof.Machine.execGenerationSwitch slot tenant s
  | .autoPublish slot tenant => Sys2Proof.Machine.execAutoPublish slot tenant s
  | .search r => Sys2Proof.Machine.execSearch r s
  | .topk r => Sys2Proof.Machine.execTopk r s
  | .topkMerge r => Sys2Proof.Machine.execTopkMerge r s
  | .tableCreate r => Sys2Proof.Machine.execTableCreate r s
  | .tableDrop r => Sys2Proof.Machine.execTableDrop r s
  | .rowLoad r => Sys2Proof.Machine.execRowLoad r s
  | .tableSave r => Sys2Proof.Machine.execTableSave r s
  | .gather r => Sys2Proof.Machine.execGather r s
  | .pool r => Sys2Proof.Machine.execPool r s
  | .scatter r => Sys2Proof.Machine.execScatter r s
  | .tableBoundary  => Sys2Proof.Machine.execTableBoundary  s
  | .quietUsExpiry  => Sys2Proof.Machine.execQuietUsExpiry  s
  | .tokenise r => Sys2Proof.Machine.execTokenise r s
  | .detokenise r => Sys2Proof.Machine.execDetokenise r s
  | .grammarLoad r => Sys2Proof.Machine.execGrammarLoad r s
  | .grammarDrop r => Sys2Proof.Machine.execGrammarDrop r s
  | .templateLoad r => Sys2Proof.Machine.execTemplateLoad r s
  | .templateDrop r => Sys2Proof.Machine.execTemplateDrop r s
  | .passageLoad r => Sys2Proof.Machine.execPassageLoad r s
  | .passageDrop r => Sys2Proof.Machine.execPassageDrop r s
  | .pack r => Sys2Proof.Machine.execPack r s
  | .jobLoad r => Sys2Proof.Machine.execJobLoad r s
  | .jobEnd r => Sys2Proof.Machine.execJobEnd r s
  | .graceExpiry  => Sys2Proof.Machine.execGraceExpiry  s
  | .request r => Sys2Proof.Machine.execRequest r s
  | .embed r => Sys2Proof.Machine.execEmbed r s
  | .safeguardRead r => Sys2Proof.Machine.execSafeguardRead r s
  | .modelLoad r => Sys2Proof.Machine.execModelLoad r s
  | .modelRetire r => Sys2Proof.Machine.execModelRetire r s
  | .modelCurrent r => Sys2Proof.Machine.execModelCurrent r s
  | .modelPin r => Sys2Proof.Machine.execModelPin r s
  | .stepOpen  => Sys2Proof.Machine.execStepOpen  s
  | .epochOpen  => Sys2Proof.Machine.execEpochOpen  s
  | .stepEnd  => Sys2Proof.Machine.execStepEnd  s
  | .slowWindowEnd  => Sys2Proof.Machine.execSlowWindowEnd  s
  | .openSession r => Sys2Proof.Machine.execOpenSession r s
  | .append r => Sys2Proof.Machine.execAppend r s
  | .generate r => Sys2Proof.Machine.execGenerate r s
  | .resume r => Sys2Proof.Machine.execResume r s
  | .park r => Sys2Proof.Machine.execPark r s
  | .revive r => Sys2Proof.Machine.execRevive r s
  | .move r => Sys2Proof.Machine.execMove r s
  | .fork r => Sys2Proof.Machine.execFork r s
  | .close r => Sys2Proof.Machine.execClose r s
  | .sealSession r => Sys2Proof.Machine.execSealSession r s
  | .sealComplete session => Sys2Proof.Machine.execSealComplete session s
  | .automaticSeal session => Sys2Proof.Machine.execAutomaticSeal session s
  | .pageMap r => Sys2Proof.Machine.execPageMap r s
  | .pageUnmap r => Sys2Proof.Machine.execPageUnmap r s
  | .copyIn r => Sys2Proof.Machine.execCopyIn r s
  | .copyOut r => Sys2Proof.Machine.execCopyOut r s
  | .tierMode r => Sys2Proof.Machine.execTierMode r s
  | .windowOpen r => Sys2Proof.Machine.execWindowOpen r s
  | .windowFlush r => Sys2Proof.Machine.execWindowFlush r s
  | .windowClose r => Sys2Proof.Machine.execWindowClose r s
  | .windowFill window bale write => Sys2Proof.Machine.execWindowFill window bale write s
  | .quarantineRelease epoch => Sys2Proof.Machine.execQuarantineRelease epoch s
  | .tallyClaim r => Sys2Proof.Machine.execTallyClaim r s
  | .tallyRelease r => Sys2Proof.Machine.execTallyRelease r s
  | .tallySignal r => Sys2Proof.Machine.execTallySignal r s
  | .tallyWait r => Sys2Proof.Machine.execTallyWait r s
  | .tallyRead r => Sys2Proof.Machine.execTallyRead r s
  | .tallyTimeout tally ring seq => Sys2Proof.Machine.execTallyTimeout tally ring seq s
  | .diagEcho r => Sys2Proof.Machine.execDiagEcho r s
  | .faultInject r => Sys2Proof.Machine.execFaultInject r s
  | .faultRead r => Sys2Proof.Machine.execFaultRead r s
  | .mma vc w => Sys2Proof.Machine.execMma vc w s
  | .jump vc w => Sys2Proof.Machine.execJump vc w s
  | .branch vc w => Sys2Proof.Machine.execBranch vc w s
  | .loop vc w => Sys2Proof.Machine.execLoop vc w s
  | .halt vc w => Sys2Proof.Machine.execHalt vc w s
  | .drain vc w => Sys2Proof.Machine.execDrain vc w s
  | .tallyAdd vc w => Sys2Proof.Machine.execTallyAdd vc w s
  | .tallyWaitInstruction vc w => Sys2Proof.Machine.execTallyWaitInstruction vc w s
  | .barrier vc w => Sys2Proof.Machine.execBarrier vc w s
  | .collect vc w => Sys2Proof.Machine.execCollect vc w s
  | .add vc w => Sys2Proof.Machine.execAdd vc w s
  | .sub vc w => Sys2Proof.Machine.execSub vc w s
  | .mul vc w => Sys2Proof.Machine.execMul vc w s
  | .and vc w => Sys2Proof.Machine.execAnd vc w s
  | .or vc w => Sys2Proof.Machine.execOr vc w s
  | .xor vc w => Sys2Proof.Machine.execXor vc w s
  | .shl vc w => Sys2Proof.Machine.execShl vc w s
  | .shr vc w => Sys2Proof.Machine.execShr vc w s
  | .loadi vc w => Sys2Proof.Machine.execLoadi vc w s
  | .ld vc w => Sys2Proof.Machine.execLd vc w s
  | .st vc w => Sys2Proof.Machine.execSt vc w s
  | .moveInstruction vc w => Sys2Proof.Machine.execMoveInstruction vc w s
  | .rowget vc w => Sys2Proof.Machine.execRowget vc w s
  | .rowpool vc w => Sys2Proof.Machine.execRowpool vc w s
  | .rowput vc w => Sys2Proof.Machine.execRowput vc w s
  | .attend vc w => Sys2Proof.Machine.execAttend vc w s
  | .writtenThroughMark vc => Sys2Proof.Machine.execWrittenThroughMark vc s
  | .walkWaitTimeout vc => Sys2Proof.Machine.execWalkWaitTimeout vc s
  | .handoff vc w => Sys2Proof.Machine.execHandoff vc w s
  | .vectorAdd vc w => Sys2Proof.Machine.execVectorAdd vc w s
  | .vectorSub vc w => Sys2Proof.Machine.execVectorSub vc w s
  | .vectorMul vc w => Sys2Proof.Machine.execVectorMul vc w s
  | .fma vc w => Sys2Proof.Machine.execFma vc w s
  | .max vc w => Sys2Proof.Machine.execMax vc w s
  | .exp vc w => Sys2Proof.Machine.execExp vc w s
  | .recip vc w => Sys2Proof.Machine.execRecip vc w s
  | .rsqrt vc w => Sys2Proof.Machine.execRsqrt vc w s
  | .silu vc w => Sys2Proof.Machine.execSilu vc w s
  | .gelu vc w => Sys2Proof.Machine.execGelu vc w s
  | .cvt vc w => Sys2Proof.Machine.execCvt vc w s
  | .rsum vc w => Sys2Proof.Machine.execRsum vc w s
  | .rmax vc w => Sys2Proof.Machine.execRmax vc w s
  | .softmax vc w => Sys2Proof.Machine.execSoftmax vc w s
  | .rmsnorm vc w => Sys2Proof.Machine.execRmsnorm vc w s
  | .layernorm vc w => Sys2Proof.Machine.execLayernorm vc w s
  | .rope vc w => Sys2Proof.Machine.execRope vc w s
  | .hadamard vc w => Sys2Proof.Machine.execHadamard vc w s
  | .psum vc w => Sys2Proof.Machine.execPsum vc w s
  | .commandRingEnable route ring value => Sys2Proof.Machine.execCommandRingEnable route ring value s
  | .completionRingEnable route ring value => Sys2Proof.Machine.execCompletionRingEnable route ring value s
  | .dictionaryWrite route index sub value => Sys2Proof.Machine.execDictionaryWrite route index sub value s
  | .dictionaryFrame f => Sys2Proof.Machine.execDictionaryFrame f s
  | .dictionaryCommit index sub => Sys2Proof.Machine.execDictionaryCommit index sub s
  | .quote route value => Sys2Proof.Machine.execQuote route value s
  | .quoteWritten  => Sys2Proof.Machine.execQuoteWritten  s
  | .keyImport route value => Sys2Proof.Machine.execKeyImport route value s
  | .keyErase route value => Sys2Proof.Machine.execKeyErase route value s
  | .installMainFirmware route => Sys2Proof.Machine.execInstallMainFirmware route s
  | .installPartitionFirmware route => Sys2Proof.Machine.execInstallPartitionFirmware route s
  | .rotateIdentity route => Sys2Proof.Machine.execRotateIdentity route s
  | .debugUnlock route => Sys2Proof.Machine.execDebugUnlock route s
  | .factoryReset route => Sys2Proof.Machine.execFactoryReset route s
  | .trustOperationEnd  => Sys2Proof.Machine.execTrustOperationEnd  s
  | .stageOff route value => Sys2Proof.Machine.execStageOff route value s
  | .stageData route value => Sys2Proof.Machine.execStageData route value s
  | .stickyClear route sub value => Sys2Proof.Machine.execStickyClear route sub value s
  | .causeClear route index sub value => Sys2Proof.Machine.execCauseClear route index sub value s
  | .sleep route value => Sys2Proof.Machine.execSleep route value s
  | .sleepExit  => Sys2Proof.Machine.execSleepExit  s
  | .softReset route value => Sys2Proof.Machine.execSoftReset route value s
  | .peerPortEnable route port value => Sys2Proof.Machine.execPeerPortEnable route port value s
  | .pairEn route value => Sys2Proof.Machine.execPairEn route value s
  | .detachPair route value => Sys2Proof.Machine.execDetachPair route value s
  | .faultSourceAssert source rail => Sys2Proof.Machine.execFaultSourceAssert source rail s
  | .jobRestart  => Sys2Proof.Machine.execJobRestart  s
  | .flit link f => Sys2Proof.Machine.execFlit link f s
  | .acknowledgeInterval link => Sys2Proof.Machine.execAcknowledgeInterval link s
  | .laneFailure link working => Sys2Proof.Machine.execLaneFailure link working s
  | .linkTrained base size lanes reqMsgs reqCells srspMsgs wrspMsgs wrspCells => Sys2Proof.Machine.execLinkTrained base size lanes reqMsgs reqCells srspMsgs wrspMsgs wrspCells s
  | .coherentLinkLost  => Sys2Proof.Machine.execCoherentLinkLost  s
  | .linkTrainingRetry  => Sys2Proof.Machine.execLinkTrainingRetry  s
  | .watchPoll  => Sys2Proof.Machine.execWatchPoll  s
  | .peerPortTrained port lanes serial job => Sys2Proof.Machine.execPeerPortTrained port lanes serial job s
  | .peerPortDown port => Sys2Proof.Machine.execPeerPortDown port s
  | .joinTimeout port => Sys2Proof.Machine.execJoinTimeout port s
  | .bulk port dst b => Sys2Proof.Machine.execBulk port dst b s
  | .ackp port dst a => Sys2Proof.Machine.execAckp port dst a s
  | .barrierArrival port dst m => Sys2Proof.Machine.execBarrierArrival port dst m s
  | .barrierTimeout barrier => Sys2Proof.Machine.execBarrierTimeout barrier s
  | .slackReport port m => Sys2Proof.Machine.execSlackReport port m s
  | .hello port m => Sys2Proof.Machine.execHello port m s
  | .helloTimer  => Sys2Proof.Machine.execHelloTimer  s
  | .ready port m => Sys2Proof.Machine.execReady port m s
  | .detach port m => Sys2Proof.Machine.execDetach port m s
  | .detached port m => Sys2Proof.Machine.execDetached port m s
  | .detachTimeout  => Sys2Proof.Machine.execDetachTimeout  s
  | .fault port m => Sys2Proof.Machine.execFault port m s
  | .twinSenseN low => Sys2Proof.Machine.execTwinSenseN low s
  | .startUpStage f => Sys2Proof.Machine.execStartUpStage f s
  | .powerOnReset  => Sys2Proof.Machine.execPowerOnReset  s
  | .pinReset low => Sys2Proof.Machine.execPinReset low s
  | .pmateN closed => Sys2Proof.Machine.execPmateN closed s
  | .vinFault  => Sys2Proof.Machine.execVinFault  s
  | .nvWriteInhibit  => Sys2Proof.Machine.execNvWriteInhibit  s
  | .nvWriteResume  => Sys2Proof.Machine.execNvWriteResume  s
  | .inputSagEnd  => Sys2Proof.Machine.execInputSagEnd  s
  | .undervoltageLockout  => Sys2Proof.Machine.execUndervoltageLockout  s
  | .throttleUpdate vinMv inputW tj overCap => Sys2Proof.Machine.execThrottleUpdate vinMv inputW tj overCap s
  | .droopDetection quadrant => Sys2Proof.Machine.execDroopDetection quadrant s
  | .droopRelease quadrant => Sys2Proof.Machine.execDroopRelease quadrant s
  | .thermalTrip tj => Sys2Proof.Machine.execThermalTrip tj s
  | .lpddr6Hot package => Sys2Proof.Machine.execLpddr6Hot package s
  | .lpddr6HotFault package => Sys2Proof.Machine.execLpddr6HotFault package s
  | .rackAlert low => Sys2Proof.Machine.execRackAlert low s
  | .regulatorAlert asserted => Sys2Proof.Machine.execRegulatorAlert asserted s
  | .alertHoldExpiry regulator => Sys2Proof.Machine.execAlertHoldExpiry regulator s
  | .idleEntry  => Sys2Proof.Machine.execIdleEntry  s
  | .energyInterval nanojoules => Sys2Proof.Machine.execEnergyInterval nanojoules s
  | .clockFault  => Sys2Proof.Machine.execClockFault  s
  | .refresh channel => Sys2Proof.Machine.execRefresh channel s
  | .retrainInterval channel beyond => Sys2Proof.Machine.execRetrainInterval channel beyond s
  | .scrubRead channel line found => Sys2Proof.Machine.execScrubRead channel line found s
  | .correctionWriteBack channel line => Sys2Proof.Machine.execCorrectionWriteBack channel line s
  | .presenceButton  => Sys2Proof.Machine.execPresenceButton  s
  | .presenceWindowExpiry  => Sys2Proof.Machine.execPresenceWindowExpiry  s
  | .presenceJumper fitted => Sys2Proof.Machine.execPresenceJumper fitted s
  | .tamperBreak  => Sys2Proof.Machine.execTamperBreak  s
  | .idcode  => Sys2Proof.Machine.execIdcode  s
  | .bypass tdi => Sys2Proof.Machine.execBypass tdi s
  | .packageTemperatureReadout package temp rated => Sys2Proof.Machine.execPackageTemperatureReadout package temp rated s
  | .fullRetrainEnd channel ok => Sys2Proof.Machine.execFullRetrainEnd channel ok s
  | .managementLinkChange up => Sys2Proof.Machine.execManagementLinkChange up s
  | .neighbourJobReport port job rank => Sys2Proof.Machine.execNeighbourJobReport port job rank s
  | .debugPortAccess a => Sys2Proof.Machine.execDebugPortAccess a s

end Sys2Proof.Machine
end

