-- ==== Sys2Proof/Machine/Tick.lean ====
section
/-!
DEFINITION. One tick of the management clock: what the module does while no command waits. The timestamp
advances (R416) and each tenant's level of token units rises at its rate (R274).
-/

namespace Sys2Proof.Machine

/-- The management clock: 95 MHz. -/
def mgmtHz : Nat := 95000000

/-- A tenant's level after one tick: `rate` units per second, counted in 1/65,536 units, at most
`burst`. `frac` holds the fraction in units of 1/(65,536 · 95,000,000). (Log entry 1: DESIGN CHOICE, unsafe.) -/
def Tenant.tick (t : Tenant) : Tenant :=
  let f := t.frac + t.rate.toNat * 65536
  let whole := f / (65536 * mgmtHz)
  let level := t.level + whole
  if level ≥ t.burst.toNat then { t with level := t.burst.toNat, frac := 0 }
  else { t with level := level, frac := f % (65536 * mgmtHz) }

/-- One tick of the management clock, while the module has power. (Log entry 1: DESIGN CHOICE, unsafe.) -/
def State.tick (s : State) : State :=
  { s with timestamp := s.timestamp + 1, tenants := s.tenants.map Tenant.tick }

end Sys2Proof.Machine
end

