-- ==== Sys2Proof/WellFormed.lean ====
section
/-!
DEFINITION. Well-formed commands: the numbers a command names exist on the module (R10, R13, R14, R379,
R403, R411, R455, R471, R509). A command that is not well-formed names nothing the module has.
-/

namespace Sys2Proof

/-- Ring number 0 to 63. -/
def ringNumber (n : Nat) : Bool := decide (n < 64)
/-- Tenant number, 12 bits. -/
def tenantNumber (n : Nat) : Bool := decide (n < 4096)
/-- Index slot 0 to 15. -/
def slotNumber (n : Nat) : Bool := decide (n < 16)
/-- Route 0 the window, 1 the management port. -/
def routeNumber (n : Nat) : Bool := decide (n < 2)
/-- Channel 0 to 191. -/
def channelNumber (n : Nat) : Bool := decide (n < 192)
/-- Memory package 0 to 23. -/
def packageNumber (n : Nat) : Bool := decide (n < 24)
/-- Peer port 0 to 7. -/
def portNumber (n : Nat) : Bool := decide (n < 8)
/-- Quadrant 0 to 3. -/
def quadrantNumber (n : Nat) : Bool := decide (n < 4)
/-- Virtual core 0 to 63. -/
def coreNumber (n : Nat) : Bool := decide (n < 64)
/-- Module rank. -/
def rankNumber (n : Nat) : Bool := decide (n < 4096)
/-- Object index and subindex. -/
def objectName (i sub : Nat) : Bool := decide (i < 65536) && decide (sub < 256)

def Record.wf (r : Record) : Bool := ringNumber r.ring

def Flit.wf (f : Flit) : Bool := decide (f.bytes.length = 272)

/-- A pair's reading names a channel of the board. -/
def Rail.wf : Rail → Bool
  | .line h _ => channelNumber h
  | _ => true

/-- Channels and packages found at start-up have numbers of the board. -/
def Found.wf (f : Found) : Bool :=
  f.failed.all channelNumber && f.mismatch.all packageNumber && f.pattern.all (fun e => channelNumber e.1) &&
    decide (f.spBoot < 3) && decide (f.mainBoot < 3)

/-- What a debug access names exists. -/
def DebugPlace.wf : DebugPlace → Bool
  | .sram core addr => coreNumber core && decide (addr < 8388608)
  | .reg vc n => coreNumber vc && decide (n < 32)
  | .loft q addr => quadrantNumber q && decide (addr < 134217728)
  | .frame _ addr => decide (addr < 65536)
  | .host tenant _ => decide (tenant < 4096)
  | .object index sub => decide (index < 65536) && decide (sub < 256)
  | .other _ _ => true

def DebugAct.wf : DebugAct → Bool
  | .read p => p.wf
  | .write p _ => p.wf
  | .halt => true

/-- A well-formed command. -/
def Instr.wf : Instr → Bool
  | .snpInv _ a => a.toNat % 64 == 0
  | .data _ _ => true
  | .wrAck _ => true
  | .err _ => true
  | .winRd _ off => off % 64 == 0
  | .winWr _ off _ => off % 64 == 0
  | .recordStart n => ringNumber n
  | .indexCreate r | .indexLoad r | .indexDrop r | .indexSave r | .vecInsert r | .vecDelete r
  | .indexPublish r | .search r | .topk r | .topkMerge r | .tableCreate r | .tableDrop r | .rowLoad r
  | .tableSave r | .gather r | .pool r | .scatter r | .tokenise r | .detokenise r | .grammarLoad r
  | .grammarDrop r | .templateLoad r | .templateDrop r | .passageLoad r | .passageDrop r | .pack r
  | .jobLoad r | .jobEnd r | .request r | .embed r | .safeguardRead r | .modelLoad r | .modelRetire r
  | .modelCurrent r | .modelPin r | .openSession r | .append r | .generate r | .resume r | .park r
  | .revive r | .move r | .fork r | .close r | .sealSession r | .pageMap r | .pageUnmap r | .copyIn r
  | .copyOut r | .tierMode r | .windowOpen r | .windowFlush r | .windowClose r | .tallyClaim r
  | .tallyRelease r | .tallySignal r | .tallyWait r | .tallyRead r | .diagEcho r | .faultInject r
  | .faultRead r => r.wf
  | .generationSwitch s t | .autoPublish s t => slotNumber s && tenantNumber t
  | .tableBoundary | .quietUsExpiry | .graceExpiry | .stepOpen | .epochOpen | .stepEnd
  | .slowWindowEnd => true
  | .sealComplete _ | .automaticSeal _ => true
  | .windowFill w _ wr => decide (w < 16) && wr.all (fun x => decide (x.1 < 65536))
  | .quarantineRelease _ => true
  | .tallyTimeout t n _ => decide (t < 65536) && ringNumber n
  | .mma c _ | .jump c _ | .branch c _ | .loop c _ | .halt c _ | .drain c _ | .tallyAdd c _
  | .tallyWaitInstruction c _ | .barrier c _ | .collect c _ | .add c _ | .sub c _ | .mul c _ | .and c _
  | .or c _ | .xor c _ | .shl c _ | .shr c _ | .loadi c _ | .ld c _ | .st c _ | .moveInstruction c _
  | .rowget c _ | .rowpool c _ | .rowput c _ | .attend c _ | .handoff c _ | .vectorAdd c _
  | .vectorSub c _ | .vectorMul c _ | .fma c _ | .max c _ | .exp c _ | .recip c _ | .rsqrt c _
  | .silu c _ | .gelu c _ | .cvt c _ | .rsum c _ | .rmax c _ | .softmax c _ | .rmsnorm c _
  | .layernorm c _ | .rope c _ | .hadamard c _ | .psum c _ => coreNumber c
  | .writtenThroughMark c | .walkWaitTimeout c => coreNumber c
  | .commandRingEnable rt n _ | .completionRingEnable rt n _ => routeNumber rt && ringNumber n
  | .dictionaryWrite rt i x _ => routeNumber rt && objectName i x
  | .dictionaryFrame f => decide (f.payload.length ≤ 1500)
  | .dictionaryCommit i x => objectName i x
  | .quote rt _ | .keyImport rt _ | .keyErase rt _ => routeNumber rt
  | .quoteWritten | .trustOperationEnd => true
  | .installMainFirmware rt | .installPartitionFirmware rt | .rotateIdentity rt | .debugUnlock rt
  | .factoryReset rt => routeNumber rt
  | .stageOff rt _ | .stageData rt _ => routeNumber rt
  | .stickyClear rt x _ => routeNumber rt && (x == 1 || x == 2)
  | .causeClear rt i x _ => routeNumber rt && objectName i x
  | .sleep rt _ | .softReset rt _ | .pairEn rt _ | .detachPair rt _ => routeNumber rt
  | .sleepExit => true
  | .peerPortEnable rt p _ => routeNumber rt && portNumber p
  | .faultSourceAssert n r => decide (n < 94) && r.wf
  | .jobRestart => true
  | .flit l f => decide (l < 9) && f.wf
  | .acknowledgeInterval l => decide (l < 9)
  | .laneFailure l _ => decide (l < 9)
  | .linkTrained .. => true
  | .coherentLinkLost | .linkTrainingRetry | .watchPoll => true
  | .peerPortTrained p .. => portNumber p
  | .peerPortDown p | .joinTimeout p => portNumber p
  | .bulk p d _ | .ackp p d _ | .barrierArrival p d _ => portNumber p && rankNumber d
  | .barrierTimeout b => decide (b < 64)
  | .slackReport p _ | .hello p _ | .ready p _ | .detach p _ | .detached p _ | .fault p _ => portNumber p
  | .helloTimer | .detachTimeout | .twinSenseN _ => true
  | .startUpStage f => f.wf
  | .powerOnReset | .pinReset _ | .pmateN _ | .vinFault | .nvWriteInhibit | .nvWriteResume
  | .inputSagEnd | .undervoltageLockout | .throttleUpdate .. => true
  | .droopDetection q | .droopRelease q => quadrantNumber q
  | .thermalTrip _ => true
  | .lpddr6Hot p | .lpddr6HotFault p => packageNumber p
  | .rackAlert _ | .regulatorAlert _ | .alertHoldExpiry _ | .idleEntry | .energyInterval _
  | .clockFault => true
  | .refresh h | .retrainInterval h _ | .correctionWriteBack h _ | .fullRetrainEnd h _ => channelNumber h
  | .scrubRead h _ _ => channelNumber h
  | .presenceButton | .presenceWindowExpiry | .presenceJumper _ | .tamperBreak | .idcode
  | .bypass _ => true
  | .packageTemperatureReadout p _ _ => packageNumber p
  | .managementLinkChange _ => true
  | .neighbourJobReport p _ _ => portNumber p
  | .debugPortAccess a => a.act.wf

end Sys2Proof
end

