-- ==== Sys2Proof/Safety.lean ====
section
/-!
DEFINITION. What a safe run is, in the terms claims use: the invariant that every step keeps.
-/

namespace Sys2Proof.Machine

/-- Stages of object 0x11C0: 0 to 7, 0xFE without the base set, 0xFF recovery (R509, R511). -/
def stageOk (n : Nat) : Bool := decide (n ≤ 7) || n == 0xFE || n == 0xFF

/-- The power state is one of Table 18-4, and it is Hold exactly while a cause of Hold is in force
(R495: Hold lasts while any cause of Table 18-6 is in force). -/
def powerOk (p : Power) : Bool :=
  decide (p.pstate ≤ 3) && (p.pstate == 2) == (p.holdWhy != 0)

/-- Invariant of the module, kept by every step:
companion memory and the staging area stand in their canonical form;
the start-up stage, the job, pairing and link states and the memory mode have values that their tables give;
Hold is in force exactly while a cause of Hold is (R495);
no command ring holds more than 64 taken records (R17) and no completion ring more than 256 completions (R18);
the management port keeps the answers of at most 8 sources (R463). -/
def State.Inv (s : State) : Prop :=
  memWf s.t2 = true ∧ memWf s.part.staging = true ∧
  stageOk s.startUp.stage = true ∧ powerOk s.power = true ∧
  s.tiers.mode ≤ 4 ∧ s.job.state ≤ 3 ∧ s.pairing.state ≤ 3 ∧ s.link.state ≤ 3 ∧
  (∀ n, (s.cmdRing n).taken.length ≤ 64) ∧ (∀ n, (s.cqRing n).held.length ≤ 256) ∧
  s.mgmt.kept.length ≤ 8

/-! ### Records that start -/

/-- Every record row with its opcode (Table 1-9 and the chapters' tables). -/
def recordRows : List ((Record → Instr) × Nat) :=
  [(.indexCreate, 0x0100), (.indexLoad, 0x0101), (.indexDrop, 0x0102), (.indexSave, 0x0103),
   (.vecInsert, 0x0110), (.vecDelete, 0x0111), (.indexPublish, 0x0112), (.search, 0x0120), (.topk, 0x0140),
   (.topkMerge, 0x0141), (.tokenise, 0x0200), (.detokenise, 0x0201), (.grammarLoad, 0x0210),
   (.grammarDrop, 0x0211), (.templateLoad, 0x0220), (.templateDrop, 0x0221), (.passageLoad, 0x0230),
   (.passageDrop, 0x0231), (.pack, 0x0240), (.tableCreate, 0x0300), (.tableDrop, 0x0301),
   (.rowLoad, 0x0302), (.tableSave, 0x0303), (.gather, 0x0310), (.pool, 0x0311), (.scatter, 0x0320),
   (.jobLoad, 0x0400), (.jobEnd, 0x0401), (.request, 0x0410), (.embed, 0x0420), (.safeguardRead, 0x0480),
   (.openSession, 0x0500), (.append, 0x0501), (.generate, 0x0502), (.resume, 0x0503), (.park, 0x0504),
   (.revive, 0x0505), (.move, 0x0506), (.fork, 0x0507), (.close, 0x0508), (.sealSession, 0x0509),
   (.pageMap, 0x0600), (.pageUnmap, 0x0601), (.copyIn, 0x0602), (.copyOut, 0x0603), (.tierMode, 0x0610),
   (.windowOpen, 0x0611), (.windowFlush, 0x0612), (.windowClose, 0x0613), (.modelLoad, 0x0640),
   (.modelRetire, 0x0641), (.modelCurrent, 0x0642), (.modelPin, 0x0643), (.tallyClaim, 0x0700),
   (.tallyRelease, 0x0701), (.tallySignal, 0x0702), (.tallyWait, 0x0703), (.tallyRead, 0x0704),
   (.diagEcho, 0x0F00), (.faultInject, 0x0F01), (.faultRead, 0x0F02)]

/-- Record `q` is taken from its ring, is the ring's oldest unstarted record, may start, and is not answered
with JOB_RESTARTED or JOB_ENDED instead (R17, R21, R250, R477). -/
structure Starts (s : State) (q : Record) : Prop where
  fetched : s.fetches q.ring = true
  oldest : (s.cmdRing q.ring).taken = []
  may : s.canStart q = true
  here : s.turnedAway q = none

/-- `s` with record `q` started under the number `s.newId`: it is among the running records, counted, Idle
ends, and the ring's last sequence number is its own (R22, R23). -/
def State.started (s : State) (q : Record) : State :=
  { s with
    running := s.running ++ [Running.mk s.newId q (s.admitTo q.opcode) [] 0],
    job := { s.job with started := s.job.started + 1 } }.leaveIdle.modCmd q.ring (fun c => { c with lastSeq := some q.seq })

/-- The checks of Table 1-7 after `seq`, for a record that has started. -/
def State.checksOf (s : State) (q : Record) : List (Bool × Nat) :=
  planChecks (s.started q) q (planOf q q (s.started q))

/-- `s` with the accepted record `q` started, and the first line of the companion memory that its effect reads asked
for (R384). -/
def State.begun (s : State) (q : Record) : State :=
  (s.started q).readSources (planOf q q (s.started q)).sources

/-- Record `q` starts and passes every check of Table 1-7. -/
structure Accepted (s : State) (q : Record) : Prop where
  starts : Starts s q
  seq : s.seqOk q = true
  checks : firstFailure (s.checksOf q) = stOk

end Sys2Proof.Machine
end

