-- ==== Sys2Proof/Certificates/Slice0/Obligations.lean ====
section
/-!
DEFINITION. The statements for the provers. Each `Obligations.<Name>` is one claim about the module; the
definitions before it say what its hypotheses and conclusions mean.
-/

/-! ## The machine as a whole -/

/-- A step carries out the command at the front of the queue, with the rest of the queue waiting. -/
def Obligations.StepRunsFrontCommand : Prop :=
  ∀ (s : Sys2Proof.Machine.State) (c : Sys2Proof.Instr) (rest : List Sys2Proof.Instr),
    s.pending = c :: rest →
      Sys2Proof.Machine.step s = Sys2Proof.Machine.exec c { s with pending := rest }

/-- On an empty queue the management clock ticks: the timestamp advances by one (R416), the level of each
tenant's token units, counted in 1/65,536 units and the fraction of a clock, rises by `rate` of a second's
95,000,000th part and stays at most at `burst` (R274), and nothing else changes. That an empty queue is a
tick is this model's choice (log entry 1). -/
def Obligations.EmptyQueueTicks : Prop :=
  ∀ s : Sys2Proof.Machine.State, s.pending = [] →
    ∃ t, Sys2Proof.Machine.step s = .next t ∧ t.timestamp = s.timestamp + 1 ∧
      { t with timestamp := s.timestamp, tenants := s.tenants } = s ∧
      t.tenants.length = s.tenants.length ∧
      ∀ (i : Nat) (x y : Sys2Proof.Machine.Tenant), s.tenants[i]? = some x → t.tenants[i]? = some y →
        { y with level := x.level, frac := x.frac } = x ∧ y.level ≤ (x.burst.toNat : Int) ∧
        (y.level < (x.burst.toNat : Int) →
          y.level * (65536 * 95000000) + y.frac =
            x.level * (65536 * 95000000) + x.frac + x.rate.toNat * 65536)

/-- At the release of a power-on reset: stage 0 and memory mode 1 (R509), no job, no tenant, no table, no
session, no model, no tenant key, no fault, no ring enabled, nothing trained, ALONE (R514), timestamp 0. -/
def Obligations.ResetState : Prop :=
  let s := Sys2Proof.Machine.State.reset
  s.pending = [] ∧ s.startUp.stage = 0 ∧ s.startUp.lastReset = 0 ∧ s.tiers.mode = 1 ∧ s.job.state = 0 ∧
    s.tenants = [] ∧ s.sheaf.tables = [] ∧ s.granary.directory = [] ∧ s.models.versions = [] ∧
    s.granary.mirror = [] ∧ s.faults.sticky = 0 ∧ s.part.button = false ∧ s.part.debug = false ∧
    (∀ n, n < 64 → (s.cmdRing n).enabled = false ∧ (s.cqRing n).enabled = false) ∧
    (∀ h : Fin 192, s.channels[h].trained = false) ∧ (∀ p, p < 8 → (s.port p).state = 0) ∧
    s.link.state = 0 ∧ s.pairing.state = 0 ∧ s.timestamp = 0

/-- The state after reset has the invariant `State.Inv`. -/
def Obligations.ResetKeepsInvariant : Prop := Sys2Proof.Machine.State.reset.Inv

/-- Every step, from every state with the invariant, gives a state with the invariant: memories stay in their
canonical form, the stage, job, pairing, link and memory-mode numbers stay values of their tables, Hold is
in force exactly while one of its causes is (R495), a command ring holds at most 64 taken records (R17) and
a completion ring at most 256 completions (R18), and the management port keeps the answers of at most 8
sources (R463). -/
def Obligations.StepKeepsInvariant : Prop :=
  ∀ s t : Sys2Proof.Machine.State, s.Inv → Sys2Proof.Machine.step s = .next t → t.Inv

/-! ## Core instructions -/

namespace Sys2Proof.Machine

/-- Virtual core `vc` of `s` is `c`; the cores run, it waits for nothing and has its core (R202, R410), its next
instruction is `w`, and no unfinished instruction holds `w` back (R204; with no walk unfinished none does). -/
structure Issues (s : State) (vc : Nat) (w : CoreWord) (c : VCore) : Prop where
  there : s.vcore? vc = some c
  runs : s.coresRun = true
  ready : c.wait = .none
  next : c.code[c.pc]? = some w
  turn : s.hasCore vc = true
  free : s.interlocked vc c w = false

/-- The next state differs from `s` in virtual core `vc` alone, which is then `c`, and in whose turn it is on that
core: `vc`'s. -/
def OnlyCore (s : State) (vc : Nat) (c : VCore) (t : State) : Prop :=
  t.vcore? vc = some c ∧ (∀ n, n ≠ vc → t.vcore? n = s.vcore? n) ∧
    t.cores.turns = vMod s.cores.turns (s.coreOf vc) (fun _ => vc) ∧
    { t with cores := { t.cores with vcores := s.cores.vcores, turns := s.cores.turns } } = s

/-- Bits [hi:lo] of an instruction, as a number. -/
def fieldOf (w : CoreWord) (hi lo : Nat) : Nat := (w.extractLsb' lo (hi + 1 - lo)).toNat

/-- The class and operation of Tables 7-11 and 7-12. -/
def Encodes (w : CoreWord) (cls op : Nat) : Prop := fieldOf w 127 124 = cls ∧ fieldOf w 123 120 = op

/-- `c` with its program counter past the instruction that issues. -/
def VCore.past (c : VCore) : VCore := { c with pc := c.pc + 1 }

/-- The state with virtual core `vc` past its instruction, in its turn on its core. -/
def State.past (s : State) (vc : Nat) (c : VCore) : State :=
  let t := s.putVcore vc c.past
  { t with cores := { t.cores with turns := vMod t.cores.turns (s.coreOf vc) (fun _ => vc) } }

/-- `d` is `c` past its instruction, with scalar register `rd` at `v`; s0 still reads zero (R203, R206). -/
def RegisterWritten (c : VCore) (rd : Nat) (v : U64) (d : VCore) : Prop :=
  { d with regs := c.regs } = c.past ∧
    ∀ n, n < 32 → d.reg n = if n = 0 then 0 else if n = rd then v else c.reg n

/-- The immediate of class 0x1, sign-extended. -/
def scalarImm (w : CoreWord) : U64 := (w.extractLsb' 72 32).signExtend 64

/-- The second operand of Table 7-12. -/
def scalarB (c : VCore) (w : CoreWord) : U64 :=
  if w.getLsbD 104 then scalarImm w else c.reg (fieldOf w 109 105)

/-- Table 7-12: the operations 0x0 to 0x7 and their results. -/
def scalarRows : List ((Nat → CoreWord → Instr) × Nat × (U64 → U64 → U64)) :=
  [(.add, 0, fun a b => a + b), (.sub, 1, fun a b => a - b), (.mul, 2, fun a b => a * b),
   (.and, 3, fun a b => a &&& b), (.or, 4, fun a b => a ||| b), (.xor, 5, fun a b => a ^^^ b),
   (.shl, 6, fun a b => a <<< (b.extractLsb' 0 6).toNat), (.shr, 7, fun a b => a >>> (b.extractLsb' 0 6).toNat)]

/-- The byte address of an LD or ST. -/
def scalarAddress (c : VCore) (w : CoreWord) : Nat := (c.reg (fieldOf w 114 110) + scalarImm w).toNat

/-- An aligned doubleword inside the work area. -/
def Reaches (c : VCore) (w : CoreWord) : Prop :=
  scalarAddress c w % 8 = 0 ∧ scalarAddress c w + 8 ≤ c.workBytes

end Sys2Proof.Machine

open Sys2Proof Sys2Proof.Machine

/-- ADD, SUB, MUL, AND, OR, XOR, SHL and SHR: `rd` = `ra` op b modulo 2^64, every other register, the core SRAM,
the other virtual cores and the rest of the module unchanged; a write to s0 is discarded. -/
def Obligations.ScalarArithmetic : Prop :=
  ∀ x ∈ scalarRows, ∀ (s : State) (vc : Nat) (w : CoreWord) (c : VCore),
    Issues s vc w c → Encodes w 1 x.2.1 →
      ∃ t d, exec (x.1 vc w) s = .next t ∧ OnlyCore s vc d t ∧
        RegisterWritten c (fieldOf w 119 115) (x.2.2 (c.reg (fieldOf w 114 110)) (scalarB c w)) d

/-- LOADI writes `imm64` to `rd`, LD the 8 bytes at `ra` + `imm`; ST stores the 8 bytes of `rb` there and
every other byte of the core SRAM keeps its value. An LD or ST whose address is no multiple of 8 or lies
outside the work area does not issue, and the core program fault of the core that runs the virtual core
is raised (R206, R212). -/
def Obligations.ScalarLoadsAndStores : Prop :=
  (
    ∀ (s : State) (vc : Nat) (w : CoreWord) (c : VCore), Issues s vc w c →
      (Encodes w 1 8 → ∃ t d, exec (.loadi vc w) s = .next t ∧ OnlyCore s vc d t ∧
        RegisterWritten c (fieldOf w 119 115) (w.extractLsb' 40 64) d) ∧
      (Encodes w 1 9 → Reaches c w → ∃ t d, exec (.ld vc w) s = .next t ∧ OnlyCore s vc d t ∧
        RegisterWritten c (fieldOf w 119 115) (BitVec.ofNat 64 (readLe c.sram (scalarAddress c w) 8)) d) ∧
      (Encodes w 1 10 → Reaches c w → ∃ t d, exec (.st vc w) s = .next t ∧ OnlyCore s vc d t ∧
        { d with sram := c.sram } = c.past ∧
        (∀ i, i < 8 → memGet d.sram (scalarAddress c w + i) =
          (c.reg (fieldOf w 109 105)).extractLsb' (8 * i) 8) ∧
        (∀ a, a < scalarAddress c w ∨ scalarAddress c w + 8 ≤ a → memGet d.sram a = memGet c.sram a))) ∧
  (
    ∀ (s : State) (vc : Nat) (w : CoreWord) (c : VCore), Issues s vc w c → ¬ Reaches c w →
      (Encodes w 1 9 → exec (.ld vc w) s = .next (s.raiseFault (srcCore (s.coreOf vc)))) ∧
      (Encodes w 1 10 → exec (.st vc w) s = .next (s.raiseFault (srcCore (s.coreOf vc)))))

/-- JUMP, BRANCH, LOOP, HALT and DRAIN set the program counter as Table 7-11 says and change nothing else of
the virtual core but LOOP's counter and HALT's end of the program; a LOOP on s0, which reads zero and
discards what is written, always goes on at its target. Two clauses are the model's choices: a BRANCH whose condition is
reserved is not taken (log entry 49, DEDUCED), and at a HALT the first program of the step that waits for the virtual
core takes it (log entry 56, DEDUCED, beside R202). -/
def Obligations.ControlFlow : Prop :=
  ∀ (s : State) (vc : Nat) (w : CoreWord) (c : VCore), Issues s vc w c →
    let target := fieldOf w 115 104
    let a := c.reg (fieldOf w 103 99)
    let b := c.reg (fieldOf w 98 94)
    let taken := match fieldOf w 119 116 with
      | 0 => decide (a = b)
      | 1 => decide (a ≠ b)
      | 2 => decide (a.toNat < b.toNat)
      | 3 => decide (b.toNat ≤ a.toNat)
      | 4 => decide (a.toInt < b.toInt)
      | 5 => decide (b.toInt ≤ a.toInt)
      | _ => false
    (Encodes w 0 0 → ∃ t, exec (.jump vc w) s = .next t ∧ OnlyCore s vc { c with pc := target } t) ∧
    (Encodes w 0 1 → ∃ t, exec (.branch vc w) s = .next t ∧
      OnlyCore s vc { c with pc := if taken then target else c.pc + 1 } t) ∧
    (Encodes w 0 2 → fieldOf w 103 99 ≠ 0 → ∃ t d, exec (.loop vc w) s = .next t ∧ OnlyCore s vc d t ∧
      d.reg (fieldOf w 103 99) = a - 1 ∧
      (∀ n, n < 32 → n ≠ fieldOf w 103 99 → d.reg n = c.reg n) ∧
      { d with regs := c.regs } = { c with pc := if a = 1 then c.pc + 1 else target }) ∧
    (Encodes w 0 2 → fieldOf w 103 99 = 0 → ∃ t, exec (.loop vc w) s = .next t ∧
      OnlyCore s vc { c with pc := target } t) ∧
    (Encodes w 0 3 → (∀ e ∈ s.cores.queued, e.1 ≠ vc) → ∃ t, exec (.halt vc w) s = .next t ∧
      OnlyCore s vc { c with pc := 0, wait := .halted } t) ∧
    (Encodes w 0 3 → ∀ (before after : List (Nat × VCore)) (d : VCore),
      s.cores.queued = before ++ (vc, d) :: after → (∀ e ∈ before, e.1 ≠ vc) →
      ∃ t, exec (.halt vc w) s = .next t ∧ t.vcore? vc = some d ∧ (∀ n, n ≠ vc → t.vcore? n = s.vcore? n) ∧
        t.cores.queued = before ++ after) ∧
    (Encodes w 0 4 → ∃ t, exec (.drain vc w) s = .next t ∧ OnlyCore s vc c.past t)

namespace Sys2Proof.Machine

/-- Every core instruction. -/
def coreInstructions : List (Nat → CoreWord → Instr) :=
  [.mma, .jump, .branch, .loop, .halt, .drain, .tallyAdd, .tallyWaitInstruction, .barrier, .collect, .add, .sub,
   .mul, .and, .or, .xor, .shl, .shr, .loadi, .ld, .st, .moveInstruction, .rowget, .rowpool, .rowput, .attend,
   .handoff, .vectorAdd, .vectorSub, .vectorMul, .fma, .max, .exp, .recip, .rsqrt, .silu, .gelu, .cvt, .rsum,
   .rmax, .softmax, .rmsnorm, .layernorm, .rope, .hadamard, .psum]

/-- Operands of a vector instruction beside its source rows, by operation: a second source, parameter rows at
`src2`, parameter words in the constants, a reduction to one element, partitions. -/
def vectorRows : List ((Nat → CoreWord → Instr) × VecForm × (VecRow → List U32)) :=
  [(.vectorAdd, ⟨0x00, true, 0, fun _ => 0, false, false⟩, fun x => List.zipWith add32 x.a x.b),
   (.vectorSub, ⟨0x01, true, 0, fun _ => 0, false, false⟩, fun x => List.zipWith sub32 x.a x.b),
   (.vectorMul, ⟨0x02, true, 0, fun _ => 0, false, false⟩, fun x => List.zipWith mul32 x.a x.b),
   (.fma, ⟨0x03, true, 0, fun _ => 1, false, false⟩,
     fun x => List.zipWith (fun a b => fma32 a b x.scalar) x.a x.b),
   (.max, ⟨0x04, true, 0, fun _ => 0, false, false⟩, fun x => List.zipWith max32 x.a x.b),
   (.exp, ⟨0x08, false, 0, fun _ => 0, false, false⟩, fun x => x.a.map exp32),
   (.recip, ⟨0x09, false, 0, fun _ => 0, false, false⟩, fun x => x.a.map recip32),
   (.rsqrt, ⟨0x0A, false, 0, fun _ => 0, false, false⟩, fun x => x.a.map rsqrt32),
   (.silu, ⟨0x0B, false, 0, fun _ => 0, false, false⟩, fun x => x.a.map silu32),
   (.gelu, ⟨0x0C, false, 0, fun _ => 0, false, false⟩, fun x => x.a.map gelu32),
   (.cvt, ⟨0x10, false, 0, fun _ => 0, false, false⟩, fun x => x.a),
   (.rsum, ⟨0x18, false, 0, fun _ => 0, true, false⟩, fun x => [rsum32 x.a]),
   (.rmax, ⟨0x19, false, 0, fun _ => 0, true, false⟩, fun x => [rmax32 x.a]),
   (.softmax, ⟨0x1A, false, 0, fun _ => 0, false, false⟩, fun x => softmax32 x.a),
   (.rmsnorm, ⟨0x1B, false, 1, fun _ => 1, false, false⟩, fun x => rmsnorm32 x.scalar x.gain x.a),
   (.layernorm, ⟨0x1C, false, 2, fun _ => 1, false, false⟩, fun x => layernorm32 x.scalar x.gain x.bias x.a),
   (.rope, ⟨0x20, false, 0, fun n => n / 2, false, false⟩, fun x => rope32 x.pos x.prm 0 x.a),
   (.hadamard, ⟨0x21, false, 0, fun _ => 1, false, false⟩, fun x => hadamard32 (x.prm 0).toNat x.a),
   (.psum, ⟨0x28, false, 0, fun _ => 1, false, true⟩,
     fun x => if x.parts.isEmpty then x.a.map Config.openElem else psum32 x.parts)]

/-- A byte of core SRAM outside every row that the instruction writes. -/
def OutsideRows (rows : List RowResult) (a : Nat) : Prop :=
  ∀ r ∈ rows, a < r.addr ∨ r.addr + r.bytes.length ≤ a

end Sys2Proof.Machine

/-- While the cores do not run (fault state, Hold, Sleep), or while the virtual core waits, or when the word
is not the one at its program counter, or while another virtual core has the core they share (R410), or while
an unfinished instruction holds it back (R204), no core instruction issues and nothing changes (R203, R475,
R484). So HALT, DRAIN and TALLY_ADD wait while a walk of the virtual core is unfinished (Table 7-11), and an
ATTEND waits while four are unfinished on its core (R244). The order of turns on a shared core is log entry
56 (DEDUCED). -/
def Obligations.CoreIssuesNothing : Prop :=
  ∀ k ∈ coreInstructions, ∀ (s : State) (vc : Nat) (w : CoreWord),
    (s.coresRun = false ∨ s.vcore? vc = none ∨ s.hasCore vc = false ∨
      ∃ c, s.vcore? vc = some c ∧
        (c.wait ≠ .none ∨ c.code[c.pc]? ≠ some w ∨ s.interlocked vc c w = true ∨
          (c.walks ≠ [] ∧ (Encodes w 0 3 ∨ Encodes w 0 4 ∨ Encodes w 0 5)) ∨
          (4 ≤ c.walks.length ∧ Encodes w 6 0))) →
    exec (k vc w) s = .next s

/-- TALLY_ADD signals its tally with `sreg` + `imm`; TALLY_WAIT takes 1 from a value above zero and goes on, and
otherwise joins the queue and waits; a signal past 2^64 − 1 raises the synchronisation fault and leaves the
tally, and a count of zero is a range violation (R404, R405, R409, R212). -/
def Obligations.TallyInstructions : Prop :=
  ∀ (s : State) (vc : Nat) (w : CoreWord) (c : VCore), Issues s vc w c →
    let n := fieldOf w 119 104
    let t := s.tally n
    let count := (c.reg (fieldOf w 103 99)).toNat + fieldOf w 98 67
    (Encodes w 0 5 → count = 0 → exec (.tallyAdd vc w) s = .next (s.raiseFault (srcCore (s.coreOf vc)))) ∧
    (Encodes w 0 5 → count ≠ 0 → t.value.toNat + (count - min count t.waiters.length) < 2 ^ 64 →
      exec (.tallyAdd vc w) s = .next ((s.past vc c).signalTally n count)) ∧
    (Encodes w 0 5 → count ≠ 0 → 2 ^ 64 ≤ t.value.toNat + (count - min count t.waiters.length) →
      exec (.tallyAdd vc w) s = .next ((s.past vc c).raiseFault srcSync)) ∧
    (Encodes w 0 6 → t.value ≠ 0 → exec (.tallyWaitInstruction vc w) s =
      .next (((s.past vc c).putTally { t with value := t.value - 1 }).countTallyOp)) ∧
    (Encodes w 0 6 → t.value = 0 → exec (.tallyWaitInstruction vc w) s =
      .next ((((s.past vc c).putTally { t with waiters := t.waiters ++ [.core vc] }).countTallyOp).modVcore vc
        (fun x => { x with wait := .tally n })))

/-- BARRIER and COLLECT: the virtual core arrives with its masks and waits; a COLLECT first sends its own
parts to every other member, and while eight other collectives are in progress it does not issue (R418).
An arrival whose operands the checks of the instruction refuse (masks that
omit the issuer or its rank, parts out of range) is a range violation (R409, R412, R415). A complete
barrier of programs releases every waiting member core, adds one to its epoch and forgets its arrivals,
no other barrier changing, where no message of the next epoch is held; an arrival that differs from the
fixed group raises the synchronisation fault (R412, R413). -/
def Obligations.CoreBarriers : Prop :=
  (
    ∀ (s : State) (vc : Nat) (w : CoreWord) (c : VCore), Issues s vc w c →
      (Encodes w 0 7 → s.barrierOk vc c w = true → exec (.barrier vc w) s =
        .next ((s.past vc c).coreArrival (fieldOf w 119 114) vc (c.reg (fieldOf w 111 107)) (s.barrierRanks c w)
          (.barrier (fieldOf w 119 114)))) ∧
      (Encodes w 0 7 → s.barrierOk vc c w = false →
        exec (.barrier vc w) s = .next (s.raiseFault (srcCore (s.coreOf vc)))) ∧
      (Encodes w 0 8 → s.collectsFull (fieldOf w 119 114) = true → exec (.collect vc w) s = .next s) ∧
      (Encodes w 0 8 → s.collectsFull (fieldOf w 119 114) = false → s.collectOk vc c w = false →
        exec (.collect vc w) s = .next (s.raiseFault (srcCore (s.coreOf vc)))) ∧
      (Encodes w 0 8 → s.collectsFull (fieldOf w 119 114) = false → s.collectOk vc c w = true →
        let b := fieldOf w 119 114
        let g := s.collectGroup vc w
        let data := readBytes c.sram (64 * fieldOf w 112 96) (c.partTotal w)
        let e := (s.barrierAt b).epoch
        let sent := (g.2.filter (· != s.job.rank)).foldl (fun (u : State) d => u.sendTo d (fun p =>
          .bulk p d (.collective b e s.job.rank (c.partBytes w) (c.partCount w) data))) (s.past vc c)
        let u := sent.takeParts b ⟨e, s.job.rank, c.partBytes w, c.partCount w, data⟩
        u.faulted = false → exec (.collect vc w) s = .next (u.coreArrival b vc g.1 g.2 (.collect b w)))) ∧
  (
    ∀ (s : State) (b vc : Nat) (mask : U64) (ranks : List Nat),
      ((s.barrierAt b).agrees mask ranks = false →
        s.coreArrival b vc mask ranks (.barrier b) = s.raiseFault srcSync) ∧
      (b < 56 → s.barrierDone b = true → (∀ m ∈ (s.barrierAt b).held, m.epoch ≠ (s.barrierAt b).epoch + 1) →
        ((s.tryBarrier b).barrierAt b).epoch = (s.barrierAt b).epoch + 1 ∧
        ((s.tryBarrier b).barrierAt b).cores = [] ∧ ((s.tryBarrier b).barrierAt b).ranks = [] ∧
        ((s.tryBarrier b).barrierAt b).group = (s.barrierAt b).group ∧
        (∀ n, n ≠ b → (s.tryBarrier b).barrierAt n = s.barrierAt n) ∧
        ∀ n x, (s.tryBarrier b).vcore? n = some x → x.wait ≠ .barrier b ∧ ∀ i, x.wait ≠ .collect b i))

/-- MMA, MOVE and HANDOFF with every range in bounds do their work from the state past the instruction (a HANDOFF
gives the unit the bytes of its range, R209); a range out of bounds is a range violation (R194 to R201, R207,
R212). -/
def Obligations.MatrixMoveHandoff : Prop :=
  ∀ (s : State) (vc : Nat) (w : CoreWord) (c : VCore), Issues s vc w c →
    let u := s.past vc c
    (Encodes w 2 0 → ∀ a, u.mmaCtx c w = some a → u.mmaOk c w = true →
      exec (.mma vc w) s = .next ((u.putRows vc (mLayer w)
        ((mmaRows c a.v a.t a.x w).map (a.result c.sram w))).countMma vc w (mmaModes (mmaRows c a.v a.t a.x w)))) ∧
    (Encodes w 2 0 → u.mmaOk c w = false →
      exec (.mma vc w) s = .next (s.raiseFault (srcCore (s.coreOf vc)))) ∧
    (Encodes w 4 0 → u.moveOk c w = true → w.getLsbD 119 = true →
      exec (.moveInstruction vc w) s =
        .next (u.writeFar (moveArgs c w) (readBytes c.sram (xLocal w) (moveArgs c w).bytes))) ∧
    (Encodes w 4 0 → u.moveOk c w = true → w.getLsbD 119 = false →
      exec (.moveInstruction vc w) s = .next ((u.readFar (moveArgs c w)).1.modVcore vc (fun x =>
        { x with sram := writeBytes x.sram (xLocal w) (u.readFar (moveArgs c w)).2 }))) ∧
    (Encodes w 4 0 → u.moveOk c w = false →
      exec (.moveInstruction vc w) s = .next (s.raiseFault (srcCore (s.coreOf vc)))) ∧
    (fieldOf w 127 124 = 7 → fieldOf w 123 120 ≤ 3 → u.handoffOk c w = true →
      exec (.handoff vc w) s = .next { u with cores := { u.cores with
        handoffs := u.cores.handoffs ++
          [(vc, fieldOf w 123 120, readBytes c.sram (hSrc w) (64 * hLines w))] } }) ∧
    (fieldOf w 127 124 = 7 → fieldOf w 123 120 ≤ 3 → u.handoffOk c w = false →
      exec (.handoff vc w) s = .next (s.raiseFault (srcCore (s.coreOf vc))))

/-- ROWGET, ROWPOOL and ROWPUT for a tagged sequence whose table it may use, with ranges in the work area, do
their work on the table as the step sees it (R134, R152); a row or table violation ends the session's
request with BAD_PARAM and the program goes on (R212). A tag that names no sequence, or one whose request a
violation has ended in this step, changes nothing but the program counter (R152; log entry 47). -/
def Obligations.RowPort : Prop :=
  (∀ k ∈ ([(.rowget, 0), (.rowpool, 1), (.rowput, 2)] : List ((Nat → CoreWord → Instr) × Nat)),
    ∀ (s : State) (vc : Nat) (w : CoreWord) (c : VCore), Issues s vc w c → Encodes w 5 k.2 →
      (c.tag? (rTag w) = none ∨ ∃ g, c.tag? (rTag w) = some g ∧ s.requestStopped g.session = true) →
      exec (k.1 vc w) s = .next (s.past vc c)) ∧
  ∀ (s : State) (vc : Nat) (w : CoreWord) (c : VCore), Issues s vc w c →
    ∀ g, c.tag? (rTag w) = some g → s.requestStopped g.session = false →
    let u := s.past vc c
    (Encodes w 5 0 →
      match (u.tableForRead g.tenant (rTable w)).filter (fun t => portInRange c.sram t w) with
      | none => exec (.rowget vc w) s = .next (u.endRequest g.session stBadParam)
      | some t => c.inArea (rIdx w) (4 * rCount w) = true →
          c.inArea (rData w) (rCount w * rowStride t.width (portFormat t w)) = true →
          exec (.rowget vc w) s = .next (runRowget vc w c g t u)) ∧
    (Encodes w 5 1 →
      match (u.tableForRead g.tenant (rTable w)).filter (fun t => poolOffsetsOk c.sram (portPool w) &&
          poolInRange c.sram t (portPool w) && poolWeightsOk c.sram (portPool w)) with
      | none => exec (.rowpool vc w) s = .next (u.endRequest g.session stBadParam)
      | some t => c.inArea (rIdx w) (8 * rCount w) = true → c.inArea (rOffs w) (4 * rBags w) = true →
          c.inArea (rData w) (rBags w * rowStride t.width (poolFormat (portPool w))) = true →
          exec (.rowpool vc w) s = .next (runRowpool vc w c g t u)) ∧
    (Encodes w 5 2 →
      match (u.tableForWrite g.tenant (rTable w)).filter (fun t => portInRange c.sram t w &&
          portFinite c.sram t w && !(t.static && t.loaded)) with
      | none => exec (.rowput vc w) s = .next (u.endRequest g.session stBadParam)
      | some t => c.inArea (rIdx w) (4 * rCount w) = true →
          c.inArea (rData w) (rCount w * rowStride t.width (portFormat t w)) = true →
          exec (.rowput vc w) s = .next (runRowput w c g t u))

/-- ATTEND appends its rows, then walks: at once when every row's key positions are there, and otherwise the
walk stays unfinished and the program goes on (R204). An append that would change what an unfinished walk
reads does not issue. WRITTEN_THROUGH_MARK lets a waiting walk go on when the marks have passed its
positions and otherwise changes nothing; WALK_WAIT_TIMEOUT raises the core program fault while a walk waits
and does nothing otherwise, nor in Hold, where its limit does not count (R227 to R230, R496). -/
def Obligations.AttentionWalk : Prop :=
  ∀ (s : State) (vc : Nat) (w : CoreWord) (c : VCore),
    (Issues s vc w c → Encodes w 6 0 → s.appendHeld vc w = true → exec (.attend vc w) s = .next s) ∧
    (Issues s vc w c → Encodes w 6 0 → s.appendHeld vc w = false →
      let u := s.past vc c
      (u.attendOk c w = false → exec (.attend vc w) s = .next (s.raiseFault (srcCore (s.coreOf vc)))) ∧
      ∀ a, u.attCtx c w = some a → u.attendOk c w = true →
        let v := if w.getLsbD 119 then (u.attRows c a w).foldl (State.appendRow a c.sram w) u else u
        (w.getLsbD 118 = false → exec (.attend vc w) s = .next v) ∧
        (w.getLsbD 118 = true → (v.attRows c a w).all (v.rowReady a w) = true →
          exec (.attend vc w) s = .next (v.walkRows vc c a w (v.attRows c a w))) ∧
        (w.getLsbD 118 = true → (v.attRows c a w).all (v.rowReady a w) = false →
          ∃ t, exec (.attend vc w) s = .next t ∧
            t.vcore? vc = some { c.past with walks := c.walks ++ [w] } ∧
            t.epochs.walks = v.epochs.walks ++ [v.epochs.epoch])) ∧
    (s.vcore? vc = some c → c.walks = [w] → s.coresRun = true →
      ∀ a, s.attCtx c w = some a → (s.attRows c a w).all (s.rowReady a w) = true →
        ∃ t x, exec (.writtenThroughMark vc) s = .next t ∧ t.vcore? vc = some x ∧ x.walks = [] ∧
          t.epochs.rowsWalked = s.epochs.rowsWalked + BitVec.ofNat 64 (s.attRows c a w).length) ∧
    (s.vcore? vc = some c → (∀ u ∈ c.walks, ∀ a, s.attCtx c u = some a →
        (s.attRows c a u).all (s.rowReady a u) = false) → exec (.writtenThroughMark vc) s = .next s) ∧
    (s.vcore? vc = some c → c.walks ≠ [] → s.power.pstate ≠ 2 →
      exec (.walkWaitTimeout vc) s = .next (s.raiseFault (srcCore (s.coreOf vc)))) ∧
    (s.vcore? vc = some c → c.walks = [] ∨ s.power.pstate = 2 → exec (.walkWaitTimeout vc) s = .next s)

/-- Every vector instruction with its ranges in bounds reads its rows as it finds them and writes, for each row,
the operation's result converted to the destination format; otherwise it is a range violation (Table 7-7,
R213, R214, R212). -/
def Obligations.VectorResults : Prop :=
  ∀ x ∈ vectorRows, ∀ (s : State) (vc : Nat) (w : CoreWord) (c : VCore), Issues s vc w c →
    fieldOf w 127 124 = 3 → fieldOf w 123 118 = x.2.1.op →
    let u := s.past vc c
    let rows := (List.range (fieldOf w 97 92 + 1)).map (u.vecResult x.2.1 x.2.2 c w)
    (u.vecOk x.2.1 c w = true → ∃ t, exec (x.1 vc w) s = .next t ∧
      { t with draws := s.draws } = u.putRows vc (fieldOf w 35 20) rows) ∧
    (u.vecOk x.2.1 c w = false → exec (x.1 vc w) s = .next (s.raiseFault (srcCore (s.coreOf vc))))

/-- Frame of MMA and the vector instructions that complete: the scalar registers, the constants, the program and
every byte of core SRAM outside the rows written are unchanged, and so are the other virtual cores, companion
memory, the tallies and barriers, the tables, the rings and the fault state. -/
def Obligations.RowResultsFrame : Prop :=
  ∀ (s : State) (vc : Nat) (w : CoreWord) (c : VCore), Issues s vc w c →
    let u := s.past vc c
    let Frame (rows : List RowResult) (t : State) : Prop :=
      ∃ d, t.vcore? vc = some d ∧ { d with sram := c.sram } = c.past ∧
        (∀ a, OutsideRows rows a → memGet d.sram a = memGet c.sram a) ∧
        (∀ n, n ≠ vc → t.vcore? n = s.vcore? n) ∧
        t.t2 = s.t2 ∧ t.sync = s.sync ∧ t.sheaf = s.sheaf ∧ t.cmdRings = s.cmdRings ∧ t.cqRings = s.cqRings ∧
        t.link = s.link ∧ t.faults = s.faults ∧ t.power = s.power ∧ t.cores.lofts = s.cores.lofts
    (∀ x ∈ vectorRows, fieldOf w 127 124 = 3 → fieldOf w 123 118 = x.2.1.op → u.vecOk x.2.1 c w = true →
      ∀ t, exec (x.1 vc w) s = .next t →
        Frame ((List.range (fieldOf w 97 92 + 1)).map (u.vecResult x.2.1 x.2.2 c w)) t) ∧
    (Encodes w 2 0 → ∀ a, u.mmaCtx c w = some a → u.mmaOk c w = true → ∀ t, exec (.mma vc w) s = .next t →
      Frame ((mmaRows c a.v a.t a.x w).map (a.result c.sram w)) t)

/-! ## Records -/

namespace Sys2Proof.Machine

/-- A record row of opcode `op` that is accepted, and for which `when` holds once it has started, answers the
next state that `f` gives from the started state, with the first line of its sources asked for, and its start
number. -/
def Runs (c : Record → Instr) (op : Nat) (when : Record → State → Prop) (f : Record → Nat → State → State) :
    Prop :=
  ∀ (r : Record) (s : State),
    let q := withOpcode r op
    Accepted s q → when q (s.started q) → exec (c r) s = .next (f q s.newId (s.begun q))

/-- No further condition. -/
def always (_ : Record) (_ : State) : Prop := True

/-- A session command's checks from step 8 on all pass. -/
def passes (checks : List (Bool × Nat)) : Prop := firstFailure checks = stOk

/-- Record `q` has been completed from `v` with a status: `v`, with the completion handed to the ring, at once
or when the record's own T2 writes are acknowledged (R387). -/
def CompletedWith (v : State) (q : Record) (id status : Nat) (t : State) : Prop :=
  ∃ (needs : List U16) (results : List Byte), t = v.completeAfter needs q id status results

/-- A byte of companion memory keeps its value outside [a, a + n). -/
def T2Outside (s t : State) (a n : Nat) : Prop := ∀ b, b < a ∨ a + n ≤ b → memGet t.t2 b = memGet s.t2 b

/-- Entry x ranks before y, or stands level with it: a larger order key, or the same and no higher an index
(R110). -/
def RanksBefore (x y : WEntry) : Prop := x.u > y.u ∨ (x.u = y.u ∧ x.index ≤ y.index)

end Sys2Proof.Machine

/-- A record whose first failing check of Table 1-7 has status `st` is completed with it and does nothing
else: only the start itself (R22), the sequence update of R23, the completion and, for a quota, the count of
R337 happen. Its result bytes are those of `State.refusalResult` (R96, R315). -/
def Obligations.FirstFailingCheckDecides : Prop :=
  ∀ x ∈ recordRows, ∀ (r : Record) (s : State),
    let q := withOpcode r x.2
    Starts s q → s.seqOk q = true → ∀ (before after : List (Bool × Nat)) (st : Nat),
      s.checksOf q = before ++ (false, st) :: after → (∀ c ∈ before, c.1 = true) → st ≠ stOk →
        exec (x.1 r) s = .next (((s.started q).countRefusal q.tenant st).complete q s.newId st
          ((s.started q).refusalResult q st))

/-- A record whose `seq` is not after the ring's last accepted one is completed with BAD_PARAM, is not carried
out, and leaves the kept value; one that passes sets it, even if a later check rejects it; a record completed
with JOB_RESTARTED or JOB_ENDED leaves it; and after `enable` is set the first record is accepted whatever its
`seq` (R23). -/
def Obligations.SequenceCheck : Prop :=
  (∀ x ∈ recordRows, ∀ (r : Record) (s : State) (k : U32),
    let q := withOpcode r x.2
    Starts s q → (s.cmdRing q.ring).lastSeq = some k →
      ¬ (0 < (q.seq - k).toNat ∧ (q.seq - k).toNat < 2 ^ 31) →
        ∃ t, exec (x.1 r) s = .next t ∧ CompletedWith { s.started q with cmdRings := s.cmdRings } q s.newId
          stBadParam t ∧ (t.cmdRing q.ring).lastSeq = some k) ∧
  (∀ x ∈ recordRows, ∀ (r : Record) (s : State),
    let q := withOpcode r x.2
    Starts s q → s.seqOk q = true → ((s.started q).cmdRing q.ring).lastSeq = some q.seq ∧
      (firstFailure (s.checksOf q) ≠ stOk → ∃ t, exec (x.1 r) s = .next t ∧
        (t.cmdRing q.ring).lastSeq = some q.seq)) ∧
  (∀ x ∈ recordRows, ∀ (r : Record) (s : State) (st : Nat),
    let q := withOpcode r x.2
    s.fetches q.ring = true → (s.cmdRing q.ring).taken = [] → s.canStart q = true → s.turnedAway q = some st →
      ∃ t, exec (x.1 r) s = .next t ∧ (t.cmdRing q.ring).lastSeq = (s.cmdRing q.ring).lastSeq) ∧
  (∀ (s : State) (q : Record) (k : U32), (s.cmdRing q.ring).lastSeq = some k →
    (s.seqOk q = true ↔ 0 < (q.seq - k).toNat ∧ (q.seq - k).toNat < 2 ^ 31)) ∧
  (∀ (s : State) (q : Record), (s.cmdRing q.ring).lastSeq = none → s.seqOk q = true) ∧
  (∀ (s : State) (n : Nat), n < 64 → ((s.enableCmd n).cmdRing n).lastSeq = none)

/-- In the fault state a record other than a diagnostic one is completed with JOB_RESTARTED, and while
JOB_END runs one other than a JOB_LOAD with JOB_ENDED, without having started (R250, R477; a JOB_LOAD is then
refused by the checks, R248). A record that its ring gives while an
older one is unstarted, or that may not start (mode 1, Hold, Sleep, a fence behind a running record of
its ring, a full depth), waits in its ring's order and nothing else changes; a ring from which nothing is taken
gives none; RECORD_START starts the oldest waiting record when it may and lets the fetcher fill its place, and
one that may not start stays (R17, R21). That a record taken before its ring was last enabled is held against
the sequence number kept then is the model's choice (log entry 144, DEDUCED). -/
def Obligations.RecordsWaitOrTurnAway : Prop :=
  (
    ∀ x ∈ recordRows, ∀ (r : Record) (s : State),
      let q := withOpcode r x.2
      s.fetches q.ring = true → (s.cmdRing q.ring).taken = [] → s.canStart q = true → diagnostic x.2 = false →
        (s.faulted = true →
          exec (x.1 r) s = .next (s.complete q 0 stJobRestarted (s.refusalResult q stJobRestarted))) ∧
        (s.faulted = false → s.job.state = 3 → x.2 ≠ 0x0400 →
          exec (x.1 r) s = .next (s.complete q 0 stJobEnded (s.refusalResult q stJobEnded)))) ∧
  (
    (∀ x ∈ recordRows, ∀ (r : Record) (s : State),
      let q := withOpcode r x.2
      (s.fetches q.ring = false → exec (x.1 r) s = .next s) ∧
      (s.fetches q.ring = true → (s.cmdRing q.ring).taken ≠ [] ∨ s.canStart q = false →
        exec (x.1 r) s = .next (s.modCmd q.ring (fun c => { c with taken := c.taken ++ [q] })))) ∧
    (∀ (s : State) (n : Nat) (q : Record) (rest : List Record), (s.cmdRing n).taken = q :: rest →
      let v := s.modCmd n (fun c => { c with taken := rest })
      (s.canStart q = true → (s.cmdRing n).former = [] → exec (.recordStart n) s =
        .next ((v.startRecord q (planOf q)).placeFreed n)) ∧
      (s.canStart q = true → ∀ (m : Nat) (k : Option U32) (old : List (Nat × Option U32)),
        (s.cmdRing n).former = (m, k) :: old →
        exec (.recordStart n) s = .next ((v.startFormer q m k old).placeFreed n)) ∧
      (s.canStart q = false → exec (.recordStart n) s = .next s)) ∧
    (∀ (s : State) (n : Nat), (s.cmdRing n).taken = [] → exec (.recordStart n) s = .next s) ∧
    (∀ (s : State) (q : Record), q.fence = true → (s.running.any (fun x => x.record.ring == q.ring)) = true →
      s.canStart q = false))

/-- Every record that is accepted answers the next state of its opcode's own plan (R21, R22, R27). -/
def Obligations.AcceptedRecordsRun : Prop :=
  ∀ x ∈ recordRows, ∀ (r : Record) (s : State),
    let q := withOpcode r x.2
    Accepted s q → exec (x.1 r) s = .next ((planOf q q (s.started q)).run s.newId (s.begun q))

/-- A publish puts a new generation in force: GENERATION_SWITCH applies the delta that was taken, counts the
generation up by one and completes the record that asked; AUTO_PUBLISH takes the delta of a slot with a
publish interval when it fits, and nothing switches until then (R86 to R90). -/
def Obligations.GenerationSwitches : Prop :=
  let Switched (s : State) (slot tenant : Nat) (m : Merge) (v : State) : Prop :=
    (v.partition slot tenant).generation = (s.partition slot tenant).generation + 1 ∧
      (v.partition slot tenant).merge = none ∧
      (v.partition slot tenant).live = (mergeLive (s.partition slot tenant).live m.delta).live ∧
      (v.partition slot tenant).delta = (s.partition slot tenant).delta ∧
      ∀ i t, ¬ (i = slot ∧ t = tenant) → v.partition i t = s.partition i t
  (∀ (s : State) (slot tenant : Nat) (m : Merge), s.power.pstate < 2 →
    (s.partition slot tenant).merge = some m → m.run = none →
      ∃ t, exec (.generationSwitch slot tenant) s = .next t ∧ Switched s slot tenant m t) ∧
  (∀ (s : State) (slot tenant id : Nat) (m : Merge), s.power.pstate < 2 →
    (s.partition slot tenant).merge = some m → m.run = some id →
      ∃ v, Switched s slot tenant m v ∧ exec (.generationSwitch slot tenant) s =
        .next (v.completeId id stOk (publishResults (mergeLive (s.partition slot tenant).live m.delta)
          ((s.partition slot tenant).generation + 1)))) ∧
  (∀ (s : State) (slot tenant : Nat), s.power.pstate < 2 → (s.slot slot).state ≠ 0 →
    (s.slot slot).publishMs ≠ 0 → (s.partition slot tenant).delta ≠ [] → (s.partition slot tenant).merge = none →
    s.t1Fits tenant (mergeBales (s.slot slot) (s.partition slot tenant) (s.partition slot tenant).delta) = true →
      ∃ t, exec (.autoPublish slot tenant) s = .next t ∧ (t.partition slot tenant).delta = [] ∧
        ((t.partition slot tenant).merge.map (·.delta)) = some (s.partition slot tenant).delta ∧
        (t.partition slot tenant).live = (s.partition slot tenant).live ∧
        (t.partition slot tenant).generation = (s.partition slot tenant).generation)

/-- Records of the Gleaner and the Winnow that are accepted answer the state that their opcode's effect
gives from the started state (Tables 3-3 and 4-2). INDEX_DROP drops the slot; VEC_DELETE adds its
entries to the delta (R85); INDEX_PUBLISH starts a merge, or completes at once where the delta is empty
(R86); INDEX_SAVE writes the image, whose range it keeps (R91), and completes when its writes are acknowledged; the effects of
INDEX_CREATE, VEC_INSERT, INDEX_LOAD, SEARCH, TOPK and TOPK_MERGE are the model's functions
runIndexCreate, runVecInsert, runIndexLoad, runSearch, runTopk and runTopkMerge. -/
def Obligations.GleanerAndWinnowRecords : Prop :=
  (
    Runs .indexCreate 0x0100 always runIndexCreate ∧
    Runs .indexDrop 0x0102 always (fun q id u => (u.dropSlot (indexSlotOf q.handle)).complete q id stOk []) ∧
    Runs .vecInsert 0x0110 always runVecInsert ∧
    Runs .vecDelete 0x0111 always (fun q id u =>
      let p := u.partition (indexSlotOf q.handle) q.tenant
      let new := deleteList u.t2 q
      ((u.putPartition { p with delta := p.delta ++ new }).notePeaks q.tenant).complete q id stOk
        (toLe 4 new.length ++ toLe 4 0 ++ toLe 4 (p.delta ++ new).length)) ∧
    Runs .indexPublish 0x0112 (fun q u => (u.partition (indexSlotOf q.handle) q.tenant).delta ≠ [])
      (fun q id u => u.startMerge (u.partition (indexSlotOf q.handle) q.tenant) (some id)) ∧
    Runs .indexPublish 0x0112 (fun q u => (u.partition (indexSlotOf q.handle) q.tenant).delta = [])
      (fun q id u => u.complete q id stOk
        (publishResults ⟨[], 0, 0, 0⟩ (u.partition (indexSlotOf q.handle) q.tenant).generation)) ∧
    Runs .indexSave 0x0103
      (fun q u => (indexImage (u.slot (indexSlotOf q.handle))
        (u.partition (indexSlotOf q.handle) q.tenant)).length ≤ q.fieldN 24 4)
      (fun q id u =>
        let image := (indexImage (u.slot (indexSlotOf q.handle))
          (u.partition (indexSlotOf q.handle) q.tenant)).flatten
        let w := u.keepImage ⟨q.fieldN 16 6, image.length, some (indexSlotOf q.handle, q.tenant)⟩
        let v := w.writeT2 (q.fieldN 16 6) image
        v.completeAfter (newWrites w v) q id stOk []) ∧
    Runs .indexLoad 0x0101 always runIndexLoad ∧
    Runs .search 0x0120 always runSearch) ∧
  (
    Runs .topk 0x0140 always runTopk ∧ Runs .topkMerge 0x0141 always runTopkMerge)

/-- The selection of the Winnow: at most k entries, each of the list; ordered by order key, largest first, and by
index between equal keys; and no entry left out ranks before one that is in (R109, R110). -/
def Obligations.SelectionIsBest : Prop :=
  ∀ (k : Nat) (l : List WEntry),
    (selectBest k l).length = min k l.length ∧ (∀ x ∈ selectBest k l, x ∈ l) ∧
    (selectBest k l).Pairwise RanksBefore ∧
    ∀ x ∈ l, x ∉ selectBest k l → ∀ y ∈ selectBest k l, RanksBefore y x

/-- Updates take effect at a boundary only: an accepted SCATTER or ROW_LOAD changes no row of any table, no
companion memory, and completes nothing (R134, R136). -/
def Obligations.UpdatesWaitForBoundary : Prop :=
  ∀ (r : Record) (s : State),
    (Accepted s (withOpcode r 0x0320) → ∃ t, exec (.scatter r) s = .next t ∧
      (∀ n, (t.table? n).map (·.data) = (s.table? n).map (·.data)) ∧ t.t2 = s.t2 ∧ t.cqRings = s.cqRings ∧
      t.running = (s.started (withOpcode r 0x0320)).running) ∧
    (Accepted s (withOpcode r 0x0302) → ∃ t, exec (.rowLoad r) s = .next t ∧
      (∀ n, (t.table? n).map (·.data) = (s.table? n).map (·.data)) ∧ t.t2 = s.t2 ∧ t.cqRings = s.cqRings ∧
      t.running = (s.started (withOpcode r 0x0302)).running)

/-- Frame of records that write results to companion memory: every byte of it outside the destination is
unchanged by a TOPK or a TABLE_SAVE, whose completions wait for the WR_ACKs of the destination (R387).
The tags of outstanding requests do not fill the tag space. -/
def Obligations.DestinationsOnly : Prop :=
  ∀ (r : Record) (s t : State), s.link.reads.length + s.link.writes.length < 65535 →
    (Accepted s (withOpcode r 0x0140) → exec (.topk r) s = .next t →
      let a := topkArgs (withOpcode r 0x0140)
      T2Outside s t a.dest (((List.range a.rows).map (fun i =>
        (outputRow a.fmt a.smallest a.k (topkResult s.t2 a i).2 (topkResult s.t2 a i).1).length)).sum)) ∧
    (Accepted s (withOpcode r 0x0303) → exec (.tableSave r) s = .next t →
      let x := s.tableOf (withOpcode r 0x0303).handle
      let a := rowArgs (withOpcode r 0x0303) x
      T2Outside s t a.a (((List.range a.count).map (fun i =>
        (rowImage a.fmt x.width (gatherRow x a.fmt (a.first + i)).1).length)).sum))

/-- Records of the Sheaf and the Thresher that are accepted answer the state that their opcode's effect
gives from the started state (Tables 5-3 and 6-8): TABLE_CREATE adds the table, TABLE_DROP drops it, the
LOAD and DROP records of grammars, templates and passages put in and take out what they name, and PACK
completes with PACK_OVER, writing nothing, when its parts do not fit (R168 to R184); the effects of
ROW_LOAD, TABLE_SAVE, GATHER, POOL, SCATTER, TOKENISE, DETOKENISE, TEMPLATE_LOAD and a PACK that fits
are the model's functions of those names. -/
def Obligations.SheafAndTextRecords : Prop :=
  (
    Runs .tableCreate 0x0300 always (fun q id u =>
      ((u.modSheaf (fun x => { x with tables := x.tables ++ [newTable u q] })).notePeaks q.tenant).complete q id stOk
        (toLe 4 (newTable u q).bales)) ∧
    Runs .tableDrop 0x0301 always (fun q id u => (u.dropTable (bitsOf q.handle 11 0)).complete q id stOk []) ∧
    Runs .rowLoad 0x0302 always runRowLoad ∧ Runs .tableSave 0x0303 always runTableSave ∧
    Runs .gather 0x0310 always runGather ∧ Runs .pool 0x0311 always runPool ∧
    Runs .scatter 0x0320 always runScatter) ∧
  (
    Runs .tokenise 0x0200 always runTokenise ∧ Runs .detokenise 0x0201 always runDetokenise ∧
    Runs .grammarLoad 0x0210 always (fun q id u =>
      (({ u with
          grammars := u.grammars ++ [readGrammar u.t2 (loadArgs q) (textNumber q.handle) u.newSerial q.tenant],
          grammarSerial := u.newSerial }).notePeaks q.tenant).complete q id stOk []) ∧
    Runs .grammarDrop 0x0211 always (fun q id u => (u.dropGrammar (textNumber q.handle)).complete q id stOk []) ∧
    Runs .templateLoad 0x0220 always runTemplateLoad ∧
    Runs .templateDrop 0x0221 always (fun q id u =>
      ({ u with templates := u.templates.filter (fun x => x.number != textNumber q.handle) }).complete q id stOk
        []) ∧
    Runs .passageLoad 0x0230 always (fun q id u =>
      let i := indexSlotOf q.handle
      let v := u.dropStore i q.tenant
      (({ v with stores := v.stores ++ [readPassages u.t2 (q.fieldN 16 6) (q.fieldN 24 8) i q.tenant]
        }).notePeaks q.tenant).complete q id stOk []) ∧
    Runs .passageDrop 0x0231 always (fun q id u =>
      (u.dropStore (indexSlotOf q.handle) q.tenant).complete q id stOk []) ∧
    Runs .pack 0x0240 (fun q u =>
        let a := packArgs q
        (packPrompt (u.templateOf q.handle).items ((List.range a.nparts).map (readPart u.t2 a.parts))
          ((List.range a.npass).map (fun e => readLe u.t2 (a.plist + 8 * e) 4)) (u.passagesOf a.pslot q.tenant)
          a.maxTokens).isSome)
      runPack ∧
    Runs .pack 0x0240 (fun q u =>
        let a := packArgs q
        packPrompt (u.templateOf q.handle).items ((List.range a.nparts).map (readPart u.t2 a.parts))
          ((List.range a.npass).map (fun e => readLe u.t2 (a.plist + 8 * e) 4)) (u.passagesOf a.pslot q.tenant)
          a.maxTokens = none)
      (fun q id u => u.complete q id stPackOver []))

/-- JOB_LOAD puts the manifest's job in place of the default job and completes, and a foreign port on a route of
the job raises the peer link fault (R397); JOB_END enters state 3 and,
with no grace, ends the job at once, otherwise when nothing runs; GRACE_EXPIRY ends a draining job
outside the fault state and does nothing else (R247 to R251). MODEL_RETIRE retires the version named and
frees it when nothing uses it, MODEL_CURRENT makes it current; MODEL_LOAD and MODEL_PIN answer the
model's runModelLoad and runModelPin (R254 to R257). -/
def Obligations.JobAndModelRecords : Prop :=
  (
    Runs .jobLoad 0x0400 always (fun q id u =>
      let m := readManifestJob u.t2 (q.fieldN 16 6)
      ((((u.endDefault id).installJob 2 m).setImplicit (m.tenants.map (·.number))
        (manifestImplicit u.t2 (q.fieldN 16 6))).completeId id stOk []).routeCheck) ∧
    Runs .jobEnd 0x0401 (fun q _ => q.fieldN 16 2 = 0) (fun _ id u =>
      ({ u with job := { u.job with state := 3, ending := some id } }).stopTaken.finishJob) ∧
    Runs .jobEnd 0x0401 (fun q _ => q.fieldN 16 2 ≠ 0) (fun _ id u =>
      ({ u with job := { u.job with state := 3, ending := some id } }).stopTaken.finishDrained) ∧
    (∀ s : State, s.job.state = 3 → s.faulted = false → exec .graceExpiry s = .next s.finishJob) ∧
    (∀ s : State, s.job.state ≠ 3 ∨ s.faulted = true → exec .graceExpiry s = .next s)) ∧
  (
    Runs .modelLoad 0x0640 (fun q u => (readImage u.t2 (loadModelArgs q).image).isSome) runModelLoad ∧
    Runs .modelRetire 0x0641 (fun q u => (named u q).isSome) (fun q id u =>
      match named u q with
      | some v => ((u.modVersion v.model v.version (fun x => { x with state := 4 })).freeRetired).complete q id stOk []
      | none => u) ∧
    Runs .modelCurrent 0x0642 (fun q u => (named u q).isSome) (fun q id u =>
      match named u q with
      | some v => (u.makeCurrent v.model v.version).complete q id stOk []
      | none => u) ∧
    Runs .modelPin 0x0643 (fun q u => (named u q).isSome) runModelPin)

/-- The session records whose checks from step 8 on pass: OPEN, APPEND and RESUME answer the model's
runOpen, runAppend and runResume; GENERATE begins a run, after a revive when the session is parked;
PARK, MOVE, FORK, SEAL ask for a seal, mark the run to end, or use the seal there is; REVIVE answers the
state revived; CLOSE leaves the handle alone; a SEAL in a wrong state answers WRONG_STATE with the
session's state (R291, R315). REQUEST enters its front end, whose rows wait for serving steps (R259, R271); EMBED and
SAFEGUARD_READ answer the model's runEmbed and runSafeguardRead (R273, R64). These are the model's choices: that
PARK meets a pending CLOSE, and CLOSE a pending PARK, and that each then waits for the park's seal (log entry 57,
DEDUCED); that a REQUEST is a running record of its ring from its start (log entry 100, DEDUCED); and that a command
for a FORK's child waits for the seal that makes it (log entry 62, DEDUCED). -/
def Obligations.SessionAndServingRecords : Prop :=
  (
    Runs .openSession 0x0500 (fun q u => passes
        [(stateIn u q [0, 7], stWrongState), ((openVersion u q).isSome, stVersionGone),
         (((openVersion u q).bind (fun v => u.kvPlace q.tenant (v.kvBytes (openMaxLen u q v)))).isSome, stNoSpace),
         (u.hasRoom q.handle, stDirFull)]) runOpen ∧
    Runs .append 0x0501 (fun q u => passes
        [(stateIn u q [1], stWrongState), (u.sessionLoaded (u.sessionOf q), stVersionGone),
         (u.budgetOk q.tenant 8, stBudget)]) runAppend ∧
    Runs .generate 0x0502 (fun q u => passes
        [(generateState u q, stWrongState), (u.sessionLoaded (u.sessionOf q), stVersionGone),
         (u.budgetOk q.tenant 8, stBudget)] ∧ u.sessionState q.handle ≠ 4 ∧ u.unborn q.handle = false)
      (fun q id u => u.beginRun q.handle (paramBlock u.t2 (q.fieldN 16 6)) id (u.cqOf q.ring) false none []) ∧
    (∀ (r : Record) (s : State),
      let q := withOpcode r 0x0502
      let u := s.begun q
      let w := u.readSources (u.parkedReads q.handle)
      Accepted s q → passes [(generateState u q, stWrongState), (u.sessionLoaded (u.sessionOf q), stVersionGone),
        (u.budgetOk q.tenant 8, stBudget)] → u.sessionState q.handle = 4 → u.parking q.handle = false →
        exec (.generate r) s = .next (match w.reviveParked q.handle with
          | .done v _ _ _ => v.beginRun q.handle (paramBlock v.t2 (q.fieldN 16 6)) s.newId (v.cqOf q.ring) true none []
          | .fails st => (w.countRefusal q.tenant st).complete q s.newId st (stateOnly 4))) ∧
    Runs .resume 0x0503 (fun q u => passes
        [(resumeState u q, stWrongState), (u.sessionLoaded (u.sessionOf q), stVersionGone),
         (q.fieldN 32 6 != 0 || (u.sessionOf q).run.isSome, stBadParam), (u.budgetOk q.tenant 8, stBudget)])
      runResume ∧
    Runs .park 0x0504 (fun q u => passes [(stateIn u q [1, 2, 3], stWrongState)] ∧ u.unborn q.handle = false)
      (fun q id u =>
        let x := u.sessionOf q
        let drop := q.fieldN 16 1 == 1
        if x.state == 2 then
          (if x.closeAtEnd.isEmpty then
            u.modSession q.handle (fun x => { x with parkAtEnd := x.parkAtEnd ++ [(id, drop)] })
          else u.waitForPark q.handle id)
        else (u.modSession q.handle (fun x => { x with state := 4, parkedFrom := x.state })).askSeal q.handle
          (.park [id] drop x.state)) ∧
    (∀ (r : Record) (s : State),
      let q := withOpcode r 0x0505
      let u := s.begun q
      let named := if reviveMirror q then (u.mirrorEntry q.handle).map (·.root)
        else if q.fieldN 16 4 == 0xFFFFFFFF then (u.sessionOf q).latest.map (·.root) else some (q.fieldN 16 4)
      let w := u.readSources ((named.map (u.reviveReads q.handle)).getD [])
      let refused (st : Nat) : State :=
        (w.countRefusal q.tenant st).complete q s.newId st (stateOnly (u.sessionOf q).state)
      Accepted s q → passes [(reviveState u q, stWrongState),
         ((u.sessionOf q).state != 4 || reviveMirror q || q.fieldN 16 4 != 0xFFFFFFFF ||
           u.sessionLoaded (u.sessionOf q), stVersionGone)] → u.parking q.handle = false →
        (reviveMirror q = false → exec (.revive r) s = .next (match
            (if q.fieldN 16 4 = 0xFFFFFFFF then w.reviveParked q.handle
              else w.reviveFrom q.handle (q.fieldN 16 4)
                ((u.sessionOf q).latest.any (fun i => i.root == q.fieldN 16 4 && i.mirrored))) with
          | .done v root reads no =>
            v.complete q s.newId stOk (sessionResult (v.sessionState q.handle) 0 root reads no.toNat)
          | .fails st => refused st)) ∧
        (∀ e, reviveMirror q = true → u.mirrorEntry q.handle = some e →
          exec (.revive r) s = .next (match w.reviveFrom q.handle e.root false with
          | .done v root reads no => (v.useMirror q.handle).complete q s.newId stOk
              (sessionResult ((v.useMirror q.handle).sessionState q.handle) 0 root reads no.toNat)
          | .fails st => refused st))) ∧
    Runs .move 0x0506 (fun q u => passes [(stateIn u q [1, 3, 4], stWrongState)] ∧ u.unborn q.handle = false)
      (fun q id u =>
        let x := u.sessionOf q
        if x.state == 4 then
          (if u.parking q.handle || u.moveBusy (q.fieldN 16 2) then u.waitForPark q.handle id
          else u.moveParked q.handle id (q.fieldN 16 2))
        else (u.modSession q.handle (fun x => { x with state := 6, parkedFrom := 0 })).askSeal q.handle
          (.move id (q.fieldN 16 2) x.state)) ∧
    Runs .fork 0x0507 (fun q u => passes
        [(stateIn u q [1, 3, 4], stWrongState),
         (u.sessionState (forkChildHandle q) == 0 || u.sessionState (forkChildHandle q) == 7, stWrongState),
         (u.hasRoom (forkChildHandle q), stDirFull)] ∧ (u.sessionOf q).state ≠ 4 ∧ u.unborn q.handle = false)
      (fun q id u => u.askSeal q.handle (.fork id (forkChildHandle q))) ∧
    Runs .fork 0x0507 (fun q u => passes
        [(stateIn u q [1, 3, 4], stWrongState),
         (u.sessionState (forkChildHandle q) == 0 || u.sessionState (forkChildHandle q) == 7, stWrongState),
         (u.hasRoom (forkChildHandle q), stDirFull)] ∧ (u.sessionOf q).state = 4 ∧ u.parking q.handle = false ∧
        u.sealsStarted < 64 ∧ u.epochs.walks.length < 65536 ∧
        (u.area q.tenant).takes (ceilDiv (((u.sessionOf q).latest.map (fun i => i.entries.length)).getD 0) 818) =
          true ∧
        u.ivsOk (ceilDiv (((u.sessionOf q).latest.map (fun i => i.entries.length)).getD 0) 818) = true)
      (fun q id u => u.forkParked q.handle (forkChildHandle q) id) ∧
    Runs .close 0x0508 (fun q u => passes [(stateIn u q [1, 2, 3, 4], stWrongState)] ∧ u.unborn q.handle = false)
      (fun q id u =>
        let x := u.sessionOf q
        if x.state == 2 then
          (if x.parkAtEnd.isEmpty then u.modSession q.handle (fun x => { x with closeAtEnd := x.closeAtEnd ++ [id] })
          else u.waitForPark q.handle id)
        else if x.state == 4 && u.parking q.handle then u.waitForPark q.handle id
        else (u.closeSession q.handle).complete q id stOk (sessionResult 7 0 0 0 0)) ∧
    Runs .sealSession 0x0509 (fun q u => passes [(stateIn u q [1, 2, 3], stWrongState)] ∧ u.unborn q.handle = false)
      (fun q id u => u.askSeal q.handle (.seal id (q.fieldN 16 1 == 1))) ∧
    Runs .sealSession 0x0509 (fun q u => stateIn u q [1, 2, 3] = false ∧ u.unborn q.handle = false)
      (fun q id u => u.complete q id stWrongState (stateOnly (u.sessionState q.handle))) ∧
    (∀ x ∈ ([(.append, 0x0501), (.generate, 0x0502), (.resume, 0x0503), (.park, 0x0504), (.revive, 0x0505),
        (.move, 0x0506), (.fork, 0x0507), (.close, 0x0508), (.sealSession, 0x0509)] : List ((Record → Instr) × Nat)),
      Runs x.1 x.2 (fun q u => u.unborn q.handle = true) (fun q id u => u.waitForPark q.handle id))) ∧
  (
    Runs .request 0x0410 (fun q u =>
        let a := reqArgs q u.t2
        passes [(!a.gen || generateState u q, stWrongState), (reqLoaded u q a, stVersionGone),
          (u.budgetOk q.tenant 8, stBudget)] ∧ a.gen = false)
      (fun q id u => u.startFront q id (reqArgs q u.t2) false) ∧
    Runs .request 0x0410 (fun q u =>
        let a := reqArgs q u.t2
        passes [(!a.gen || generateState u q, stWrongState), (reqLoaded u q a, stVersionGone),
          (u.budgetOk q.tenant 8, stBudget)] ∧ a.gen = true ∧ u.sessionState q.handle ≠ 4 ∧
          u.unborn q.handle = false)
      (fun q id u => u.startFront q id (reqArgs q u.t2) false) ∧
    Runs .embed 0x0420 (fun q u => (u.resolve q.handle).isSome) runEmbed ∧
    Runs .safeguardRead 0x0480 (fun q u => (u.versionOf (u.sessionOf q)).isSome) runSafeguardRead)

/-- CLOSE of a session that is OPEN, WAITING, or PARKED with no park seal in progress, leaves its handle alone:
state CLOSED, no key-value bales, nothing to run. CLOSE of a RUNNING session is kept for the end of the step, and
one of a session whose park seal is in progress waits for it; the session is else as it was. Every other session
of the directory is as it was (R287, R291, R296). What a CLOSE does behind a pending PARK is log entry 57
(DEDUCED), and the wait of a FORK's child, left out here, log entry 62. -/
def Obligations.CloseLeavesHandle : Prop :=
  ∀ (r : Record) (s : State),
    let q := withOpcode r 0x0508
    Accepted s q → s.unborn q.handle = false →
      ∃ t, exec (.close r) s = .next t ∧ (∀ h, h ≠ q.handle → t.session? h = s.session? h) ∧
        (stateIn s q [1, 3] = true ∨ (stateIn s q [4] = true ∧ s.parking q.handle = false) →
          ∃ x, t.session? q.handle = some x ∧ x.state = 7 ∧ x.kv = [] ∧ x.run = none ∧ x.latest = none ∧
            x.pending = none ∧ x.length = 0) ∧
        (∀ y, s.session? q.handle = some y → y.state = 2 → y.parkAtEnd = [] →
          t.session? q.handle = some { y with closeAtEnd := y.closeAtEnd ++ [s.newId] }) ∧
        (∀ y, s.session? q.handle = some y →
          (y.state = 2 ∧ y.parkAtEnd ≠ []) ∨ (y.state = 4 ∧ s.parking q.handle = true) →
          t.session? q.handle = some { y with after := y.after ++ [s.newId] })

/-- The tier records (Table 11-7): PAGE_MAP and PAGE_UNMAP map and unmap host pages, TIER_MODE sets the mode
and on mode 0 closes every window, the window records open, flush and close a window; COPY_IN and
COPY_OUT answer the model's runCopyIn and runCopyOut (R340 to R348). The tally records (Table 14-1) and
the diagnostic ones (R485): CLAIM sets owner and value, RELEASE frees the tally and ends its waiters
with TALLY_GONE, SIGNAL answers the model's signalTally, WAIT takes 1 or joins the queue, READ answers
time and value; DIAG_ECHO and FAULT_READ answer what they read, and FAULT_INJECT asserts its source once its
completion, if it has one, is written. -/
def Obligations.TierTallyAndDiagnosticRecords : Prop :=
  (
    Runs .pageMap 0x0600 always (fun q id u =>
      let a := pageArgs q
      ((u.mapPages q.tenant a.va a.pages (a.psize == 1) a.quad none).notePeaks q.tenant).completeId id stOk
        (toLe 4 a.frames)) ∧
    Runs .pageUnmap 0x0601 always (fun q id u =>
      let a := pageArgs q
      (u.dropLeft.unmapPages q.tenant (fun p =>
        decide (a.va ≤ p.va) && decide (p.va < a.va + a.pages * a.size))).completeId id stOk (toLe 4 a.frames)) ∧
    Runs .copyIn 0x0602 always runCopyIn ∧ Runs .copyOut 0x0603 always runCopyOut ∧
    Runs .tierMode 0x0610 (fun q _ => q.fieldN 16 1 ≠ 0) (fun q id u =>
      (u.modTiers (fun p => { p with mode := q.fieldN 16 1 })).complete q id stOk (toLe 1 (q.fieldN 16 1))) ∧
    Runs .tierMode 0x0610 (fun q _ => q.fieldN 16 1 = 0) (fun q id u =>
      let v := u.tiers.windows.foldl (fun s w => s.closeWindow ((s.window? w.number).getD w)) u
      let z := v.modTiers (fun p => { p with mode := 0 })
      z.completeAfter (newWrites u z) q id stOk (toLe 1 0)) ∧
    Runs .windowOpen 0x0611 always (fun q id u =>
      ((u.modTiers (fun p => { p with
        windows := u.tiers.windows ++ [(windowArgs q).opened q.tenant u.epochs.epoch] })).notePeaks q.tenant
        ).completeId id stOk []) ∧
    Runs .windowFlush 0x0612 (fun q u => (windowOf u q).isSome) (fun q id u => match windowOf u q with
      | some w => (u.flushWindow w).completeAfter (newWrites u (u.flushWindow w)) q id stOk (toLe 4 w.dirty.length)
      | none => u) ∧
    Runs .windowClose 0x0613 (fun q u => (windowOf u q).isSome) (fun q id u => match windowOf u q with
      | some w => (u.closeWindow w).completeAfter (newWrites u (u.closeWindow w)) q id stOk (toLe 4 w.dirty.length)
      | none => u)) ∧
  (
    Runs .tallyClaim 0x0700 always (fun q id u =>
      ((u.putTally ⟨tallyNumber q.handle, some q.tenant, BitVec.ofNat 64 (q.fieldN 16 8), []⟩).countTallyOp
        ).completeId id stOk (tallyResult 0 0 (BitVec.ofNat 64 (q.fieldN 16 8)))) ∧
    Runs .tallyRelease 0x0701 always (fun q id u =>
      let t := u.tally (tallyNumber q.handle)
      ((t.waiters.foldl (State.endWaiter · stTallyGone []) (u.putTally ⟨t.number, none, 0, []⟩).countTallyOp)
        ).completeId id stOk (toLe 4 (count32 t.waiters.length))) ∧
    Runs .tallySignal 0x0702 always (fun q id u =>
      let n := tallyNumber q.handle
      let t := (u.tally n).signal (q.fieldN 16 8)
      (u.signalTally n (q.fieldN 16 8)).completeId id stOk (tallyResult (count32 t.1.length) 0 t.2.value)) ∧
    Runs .tallyWait 0x0703 (fun q u => (u.tally (tallyNumber q.handle)).value ≠ 0) (fun q id u =>
      let t := u.tally (tallyNumber q.handle)
      ((u.putTally { t with value := t.value - 1 }).countTallyOp).completeId id stOk
        (tallyResult 0 0 (t.value - 1))) ∧
    Runs .tallyWait 0x0703 (fun q u => (u.tally (tallyNumber q.handle)).value = 0) (fun q id u =>
      let t := u.tally (tallyNumber q.handle)
      (u.putTally { t with waiters := t.waiters ++ [.record id (q.fieldN 16 4)] }).countTallyOp) ∧
    Runs .tallyRead 0x0704 always (fun q id u => u.countTallyOp.completeId id stOk
      (tallyResult 0 u.timestamp.toNat (u.tally (tallyNumber q.handle)).value)) ∧
    Runs .diagEcho 0x0F00 always (fun _ id u =>
      u.completeId id stOk (twoWords u.timestamp.toNat u.faults.faultStates.toNat)) ∧
    Runs .faultInject 0x0F01 (fun q _ => q.quiet = true) (fun q id u =>
      (({ u with faults := { u.faults with injected := u.faults.injected + 1 } }).completeId id stOk []).raiseFault
        (q.fieldN 16 1)) ∧
    Runs .faultInject 0x0F01 (fun q _ => q.quiet = false) (fun q id u =>
      let v := { u with faults := { u.faults with injected := u.faults.injected + 1 } }
      (v.post { v.completionPost q id stOk [] with inject := some (q.fieldN 16 1) }).injectDue) ∧
    Runs .faultRead 0x0F02 always (fun _ id u =>
      u.completeId id stOk (twoWords (bitsOf u.faults.sticky 63 0) (bitsOf u.faults.sticky 95 64))))

/-- The tally unit (R404): a signal of n releases the first min(n, w) of the w waiters, keeps the rest in order
and adds what is left to the value; a wait takes 1 from a value above zero, and joins the end of the queue
otherwise; a tally whose value is above zero keeps an empty queue under both. -/
def Obligations.TallyUnit : Prop :=
  ∀ (t : Tally) (n : Nat) (w : Waiter),
    (t.signal n).1 = t.waiters.take n ∧ (t.signal n).2.waiters = t.waiters.drop n ∧
    (t.overflows n = false →
      (t.signal n).2.value.toNat = t.value.toNat + (n - min n t.waiters.length)) ∧
    (t.value ≠ 0 → t.wait w = (true, { t with value := t.value - 1 })) ∧
    (t.value = 0 → t.wait w = (false, { t with waiters := t.waiters ++ [w] })) ∧
    ((t.value ≠ 0 → t.waiters = []) → ((t.wait w).2.value ≠ 0 → (t.wait w).2.waiters = []) ∧
      (t.overflows n = false → (t.signal n).2.value ≠ 0 → (t.signal n).2.waiters = []))

/-- A completion record is 32 bytes as Table 1-8 says: opcode, status, `seq`, ring and tenant of the
command, one slot, and its phase bit is 1 on even passes through the ring and 0 on odd ones (R26). A
record never wraps past the end of a ring: when the space left before the end is too small, one filler
record of opcode 0 and OK status takes exactly that space, and the record starts the next pass (R26). -/
def Obligations.CompletionRecords : Prop :=
  (
    ∀ (q : Record) (status pass : Nat) (results : List Byte), q.ring < 64 → status < 65536 →
      let x := withPhase (completionSlot q status results) pass
      field x 0 2 = q.opcode ∧ field x 2 2 = status ∧ field x 4 4 = q.seq.toNat ∧ bitsOf x 69 64 = q.ring ∧
        bitsOf x 78 70 = 0 ∧ bitAt x 79 = (pass % 2 == 0) ∧ bitsOf x 91 80 = q.tenant ∧ bitsOf x 95 92 = 0 ∧
        ∀ i, i < 20 → field x (12 + i) 1 = (results.getD i 0).toNat) ∧
  (
    ∀ (size p : Nat) (rec : List Slot), 16 ≤ size → 1 ≤ rec.length → rec.length ≤ 16 →
      let left := size - p % size
      (rec.length ≤ left → (placeRecord size p rec).length = rec.length) ∧
      (left < rec.length → (placeRecord size p rec).length = left + rec.length ∧
        ∀ x, (placeRecord size p rec)[0]? = some x →
          field x 0 2 = 0 ∧ field x 2 2 = 0 ∧ bitsOf x 95 92 = left - 1))

/-! ## The coherent link -/

namespace Sys2Proof.Machine

/-- The next state differs from `s` in the coherent link, its transmitters and the messages sent alone. -/
def OnlyLink (s t : State) : Prop := { t with link := s.link, sent := s.sent, layers := s.layers } = s

/-- Bit `i` of a lane mask is set for every lane of [a, a + n). -/
def Works {w : Nat} (m : BitVec w) (a n : Nat) : Prop := ∀ i, i < n → m.getLsbD (a + i) = true

end Sys2Proof.Machine

/-- SNP_INV is always answered with INV_ACK, and nothing but the link changes, and that a snoop of a watched line
wakes the module from Sleep (R497). A watched line whose read is
outstanding becomes stale and no new read goes out; a shared copy of a watched line is given up and read
again with one RD_SHARED for each of its uses; any other line gives the answer alone (R384 to R386). The
answers of the companion: DATA ends the read it answers and its line stands in companion memory as read
(a stale record line aside, the use goes on: a producer index is taken, a consumer index frees space, a
record is taken in index order); WR_ACK ends a write and releases what waited for it; ERR ends the request, a
record line of which is read anew, and raises the coherent link error fault; an answer to no request is a break
of the protocol and raises the coherent link protocol fault (R383, R386 to R388). After an answer what the link
controller's limits held back may leave (R389). These are the model's choices: that a line of a command's source
is followed by the read of the next, one line at a time, and that ERR drops the source reads that would follow it
(log entry 119). -/
def Obligations.CompanionMessages : Prop :=
  (
    ∀ (s : State) (tag : U16) (addr : U64),
      let off := (addr - s.link.t2Base).toNat
      let u := if off ∈ s.link.shared ∨ s.watchUses off ≠ [] then s.wake else s
      ∃ t, exec (.snpInv tag addr) s = .next t ∧ OnlyLink u t ∧ Sent.invAck tag addr ∈ t.sent ∧
        (off ∉ s.link.shared → s.watchUses off = [] → (∀ x ∈ s.link.reads, x.addr ≠ off) →
          t = s.send (.invAck tag addr)) ∧
        (∀ x ∈ s.link.reads, x.addr = off → (∀ n i, x.use ≠ .record n i) → x.use ≠ .source → x.use ≠ .dropped →
          t.sent = .invAck tag addr :: s.sent ∧ { x with stale := true } ∈ t.link.reads) ∧
        (off ∈ s.link.shared → (∀ x ∈ s.link.reads, x.addr ≠ off) → off ∉ t.link.shared ∧
          (s.traffic = true → t.link.reads.length = s.link.reads.length + (s.watchUses off).length))) ∧
  (
    (∀ (s : State) (tag : U16) (line : Line), (∀ x ∈ s.link.reads, x.tag ≠ tag) →
      exec (.data tag line) s = .next ((s.raiseFault srcClProto).pumpLink 0)) ∧
    (∀ (s : State) (tag : U16) (line : Line) (x : ReadOut),
      s.link.reads.find? (fun x => x.tag == tag) = some x →
        let v := { s.modLink (fun l => { l with reads := l.reads.filter (fun y => y.tag != tag) }) with
          t2 := writeBytes s.t2 x.addr (lineBytes line 64) }
        (∀ n, x.use = .producer n → exec (.data tag line) s =
          .next (((v.keepWatched x (s.cmdRing n).enabled).takeProducer n (line.extractLsb' 0 32)).pumpLink 0)) ∧
        (∀ c, x.use = .consumer c → exec (.data tag line) s = .next
          (((v.keepWatched x (s.cqRing c).enabled).takeConsumer c (line.extractLsb' 0 32)).injectDue.pumpLink 0)) ∧
        (x.use = .source → exec (.data tag line) s = .next (v.readSource.pumpLink 0)) ∧
        (x.use = .dropped → exec (.data tag line) s = .next ((v.keepWatched x
          (v.link.shared.contains x.addr || v.link.reads.any (fun y => y.addr == x.addr))).pumpLink 0)) ∧
        (∀ n i, x.use = .record n i → x.stale = true → exec (.data tag line) s = .next (v.pumpLink 0)) ∧
        (∀ n i, x.use = .record n i → x.stale = false → exec (.data tag line) s =
          .next (((v.modCmd n (fun r => { r with arrived := r.arrived ++ [(i, line)] })).serveRing n).pumpLink 0))) ∧
    (∀ (s : State) (tag : U16), tag ∈ s.link.writes → exec (.wrAck tag) s =
      .next ((((s.modLink (fun l => { l with
        writes := l.writes.filter (· != tag), slotWrites := l.slotWrites.filter (· != tag),
        undo := l.undo.filter (fun e => e.1 != tag),
        deferred := l.deferred.map (fun d => { d with needs := d.needs.filter (· != tag) }) })).pumpLink 0
        ).releaseAll).injectDue)) ∧
    (∀ (s : State) (tag : U16), tag ∉ s.link.writes → exec (.wrAck tag) s = .next (s.raiseFault srcClProto)) ∧
    (∀ (s : State) (tag : U16), tag ∈ s.link.writes ∨ (∃ x ∈ s.link.reads, x.tag = tag) → exec (.err tag) s =
      let u := (s.refetchRings (fun n => s.recordRing tag == some n)).modLink (fun l => { l with
        writes := l.writes.filter (· != tag), slotWrites := l.slotWrites.filter (· != tag),
        undo := l.undo.filter (fun e => e.1 != tag),
        reads := l.reads.filter (fun x => x.tag != tag), sources := [],
        deferred := l.deferred.map (fun d => { d with needs := d.needs.filter (· != tag) }) })
      .next ((List.range 64).foldl (fun t n => if s.recordRing tag == some n then t.serveRing n else t)
        ((u.raiseFault srcClErr).pumpLink 0).releaseAll.injectDue)) ∧
    (∀ (s : State) (tag : U16), tag ∉ s.link.writes → (∀ x ∈ s.link.reads, x.tag ≠ tag) →
      exec (.err tag) s = .next (s.raiseFault srcClProto)))

/-- The producer line of a completion ring waits for the slot lines it covers: after a post is written, the
ring's last deferred write is its producer line at the new index, and it needs the acknowledgement of
every write the post issued and of every slot line that an earlier waiting producer line of the ring
needs (R18, R387). -/
def Obligations.ProducerWaitsForSlots : Prop :=
  ∀ (s : State) (p : Post), p.cq < 64 →
    let t := s.writePost p
    ∃ d, t.link.deferred.getLast? = some d ∧
      d.write = .producer p.cq (t.cqRing p.cq).producer ∧
      (∀ tag, tag ∈ t.link.writes → tag ∉ s.link.writes → tag ∈ d.needs) ∧
      (∀ e ∈ s.link.deferred, ∀ i, e.write = .producer p.cq i → ∀ tag ∈ e.needs, tag ∈ d.needs)

/-- The dictionary window: WIN_RD of a slot answers its request line in the first half and its response line
in the second, and zeros outside the 32 slots; a response that is read shows its request complete. WIN_WR
wakes the module, answers WIN_DONE, keeps the line that a request line of a slot brings, and carries the
request out while route 0 is served and the slot's previous request is complete; while it may still be in
progress (log entry 120: the model's choice), a free value says whether the request is ignored and counted
in `win_overruns`. A line that is no request line changes no slot (R392 to R394, R457). -/
def Obligations.WindowMessages : Prop :=
  (∀ (s : State) (tag : U16) (slot : Nat) (h : slot < 32),
    exec (.winRd tag (128 * slot)) s = .next (s.send (.winData tag (s.link.slots[slot]).request)) ∧
    exec (.winRd tag (128 * slot + 64)) s = .next ((s.send (.winData tag (s.link.slots[slot]).response)).modLink
      (fun l => { l with slots := l.slots.set slot { s.link.slots[slot] with unread := false } h }))) ∧
  (∀ (s : State) (tag : U16) (off : Nat), 4096 ≤ off → exec (.winRd tag off) s = .next (s.send (.winData tag 0))) ∧
  (∀ (s : State) (tag : U16) (slot : Nat) (l : Line) (h : slot < 32),
    let v := (s.wake.send (.winDone tag)).putSlotLine slot (fun x => { x with request := l })
    (v.serves 0 = false → exec (.winWr tag (128 * slot) l) s = .next v) ∧
    (v.serves 0 = true → (v.link.slots[slot]).unread = false →
      exec (.winWr tag (128 * slot) l) s = .next (v.runSlot slot l)) ∧
    (v.serves 0 = true → (v.link.slots[slot]).unread = true → exec (.winWr tag (128 * slot) l) s = .next (
      if v.free 0 % 2 = 1 then (v.drew 1).modLink (fun k => { k with winOverruns := k.winOverruns + 1 })
      else (v.drew 1).runSlot slot l))) ∧
  (∀ (s : State) (tag : U16) (off : Nat) (l : Line), 4096 ≤ off ∨ off % 128 ≠ 0 →
    exec (.winWr tag off l) s = .next (s.wake.send (.winDone tag)))

/-- The width of R381 for the coherent link: 16 lanes when all work; 8 on the lower half, or else on the
upper; else 4 on a group of four that works; the lanes chosen all work, the width is at most the most
allowed (4 at least), and there is none only when no group of four works. -/
def Obligations.LaneWidths : Prop :=
  ∀ (most : Nat) (m : U16) (w : Nat) (mask : U16),
    (16 ≤ most → Works m 0 16 → cohLanes most m = some (16, 0xFFFF)) ∧
    (8 ≤ most → ¬ (16 ≤ most ∧ Works m 0 16) → Works m 0 8 → cohLanes most m = some (8, 0x00FF)) ∧
    (8 ≤ most → ¬ Works m 0 8 → Works m 8 8 → cohLanes most m = some (8, 0xFF00)) ∧
    (cohLanes most m = some (w, mask) → (w = 16 ∨ w = 8 ∨ w = 4) ∧ (4 ≤ most → w ≤ most) ∧ mask &&& m = mask) ∧
    (cohLanes most m = none → ∀ g, g < 4 → ¬ Works m (4 * g) 4)

/-- LINK_TRAINED sends the module's advertisement; with working lanes and the advertisements of R390 it brings the
link up at the width of R381 with the base, size and credits advertised; without either the link is down.
COHERENT_LINK_LOST takes the link down, abandons every outstanding request, whose records are read anew, and raises
the link lost fault; LINK_TRAINING_RETRY starts training a link that is down; WATCH_POLL reads every watched line
again; a lane in use that fails leaves the link at the width that still works, from which traffic resumes after the
last acknowledged flit, or loses it (R381, R385, R390, R391). A link that is down or does not come up leaves the
base set of R31 absent, which `sys` tells. -/
def Obligations.LinkStates : Prop :=
  (∀ (s : State) (base size : U64) (lanes : U16) (rm rc sm wm wc : Nat) (w : Nat) (m : U16),
    s.linksRun = true → cohLanes s.link.maxWidth lanes = some (w, m) → size ≠ 0 → size.toNat % 65536 = 0 →
    256 ≤ rm → 256 ≤ rc → 128 ≤ sm → 32 ≤ wm → 32 ≤ wc →
      let u := ((s.send (.cohAdvertise s.ident.serial 8192 8192 128 32 32 4096)).modLink (fun l => { l with
        state := 2, failed := false, width := w, lanesOk := m, maxWidth := w, reqCredits := rm, t2Base := base,
        t2Size := size.toNat })).resetLayer 0
      let v := { u with layers := vMod u.layers 0 (fun y => { y with
        msgCredits := #v[rm, 0, 0, sm, 0, wm, 0, 0], cellCredits := #v[rc, 0, 0, 0, 0, wc, 0, 0],
        msgTop := #v[rm, 0, 0, sm, 0, wm, 0, 0], cellTop := #v[rc, 0, 0, 0, 0, wc, 0, 0] }) }
      exec (.linkTrained base size lanes rm rc sm wm wc) s =
        .next (((List.range 64).foldl (fun s c => s.ownIndex c) v).resumeTraffic)) ∧
  (∀ (s : State) (base size : U64) (lanes : U16) (rm rc sm wm wc : Nat), s.linksRun = true →
    cohLanes s.link.maxWidth lanes = none ∨ size = 0 ∨ size.toNat % 65536 ≠ 0 ∨ rm < 256 ∨ rc < 256 ∨ sm < 128 ∨
      wm < 32 ∨ wc < 32 →
      exec (.linkTrained base size lanes rm rc sm wm wc) s =
        .next ((s.send (.cohAdvertise s.ident.serial 8192 8192 128 32 32 4096)).modLink (fun l => { l with
          state := 0, failed := true, width := 0, lanesOk := 0 })).refreshSys) ∧
  (∀ s : State, exec .coherentLinkLost s = .next
    ((((s.unsettle.refetchRings (fun _ => true)).modLink (fun l => { l with
      state := 0, failed := true, width := 0, lanesOk := 0 })).refreshSys.modLink (fun l => { l with
        reads := [], writes := [], slotWrites := [], undo := [], shared := [], sources := [],
        deferred := l.deferred.map (fun d => { d with needs := [] }) })).raiseFault srcClLost)) ∧
  (∀ s : State, s.link.state = 0 → s.linksRun = true →
    exec .linkTrainingRetry s = .next (s.modLink (fun l => { l with state := 1 }))) ∧
  (∀ s : State, s.setting 0x1110 5 ≠ 0 → s.traffic = true →
    exec .watchPoll s = .next (s.rewatch (fun _ => true))) ∧
  (∀ (s : State) (working : U16) (w : Nat) (m : U16), s.link.state = 2 →
    s.link.lanesOk &&& working ≠ s.link.lanesOk → cohLanes s.link.maxWidth working = some (w, m) →
      exec (.laneFailure 0 working) s = .next (((s.modLink (fun l => { l with
        width := w, lanesOk := m, maxWidth := w, retrains := l.retrains + 1 })).resendFlits 0).setLinkCause 0)) ∧
  (∀ (s : State) (working : U16), s.link.state = 2 → s.link.lanesOk &&& working ≠ s.link.lanesOk →
    cohLanes s.link.maxWidth working = none → exec (.laneFailure 0 working) s = exec .coherentLinkLost s)

/-- A flit on a peer port that is damaged, or ahead of the next in order, is discarded and answered with a
`nak`; one already delivered is discarded in silence; the next in order is delivered: the receiver's `seq` moves
on by one, its cells are counted, its acknowledgement reaches the transmitter, a cell of a channel that the port
may not carry raises the peer link fault, and after 32 flits without one an acknowledgement of it goes out, as one
of the last in order does when the interval ends (R380, R395, R398); on the coherent link the codeword's
corrections and failures are counted. Which flits count as good is R379's codeword and CRC. -/
def Obligations.FlitsInOrder : Prop :=
  (∀ (s : State) (p : Nat) (f : Flit), p < 8 →
    let y := vGet s.layers (1 + p) FlitLayer.reset
    let ahead := (flitSeq f - y.rxSeq).toNat
    (flitGood f = false ∨ (1 < ahead ∧ ahead < 2048) → ∃ t, exec (.flit (1 + p) f) s = .next t ∧
      t.sent = .flitAck (1 + p) y.rxSeq true y.owing y.owingN :: s.sent ∧ (vGet t.layers (1 + p) FlitLayer.reset).rxSeq = y.rxSeq ∧
      t.ports = s.ports) ∧
    (flitGood f = true → ahead = 0 ∨ 2048 ≤ ahead → exec (.flit (1 + p) f) s = .next s) ∧
    (flitGood f = true → ahead = 1 → ∃ t, exec (.flit (1 + p) f) s = .next t ∧
      (vGet t.layers (1 + p) FlitLayer.reset).rxSeq = y.rxSeq + 1 ∧
      (vGet t.layers (1 + p) FlitLayer.reset).lastAck = flitAckNo f ∧
      (t.port p).rxBytes = (s.port p).rxBytes + BitVec.ofNat 64 (64 * fullCells f) ∧
      (31 ≤ y.sinceAck → (vGet t.layers (1 + p) FlitLayer.reset).sinceAck = 0 ∧
        ∃ ch n, t.sent.head? = some (.flitAck (1 + p) (y.rxSeq + 1) false ch n)) ∧
      (y.sinceAck < 31 → (vGet t.layers (1 + p) FlitLayer.reset).sinceAck = y.sinceAck + 1) ∧
      ((∀ c, c < 4 → cellKind (flitCell f c) ≠ 0 →
          cellChannel (flitCell f c) ∈ peerChannels p (s.port p).state) → t.faults = s.faults) ∧
      ((∃ c, c < 4 ∧ cellKind (flitCell f c) ≠ 0 ∧
          cellChannel (flitCell f c) ∉ peerChannels p (s.port p).state) →
        t.faults.sticky.getLsbD srcPeer = true))) ∧
  (∀ (s : State) (link : Nat),
    ((vGet s.layers link FlitLayer.reset).sinceAck = 0 → exec (.acknowledgeInterval link) s = .next s) ∧
    ((vGet s.layers link FlitLayer.reset).sinceAck ≠ 0 → exec (.acknowledgeInterval link) s =
      let y := vGet s.layers link FlitLayer.reset
      .next (({ s with layers := vMod s.layers link (fun y => { y.repaid with sinceAck := 0 }) }).send
        (.flitAck link y.rxSeq false y.owing y.owingN)))) ∧
  (∀ (s : State) (f : Flit), ∃ t, exec (.flit 0 f) s = .next t ∧
    (s.faulted = true → t.link.fecCorrected = s.link.fecCorrected + BitVec.ofNat 64 f.fecFixed ∧
      t.link.fecUncorr = if f.fecGood then s.link.fecUncorr else s.link.fecUncorr + 1))

/-! ## Serving steps, boundaries and timers -/

/-- STEP_OPEN opens the next serving step when none is open, a job is loaded, the module is neither in the
fault state nor in Hold or Sleep, no output record waits for its ring and no table boundary waits to close; the
step takes the next number, at most `batch_max` sequences decode in it, its epoch is still to open, and lookups
read the tables as they stand. Otherwise nothing happens (R18, R133, R134, R220, R259). STEP_END does nothing until
the step's epoch has opened and every ATTEND has retired; it then ends the step; work that was due and was
not written is a fault of the core that owed it. These are the model's choices (log entry 56, DEDUCED): that
STEP_OPEN opens a step even when nothing is to do, and that STEP_END waits until every program has ended. -/
def Obligations.ServingSteps : Prop :=
  (∀ s : State, s.step = none → s.job.state ≠ 0 → s.faulted = false → s.power.pstate < 2 → s.outputHeld = false →
    s.sheaf.due = false →
    ∃ (t : State) (o : OpenStep), exec .stepOpen s = .next t ∧ t.step = some o ∧ o.number = s.job.steps + 1 ∧
      t.job.steps = s.job.steps + 1 ∧ o.epoch = none ∧ o.decode.length ≤ s.setting 0x5000 3 ∧
      t.power.pstate = 0 ∧ t.sheaf.view = some s.sheaf.tables) ∧
  (∀ s : State, s.step ≠ none ∨ s.job.state = 0 ∨ s.faulted = true ∨ 2 ≤ s.power.pstate ∨ s.outputHeld = true ∨
      s.sheaf.due = true →
    exec .stepOpen s = .next s) ∧
  (∀ (s : State) (o : OpenStep), s.step = some o → o.epoch = none ∨ s.walksRetired = false →
    exec .stepEnd s = .next s) ∧
  (∀ (s : State) (o : OpenStep), s.step = some o → o.epoch ≠ none → s.walksRetired = true → s.power.pstate < 2 →
    s.faulted = false →
    ((∀ w ∈ o.works, s.written o.eosEmpty w = true) → exec .stepEnd s = .next (s.endStep o)) ∧
    (∀ before w after, o.works = before ++ w :: after → (∀ x ∈ before, s.written o.eosEmpty x = true) →
      s.written o.eosEmpty w = false →
      exec .stepEnd s = .next (s.raiseFault (srcCore (s.coreOf (s.coreOfVersion w.session))))))

/-- EPOCH_OPEN opens epoch E = epoch + 1 for the open step only when (E − U) mod 2^32 < 2^30 for every epoch U
with an unretired walk and the quarantine holds fewer than 4,194,304 bales; otherwise the wait is counted in
`epoch_stalls` or `quar_stalls`, once for each opening that it delays, and nothing else changes (R234, R236). -/
def Obligations.EpochOpens : Prop :=
  ∀ (s : State) (o : OpenStep), s.step = some o → o.epoch = none → s.faulted = false → s.power.pstate < 2 →
    ((∃ u ∈ s.epochs.walks, 2 ^ 30 ≤ (s.epochs.epoch + 1 - u).toNat) → exec .epochOpen s = .next { s with
      step := some { o with spanWait := true },
      epochs := { s.epochs with
        epochStalls := if o.spanWait = true then s.epochs.epochStalls else s.epochs.epochStalls + 1 } }) ∧
    ((∀ u ∈ s.epochs.walks, (s.epochs.epoch + 1 - u).toNat < 2 ^ 30) → 4194304 ≤ s.quarantined →
      exec .epochOpen s = .next { s with
        step := some { o with quarWait := true },
        epochs := { s.epochs with
          quarStalls := if o.quarWait = true then s.epochs.quarStalls else s.epochs.quarStalls + 1 } }) ∧
    ((∀ u ∈ s.epochs.walks, (s.epochs.epoch + 1 - u).toNat < 2 ^ 30) → s.quarantined < 4194304 →
      ∃ (t : State) (o' : OpenStep), exec .epochOpen s = .next t ∧ t.epochs.epoch = s.epochs.epoch + 1 ∧
        t.step = some o' ∧ o'.epoch = some (s.epochs.epoch + 1) ∧ o'.number = o.number ∧ t.cores.handoffs = [])

/-- QUIET_US_EXPIRY makes a table boundary fall due, and TABLE_BOUNDARY closes the one that is due, or a new
one; with no job or in the fault state neither does anything. In Hold the boundary only waits: `tstep`,
the tables and the open batch stay (R133, R135). Where a table is mirrored, the boundary that falls due
freezes the open batch and arrives at barrier 63; else TABLE_BOUNDARY advances `tstep` by one at once, as
long as the batch touches no row that was flipped since the open step's lookups started; the boundary of a step that
ended while one was due follows it. These are the model's choices: that neither command does anything with no job
or in the fault state (log entry 37, DEDUCED), and that a boundary over mirrored tables freezes the batch and
arrives at barrier 63, only waiting in Hold (log entry 36, DEDUCED). SEAL_COMPLETE ends
the seal in progress of a session when its objects are written and the twin owes no receipt, and does
nothing before, nor in Hold (R495): the seal of an automatic interval or of SEAL becomes the session's latest, the next seal
takes the next number, and the seal and its bales are counted. AUTOMATIC_SEAL asks for a seal, without a
completion, of a resident session that has changed, has none waiting and whose area has an interval (R304,
R305, R307). -/
def Obligations.BoundariesAndSeals : Prop :=
  (
    (∀ s : State, s.job.state = 0 ∨ s.faulted = true →
      exec .tableBoundary s = .next s ∧ exec .quietUsExpiry s = .next s) ∧
    (∀ s : State, s.job.state ≠ 0 → s.faulted = false →
      exec .quietUsExpiry s = .next s.boundaryDue ∧
      (s.mirrored = false ∨ 2 ≤ s.power.pstate →
        exec .quietUsExpiry s = .next (s.modSheaf (fun x => { x with due := true })))) ∧
    (∀ s : State, s.job.state ≠ 0 → s.faulted = false → s.power.pstate < 2 → s.mirrored = true →
      s.sheaf.closing = none → s.job.rank ∉ (s.barrierAt 63).ranks →
      (∀ g, (s.barrierAt 63).group = some g → g = (0, List.range s.job.ranks)) →
        ∃ t, exec .quietUsExpiry s = .next t ∧ t.sheaf.due = true ∧
          t.sheaf.closing = some (s.sheaf.batches.headD Batch.empty) ∧ t.sheaf.batches = s.sheaf.batches.tail ∧
          t.sheaf.tables = s.sheaf.tables ∧ t.sheaf.tstep = s.sheaf.tstep ∧
          s.job.rank ∈ (t.barrierAt 63).ranks ∧ t.faults = s.faults) ∧
    (∀ s : State, s.job.state ≠ 0 → s.job.state ≠ 3 → s.faulted = false →
      (2 ≤ s.power.pstate → exec .tableBoundary s = .next (s.modSheaf (fun x => { x with due := true }))) ∧
      (s.sheaf.due = true → s.boundaryReady = true → s.sheaf.again = false → exec .tableBoundary s =
        .next (s.flip.snapshots.startWaiters.finishDrained)) ∧
      (s.sheaf.due = true → s.boundaryReady = true → s.sheaf.again = true → exec .tableBoundary s =
        .next (let t := s.flip.snapshots.startWaiters
          (if t.sheaf.due = false then ((t.modSheaf (fun x => { x with again := false })).boundaryDue).closeOne
            else t).finishDrained)) ∧
      (s.sheaf.due = true → s.boundaryReady = false →
        2 ≤ s.power.pstate ∨ s.mirrored = false ∨ s.sheaf.closing ≠ none → exec .tableBoundary s = .next s) ∧
      (s.sheaf.due = false → exec .tableBoundary s = .next s.boundaryDue.closeDue.finishDrained)) ∧
    (∀ s : State, s.job.state ≠ 0 → s.job.state ≠ 3 → s.faulted = false → s.power.pstate < 2 →
      s.mirrored = false → s.sheaf.closing = none → s.rowsHeld = false → s.sheaf.again = false →
      (∀ x ∈ s.granary.directory, x.sealing = [] ∧ x.after = []) →
        ∃ t, exec .tableBoundary s = .next t ∧ t.sheaf.tstep = s.sheaf.tstep + 1 ∧ t.sheaf.due = false ∧
          t.sheaf.closing = none ∧ t.sheaf.batches = s.sheaf.batches.tail ∧ t.granary = s.granary)) ∧
  (
    (∀ (s : State) (h : U64), s.faulted = true →
      exec (.sealComplete h) s = .next s ∧ exec (.automaticSeal h) s = .next s) ∧
    (∀ (s : State) (h : U64), 2 ≤ s.power.pstate → exec (.sealComplete h) s = .next s) ∧
    (∀ (s : State) (h : U64) (x : Session) (q : Sealing) (rest : List Sealing), s.faulted = false →
      s.power.pstate < 2 → s.session? h = some x → x.sealing = q :: rest →
        (s.sealDone q = true → exec (.sealComplete h) s = .next (((s.endSeal h).startAfter h).finishDrained)) ∧
        (s.sealDone q = false → s.job.state ≠ 3 → exec (.sealComplete h) s = .next s)) ∧
    (∀ (s : State) (h : U64) (x : Session) (q : Sealing) (rest : List Sealing) (i : SealInfo), s.faulted = false →
      s.power.pstate < 2 → s.job.state ≠ 3 → s.session? h = some x → x.state ≠ 0 → x.state ≠ 7 → x.after = [] →
      x.sealing = q :: rest → q.ended = false →
      q.cause = .automatic ∨ (∃ id full, q.cause = .seal id full) → q.taken = some i → q.sent = false →
      q.awaits = [] → (∀ tag ∈ q.writes, tag ∉ s.link.writes) →
        ∃ t, exec (.sealComplete h) s = .next t ∧
          t.session? h = some { x with
            latest := some { i with mirrored := q.mirror }, nextSeal := i.number + 1, sealing := rest } ∧
          (∀ h', h' ≠ h → t.session? h' = s.session? h') ∧ t.granary.seals = s.granary.seals + 1 ∧
          t.granary.sealBales = s.granary.sealBales + BitVec.ofNat 64 q.written ∧
          t.epochs.walks = s.epochs.walks.erase q.epoch ∧
          (q.cause = .automatic → t.sent = s.sent ∧ t.running = s.running)) ∧
    (∀ (s : State) (h : U64) (x : Session), s.faulted = false → s.session? h = some x → x.resident = true →
      x.changed = true → x.sealing = [] → (s.area (handleTenant h)).sealMs ≠ 0 →
        ∃ t, exec (.automaticSeal h) s = .next t ∧
          t.session? h = some { x with sealing := [Sealing.new .automatic] } ∧
          (∀ h', h' ≠ h → t.session? h' = s.session? h') ∧ { t with granary := s.granary } = s) ∧
    (∀ (s : State) (h : U64) (x : Session), s.faulted = false → s.session? h = some x →
      x.resident = false ∨ x.changed = false ∨ x.sealing ≠ [] ∨ (s.area (handleTenant h)).sealMs = 0 →
        exec (.automaticSeal h) s = .next s))

/-- SLOW_WINDOW_END, once the window holds `slow_window` steps: every tenant's `slowdown` becomes the window's
ratio in 1/1,024 and the sums start at 0; the serving cause of exactly the tenants whose figure exceeds a
non-zero `slow_alert` is raised, and nothing else changes. Before that many steps it does nothing (R277). -/
def Obligations.SlowdownWindow : Prop :=
  (∀ s : State, s.job.state ≠ 0 → s.faulted = false → s.job.slowWindow ≤ s.job.slowSteps →
    ∃ t, exec .slowWindowEnd s = .next t ∧
      t.tenants = s.tenants.map (fun (x : Tenant) => { x with
        counts := { x.counts with slowdown := x.window, slowMax := max x.counts.slowMax x.window },
        slowActual := 0, slowModelled := 0 }) ∧
      (∀ n, n < 4096 → (t.causes.slow.getLsbD n = true ↔ s.causes.slow.getLsbD n = true ∨
        ∃ x ∈ s.tenants, x.number = n ∧ x.slowAlert ≠ 0 ∧ x.slowAlert < x.window)) ∧
      t.job = { s.job with slowSteps := 0 } ∧
      { t with tenants := s.tenants, causes := s.causes, job := s.job } = s ∧
      { t.causes with slow := s.causes.slow } = s.causes) ∧
  (∀ s : State, s.job.state = 0 ∨ s.faulted = true ∨ s.job.slowSteps < s.job.slowWindow →
    exec .slowWindowEnd s = .next s)

/-- QUARANTINE_RELEASE frees exactly the bales that left in an epoch up to the given one of which no walk that
old is unretired (R235); TALLY_TIMEOUT takes the wait of the named record out of the tally's queue, which
keeps its value, and completes the record with TALLY_TIMEOUT (R408). A program's access to a window's bale
fills it when no frame holds it, marks it used and, on a write, dirty, and counts one fill at most; a write
leaves its byte in the window's host memory, in a bale that misses over the bytes of the fill; a fill that finds
every frame taken first evicts the least recently used bale, which is written back to its place in T2, no other byte
of T2 changing, and counted, when it is dirty (R336 to R343). -/
def Obligations.ReleasesAndTimeouts : Prop :=
  (∀ (s : State) (e : U32), ∃ t, exec (.quarantineRelease e) s = .next t ∧
    { t with epochs := { t.epochs with quarantine := s.epochs.quarantine } } = s ∧
    ∀ q, q ∈ t.epochs.quarantine ↔ q ∈ s.epochs.quarantine ∧
      ¬ ((e - q.epoch).toNat < 2 ^ 31 ∧ ∀ w ∈ s.epochs.walks, ¬ (q.epoch - w).toNat < 2 ^ 31)) ∧
  (∀ (s : State) (n ring : Nat) (seq : U32) (id ms : Nat) (before after : List Waiter),
    (s.tally n).waiters = before ++ .record id ms :: after → (∀ w ∈ before, s.timesOut ring seq w = false) →
    ms ≠ 0 →
    (s.running? id).any (fun r => r.record.ring == ring && r.record.seq == seq) = true →
      exec (.tallyTimeout n ring seq) s = .next ((s.putTally { s.tally n with waiters := before ++ after }).completeId
        id stTallyTimeout [])) ∧
  (∀ (s : State) (n ring : Nat) (seq : U32), (∀ w ∈ (s.tally n).waiters, s.timesOut ring seq w = false) →
    exec (.tallyTimeout n ring seq) s = .next s) ∧
  (∀ (s : State) (n b : Nat) (w : Window) (write : Option (Nat × Byte)), s.window? n = some w →
    s.faulted = true ∨ w.bales ≤ b → exec (.windowFill n b write) s = .next s) ∧
  (∀ (s : State) (n b : Nat) (w : Window) (h : HeldBale), s.window? n = some w → s.faulted = false → b < w.bales →
    h ∈ w.held → h.bale = b → ∃ t, exec (.windowFill n b none) s = .next t ∧
      t.window? n = some { w with
        clock := w.clock + 1,
        held := w.held.map (fun (x : HeldBale) => if x.bale = b then { x with used := w.clock + 1 } else x) } ∧
      t.tiers.fills = s.tiers.fills ∧ t.tiers.host = s.tiers.host ∧ t.t2 = s.t2) ∧
  (∀ (s : State) (n b : Nat) (w : Window), s.window? n = some w → s.faulted = false → b < w.bales →
    (∀ x ∈ w.held, x.bale ≠ b) → w.held.length < w.frames → ∃ (t : State) (w' : Window), exec (.windowFill n b none) s = .next t ∧
      t.tiers.fills = s.tiers.fills + 1 ∧ t.window? n = some w' ∧
      w'.held = w.held ++ [HeldBale.mk b false (w.clock + 1)] ∧ t.t2 = s.t2) ∧
  (∀ (s : State) (n b o : Nat) (v : Byte) (w : Window) (h : HeldBale), s.window? n = some w → s.faulted = false →
    b < w.bales → h ∈ w.held → h.bale = b → ∃ t, exec (.windowFill n b (some (o, v))) s = .next t ∧
      t.window? n = some { w with
        clock := w.clock + 1,
        held := w.held.map (fun (x : HeldBale) =>
          if x.bale = b then { x with used := w.clock + 1, dirty := true } else x) } ∧
      t.hostMem w.tenant = writeBytes (s.hostMem w.tenant) (w.va + 65536 * b + o % 65536) [v] ∧
      (∀ y, y ≠ w.tenant → t.hostMem y = s.hostMem y) ∧ t.tiers.fills = s.tiers.fills ∧ t.t2 = s.t2) ∧
  (∀ (s : State) (n b o : Nat) (v : Byte) (w : Window), s.window? n = some w → s.faulted = false → b < w.bales →
    (∀ x ∈ w.held, x.bale ≠ b) → w.held.length < w.frames →
      ∃ (t : State) (w' : Window), exec (.windowFill n b (some (o, v))) s = .next t ∧
        t.tiers.fills = s.tiers.fills + 1 ∧ t.window? n = some w' ∧
        w'.held = w.held ++ [HeldBale.mk b true (w.clock + 1)] ∧ t.t2 = s.t2 ∧
        (∀ i, i < 65536 → memGet (t.hostMem w.tenant) (w.va + 65536 * b + i) =
          if i = o % 65536 then v else memGet s.t2 (w.t2 + 65536 * b + i)) ∧
        (∀ y, y ≠ w.tenant → t.hostMem y = s.hostMem y)) ∧
  (∀ (s : State) (n b : Nat) (write : Option (Nat × Byte)) (w : Window) (h : HeldBale), s.window? n = some w →
    s.faulted = false → b < w.bales →
    (∀ x ∈ w.held, x.bale ≠ b) → w.frames ≤ w.held.length → w.victim = some h →
      ∃ (t : State) (w' : Window), exec (.windowFill n b write) s = .next t ∧
        t.tiers.fills = s.tiers.fills + 1 ∧ t.window? n = some w' ∧
        w'.held.map (·.bale) = ((w.held.filter (fun x => x.bale != h.bale)).map (·.bale)) ++ [b] ∧
        t.tiers.writebacks = (if h.dirty = true then s.tiers.writebacks + 1 else s.tiers.writebacks) ∧
        (h.dirty = true → (∀ i, i < 65536 → memGet t.t2 (w.t2 + 65536 * h.bale + i) =
            memGet (s.hostMem w.tenant) (w.va + 65536 * h.bale + i)) ∧
          ∀ a, a < w.t2 + 65536 * h.bale ∨ w.t2 + 65536 * h.bale + 65536 ≤ a → memGet t.t2 a = memGet s.t2 a) ∧
        (h.dirty = false → t.t2 = s.t2))

/-! ## The dictionary -/

namespace Sys2Proof.Machine

/-- The value a write of `v` holds once reserved bits are ignored (R8). -/
def heldValue (index sub : Nat) (v : U64) : Nat :=
  match subInfo index sub with
  | some i => writtenValue index sub i.width v.toNat
  | none => v.toNat

/-- A write on a served route that wakes nothing and passes every check of Table 16-3. -/
def Allows (s : State) (route index sub : Nat) (v : U64) : Prop :=
  s.serves route = true ∧ s.power.pstate ≠ 3 ∧ s.writeStatus route index sub v.toNat = stOk

/-- State `w`, with the response to a write of (index, sub) sent: a status and the value now held, a free one
where the subindex holds none. -/
def Answered (w : State) (route index sub status : Nat) : State :=
  let a := w.answers status (w.held? route index sub) false
  a.state.send (.answer route status a.value)

/-- Rows that are one write of a subindex: the command of a route and value, the object and subindex, and the
value written. -/
def dictionaryRows (n k : Nat) : List ((Nat → U64 → Instr) × Nat × Nat × (U64 → U64)) :=
  [(fun r v => .dictionaryWrite r n k v, n, k, id), (fun r v => .commandRingEnable r n v, cmdObj n, 1, id),
    (fun r v => .completionRingEnable r n v, cqObj n, 1, id), (fun r v => .quote r v, 0x1020, 6, id),
    (fun r v => .keyImport r v, 0x3010, 4, id), (fun r v => .keyErase r v, 0x3010, 5, id),
    (fun r _ => .installMainFirmware r, 0x8100, 1, fun _ => 1),
    (fun r _ => .installPartitionFirmware r, 0x8100, 1, fun _ => 2),
    (fun r _ => .rotateIdentity r, 0x8100, 1, fun _ => 3), (fun r _ => .debugUnlock r, 0x8100, 1, fun _ => 4),
    (fun r _ => .factoryReset r, 0x8100, 1, fun _ => 5), (fun r v => .stageOff r v, 0x8110, 1, id),
    (fun r v => .stageData r v, 0x8110, 2, id), (fun r v => .stickyClear r k v, 0x7100, k, id),
    (fun r v => .causeClear r n k v, n, k, id), (fun r v => .sleep r v, 0x2000, 9, id),
    (fun r v => .softReset r v, 0x11C0, 3, id), (fun r v => .peerPortEnable r n v, 0x1120 + n, 1, id),
    (fun r v => .pairEn r v, 0x11C8, 1, id), (fun r v => .detachPair r v, 0x11C8, 5, id)]

end Sys2Proof.Machine

/-- A request that fails a check has no effect, and a refused write leaves the value unchanged: for every
row that is a dictionary write, a write on a served route that fails one of steps 2 to 6 of Table 16-3
answers the status of the first that fails with the value still held, and the state differs in that
answer alone (and, for a value that no rule gives, in the draw of the free value); a route that is not
served does nothing (R453, R457). Table 16-3 from step 2 on: the status of a write is that of the first
check it fails, in the table's order (R453). -/
def Obligations.DictionaryChecks : Prop :=
  (
    ∀ (n k : Nat), ∀ x ∈ dictionaryRows n k, ∀ (s : State) (route : Nat) (v : U64),
      (s.serves route = false → exec (x.1 route v) s = .next s) ∧
      (s.serves route = true → s.power.pstate ≠ 3 →
        s.writeStatus route x.2.1 x.2.2.1 (x.2.2.2 v).toNat ≠ stOk → ∃ t, exec (x.1 route v) s = .next t ∧
          t = Answered s route x.2.1 x.2.2.1 (s.writeStatus route x.2.1 x.2.2.1 (x.2.2.2 v).toNat) ∧
          { t with sent := s.sent, draws := s.draws } = s)) ∧
  (
    (∀ (s : State) (route index sub v : Nat),
      (subInfo index sub = none → s.writeStatus route index sub v = stNotSupported) ∧
      (∀ i, subInfo index sub = some i →
        let x := writtenValue index sub i.width v
        let recovery := s.startUp.stage == 0xFF && !s.recoveryServes index sub (v % 2 ^ i.width)
        (recovery = true → s.writeStatus route index sub v = stNotSupported) ∧
        (recovery = false → i.access = .ro ∨ i.access = .sp → s.writeStatus route index sub v = stDenied) ∧
        (recovery = false → i.access = .rwp → s.presence = false → s.writeStatus route index sub v = stPresence) ∧
        (recovery = false → i.access ≠ .ro → i.access ≠ .sp → i.access ≠ .rwp ∨ s.presence = true →
          (s.valueOk route index sub x = false → s.writeStatus route index sub v = stBadParam) ∧
          (s.valueOk route index sub x = true → s.stateOk route index sub x = false →
            s.writeStatus route index sub v = stWrongState) ∧
          (s.valueOk route index sub x = true → s.stateOk route index sub x = true →
            s.writeStatus route index sub v = stOk)))) ∧
    (∀ (s : State) (route op index sub v : Nat) (zeros : Bool),
      let a := s.request route op index sub v zeros
      (op ≠ 1 ∧ op ≠ 2 ∨ zeros = false → a.status = stBadParam ∧ { a.state with draws := s.draws } = s) ∧
      (op = 2 → zeros = false → ∀ x, s.held? route index sub = some x → a.value = BitVec.ofNat 64 x) ∧
      (op = 1 → zeros = true → (∀ x, s.held? route index sub = some x → a.status = stOk ∧ a.value = BitVec.ofNat 64 x) ∧
        (s.held? route index sub = none → a.status = stNotSupported) ∧ { a.state with draws := s.draws } = s) ∧
      (op = 2 → zeros = true → a.status = (s.dictWrite route index sub v).2 ∧
        (s.writeStatus route index sub v ≠ stOk → s.dictWrite route index sub v = (s, s.writeStatus route index sub v)) ∧
        ∀ x, (s.dictWrite route index sub v).1.held? route index sub = some x → a.value = BitVec.ofNat 64 x)))

/-- What each row does when its write is accepted; the response carries OK and the value now held. The effect
named is the object's own: rings are enabled and disabled, a quote is built, a trust operation starts, staged
bytes are stored, sticky and cause bits are cleared by ones, Sleep is entered, a port or pairing is switched,
and a soft reset follows its response. A safety limit is judged anew at once; any other subindex of the
module, of a tenant or of an index slot holds the value (R15, R434, R444, R445, R477, R482,
R496, R515, R517). That a quote is built and a debug unlock destroys the keys at the write, while the other trust
operations act at their end, is the model's choice (log entry 83, DEDUCED). -/
def Obligations.AcceptedWrites : Prop :=
  (∀ (s : State) (route n : Nat) (v : U64),
    (n < 64 → Allows s route (cmdObj n) 1 v → exec (.commandRingEnable route n v) s =
      .next (Answered (s.setCmdEnable n (heldValue (cmdObj n) 1 v)) route (cmdObj n) 1 stOk)) ∧
    (n < 64 → Allows s route (cqObj n) 1 v → exec (.completionRingEnable route n v) s =
      .next (Answered (s.setCqEnable n (heldValue (cqObj n) 1 v)) route (cqObj n) 1 stOk)) ∧
    (Allows s route 0x1020 6 v → exec (.quote route v) s = .next (Answered s.startQuote route 0x1020 6 stOk)) ∧
    (Allows s route 0x8100 1 1 → exec (.installMainFirmware route) s =
      .next (Answered ((s.putSub 0x8100 1 1).startOp 1) route 0x8100 1 stOk)) ∧
    (Allows s route 0x8100 1 2 → exec (.installPartitionFirmware route) s =
      .next (Answered ((s.putSub 0x8100 1 2).startOp 2) route 0x8100 1 stOk)) ∧
    (Allows s route 0x8100 1 3 → exec (.rotateIdentity route) s =
      .next (Answered ((s.putSub 0x8100 1 3).startOp 3) route 0x8100 1 stOk)) ∧
    (Allows s route 0x8100 1 4 → exec (.debugUnlock route) s =
      .next (Answered ((s.putSub 0x8100 1 4).startOp 4) route 0x8100 1 stOk)) ∧
    (Allows s route 0x8100 1 5 → exec (.factoryReset route) s =
      .next (Answered ((s.putSub 0x8100 1 5).startOp 5) route 0x8100 1 stOk)) ∧
    (Allows s route 0x8110 1 v → exec (.stageOff route v) s =
      .next (Answered (s.setStageOff (heldValue 0x8110 1 v)) route 0x8110 1 stOk)) ∧
    (Allows s route 0x8110 2 v → exec (.stageData route v) s =
      .next (Answered (s.stageWord v.toNat) route 0x8110 2 stOk)) ∧
    (Allows s route 0x7100 n v → exec (.stickyClear route n v) s =
      .next (Answered (s.clearStickyWord n (heldValue 0x7100 n v)) route 0x7100 n stOk)) ∧
    (∀ i, 0x7010 ≤ i → i ≤ 0x7014 → Allows s route i n v → exec (.causeClear route i n v) s =
      .next (Answered (s.clearCause i n (heldValue i n v)) route i n stOk)) ∧
    (Allows s route 0x2000 9 v → exec (.sleep route v) s = .next (Answered s.enterSleep route 0x2000 9 stOk)) ∧
    (Allows s route 0x11C0 3 v → exec (.softReset route v) s =
      .next (Answered s route 0x11C0 3 stOk).softReset) ∧
    (n < 8 → Allows s route (0x1120 + n) 1 v → exec (.peerPortEnable route n v) s =
      .next (Answered ((s.putSub (0x1120 + n) 1 (heldValue (0x1120 + n) 1 v)).setPortEnable n
        (heldValue (0x1120 + n) 1 v)) route (0x1120 + n) 1 stOk)) ∧
    (Allows s route 0x11C8 1 v → exec (.pairEn route v) s =
      .next (Answered ((s.putSub 0x11C8 1 (heldValue 0x11C8 1 v)).setPairEn (heldValue 0x11C8 1 v)) route
        0x11C8 1 stOk)) ∧
    (Allows s route 0x11C8 5 v → exec (.detachPair route v) s =
      .next (Answered s.detachNow route 0x11C8 5 stOk)) ∧
    (∀ i, Allows s route i n v → routeSub i n = true → exec (.dictionaryWrite route i n v) s =
      .next (Answered (s.putSelector route i n (heldValue i n v)) route i n stOk)) ∧
    (∀ i, Allows s route i n v → routeSub i n = false → tenantObject i = true → ¬ (i = 0x3010 ∧ (n = 4 ∨ n = 5)) →
      exec (.dictionaryWrite route i n v) s =
        .next (Answered (s.putTenant (s.selectedTenant route) i n (heldValue i n v)) route i n stOk)) ∧
    (∀ i, Allows s route i n v → routeSub i n = false → tenantObject i = false → objectKind i = 0x4010 →
      exec (.dictionaryWrite route i n v) s = .next (Answered
        (s.modSlot (objectNumber i) (fun x => x.put n (heldValue i n v))) route i n stOk)) ∧
    (∀ i, Allows s route i n v → routeSub i n = false → tenantObject i = false → objectKind i = 0x8010 →
      exec (.dictionaryWrite route i n v) s = .next (Answered
        ((s.putSub i n (heldValue i n v)).limitChanged n) route i n stOk)) ∧
    (∀ i, Allows s route i n v → routeSub i n = false → tenantObject i = false →
      objectKind i ∉ [0x4010, 0x7010, 0x7011, 0x7012, 0x7013, 0x7014, 0x7100, 0x8010] →
      (objectKind i, n) ∉ [(0x1020, 6), (0x1120, 1), (0x1140, 1), (0x1180, 1), (0x11C0, 3), (0x11C8, 1),
        (0x11C8, 5), (0x2000, 9), (0x8100, 1), (0x8110, 1), (0x8110, 2)] →
      exec (.dictionaryWrite route i n v) s =
        .next (Answered (s.putSub i n (heldValue i n v)) route i n stOk))) ∧
  (∀ (s : State) (route n : Nat),
    (n < 64 → Allows s route (cmdObj n) 1 0 → ∃ t, exec (.commandRingEnable route n 0) s = .next t ∧
      (t.cmdRing n).enabled = false ∧ t.setting (cmdObj n) 1 = 0) ∧
    (n < 64 → Allows s route (cmdObj n) 1 1 → s.setting (cmdObj n) 1 ≠ 1 →
      ∃ t, exec (.commandRingEnable route n 1) s = .next t ∧ (t.cmdRing n).enabled = true ∧
        t.setting (cmdObj n) 1 = 1) ∧
    (n < 64 → Allows s route (cqObj n) 1 0 → ∃ t, exec (.completionRingEnable route n 0) s = .next t ∧
      (t.cqRing n).enabled = false ∧ t.setting (cqObj n) 1 = 0) ∧
    (n < 64 → Allows s route (cqObj n) 1 1 → s.setting (cqObj n) 1 ≠ 1 →
      ∃ t, exec (.completionRingEnable route n 1) s = .next t ∧ (t.cqRing n).enabled = true ∧
        (t.cqRing n).producer = 0 ∧ (t.cqRing n).consumer = 0 ∧ t.setting (cqObj n) 1 = 1) ∧
    (Allows s route 0x1020 6 1 → ∃ t, exec (.quote route 1) s = .next t ∧ t.part.qstate = 1 ∧
      t.part.quoteDest = s.setting 0x1020 5) ∧
    (∀ x ∈ ([(.installMainFirmware route, 1), (.installPartitionFirmware route, 2), (.rotateIdentity route, 3),
        (.debugUnlock route, 4), (.factoryReset route, 5)] : List (Instr × Nat)),
      Allows s route 0x8100 1 (BitVec.ofNat 64 x.2) → ∃ t, exec x.1 s = .next t ∧ t.part.result = 1 ∧
        t.part.op = x.2 ∧ (x.2 = 4 → t.part.debug = true ∧ ∀ y ∈ t.tenants, y.key = none)) ∧
    (s.power.holdWhy = 0 → Allows s route 0x2000 9 1 → ∃ t, exec (.sleep route 1) s = .next t ∧
      t.power.pstate = 3) ∧
    (n < 8 → Allows s route (0x1120 + n) 1 0 → ∃ t, exec (.peerPortEnable route n 0) s = .next t ∧
      (t.port n).state = 4) ∧
    (Allows s route 0x11C8 5 1 → ∃ t, exec (.detachPair route 1) s = .next t ∧ t.pairing.state = 3))

/-- A write of `stage_data` stores its 8 bytes, little-endian, at `stage_off`, advances `stage_off` by 8 and
raises `staged` to it where it is lower; every other byte of the area stays. A write of 0 to `stage_off`
empties the area. A `stage_off` that is no multiple of 8 or lies beyond the area is refused with BAD_PARAM; a
write while `sp_state` is not 1, or below 62 V, with WRONG_STATE; and a refused write stores nothing
(R445). -/
def Obligations.StagingArea : Prop :=
  (∀ (s : State) (route : Nat) (v : U64), Allows s route 0x8110 2 v → ∃ t, exec (.stageData route v) s = .next t ∧
    (∀ i, i < 8 → memGet t.part.staging (s.part.stageOff + i) = v.extractLsb' (8 * i) 8) ∧
    (∀ a, a < s.part.stageOff ∨ s.part.stageOff + 8 ≤ a → memGet t.part.staging a = memGet s.part.staging a) ∧
    t.part.stageOff = s.part.stageOff + 8 ∧ t.part.staged = max s.part.staged (s.part.stageOff + 8) ∧
    { t with part := s.part, sent := s.sent, draws := s.draws } = s) ∧
  (∀ (s : State) (route : Nat), Allows s route 0x8110 1 0 → ∃ t, exec (.stageOff route 0) s = .next t ∧
    t.part.staging = [] ∧ t.part.staged = 0 ∧ t.part.stageOff = 0) ∧
  (∀ (s : State) (route : Nat) (v : U64), v.toNat < 2 ^ 32 → v.toNat % 8 ≠ 0 ∨ stageSize ≤ v.toNat →
    s.writeStatus route 0x8110 1 v.toNat = stBadParam) ∧
  (∀ (s : State) (route : Nat) (v : U64), s.part.spState ≠ 1 ∨ s.power.nvInhibit = true →
    (v.toNat < stageSize → v.toNat % 8 = 0 → s.writeStatus route 0x8110 1 v.toNat = stWrongState) ∧
    (s.part.stageOff < stageSize → s.writeStatus route 0x8110 2 v.toNat = stWrongState)) ∧
  (∀ (s : State) (route sub : Nat) (v : U64), s.serves route = true → s.power.pstate ≠ 3 →
    s.writeStatus route 0x8110 sub v.toNat ≠ stOk → ∃ t, exec (.dictionaryWrite route 0x8110 sub v) s = .next t ∧
      t.part = s.part)

/-- Tenant keys (R436 to R438): an import is DENIED while debug is unlocked or without the partition's firmware, BAD_PARAM for a blob that does not
unwrap or a key another tenant holds, WRONG_STATE while the tenant has an imported key or a session that is not
CLOSED, and otherwise leaves the imported key; an erase leaves a fresh key, a free value of the model. Both
answer their own status, and a refusal changes no tenant; a tenant that is not in the job, as with no job every one
is, answers DENIED. The order of an import's checks, and that its blob is read over the link line by line, are the
model's choices (log entries 83 and 119). -/
def Obligations.KeyWrites : Prop :=
  (∀ (s : State) (route : Nat) (v : U64), s.tenant? (s.selectedTenant route) = none →
    (Allows s route 0x3010 4 v → exec (.keyImport route v) s = .next (Answered s route 0x3010 4 stDenied)) ∧
    (Allows s route 0x3010 5 v → exec (.keyErase route v) s = .next (Answered s route 0x3010 5 stDenied))) ∧
  ∀ (s : State) (route : Nat) (v : U64) (x : Tenant), s.tenant? (s.selectedTenant route) = some x →
    (Allows s route 0x3010 4 v →
      let t := s.selectedTenant route
      let r := s.readSources [(x.keySrc.toNat, 1664)]
      exec (.keyImport route v) s = .next (Answered (s.importKey t).1 route 0x3010 4 (s.importKey t).2) ∧
      (s.part.debug = true ∨ s.part.spState = 1 → s.importKey t = (s, stDenied)) ∧
      (s.part.debug = false → s.part.spState ≠ 1 → s.t2Ok x.keySrc.toNat 1664 = true →
        s.inWindow x.keySrc.toNat 1664 = false → s.importKey t =
          match r.blobKey t (readBytes s.t2 x.keySrc.toNat 1664) with
          | none => (r, stBadParam)
          | some k =>
            if s.keyIdTaken t k then (r, stBadParam)
            else if x.key.any (·.imported) || s.keyBusy t then (r, stWrongState)
            else (r.modTenant t (fun y => { y with key := some ⟨k, true⟩ }), stOk)) ∧
      r.tenants = s.tenants ∧
      (s.part.debug = false → s.part.spState ≠ 1 →
        s.t2Ok x.keySrc.toNat 1664 = false ∨ s.inWindow x.keySrc.toNat 1664 = true →
          s.importKey t = (s, stBadParam))) ∧
    (Allows s route 0x3010 5 v →
      let t := s.selectedTenant route
      (s.keyBusy t = true → exec (.keyErase route v) s = .next (Answered s route 0x3010 5 stWrongState)) ∧
      (s.keyBusy t = false → exec (.keyErase route v) s = .next (Answered
        ((s.modTenant t (fun y => { y with key := some ⟨Config.random s.draws, false⟩ })).drew 1) route 0x3010 5
        stOk)))

/-- Management frames: one that is not the module's changes nothing; one that finds the four places of the
receive buffer taken is lost and counted in `rx_drops` (how long a frame waits there is a free value: log
entry 120, the model's choice); a malformed one is counted in `bad_frames`, a repetition of a source's last
one is answered again without being carried out, and any other runs its entries in order and sends one
response (R460 to R463). A queued persistent value is committed as one journal record and leaves the queue;
below 62 V no commit starts (R465, R466). -/
def Obligations.FramesAndCommits : Prop :=
  (∀ (s : State) (f : MgmtFrame), s.serves 1 = false ∨ s.takesFrame f = false →
    exec (.dictionaryFrame f) s = .next s) ∧
  (∀ (s : State) (f : MgmtFrame), s.serves 1 = true → s.takesFrame f = true → 4 ≤ s.mgmt.rxFrames.toNat →
    ∃ t, exec (.dictionaryFrame f) s = .next t ∧
      (s.free 0 % 2 = 1 → t = { s.drew 1 with mgmt := { s.mgmt with rxDrops := s.mgmt.rxDrops + 1 } })) ∧
  (∀ (s : State) (f : MgmtFrame), s.serves 1 = true → s.takesFrame f = true → s.bufferFull = false →
    let u := if 4 ≤ s.mgmt.rxFrames.toNat then s.drew 1 else s
    (frameOk f = false → exec (.dictionaryFrame f) s =
      .next { u with mgmt := { s.mgmt with badFrames := s.mgmt.badFrames + 1 } }) ∧
    (∀ k : KeptFrame, frameOk f = true → s.power.pstate ≠ 3 →
      s.mgmt.kept.find? (fun (x : KeptFrame) => x.src == f.src &&
        x.xid == BitVec.ofNat 32 (bytesLe f.payload 4 4)) = some k →
        ∃ t, exec (.dictionaryFrame f) s = .next t ∧ t.sent = .mgmtFrame k.src k.etherType k.response :: s.sent ∧
          t.mgmt.replays = s.mgmt.replays + 1 ∧ t.mgmt.rxFrames = s.mgmt.rxFrames + 1 ∧ t.dict = s.dict) ∧
    (frameOk f = true → s.power.pstate ≠ 3 →
      (∀ k ∈ s.mgmt.kept, ¬ (k.src = f.src ∧ k.xid = BitVec.ofNat 32 (bytesLe f.payload 4 4))) →
        let v := { u with mgmt := { u.mgmt with rxFrames := u.mgmt.rxFrames + 1 } }
        let r := v.runEntries f 0 (bytesLe f.payload 2 1)
        let w := r.1.sendKept { src := f.src, xid := BitVec.ofNat 32 (bytesLe f.payload 4 4),
                                etherType := BitVec.ofNat 16 (s.setting 0x1100 3), response := framePayload f r.2.1 }
        exec (.dictionaryFrame f) s = .next (if r.2.2 then w.softReset else w))) ∧
  (∀ (s : State) (index sub : Nat), (∀ e ∈ s.dict.queue, e.1 ≠ (index, sub)) ∨ s.power.nvInhibit = true →
    exec (.dictionaryCommit index sub) s = .next s) ∧
  (∀ (s : State) (index sub : Nat) (e : (Nat × Nat) × Nat), s.power.nvInhibit = false → s.held = false →
    s.dict.queue.find? (fun e => e.1 == (index, sub)) = some e → ∃ t,
      exec (.dictionaryCommit index sub) s = .next t ∧ lookupD t.dict.store (index, sub) 0 = e.2 ∧
        (∀ x ∈ t.dict.queue, x.1 ≠ (index, sub)) ∧ t.dict.commits = s.dict.commits + 1 ∧
        (∀ k, k ≠ (index, sub) → lookupD t.dict.store k 0 = lookupD s.dict.store k 0) ∧
        { t with dict := s.dict } = s)

/-- QUOTE_WRITTEN writes the quote that was built to T2 and reports it done, or reports that it cannot; it
does nothing when none is in progress. TRUST_OPERATION_END ends the operation in progress with its result, and
an install, a rotation or a factory reset below 62 V is abandoned with result 6, the settings in force; SLEEP_EXIT
leaves Sleep once a wake event has come (R434, R435, R444, R488, R497). -/
def Obligations.OperationsEnd : Prop :=
  (∀ s : State, s.part.qstate ≠ 1 → exec .quoteWritten s = .next s) ∧
  (∀ s : State, s.part.qstate = 1 → s.part.spState ≠ 1 → s.linkUp = true → s.part.quoteDest % 64 = 0 →
    s.t2Ok s.part.quoteDest 18944 = true → exec .quoteWritten s =
      .next (({ s with part := { s.part with qstate := 2 } }).writeT2 s.part.quoteDest s.part.quote)) ∧
  (∀ s : State, s.part.qstate = 1 → s.part.spState = 1 ∨ s.linkUp = false ∨ s.part.quoteDest % 64 ≠ 0 ∨
    s.t2Ok s.part.quoteDest 18944 = false → exec .quoteWritten s =
      .next { s with part := { s.part with qstate := 3 } }) ∧
  (∀ s : State, s.part.result ≠ 1 → exec .trustOperationEnd s = .next s) ∧
  (∀ s : State, s.part.result = 1 → s.power.nvInhibit = false →
    (s.part.op = 1 → exec .trustOperationEnd s = .next (s.endInstall 0)) ∧
    (s.part.op = 2 → exec .trustOperationEnd s = .next (s.endInstall 1)) ∧
    (s.part.op = 3 → s.part.opened = true → exec .trustOperationEnd s = .next (s.endOp 7)) ∧
    (s.part.op = 3 → s.part.opened = false → s.t2Ok s.part.opDest 17216 = true → ∃ t,
      exec .trustOperationEnd s = .next t ∧ t.part.result = 2 ∧ t.part.idGen = s.part.idGen + 1 ∧
        t.part.idPub = Config.slhPublic t.part.idPriv) ∧
    (s.part.op = 4 → exec .trustOperationEnd s = .next (s.endOp 2)) ∧
    (s.part.op = 5 → ∃ t, exec .trustOperationEnd s = .next t ∧ t.startUp.lastReset = 3 ∧ t.dict.store = [] ∧
      t.tenants = [] ∧ t.part.opened = s.part.opened ∧ t.part.idGen = s.part.idGen ∧
      t.part.rollback = s.part.rollback ∧ t.part.idPriv = s.part.idPriv ∧ t.part.mainSlots = s.part.mainSlots ∧
      t.part.spSlots = s.part.spSlots)) ∧
  (∀ s : State, s.part.result = 1 → s.power.nvInhibit = true →
    s.part.op = 1 ∨ s.part.op = 2 ∨ s.part.op = 3 ∨ s.part.op = 5 →
    ∃ t, exec .trustOperationEnd s = .next t ∧ t.part.result = 6 ∧ t.part.idPriv = s.part.idPriv ∧
      t.dict = s.dict ∧ t.tenants = s.tenants ∧ t.startUp = s.startUp ∧
      t.part.bootSlot = s.part.bootSlot ∧ t.part.pendingSlot = s.part.pendingSlot) ∧
  (∀ s : State, (s.power.pstate ≠ 3 ∨ s.power.waking = false → exec .sleepExit s = .next s) ∧
    (s.power.pstate = 3 → s.power.waking = true → exec .sleepExit s =
      .next (s.modPower (fun p => { p with pstate := 0, waking := false })).resumeTraffic.takeInbox.closeDue))

/-! ## Faults, peer ports and pairing -/

namespace Sys2Proof.Machine

/-- Sticky, live and rail bits of a source. -/
def FaultBits (s t : State) (source : Nat) (sticky live rail : Bool) : Prop :=
  t.faults.sticky = putBit s.faults.sticky source (sticky || s.faults.sticky.getLsbD source) ∧
    t.faults.live = putBit s.faults.live source live ∧ t.faults.rail = putBit s.faults.rail source rail

end Sys2Proof.Machine

/-- A source whose pair reads asserted, or equal on both rails, sets its sticky bit, which stays when the pair
is quiet again; `live` and `rail` follow the pair. The first sticky bit puts the module in the fault state,
counted once; while it is there a further source sets its bits and nothing else changes. A memory controller
that asserts for a line it cannot correct, or that names another line, counts it on its channel, makes the
channel suspect and raises the quadrant's memory fault (R366). A number that is no source does nothing (R471,
R472, R474, R475). -/
def Obligations.FaultCollector : Prop :=
  (∀ (s : State) (source : Nat) (rail : Rail), 94 ≤ source → exec (.faultSourceAssert source rail) s = .next s) ∧
  (∀ (s : State) (source : Nat), source < 94 →
    (∃ t, exec (.faultSourceAssert source .asserted) s = .next t ∧ FaultBits s t source true true false ∧
      t.faulted = true ∧
      t.faults.faultStates = (if s.faulted then s.faults.faultStates else s.faults.faultStates + 1) ∧
      (s.faulted = true → { t with faults := s.faults } = s)) ∧
    (∃ t, exec (.faultSourceAssert source .equal) s = .next t ∧ FaultBits s t source true true true ∧
      t.faulted = true ∧ (s.faulted = true → { t with faults := s.faults } = s)) ∧
    (∃ t, exec (.faultSourceAssert source .quiet) s = .next t ∧ FaultBits s t source false false false ∧
      { t with faults := s.faults } = s)) ∧
  (∀ (s : State) (h : Nat) (mis : Bool), h < 192 → (s.channel h).trained = true →
    ∃ t, exec (.faultSourceAssert (srcMem (h / 48)) (.line h mis)) s = .next t ∧
      t.faults.sticky.getLsbD (srcMem (h / 48)) = true ∧ t.faults.live.getLsbD (srcMem (h / 48)) = true ∧
      t.causes.sys.getLsbD sysSuspect = true ∧ t.channelBit 11 h = true ∧
      (t.channel h).uncorrected = (s.channel h).uncorrected + (if mis then 0 else 1) ∧
      (t.channel h).misdirected = (s.channel h).misdirected + (if mis then 1 else 0))

/-- Ones written to `sticky` clear exactly the bits whose sources are quiet; while a bit stays set the fault
state goes on, and nothing else changes. The write that clears the last bit ends the fault state: a restart stays owed
with the job it stopped, a job whose end waited for it is freed, and pairing may begin; no record runs for it. Entering
the fault state is what makes a restart owed, in job states 1 and 2 (R477). JOB_RESTART, when no bit is set, the link is up and a restart is owed,
fills every tenant's level, counts `restarts`, leaves memory in mode 4, the tables and their step as at a job's
begin, and sets the restart cause; otherwise it does nothing (R477, R478). -/
def Obligations.ClearingAndRestart : Prop :=
  (∀ (s : State) (ones : BitVec 96),
    (s.faults.sticky &&& ~~~(ones &&& ~~~s.faults.live)) ≠ 0 ∨ s.faulted = false →
    s.clearSticky ones = { s with faults := { s.faults with
      sticky := s.faults.sticky &&& ~~~(ones &&& ~~~s.faults.live) } } ∧
    ∀ i, i < 96 → ((s.clearSticky ones).faults.sticky.getLsbD i = true ↔ s.faults.sticky.getLsbD i = true ∧
      (ones.getLsbD i = false ∨ s.faults.live.getLsbD i = true))) ∧
  (∀ (s : State) (ones : BitVec 96), s.faulted = true →
    (s.faults.sticky &&& ~~~(ones &&& ~~~s.faults.live)) = 0 →
    let u := { s with faults := { s.faults with sticky := 0 } }
    s.clearSticky ones = (if s.job.state == 3 then u.finishJob else u).tryPair ∧
      (s.job.state ≠ 3 → (s.clearSticky ones).faulted = false ∧ (s.clearSticky ones).faults.owed = s.faults.owed ∧
        (s.clearSticky ones).job = s.job ∧ (s.clearSticky ones).tenants = s.tenants)) ∧
  (∀ (s : State) (source : Nat), s.faulted = false → source < 94 →
    (s.raiseFault source).faults.owed = (s.job.state == 1 || s.job.state == 2)) ∧
  (∀ s : State, s.faults.owed = false ∨ s.faulted = true ∨ s.linkUp = false → exec .jobRestart s = .next s) ∧
  (∀ s : State, s.faults.owed = true → s.faulted = false → s.linkUp = true → ∃ t, exec .jobRestart s = .next t ∧
    t.job = { s.job with restarts := s.job.restarts + 1 } ∧ t.tiers.mode = 4 ∧ t.faults.owed = false ∧
    t.sheaf = Sheaf.reset ∧
    t.tenants = s.tenants.map (fun (x : Tenant) => { x with level := x.burst.toNat, frac := 0 }) ∧
    t.causes.sys = putBit s.causes.sys sysRestart true ∧ t.slots = s.slots ∧ t.t2 = s.t2 ∧ t.sent = s.sent)

/-- A peer port that trains comes up on the lanes of R381, tells its neighbour its job and judges the
neighbour's; without a width it stays down. A report that no longer matches makes the port foreign, and a port
on a route of the job that goes down or foreign raises the peer link fault; PEER_PORT_DOWN clears what the
neighbour reported and refuses the MOVEs sent through the port, takes the pairing to ALONE where it is port 0 (Table
19-7), and a disabled port stays disabled; a neighbour that reports the job lets what waited for it go, and traffic
that waited `join_ms` outside Hold raises the fault (R395, R397, R496, R540). Which reports make a port foreign
beyond R395's words, and what a port that goes down forgets, are the model's choices (log entries 76 and 79,
DEDUCED). -/
def Obligations.PeerPortStates : Prop :=
  (∀ (s : State) (p : Nat) (lanes : Byte) (serial : U64) (job : Option (U64 × Nat)), s.portTrains p = false →
    exec (.peerPortTrained p lanes serial job) s = .next s) ∧
  (∀ (s : State) (p : Nat) (lanes : Byte) (serial : U64) (job : Option (U64 × Nat)), s.portTrains p = true →
    peerLanes (s.port p).maxWidth lanes = none → exec (.peerPortTrained p lanes serial job) s =
      .next (s.movePort p (fun x => { x with state := 0, lanesOk := 0 }))) ∧
  (∀ (s : State) (p : Nat) (lanes : Byte) (serial : U64) (job : Option (U64 × Nat)) (w : Nat) (m : Byte), p < 8 →
    s.portTrains p = true → peerLanes (s.port p).maxWidth lanes = some (w, m) → ∃ t,
      let u := s.modPort p (fun x => { x with
        state := 2, nbrJob := (job.map (·.1)).getD 0, nbrRank := (job.map (·.2)).getD 0xFFFF })
      exec (.peerPortTrained p lanes serial job) s = .next t ∧
        (t.port p).state = (if u.portForeign p then 3 else 2) ∧
        (u.portForeign p = true → u.onRoute p = true → t.faults.sticky.getLsbD srcPeer = true) ∧
        (u.portForeign p = false → t.faults = s.faults) ∧
        .advertise p s.ident.serial (if s.job.state = 0 then none else some (s.job.jobId, s.job.rank)) ∈ t.sent ∧
        (t.port p).lanesOk = m ∧ (t.port p).nbrSerial = serial ∧
        (t.port p).nbrJob = (job.map (·.1)).getD 0 ∧ (t.port p).nbrRank = (job.map (·.2)).getD 0xFFFF) ∧
  (∀ (s : State) (p : Nat), (s.port p).state = 4 → exec (.peerPortDown p) s = .next s) ∧
  (∀ (s : State) (p : Nat), p < 8 → p ≠ 0 → (s.port p).state = 2 ∨ (s.port p).state = 3 →
    let v := (s.modPort p (fun x => { x with
      state := 0, lanesOk := 0, nbrSerial := 0, nbrRank := 0xFFFF, nbrJob := 0, balance := 0, report := none,
      waiting := [] })).setLinkCause (1 + p)
    let u := (s.movesOn p).foldl (fun s h => s.refuseMove h 0) { v with inbox := s.inbox.filter (fun e => e.1 != p) }
    exec (.peerPortDown p) s = .next (if s.onRoute p then u.raiseFault srcPeer else u)) ∧
  (∀ s : State, (s.port 0).state = 2 ∨ (s.port 0).state = 3 → ∃ t, exec (.peerPortDown 0) s = .next t ∧
    (t.port 0).state = 0 ∧ (t.port 0).nbrRank = 0xFFFF ∧ (t.port 0).waiting = [] ∧ t.pairing.state = 0 ∧
    t.pairing.readySent = (if s.pairing.state = 0 then s.pairing.readySent else false) ∧
    (s.pairing.state ≠ 0 → t.causes.sys.getLsbD sysTwin = true) ∧ t.causes.link.getLsbD 1 = true ∧
    t.granary.mirror = (if s.pairing.state = 3 then [] else s.granary.mirror) ∧ t.faults = s.faults ∧
    ∀ q, q ≠ 0 → t.port q = s.port q) ∧
  (∀ (s : State) (p : Nat), ((s.port p).waiting = [] ∨ s.power.pstate = 2 → exec (.joinTimeout p) s = .next s) ∧
    ((s.port p).waiting ≠ [] → s.power.pstate ≠ 2 → exec (.joinTimeout p) s = .next (s.raiseFault srcPeer))) ∧
  (∀ (s : State) (p rank : Nat) (job : U64), (s.port p).state ≠ 2 → (s.port p).state ≠ 3 →
    exec (.neighbourJobReport p job rank) s = .next s) ∧
  (∀ (s : State) (p rank : Nat) (job : U64), p < 8 →
    (s.port p).state = 2 ∨ (s.port p).state = 3 → ∃ t, exec (.neighbourJobReport p job rank) s = .next t ∧
      let u := s.modPort p (fun x => { x with nbrJob := job, nbrRank := rank, state := 2 })
      (t.port p).nbrJob = job ∧ (t.port p).nbrRank = rank ∧
      (u.portForeign p = true → (t.port p).state = 3 ∧ (t.port p).balance = 0 ∧
        (u.onRoute p = true → t.faults.sticky.getLsbD srcPeer = true)) ∧
      (u.portForeign p = false → (t.port p).state = 2 ∧ t.faults = s.faults) ∧
      (u.portForeign p = false → s.job.state ≠ 0 → job = s.job.jobId → rank ≠ 0xFFFF →
        (t.port p).waiting = [] ∧ ∀ m ∈ (s.port p).waiting, m ∈ t.sent)) ∧
  (∀ (s : State) (p : Nat) (working : U16) (w : Nat) (m : Byte), p < 8 →
    (s.port p).state = 2 ∨ (s.port p).state = 3 →
    (s.port p).lanesOk &&& working.setWidth 8 ≠ (s.port p).lanesOk →
      (peerLanes (s.port p).maxWidth (working.setWidth 8) = some (w, m) → exec (.laneFailure (p + 1) working) s =
        .next (((s.modPort p (fun x => { x with lanesOk := m, maxWidth := w })).resendFlits (1 + p)).setLinkCause
          (1 + p))) ∧
      (peerLanes (s.port p).maxWidth (working.setWidth 8) = none → exec (.laneFailure (p + 1) working) s =
        exec (.peerPortDown p) s))

namespace Sys2Proof.Machine

/-- Nothing makes arriving traffic of channel `ch` wait at port `p`: neither Hold, nor Sleep, nor what waits before it. -/
abbrev Takes (s : State) (p ch : Nat) : Prop :=
  s.power.pstate < 2 ∧ ∀ e ∈ s.inbox, e.1 = p → e.2.channel ≠ ch

end Sys2Proof.Machine

/-- Messages on the channels of a peer port (R395, R396, R398): none is taken from a port that is not up; one on
a channel the port may not carry raises the peer link fault; what arrives in Hold or in Sleep waits, in order, to be
taken (Table 18-5, R495), and so do sealed objects whose manifest no invocation can be reserved for below 62 V (R441);
job traffic is dropped in the fault state or
without a job, relayed when it names another rank, and taken otherwise: an arrival at a barrier joins the ranks
that have arrived, is held when it is of a later epoch and dropped when it is of an earlier one; a part of a
collective is kept for its instance. On port 0 mirrored objects are answered with a receipt while the module is
PAIRED, and a receipt of the twin is taken (R305, R306). A slack report's grant joins the
balance, zeroed first when its reset bit is set (R502). A barrier that has an arrival and is not complete when
its time runs out raises the synchronisation fault, where the time is not spent in Hold (R414, R496). That job traffic
is dropped in the fault state or without a job, that an arrival of a later epoch is held and one of an earlier epoch
dropped, and that every rank's arrival goes to every other, are the model's choices (log entries 72 and 76,
DEDUCED). -/
def Obligations.PeerTraffic : Prop :=
  (∀ (s : State) (p dst : Nat) (m : SyncMsg) (b : Bulk) (a : AckMsg) (x : Message),
    (s.port p).state ≠ 2 → (s.port p).state ≠ 3 →
      exec (.barrierArrival p dst m) s = .next s ∧ exec (.bulk p dst b) s = .next s ∧
        exec (.ackp p dst a) s = .next s ∧ exec (.slackReport p x) s = .next s) ∧
  (∀ (s : State) (p dst : Nat) (m : SyncMsg) (b : Bulk) (a : AckMsg) (x : Message), p ≠ 0 → (s.port p).state = 3 →
    let t := s.raiseFault srcPeer
    exec (.barrierArrival p dst m) s = .next t ∧ exec (.bulk p dst b) s = .next t ∧
      exec (.ackp p dst a) s = .next t ∧ exec (.slackReport p x) s = .next t) ∧
  (∀ (s : State) (p dst : Nat) (m : SyncMsg) (b : Bulk) (a : AckMsg) (x : Message), p ≠ 0 → (s.port p).state = 2 →
    2 ≤ s.power.pstate →
    exec (.barrierArrival p dst m) s = .next { s with inbox := s.inbox ++ [(p, .sync dst m)] } ∧
    exec (.bulk p dst b) s = .next { s with inbox := s.inbox ++ [(p, .bulk dst b)] } ∧
    exec (.ackp p dst a) s = .next { s with inbox := s.inbox ++ [(p, .ackp dst a)] } ∧
    exec (.slackReport p x) s = .next { s with inbox := s.inbox ++ [(p, .slack x)] }) ∧
  (∀ (s : State) (dst : Nat) (m : MovedSession), (s.port 0).state = 2 →
    2 ≤ s.power.pstate ∨ (s.pairing.state = 2 ∧ m.more = false ∧ s.waitsIv m m.listed.length = true) →
    exec (.bulk 0 dst (.mirrored m)) s = .next { s with inbox := s.inbox ++ [(0, .bulk dst (.mirrored m))] }) ∧
  (∀ (s : State) (p dst : Nat) (m : SyncMsg) (b : Bulk) (a : AckMsg), p ≠ 0 → (s.port p).state = 2 →
    (∀ ch, Takes s p ch) → (∀ g x, b = .moved g x → x.state = 4 → s.waitsIv x x.objects.length = false) →
    (s.faulted = true ∨ s.job.state = 0 → exec (.barrierArrival p dst m) s = .next s ∧
      exec (.bulk p dst b) s = .next s ∧ exec (.ackp p dst a) s = .next s) ∧
    (s.faulted = false → s.job.state ≠ 0 → dst ≠ s.job.rank →
      exec (.barrierArrival p dst m) s = .next (s.relay dst (fun q => .sync q dst m)) ∧
      exec (.bulk p dst b) s = .next (s.relay dst (fun q => .bulk q dst b)) ∧
      exec (.ackp p dst a) s = .next (s.relay dst (fun q => .ackp q dst a))) ∧
    (s.faulted = false → s.job.state ≠ 0 → dst = s.job.rank →
      exec (.barrierArrival p dst m) s = .next (s.syncArrives m).finishDrained ∧
      exec (.bulk p dst b) s = .next (s.bulkArrives b).finishDrained ∧
      exec (.ackp p dst a) s = .next (s.ackArrives a).finishDrained)) ∧
  (∀ (s : State) (p : Nat) (m : SyncMsg), p ≠ 0 → (s.port p).state = 2 → Takes s p 0 → s.faulted = false →
    s.job.state ≠ 0 → s.job.state ≠ 3 → s.sheaf.due = false → s.sheaf.again = false → m.barrier < 56 →
      (m.epoch.toNat < (s.barrierAt m.barrier).epoch.toNat → exec (.barrierArrival p s.job.rank m) s = .next s) ∧
      ((s.barrierAt m.barrier).epoch.toNat < m.epoch.toNat → exec (.barrierArrival p s.job.rank m) s =
        .next (s.modBarrier m.barrier (fun x => { x with held := x.held ++ [m] }))) ∧
      (m.epoch = (s.barrierAt m.barrier).epoch → m.release = false → s.job.rank ∈ m.ranks →
        m.src ≠ s.job.rank → s.job.rank ∉ (s.barrierAt m.barrier).ranks → m.src ∉ (s.barrierAt m.barrier).ranks →
        (∀ g, (s.barrierAt m.barrier).group = some g → g = (m.coreMask, m.ranks)) →
          exec (.barrierArrival p s.job.rank m) s = .next (s.modBarrier m.barrier (fun x => { x with
            group := some (m.coreMask, m.ranks), ranks := x.ranks ++ [m.src] })))) ∧
  (∀ (s : State) (p n src partBytes parts : Nat) (epoch : U64) (data : List Byte), p ≠ 0 → (s.port p).state = 2 →
    Takes s p 1 → s.faulted = false → s.job.state ≠ 0 → s.job.state ≠ 3 → n < 56 →
    (s.barrierAt n).epoch.toNat ≤ epoch.toNat → (s.barrierAt n).group = none →
    (∀ q ∈ (s.barrierAt n).parts, q.epoch = epoch → q.rank ≠ src ∧ q.partBytes = partBytes ∧ q.parts = parts) →
      exec (.bulk p s.job.rank (.collective n epoch src partBytes parts data)) s = .next (s.modBarrier n (fun x =>
        { x with parts := x.parts ++ [⟨epoch, src, partBytes, parts, data⟩] }))) ∧
  (∀ (s : State) (dst : Nat) (m : MovedSession), (s.port 0).state = 2 → Takes s 0 1 →
    m.more = true ∨ s.waitsIv m m.listed.length = false →
    (s.faulted = true ∨ s.pairing.state ≠ 2 → exec (.bulk 0 dst (.mirrored m)) s = .next s) ∧
    (s.faulted = false → s.pairing.state = 2 → ∃ t, exec (.bulk 0 dst (.mirrored m)) s = .next t ∧
      t.sent.head? = some (.ackp 0 0 (.twinReceipt m.session m.sealNo (s.takeMirrored m).2)) ∧
      t.granary = (s.takeMirrored m).1.granary ∧ t.t2 = (s.takeMirrored m).1.t2) ∧
    (s.keysAgree m = false → s.takeMirrored m = (s, stDenied))) ∧
  (∀ (s : State) (dst status : Nat) (h no : U64), (s.port 0).state = 2 → Takes s 0 2 → s.faulted = false →
    s.pairing.state = 2 → exec (.ackp 0 dst (.twinReceipt h no status)) s =
      .next (s.twinReceipt h no status).finishDrained) ∧
  (∀ (s : State) (p : Nat) (x : Message), p < 8 → (s.port p).state = 2 → Takes s p 3 → s.faulted = false →
    p ∈ s.slackPorts →
    ∃ t, exec (.slackReport p x) s = .next t ∧
      (t.port p).balance = (if bitAt x 8 then 0 else (s.port p).balance) + (bytesLe (lineBytes x 16) 8 2 : Nat) ∧
      (t.port p).report = some (field x 4 4, field x 10 2) ∧
      (∀ q, q ≠ p → t.port q = s.port q) ∧ { t with ports := s.ports } = s) ∧
  (∀ (s : State) (b : Nat),
    ((s.barrierAt b).cores = [] ∧ (s.barrierAt b).ranks = [] ∨ s.power.pstate = 2 →
      exec (.barrierTimeout b) s = .next s) ∧
    ((s.barrierAt b).cores ≠ [] ∨ (s.barrierAt b).ranks ≠ [] → s.power.pstate ≠ 2 →
      exec (.barrierTimeout b) s = .next (s.raiseFault srcSync)))

/-- Twin pairing on port 0 (Table 19-7, R480, R516 to R518, R531): while PAIRING a compatible HELLO is answered
with READY and an incompatible one leaves its reason; READY then pairs, and another partner clears the mirror
index; DETACH is answered with DETACHED; DETACHED or its time-out ends the pair; FAULT sets the twin cause and
takes a pair back to PAIRING; a timer repeats HELLO; a twin that is no longer cabled takes port 0 down. On any
other port a pairing message raises the peer link fault. One that arrives in Hold or in Sleep waits (Table 18-5). -/
def Obligations.PairingMachine : Prop :=
  (∀ (s : State) (p : Nat) (m : Message), p ≠ 0 → (s.port p).state = 2 →
    let t := s.raiseFault srcPeer
    exec (.hello p m) s = .next t ∧ exec (.ready p m) s = .next t ∧ exec (.detach p m) s = .next t ∧
      exec (.detached p m) s = .next t ∧ exec (.fault p m) s = .next t) ∧
  (∀ (s : State) (m : Message), (s.port 0).state = 2 → 2 ≤ s.power.pstate →
    ∀ x ∈ ([(.hello 0 m, 0), (.ready 0 m, 1), (.detach 0 m, 2), (.detached 0 m, 3), (.fault 0 m, 4)] :
      List (Instr × Nat)), exec x.1 s = .next { s with inbox := s.inbox ++ [(0, .pair x.2 m)] }) ∧
  (∀ (s : State) (m : Message), (s.port 0).state = 2 → Takes s 0 4 → 0x60 ≤ field m 0 1 → field m 0 1 ≤ 0x64 →
    (s.pairing.state ≠ 1 → exec (.hello 0 m) s = .next s) ∧
    (s.pairing.state = 1 → s.helloFault m = 0 → ∃ t, exec (.hello 0 m) s = .next t ∧ t.pairing.fail = 0 ∧
      t.pairing.readySent = true ∧ t.sent = .peer 0 (s.pairMessage 0x61) :: s.sent) ∧
    (s.pairing.state = 1 → s.helloFault m ≠ 0 → exec (.hello 0 m) s =
      .next { s with pairing := { s.pairing with fail := s.helloFault m } }) ∧
    (s.pairing.state = 1 → s.pairing.readySent = true → ∃ t, exec (.ready 0 m) s = .next t ∧
      t.pairing.state = 2 ∧ t.pairing.twinSerial = m.extractLsb' 64 64 ∧
      t.pairing.pairings = s.pairing.pairings + 1 ∧
      t.granary.mirror = (if m.extractLsb' 64 64 = s.pairing.twinSerial then s.granary.mirror else [])) ∧
    (s.pairing.state ≠ 1 ∨ s.pairing.readySent = false → exec (.ready 0 m) s = .next s) ∧
    (s.pairing.state = 2 → ∃ t, exec (.detach 0 m) s = .next t ∧ t.pairing.state = 3 ∧
      t.sent = .peer 0 (s.pairMessage 0x63) :: s.sent) ∧
    (s.pairing.state ≠ 2 → exec (.detach 0 m) s = .next s) ∧
    (s.pairing.state = 3 → ∃ t, exec (.detached 0 m) s = .next t ∧ t.pairing.state = 0 ∧
      t.granary.mirror = [] ∧ t.pairing.twinSerial = 0) ∧
    (s.pairing.state ≠ 3 → exec (.detached 0 m) s = .next s) ∧
    (∃ t, exec (.fault 0 m) s = .next t ∧ t.causes.sys.getLsbD sysTwin = true ∧
      t.pairing.state = (if s.pairing.state = 2 then 1 else s.pairing.state) ∧ t.faults = s.faults)) ∧
  (∀ s : State, (s.pairing.state = 1 → s.faulted = false → ∃ t, exec .helloTimer s = .next t ∧
      t.sent = .peer 0 (s.pairMessage 0x60) :: s.sent) ∧
    (s.pairing.state ≠ 1 ∨ s.faulted = true → exec .helloTimer s = .next s) ∧
    (s.pairing.state = 3 → ∃ t, exec .detachTimeout s = .next t ∧ t.pairing.state = 0 ∧ t.granary.mirror = []) ∧
    (s.pairing.state ≠ 3 → exec .detachTimeout s = .next s) ∧
    (∃ t, exec (.twinSenseN true) s = .next t ∧ t.pairing.cabled = true ∧
      ((s.port 0).state = 0 → s.linksRun = true → (t.port 0).state = 1)) ∧
    (∃ t, exec (.twinSenseN false) s = .next t ∧ t.pairing.cabled = false ∧
      ((s.port 0).state ≠ 4 → (t.port 0).state = 0 ∧ (s.pairing.state ≠ 0 → (s.port 0).state ≠ 0 →
        t.pairing.state = 0))))

/-! ## Power, start-up, memory and pins -/

namespace Sys2Proof.Machine

/-- Commands that force Hold, the cause of Table 18-6 that each asserts, and when it does. -/
def holdRows (p tj : Nat) (temp rated : Int) : List (Instr × Nat × (State → Bool)) :=
  [(.rackAlert true, 0, fun s => s.setting 0x8010 3 == 1), (.regulatorAlert true, 1, fun _ => true),
    (.nvWriteInhibit, 2, fun _ => true), (.thermalTrip tj, 3, fun _ => true), (.lpddr6Hot p, 4, fun _ => true),
    (.lpddr6HotFault p, 4, fun _ => true),
    (.packageTemperatureReadout p temp rated, 4, fun _ => decide (rated < temp))]

/-- A cause of Hold has ended: nothing happens when it was not asserted; Hold goes on while another is; and
when it was the last, Run resumes, rings move again, peer traffic that waited is taken, and a boundary that is due
falls due again and closes. -/
def Released (s : State) (cause : Nat) (t : State) : Prop :=
  let why := putBit s.power.holdWhy cause false
  (s.power.holdWhy.getLsbD cause = false → t = s) ∧
    (s.power.holdWhy.getLsbD cause = true → why ≠ 0 →
      t = s.modPower (fun p => { p with holdWhy := why, pstate := 2 })) ∧
    (s.power.holdWhy.getLsbD cause = true → why = 0 →
      let u := (s.modPower (fun p => { p with holdWhy := why, pstate := 0 })).resumeTraffic.takeInbox
      t = if u.sheaf.due = true then u.boundaryDue.closeDue else u)

/-- What every reset leaves of `s` (R514): start-up begins anew, and T2, the committed settings and what the
safety partition keeps for good stay. -/
def AfterReset (s t : State) (kind : Nat) : Prop :=
  t.startUp.stage = 0 ∧ t.startUp.lastReset = kind ∧ t.tiers.mode = 1 ∧ t.job.state = 0 ∧ t.tenants = [] ∧
    t.pairing.state = 0 ∧ t.granary.mirror = [] ∧ t.part.button = false ∧ t.part.debug = false ∧
    t.dict.settings = [] ∧ t.dict.queue = [] ∧ t.dict.store = s.dict.store ∧ t.t2 = s.t2 ∧
    t.part.opened = s.part.opened ∧ t.part.rollback = s.part.rollback ∧ t.part.idPriv = s.part.idPriv ∧
    t.part.idGen = s.part.idGen ∧ t.part.staging = s.part.staging ∧ t.part.staged = s.part.staged ∧
    t.part.mainSlots = s.part.mainSlots ∧ t.part.spSlots = s.part.spSlots ∧ t.timestamp = (if kind = 0 then 0 else s.timestamp)

end Sys2Proof.Machine

namespace Sys2Proof.Machine

/-- The module once THROTTLE_UPDATE has sensed input and junction. -/
def Sensed (s : State) (vin w tj : Nat) : State :=
  let s := s.modPower (fun p => { p with
    vinMv := vin, pInW := w, samples := ((w, w * 1000000 / vin) :: p.samples).take 1000 })
  (if 64000 ≤ vin ∧ vin ≤ 80000 then s.setLive srcVin false false else s).senseTj tj

end Sys2Proof.Machine

/-- Hold (R495): each of its causes forces it, is reported in `hold_why` beside the others, and counts in
`holds` when it is the first; it ends only when no cause remains: a rack or regulator alert that is released
only starts its hold time, and a package back at least 5 °C below its rating ends its cause when no other is
hot. In Hold or Sleep no step opens, sets up or
ends, no generation switches, no seal completes and no scrub read is granted (Table 18-5). -/
def Obligations.HoldLaw : Prop :=
  (∀ (p tj : Nat) (temp rated : Int), ∀ x ∈ holdRows p tj temp rated, ∀ s : State, x.2.2 s = true →
    ∃ t, exec x.1 s = .next t ∧ t.power.holdWhy = putBit s.power.holdWhy x.2.1 true ∧
      (s.power.holdWhy.getLsbD x.2.1 = false → t.power.pstate = 2 ∧
        t.power.holds = (if s.power.holdWhy = 0 then s.power.holds + 1 else s.power.holds))) ∧
  (∀ s : State, ∃ t, exec .inputSagEnd s = .next t ∧
    Released (s.modPower (fun p => { p with sag := false })) 2 t) ∧
  (∀ s : State, (s.power.regulator = true → exec (.alertHoldExpiry true) s = .next s) ∧
    (s.power.regulator = false → ∃ t, exec (.alertHoldExpiry true) s = .next t ∧ Released s 1 t) ∧
    (s.power.rackLow = true → s.setting 0x8010 3 = 1 → exec (.alertHoldExpiry false) s = .next s) ∧
    (s.power.rackLow = false ∨ s.setting 0x8010 3 ≠ 1 →
      ∃ t, exec (.alertHoldExpiry false) s = .next t ∧ Released s 0 t)) ∧
  (∀ s : State, exec (.rackAlert false) s = .next (s.modPower (fun p => { p with rackLow := false })) ∧
    (s.setting 0x8010 3 ≠ 1 → exec (.rackAlert true) s = .next (s.modPower (fun p => { p with rackLow := true }))) ∧
    exec (.regulatorAlert false) s = .next (s.modPower (fun p => { p with regulator := false }))) ∧
  (∀ (s : State) (p : Nat) (temp rated : Int), p < 24 → temp ≤ rated →
    (rated < temp + 5 ∨ (∃ q ∈ s.power.hotPackages, q ≠ p) →
      ∃ t, exec (.packageTemperatureReadout p temp rated) s = .next t ∧
        t.power.holdWhy = s.power.holdWhy ∧ vGet t.power.pkgTemps p 0 = temp) ∧
    (temp + 5 ≤ rated → (∀ q ∈ s.power.hotPackages, q = p) →
      let v := (s.modPower (fun r => { r with
        pkgTemps := vMod r.pkgTemps p (fun _ => temp), hotPackages := [], hotFault := [] })).senseThermal
      ∃ t, exec (.packageTemperatureReadout p temp rated) s = .next t ∧ Released v 4 t)) ∧
  (∀ (s : State) (slot tenant : Nat), 2 ≤ s.power.pstate → exec .stepOpen s = .next s ∧
    exec .epochOpen s = .next s ∧ exec .stepEnd s = .next s ∧ exec (.generationSwitch slot tenant) s = .next s ∧
    (∀ h, exec (.sealComplete h) s = .next s) ∧ ∀ c l found, exec (.scrubRead c l found) s = .next s)

/-- While no thermal trip lasts, the throttle level stays within 0 to 30 and moves by at most 4 at an update: it
rises when a limit of R499 is passed or the junction is more than 1 °C above the throttle temperature, and then only or
when the power manager acts before; it does not fall while the junction is not below that temperature (R499, R500). How
far it moves is a free value of the model (log entry 92, DESIGN CHOICE). Droop sets and clears the
quadrant's level of 8 and is counted (R490, R491). Idle is entered only from Run with nothing running (R494; what
counts as running is log entry 93, DEDUCED).
The energy of an interval joins `e_module`, and with a job every tenant is given the floor of its share by
units, what is given and what joins `e_unassigned` being the interval's energy (R504, R505). -/
def Obligations.ThrottleAndEnergy : Prop :=
  (∀ (s : State) (vin w tj : Nat) (exceeds : Bool), s.power.throttle ≤ 30 → s.power.holdWhy.getLsbD 3 = false →
    ∃ t, exec (.throttleUpdate vin w tj exceeds) s = .next t ∧
      t.power.throttle ≤ 30 ∧ t.power.throttle ≤ s.power.throttle + 4 ∧ s.power.throttle ≤ t.power.throttle + 4 ∧
      (let u := Sensed s vin w tj
       (s.power.throttle < t.power.throttle → exceeds = true ∨ u.overLimits = true ∨ u.throttleC + 1 < tj) ∧
       (exceeds = true ∨ u.overLimits = true ∨ u.throttleC + 1 < tj →
         s.power.throttle < t.power.throttle ∨ t.power.throttle = 30) ∧
       (u.throttleC ≤ tj → s.power.throttle ≤ t.power.throttle)) ∧
      t.power.vinMv = vin ∧ t.power.pInW = w ∧ t.power.tjMax = tj) ∧
  (∀ (s : State) (q : Nat), q < 4 → ∃ t u, exec (.droopDetection q) s = .next t ∧ 8 ≤ t.levelInForce q ∧
    t.power.droops = s.power.droops + 1 ∧ exec (.droopRelease q) t = .next u ∧
    u.levelInForce q = s.power.throttle ∧ ∀ r, r ≠ q → u.levelInForce r = s.levelInForce r) ∧
  (∀ s : State, (s.power.pstate = 0 → s.quiet = true →
      exec .idleEntry s = .next (s.modPower (fun p => { p with pstate := 1 }))) ∧
    (s.power.pstate ≠ 0 ∨ s.quiet = false → exec .idleEntry s = .next s)) ∧
  (∀ (s : State) (e : Nat), s.job.state = 0 → exec (.energyInterval e) s =
    .next (s.modPower (fun p => { p with moduleNj := p.moduleNj + e }))) ∧
  (∀ (s : State) (e : Nat), s.job.state ≠ 0 → ∃ t, exec (.energyInterval e) s = .next t ∧
    t.power.moduleNj = s.power.moduleNj + e ∧ t.power.jobNj = s.power.jobNj + e ∧
    (let u := sumOf (·.recentUnits) s.tenants
     t.tenants = s.tenants.map (fun (x : Tenant) => { x with
       recentUnits := 0,
       counts := { x.counts with energyNj := x.counts.energyNj + (if u = 0 then 0 else e * x.recentUnits / u) } })) ∧
    t.power.unassignedNj + sumOf (·.counts.energyNj) t.tenants =
      s.power.unassignedNj + sumOf (·.counts.energyNj) s.tenants + e)

/-- The input, the root clock and the resets (Table 18-1, Table 19-3, R487, R489, R514, R526): a lasting
excursion of the input and a bad root clock raise their faults; at 62 V writes resume, rollback fuses that waited are
blown (R430) and sealed objects that waited are taken (R441); PMATE_N that opens turns the input stage off, and one that
closes again resets the module and holds it until the input has lasted; a power-on reset needs a mated module, RESET_N
low resets and holds, MGT_TERM_N is sampled when it is released (R529), undervoltage lockout resets and leaves the
module unpowered, and each reset keeps what R514 keeps, the staging area among it (R445). What an opened PMATE_N and a
lockout leave beyond R487 and R526 is log entry 93 (DEDUCED). -/
def Obligations.InputAndResets : Prop :=
  (∀ s : State, (∃ t, exec .vinFault s = .next t ∧ t.faults.sticky.getLsbD srcVin = true ∧
      t.faults.live.getLsbD srcVin = true) ∧
    exec .clockFault s = .next (s.raiseFault srcClock) ∧
    (let u := { s with
        part := { s.part with fusePending := false, rollback := max s.part.rollback s.part.fusesDue, fusesDue := 0 },
        power := { s.power with nvInhibit := false } }
     exec .nvWriteResume s = .next u.takeInbox ∧ (s.inbox = [] → exec .nvWriteResume s = .next u)) ∧
    (∀ closed, closed = s.startUp.mated → exec (.pmateN closed) s = .next s) ∧
    (s.startUp.mated = true → exec (.pmateN false) s =
      .next { s with startUp := { s.startUp with mated := false, powered := false } }) ∧
    (s.startUp.mated = false → ∃ t, exec (.pmateN true) s = .next t ∧ AfterReset s t 0 ∧ t.startUp.mated = true ∧
      t.held = true)) ∧
  (∀ s : State, s.startUp.mated = false → exec .powerOnReset s = .next s) ∧
  (∀ s : State, s.startUp.mated = true → ∃ t, exec .powerOnReset s = .next t ∧ AfterReset s t 0 ∧
    t.startUp.powered = true) ∧
  (∀ s : State, ∃ t, exec (.pinReset true) s = .next t ∧ AfterReset s t 1 ∧ t.held = true) ∧
  (∀ s : State, exec (.pinReset false) s = .next { s with startUp := { s.startUp with
    resetLow := false,
    terminated := if s.startUp.powered = true then s.startUp.termLow else s.startUp.terminated } }) ∧
  (∀ s : State, ∃ t, exec .undervoltageLockout s = .next t ∧ AfterReset s t 0 ∧ t.held = true) ∧
  (∀ s : State, AfterReset s s.softReset 2)

/-- Start-up (Table 19-1, R429, R431, R509, R510): the stages follow each other in order; a bad boot ROM
halts, a slot boots only if it holds an image that verifies and whose counter is not below `rollback` (R430), the active
one before the other, and without one of the partition or the main image recovery follows, stage 2 waits for the link and leaves
untrained the channels retired when start-up began, those that fail and those of a package that does not match,
stage 3 those suspect ones whose pattern test fails, stage 5 writes the report and waits until its lines are
acknowledged (R513), and a missing base set ends at stage 0xFE after the report. A sticky bit, a module held in reset and a halted one
stay where they are. What a slot's bytes hold when the module ships is log entry 9, and how many lines of the report
are awaited at once log entry 89 (DESIGN CHOICE). -/
def Obligations.StartUpOrder : Prop :=
  (∀ (s : State) (f : Found), s.faulted = true ∨ s.held = true ∨ s.startUp.halted = true →
    exec (.startUpStage f) s = .next s) ∧
  (∀ (s : State) (f : Found), s.faulted = false → s.held = false → s.startUp.halted = false →
    (s.startUp.stage = 0 → f.romOk = false →
      exec (.startUpStage f) s = .next { s with startUp := { s.startUp with halted := true } }) ∧
    (s.startUp.stage = 0 → f.romOk = true → ∃ t, exec (.startUpStage f) s = .next t ∧
      t.startUp.stage = (if s.bootedSlot 1 f.spBoot = none ∨ s.bootedSlot 0 f.mainBoot = none then 0xFF else 1) ∧
      (s.bootedSlot 1 f.spBoot = none ∨ s.bootedSlot 0 f.mainBoot = none → t.part.spState = 1) ∧
      (∀ m p, s.bootedSlot 1 f.spBoot = some p → s.bootedSlot 0 f.mainBoot = some m →
        t.part.bootSlot = putBit (putBit s.part.bootSlot 1 (p == 1)) 0 (m == 1) ∧
        t.part.mSp = (s.firmware 1 p).measure 1 ∧ t.part.mMain = (s.firmware 0 m).measure 0)) ∧
    (∀ target damaged n, s.bootedSlot target damaged = some n → n < 2 ∧
      ∀ bs, s.firmware target n = .image bs → s.part.rollback ≤ imageCounter bs) ∧
    (s.startUp.stage = 1 → ∃ t, exec (.startUpStage f) s = .next t ∧ t.startUp.stage = 2 ∧
      (s.link.state = 0 → t.link.state = 1)) ∧
    (s.startUp.stage = 2 → s.linkUp = false → exec (.startUpStage f) s = .next s) ∧
    (s.startUp.stage = 2 → s.linkUp = true → ∃ t, exec (.startUpStage f) s = .next t ∧ t.startUp.stage = 3 ∧
      ∀ h, h < 192 → ((t.channel h).trained = true ↔ s.retiring h = false ∧ h ∉ f.failed ∧ h / 8 ∉ f.mismatch)) ∧
    (s.startUp.stage = 3 → ∃ t, exec (.startUpStage f) s = .next t ∧ t.startUp.stage = 4 ∧
      ∀ h, h < 192 → ((t.channel h).trained = true ↔ (s.channel h).trained = true ∧
        ¬ (s.channelBit 11 h = true ∧ s.patternFails f h = true))) ∧
    (s.startUp.stage = 4 → ∃ t, exec (.startUpStage f) s = .next t ∧ t.startUp.stage = 5 ∧
      t.cap = s.findCapability f ∧ s.part.rollback ≤ t.part.rollback) ∧
    (s.startUp.stage = 5 → s.startUp.report = none →
      let a := s.setting 0x11C0 4
      (a = 0 ∨ s.reportFits a = false → ∃ t, exec (.startUpStage f) s = .next t ∧
        t.startUp.stage = (if s.cap.base then 6 else 0xFE) ∧ t.t2 = s.t2 ∧
        t.startUp.suWritten = (if a = 0 then s.startUp.suWritten else 2)) ∧
      (a ≠ 0 → s.reportFits a = true → ∃ t, exec (.startUpStage f) s = .next t ∧ t.startUp.stage = 5 ∧
        t.startUp.report = some (newWrites s t) ∧ t.t2 = (s.writeT2 a (s.startReport f)).t2)) ∧
    (∀ ws, s.startUp.stage = 5 → s.startUp.report = some ws →
      ((∃ w ∈ ws, w ∈ s.link.writes) → exec (.startUpStage f) s = .next s) ∧
      ((∀ w ∈ ws, w ∉ s.link.writes) → ∃ t, exec (.startUpStage f) s = .next t ∧ t.startUp.suWritten = 1 ∧
        t.startUp.report = none ∧ t.startUp.stage = (if s.cap.base then 6 else 0xFE))) ∧
    (s.startUp.stage = 6 → ∃ t, exec (.startUpStage f) s = .next t ∧ t.startUp.stage = 7 ∧ t.tiers.mode = 0 ∧
      t.job.state = 1) ∧
    (7 ≤ s.startUp.stage → exec (.startUpStage f) s = .next s))

/-- LPDDR6 channels (R364 to R371): a refresh happens on trained channels out of Sleep, a scrub read in Run and Idle
(Table 18-5); a
corrected line is counted and owed a write-back, an uncorrectable or misdirected one is counted and raises the
memory fault of its quadrant; an error over three or more symbols is either, by a free value (log entry 70: the
model's choice); a write-back is no longer owed once done, and one that no scrub read owed follows a read by another
unit whose corrected symbol counts (log entry 117: a reading of R365); a new retrain interval starts the count
anew and, on a drift beyond range, a full retrain, whose failure raises the memory fault. -/
def Obligations.MemoryChannels : Prop :=
  ∀ (s : State) (h line : Nat), h < 192 →
    ((s.channel h).trained = true → 2 ≤ s.power.pstate → ∀ found, exec (.scrubRead h line found) s = .next s) ∧
    ((s.channel h).trained = true → s.power.pstate ≠ 3 →
      (∃ t, exec (.refresh h) s = .next t ∧ (t.channel h).refreshes = (s.channel h).refreshes + 1 ∧
        t.sent = .refresh h :: s.sent ∧ ∀ g, g ≠ h → t.channel g = s.channel g) ∧
      (∀ beyond, ∃ t, exec (.retrainInterval h beyond) s = .next t ∧ (t.channel h).recent = 0 ∧
        (t.channel h).retraining = ((s.channel h).retraining || beyond)) ∧
      (s.setting 0x2400 5 ≠ 0 → s.power.pstate < 2 →
        (∃ t, exec (.scrubRead h line .clean) s = .next t ∧ (t.channel h).scrubbed = (s.channel h).scrubbed + 1 ∧
          { t with channels := s.channels } = s) ∧
        (∃ t, exec (.scrubRead h line .corrected) s = .next t ∧
          (t.channel h).corrected = (s.channel h).corrected + 1 ∧ line ∈ (t.channel h).owed ∧
          (s.setting 0x2400 6 < (s.channel h).recent + 1 → t.causes.sys.getLsbD sysSuspect = true ∧
            t.channelBit 11 h = true)) ∧
        (∀ mis : Bool, ∃ t, exec (.scrubRead h line (if mis then .misdirected else .uncorrectable)) s = .next t ∧
          t.faults.sticky.getLsbD (srcMem (h / 48)) = true ∧ t.causes.sys.getLsbD sysSuspect = true ∧
          (t.channel h).uncorrected = (s.channel h).uncorrected + (if mis then 0 else 1) ∧
          (t.channel h).misdirected = (s.channel h).misdirected + (if mis then 1 else 0)) ∧
        (∃ t, exec (.scrubRead h line .wide) s = .next t ∧
          (s.free 0 % 2 = 1 → t.faults.sticky.getLsbD (srcMem (h / 48)) = true ∧
            (t.channel h).uncorrected = (s.channel h).uncorrected + 1) ∧
          (s.free 0 % 2 ≠ 1 → (t.channel h).corrected = (s.channel h).corrected + 1 ∧ t.faults = s.faults)))) ∧
    ((s.channel h).trained = false ∨ s.power.pstate = 3 → exec (.refresh h) s = .next s ∧
      (∀ beyond, exec (.retrainInterval h beyond) s = .next s) ∧
      (∀ found, exec (.scrubRead h line found) s = .next s)) ∧
    (∃ t, exec (.correctionWriteBack h line) s = .next t ∧ line ∉ (t.channel h).owed ∧
      (∀ l, l ≠ line → (l ∈ (t.channel h).owed ↔ l ∈ (s.channel h).owed)) ∧
      (t.channel h).corrected = (s.channel h).corrected +
        (if (s.channel h).trained = true ∧ line ∉ (s.channel h).owed then 1 else 0)) ∧
    ((s.channel h).retraining = false → ∀ ok, exec (.fullRetrainEnd h ok) s = .next s) ∧
    ((s.channel h).retraining = true →
      (∃ t, exec (.fullRetrainEnd h true) s = .next t ∧ (t.channel h).retraining = false ∧
        t.faults = s.faults) ∧
      (∃ t, exec (.fullRetrainEnd h false) s = .next t ∧ (t.channel h).retraining = false ∧
        t.faults.sticky.getLsbD (srcMem (h / 48)) = true))

/-- Presence, tamper and the test port: the button opens the presence window and its expiry closes it, the
jumper holds it; a tamper break raises the tamper fault, destroys every tenant key and sets `opened` for good
(R442, R447). IDCODE answers the module's number and BYPASS the bit (R532); while debug is locked an access passes its
bit as BYPASS does, and while it is unlocked it reads what a place holds and writes it (R448; which places there are and
how they are named is log entry 145, DESIGN CHOICE); the management link is followed (R459). -/
def Obligations.PresenceAndTest : Prop :=
  ∀ s : State,
    (∃ t, exec .presenceButton s = .next t ∧ t.presence = true ∧ t.presenceS = 120) ∧
    (∃ t, exec .presenceWindowExpiry s = .next t ∧ t.presence = (s.part.jumper || s.part.opened)) ∧
    (∀ fitted, ∃ t, exec (.presenceJumper fitted) s = .next t ∧
      t.presence = (s.part.button || fitted || s.part.opened)) ∧
    (∃ t, exec .tamperBreak s = .next t ∧ t.part.opened = true ∧ t.faults.sticky.getLsbD srcTamper = true ∧
      t.faults.live.getLsbD srcTamper = true ∧ ∀ x ∈ t.tenants, x.key = none) ∧
    exec .idcode s = .next (s.send (.jtag 0x1009C4AF)) ∧
    (∀ tdi, exec (.bypass tdi) s = .next (s.send (.jtag (if tdi then 1 else 0)))) ∧
    (∀ up, ∃ t, exec (.managementLinkChange up) s = .next t ∧ t.mgmt.link = (if up then 1 else 0) ∧
      { t with mgmt := s.mgmt } = s) ∧
    (s.part.debug = false → ∀ a, exec (.debugPortAccess a) s = exec (.bypass a.tdi) s) ∧
    (s.part.debug = true → ∀ tdi : Bool,
      exec (.debugPortAccess ⟨tdi, .halt⟩) s = .next (s.raiseFault srcDebugHalt) ∧
      (∀ p, exec (.debugPortAccess ⟨tdi, .read p⟩) s =
        .next ((s.drew 1).send (.jtag (BitVec.ofNat 64 (s.debugRead p))))) ∧
      (∀ vc n, s.debugRead (.reg vc n) = ((s.vcore vc).reg n).toNat) ∧
      (∀ vc n v, exec (.debugPortAccess ⟨tdi, .write (.reg vc n) v⟩) s = .next (s.modVcore vc (fun c => c.putReg n v))) ∧
      (∀ vc a v, exec (.debugPortAccess ⟨tdi, .write (.sram vc a) v⟩) s =
        .next (s.modVcore vc (fun c => { c with sram := memSet c.sram a (v.setWidth 8) }))) ∧
      (∀ q a v, q < 4 → ∃ t, exec (.debugPortAccess ⟨tdi, .write (.loft q a) v⟩) s = .next t ∧
        memGet (vGet t.cores.lofts q []) a = v.setWidth 8 ∧ t.debugRead (.loft q a) = v.toNat % 256) ∧
      (∀ n a v, exec (.debugPortAccess ⟨tdi, .write (.frame n a) v⟩) s =
        .next (s.putKvData n (memSet (s.kvData n) a (v.setWidth 8)))) ∧
      (∀ n a v, exec (.debugPortAccess ⟨tdi, .write (.host n a) v⟩) s = .next (s.writeHost n a [v.setWidth 8])) ∧
      (∀ n k v, exec (.debugPortAccess ⟨tdi, .write (.object n k) v⟩) s = .next (s.putSub n k v.toNat)))
end

