-- ==== Sys2Proof/Laws/Memory.lean ====
section
/-!
SUPPORT. Laws of sparse memory: a byte read after a write, and the canonical form that every memory
operation keeps.
-/

-- Each worker thread reserves stack of its own: proofs run one after another, to bound memory.
set_option Elab.async false

namespace Sys2Proof.Machine

/-! ### Reading after writing -/

theorem memGet_filter_ne (m : Mem) (a b : Nat) (h : b ≠ a) :
    memGet (m.filter (fun c => c.1 != a)) b = memGet m b := by
  induction m with
  | nil => rfl
  | cons c m ih =>
    obtain ⟨k, v⟩ := c
    by_cases hk : k = a
    · subst hk; simp [memGet, Ne.symm h, ih]
    · simp [memGet, hk, ih]

theorem memGet_filter_self (m : Mem) (a : Nat) : memGet (m.filter (fun c => c.1 != a)) a = 0 := by
  induction m with
  | nil => rfl
  | cons c m ih =>
    obtain ⟨k, v⟩ := c
    by_cases hk : k = a
    · simp [hk, ih]
    · simp [memGet, hk, ih]

theorem memGet_memDrop (m : Mem) (a b : Nat) : memGet (memDrop m a) b = if b = a then 0 else memGet m b := by
  unfold memDrop
  split
  · subst b; exact memGet_filter_self m a
  · exact memGet_filter_ne m a b ‹_›

theorem memGet_memPut (m : Mem) (a : Nat) (v : Byte) (b : Nat) (hm : ∀ c ∈ m, c.1 ≠ a) :
    memGet (memPut m a v) b = if b = a then v else memGet m b := by
  induction m with
  | nil => simp [memPut, memGet, eq_comm]
  | cons c m ih =>
    obtain ⟨k, w⟩ := c
    have hk : k ≠ a := hm (k, w) (List.mem_cons_self ..)
    have ih := ih (fun c hc => hm c (List.mem_cons_of_mem _ hc))
    unfold memPut
    by_cases hb : b = a
    · subst hb
      split <;> simp [memGet, hk, ih]
    · split
      · simp [memGet, Ne.symm hb]
      · by_cases hkb : k = b
        · simp [memGet, hkb]
        · simp [memGet, hkb, hb, ih]

/-- A byte that was written reads as written, and every other byte reads as before. -/
theorem memGet_memSet (m : Mem) (a : Nat) (v : Byte) (b : Nat) :
    memGet (memSet m a v) b = if b = a then v else memGet m b := by
  unfold memSet
  split
  · rename_i hv; subst hv; exact memGet_memDrop m a b
  · rw [memGet_memPut]
    · rw [memGet_memDrop]; split <;> simp_all
    · intro c hc; simp [memDrop] at hc; exact hc.2

/-- Bytes outside a written range read as before. -/
theorem memGet_writeBytes_out (m : Mem) (a : Nat) (bs : List Byte) (b : Nat)
    (h : b < a ∨ a + bs.length ≤ b) : memGet (writeBytes m a bs) b = memGet m b := by
  induction bs generalizing m a with
  | nil => rfl
  | cons x xs ih =>
    simp only [writeBytes, List.length_cons] at *
    rw [ih _ _ (by omega), memGet_memSet, if_neg (by omega)]

/-- Bytes inside a written range read as written. -/
theorem memGet_writeBytes_in (m : Mem) (a : Nat) (bs : List Byte) (i : Nat) (h : i < bs.length) :
    memGet (writeBytes m a bs) (a + i) = bs[i] := by
  induction bs generalizing m a i with
  | nil => simp at h
  | cons x xs ih =>
    simp only [writeBytes]
    cases i with
    | zero => rw [memGet_writeBytes_out _ _ _ _ (by omega), memGet_memSet]; simp
    | succ i =>
      have := ih (memSet m a x) (a + 1) i (by simpa using h)
      simpa [Nat.add_assoc, Nat.add_comm 1 i] using this

/-! ### The canonical form -/

/-- The canonical form as a statement about the list: nothing zero, addresses rising. -/
def Canonical (m : Mem) : Prop := (∀ c ∈ m, c.2 ≠ 0) ∧ m.Pairwise (fun c d => c.1 < d.1)

theorem memWf_iff (m : Mem) : memWf m = true ↔ Canonical m := by
  induction m with
  | nil => simp [memWf, Canonical]
  | cons c m ih =>
    obtain ⟨k, v⟩ := c
    cases m with
    | nil => simp [memWf, Canonical]
    | cons d m =>
      obtain ⟨k', v'⟩ := d
      simp only [memWf, Bool.and_eq_true, ih, Canonical, List.pairwise_cons, bne_iff_ne, decide_eq_true_eq,
        List.mem_cons, forall_eq_or_imp]
      constructor
      · rintro ⟨⟨h1, h2⟩, ⟨h3, h4⟩, h5, h6⟩
        exact ⟨⟨h1, h3, h4⟩, ⟨h2, fun c hc => Nat.lt_trans h2 (h5 c hc)⟩, h5, h6⟩
      · rintro ⟨⟨h1, h3, h4⟩, ⟨h2, _⟩, h5, h6⟩
        exact ⟨⟨h1, h2⟩, ⟨h3, h4⟩, h5, h6⟩

theorem canonical_memDrop {m : Mem} (h : Canonical m) (a : Nat) : Canonical (memDrop m a) :=
  ⟨fun c hc => h.1 c (List.mem_filter.1 hc).1, h.2.sublist (List.filter_sublist ..)⟩

theorem mem_memPut (m : Mem) (a : Nat) (v : Byte) (c : Nat × Byte) (h : c ∈ memPut m a v) :
    c = (a, v) ∨ c ∈ m := by
  induction m with
  | nil => simpa [memPut] using h
  | cons d m ih =>
    obtain ⟨k, w⟩ := d
    unfold memPut at h
    split at h
    · simpa using h
    · rcases List.mem_cons.1 h with h | h
      · exact .inr (by simp [h])
      · rcases ih h with h | h
        · exact .inl h
        · exact .inr (by simp [h])

theorem canonical_memPut {m : Mem} (h : Canonical m) (a : Nat) (v : Byte) (hv : v ≠ 0)
    (hm : ∀ c ∈ m, c.1 ≠ a) : Canonical (memPut m a v) := by
  induction m with
  | nil => exact ⟨by simpa [memPut] using hv, by simp [memPut]⟩
  | cons d m ih =>
    obtain ⟨k, w⟩ := d
    have hk : k ≠ a := hm (k, w) (List.mem_cons_self ..)
    have hp := List.pairwise_cons.1 h.2
    unfold memPut
    split
    · refine ⟨?_, List.pairwise_cons.2 ⟨?_, h.2⟩⟩
      · intro c hc
        rcases List.mem_cons.1 hc with hc | hc
        · rw [hc]; exact hv
        · exact h.1 c hc
      · intro c hc
        rcases List.mem_cons.1 hc with hc | hc
        · rw [hc]; assumption
        · exact Nat.lt_trans ‹_› (hp.1 c hc)
    · have ih := ih ⟨fun c hc => h.1 c (List.mem_cons_of_mem _ hc), hp.2⟩
        (fun c hc => hm c (List.mem_cons_of_mem _ hc))
      refine ⟨?_, List.pairwise_cons.2 ⟨?_, ih.2⟩⟩
      · intro c hc
        rcases List.mem_cons.1 hc with hc | hc
        · rw [hc]; exact h.1 _ (List.mem_cons_self ..)
        · exact ih.1 c hc
      · intro c hc
        rcases mem_memPut m a v c hc with hc | hc
        · rw [hc]; omega
        · exact hp.1 c hc

theorem memWf_memSet {m : Mem} (h : memWf m = true) (a : Nat) (v : Byte) : memWf (memSet m a v) = true := by
  rw [memWf_iff] at *
  unfold memSet
  split
  · exact canonical_memDrop h a
  · refine canonical_memPut (canonical_memDrop h a) a v ‹_› ?_
    intro c hc; simp [memDrop] at hc; exact hc.2

@[simp] theorem memWf_writeBytes {m : Mem} (h : memWf m = true) (a : Nat) (bs : List Byte) :
    memWf (writeBytes m a bs) = true := by
  induction bs generalizing m a with
  | nil => exact h
  | cons b bs ih => exact ih (memWf_memSet h a b) (a + 1)

@[simp] theorem memWf_writeLe {m : Mem} (h : memWf m = true) (a k n : Nat) :
    memWf (writeLe m a k n) = true := memWf_writeBytes h a _

@[simp] theorem memWf_nil : memWf [] = true := rfl

/-- Equal contents mean equal lists: the canonical form is unique. -/
theorem canonical_ext {m m' : Mem} (h : memWf m = true) (h' : memWf m' = true)
    (he : ∀ a, memGet m a = memGet m' a) : m = m' := by
  rw [memWf_iff] at h h'
  have get_lt : ∀ (l : Mem) (a : Nat), (∀ c ∈ l, a < c.1) → memGet l a = 0 := by
    intro l a hl
    induction l with
    | nil => rfl
    | cons c l ih =>
      obtain ⟨k, v⟩ := c
      have := hl (k, v) (List.mem_cons_self ..)
      simp only [memGet]
      rw [if_neg (by simp at this; omega)]
      exact ih (fun c hc => hl c (List.mem_cons_of_mem _ hc))
  induction m generalizing m' with
  | nil =>
    cases m' with
    | nil => rfl
    | cons c l =>
      obtain ⟨k, v⟩ := c
      have := he k
      simp [memGet] at this
      exact absurd this.symm (h'.1 (k, v) (List.mem_cons_self ..))
  | cons c m ih =>
    obtain ⟨k, v⟩ := c
    have hv : v ≠ 0 := h.1 (k, v) (List.mem_cons_self ..)
    have hp := List.pairwise_cons.1 h.2
    cases m' with
    | nil =>
      have := he k
      simp [memGet] at this
      exact absurd this hv
    | cons d l =>
      obtain ⟨k', v'⟩ := d
      have hv' : v' ≠ 0 := h'.1 (k', v') (List.mem_cons_self ..)
      have hp' := List.pairwise_cons.1 h'.2
      have hk : k = k' := by
        rcases Nat.lt_trichotomy k k' with hlt | heq | hgt
        · have h1 := he k
          rw [get_lt ((k', v') :: l) k] at h1
          · simp [memGet] at h1; exact absurd h1 hv
          · intro c hc
            rcases List.mem_cons.1 hc with hc | hc
            · rw [hc]; exact hlt
            · exact Nat.lt_trans hlt (hp'.1 c hc)
        · exact heq
        · have h1 := he k'
          rw [get_lt ((k, v) :: m) k'] at h1
          · simp [memGet] at h1; exact absurd h1.symm hv'
          · intro c hc
            rcases List.mem_cons.1 hc with hc | hc
            · rw [hc]; exact hgt
            · exact Nat.lt_trans hgt (hp.1 c hc)
      subst hk
      have hvv : v = v' := by simpa [memGet] using he k
      subst hvv
      have : m = l := by
        refine ih ⟨fun c hc => h.1 c (List.mem_cons_of_mem _ hc), hp.2⟩
          ⟨fun c hc => h'.1 c (List.mem_cons_of_mem _ hc), hp'.2⟩ (fun a => ?_)
        by_cases ha : k = a
        · subst ha
          rw [get_lt m k (fun c hc => hp.1 c hc), get_lt l k (fun c hc => hp'.1 c hc)]
        · simpa [memGet, ha] using he a
      rw [this]

end Sys2Proof.Machine
end

