-- ==== Sys2Proof/Laws/Inv.lean ====
section
/-!
SUPPORT. The invariant `State.Inv`: what it says of each part of the state, how an update of a field bears on
it, and that the shared operations of Ops.lean keep it. Later files cite these lemmas and unfold no
operation.
-/

-- Each worker thread reserves stack of its own: proofs run one after another, to bound memory.
set_option Elab.async false

namespace Sys2Proof.Machine

/-! ### Vectors and lists -/

theorem vGet_vMod {α : Type} {n : Nat} (v : Vector α n) (i j : Nat) (f : α → α) (d : α) :
    vGet (vMod v i f) j d = if i = j ∧ i < n then f (vGet v j d) else vGet v j d := by
  unfold vGet vMod
  by_cases hi : i < n
  · by_cases hj : i = j
    · subst hj; simp [hi]
    · simp [hi, hj]
  · simp [hi]

theorem vGet_map {α β : Type} {n : Nat} (v : Vector α n) (f : α → β) (j : Nat) (d : β) (d' : α) :
    vGet (v.map f) j d = if j < n then f (vGet v j d') else d := by
  unfold vGet
  by_cases hj : j < n <;> simp [hj]

/-- A property kept by each step of a fold is kept by the fold. -/
theorem foldl_keeps {α : Type} {P : State → Prop} {f : State → α → State} {l : List α} {s : State}
    (h : P s) (hf : ∀ s a, P s → P (f s a)) : P (l.foldl f s) := by
  induction l generalizing s with
  | nil => exact h
  | cons a l ih => exact ih (hf s a h)

@[simp] theorem foldl_inv {α : Type} {f : State → α → State} {l : List α} {s : State}
    (h : s.Inv) (hf : ∀ s a, s.Inv → (f s a).Inv) : (l.foldl f s).Inv := foldl_keeps h hf

@[simp] theorem ite_inv {c : Prop} [Decidable c] {s t : State} (h : s.Inv) (h' : t.Inv) :
    (if c then s else t).Inv := by split <;> assumption

/-! ### The parts of the invariant -/

@[simp] theorem inv_mk (pending ident cap startUp dict mgmt t2 link layers ports inbox sent cmdRings cqRings running job tenants areas slots partitions images sheaf grammars grammarSerial templates stores models granary step front epochs tiers cores sync part faults causes power channels deadlineFirst pairing timestamp draws) :
    (State.mk pending ident cap startUp dict mgmt t2 link layers ports inbox sent cmdRings cqRings running job tenants areas slots partitions images sheaf grammars grammarSerial templates stores models granary step front epochs tiers cores sync part faults causes power channels deadlineFirst pairing timestamp draws).Inv ↔
      memWf t2 = true ∧ memWf part.staging = true ∧ stageOk startUp.stage = true ∧ powerOk power = true ∧
      tiers.mode ≤ 4 ∧ job.state ≤ 3 ∧ pairing.state ≤ 3 ∧ link.state ≤ 3 ∧
      (∀ n, (vGet cmdRings n CmdRing.reset).taken.length ≤ 64) ∧
      (∀ n, (vGet cqRings n CqRing.reset).held.length ≤ 256) ∧ mgmt.kept.length ≤ 8 := Iff.rfl

variable {s : State}

@[simp] theorem inv_t2 (h : s.Inv) : memWf s.t2 = true := h.1
@[simp] theorem inv_staging (h : s.Inv) : memWf s.part.staging = true := h.2.1
@[simp] theorem inv_stage (h : s.Inv) : stageOk s.startUp.stage = true := h.2.2.1
@[simp] theorem inv_power (h : s.Inv) : powerOk s.power = true := h.2.2.2.1
@[simp] theorem inv_mode (h : s.Inv) : s.tiers.mode ≤ 4 := h.2.2.2.2.1
@[simp] theorem inv_job (h : s.Inv) : s.job.state ≤ 3 := h.2.2.2.2.2.1
@[simp] theorem inv_pairing (h : s.Inv) : s.pairing.state ≤ 3 := h.2.2.2.2.2.2.1
@[simp] theorem inv_link (h : s.Inv) : s.link.state ≤ 3 := h.2.2.2.2.2.2.2.1
@[simp] theorem inv_taken (h : s.Inv) (n : Nat) : (vGet s.cmdRings n CmdRing.reset).taken.length ≤ 64 :=
  h.2.2.2.2.2.2.2.2.1 n
@[simp] theorem inv_held (h : s.Inv) (n : Nat) : (vGet s.cqRings n CqRing.reset).held.length ≤ 256 :=
  h.2.2.2.2.2.2.2.2.2.1 n
@[simp] theorem inv_kept (h : s.Inv) : s.mgmt.kept.length ≤ 8 := h.2.2.2.2.2.2.2.2.2.2

/-! ### Components by number -/

@[simp] theorem modCmd_inv {n : Nat} {f : CmdRing → CmdRing} (h : s.Inv)
    (hf : (f (s.cmdRing n)).taken.length ≤ 64) : (s.modCmd n f).Inv := by
  simp only [State.modCmd, inv_mk]
  refine ⟨by simp [h], by simp [h], by simp [h], by simp [h], by simp [h], by simp [h], by simp [h],
    by simp [h], fun k => ?_, by simp [h], by simp [h]⟩
  rw [vGet_vMod]
  split
  · rename_i hk; rw [← hk.1]; exact hf
  · simp [h]

@[simp] theorem modCq_inv {n : Nat} {f : CqRing → CqRing} (h : s.Inv)
    (hf : (f (s.cqRing n)).held.length ≤ 256) : (s.modCq n f).Inv := by
  simp only [State.modCq, inv_mk]
  refine ⟨by simp [h], by simp [h], by simp [h], by simp [h], by simp [h], by simp [h], by simp [h],
    by simp [h], by simp [h], fun k => ?_, by simp [h]⟩
  rw [vGet_vMod]
  split
  · rename_i hk; rw [← hk.1]; exact hf
  · simp [h]

@[simp] theorem modLink_inv {f : CohLink → CohLink} (h : s.Inv) (hf : (f s.link).state ≤ 3) : (s.modLink f).Inv := by
  simp [State.modLink, h, hf]

theorem modPower_inv {f : Power → Power} (h : s.Inv) (hf : powerOk (f s.power) = true) : (s.modPower f).Inv :=
  ⟨h.1, h.2.1, h.2.2.1, hf, h.2.2.2.2⟩

theorem modTiers_inv {f : Tiers → Tiers} (h : s.Inv) (hf : (f s.tiers).mode ≤ 4) : (s.modTiers f).Inv :=
  ⟨h.1, h.2.1, h.2.2.1, h.2.2.2.1, hf, h.2.2.2.2.2⟩

/-- An update of the power block that leaves `pstate` and `holdWhy` alone. -/
@[simp] theorem modPower_same {f : Power → Power} (h : s.Inv) (h1 : (f s.power).pstate = s.power.pstate)
    (h2 : (f s.power).holdWhy = s.power.holdWhy) : (s.modPower f).Inv :=
  modPower_inv h (by have := inv_power h; simp only [powerOk] at *; rw [h1, h2]; exact this)

/-- An update of the tiers that leaves the mode alone. -/
@[simp] theorem modTiers_same {f : Tiers → Tiers} (h : s.Inv) (h1 : (f s.tiers).mode = s.tiers.mode) :
    (s.modTiers f).Inv := modTiers_inv h (h1 ▸ inv_mode h)


@[simp] theorem inv_cmdRing (h : s.Inv) (n : Nat) : (s.cmdRing n).taken.length ≤ 64 := inv_taken h n
@[simp] theorem inv_cqRing (h : s.Inv) (n : Nat) : (s.cqRing n).held.length ≤ 256 := inv_held h n

@[simp] theorem setSys_inv (h : s.Inv) (b : Nat) : (s.setSys b).Inv := by simp [State.setSys, h]
@[simp] theorem setLinkCause_inv (h : s.Inv) (b : Nat) : (s.setLinkCause b).Inv := by
  simp [State.setLinkCause, h]

end Sys2Proof.Machine
end

