-- ==== Sys2Proof/Laws/InvOps.lean ====
section
/-!
SUPPORT. The invariant `State.Inv` is kept by the functions of Machine/Ops.lean.
-/

-- Each worker thread reserves stack of its own: proofs run one after another, to bound memory.
set_option Elab.async false

namespace Sys2Proof.Machine


@[simp] theorem memWf_writeSlots {m : Mem} (h : memWf m = true) (base size p : Nat) (l : List Slot) :
    memWf (writeSlots m base size p l) = true := by
  induction l generalizing m p with
  | nil => exact h
  | cons x l ih => exact ih (memWf_writeBytes h _ _) (p + 1)

/-- A ring that is fetched has a free place (R17). -/
theorem taken_of_fetches {s : State} {n : Nat} (h : s.fetches n = true) : (s.cmdRing n).taken.length < 64 := by
  simp only [State.fetches, Bool.and_eq_true, decide_eq_true_eq] at h
  omega

@[simp] theorem setOverrun_inv {s : State} (h : s.Inv) (n : Nat) : (s.setOverrun n).Inv := by
  simp [State.setOverrun, h]
@[simp] theorem setCq_inv {s : State} (h : s.Inv) (n : Nat) : (s.setCq n).Inv := by simp [State.setCq, h]
@[simp] theorem setSlow_inv {s : State} (h : s.Inv) (n : Nat) : (s.setSlow n).Inv := by simp [State.setSlow, h]
@[simp] theorem refreshSys_inv {s : State} (h : s.Inv) : s.refreshSys.Inv := by simp [State.refreshSys, h]

@[simp] theorem putSetting_inv {s : State} (hI : s.Inv) (index sub v : Nat) : (State.putSetting s index sub v).Inv := by
  simp [State.putSetting, hI]

@[simp] theorem drew_inv {s : State} (hI : s.Inv) (n : Nat) : (State.drew s n).Inv := by
  simp [State.drew, hI]

@[simp] theorem modPort_inv {s : State} (hI : s.Inv) (p : Nat) (f : PeerPort → PeerPort) : (State.modPort s p f).Inv := by
  simp [State.modPort, hI]

@[simp] theorem modTenant_inv {s : State} (hI : s.Inv) (t : Nat) (f : Tenant → Tenant) : (State.modTenant s t f).Inv := by
  simp [State.modTenant, hI]

@[simp] theorem movePort_inv {s : State} (hI : s.Inv) (p : Nat) (f : PeerPort → PeerPort) : (State.movePort s p f).Inv := by
  unfold State.movePort
  exact ite_inv (modPort_inv hI _ _) (setLinkCause_inv (modPort_inv hI _ _) _)

@[simp] theorem count_inv {s : State} (hI : s.Inv) (t : Nat) (f : Counts → Counts) : (State.count s t f).Inv := by
  simp [State.count, hI]

@[simp] theorem send_inv {s : State} (hI : s.Inv) (m : Sent) : (State.send s m).Inv := by
  simp [State.send, hI]

@[simp] theorem sendLineOf_inv {s : State} (hI : s.Inv) (slot : Bool) (addr : Nat) :
    (State.sendLineOf slot s addr).Inv := send_inv (modLink_inv hI (inv_link hI)) _

@[simp] theorem pumpLink_inv {s : State} (hI : s.Inv) (l : Nat) : (s.pumpLink l).Inv := hI

@[simp] theorem pumpAll_inv {s : State} (hI : s.Inv) : s.pumpAll.Inv :=
  foldl_keeps hI (fun _ l hI => pumpLink_inv hI l)

@[simp] theorem sendPeer_inv {s : State} (hI : s.Inv) (p : Nat) (m : Sent) : (s.sendPeer p m).Inv :=
  send_inv (modPort_inv hI _ _) m

@[simp] theorem sendLine_inv {s : State} (hI : s.Inv) (addr : Nat) : (State.sendLine s addr).Inv :=
  sendLineOf_inv hI false addr

@[simp] theorem reserve_inv {s : State} (hI : s.Inv) (t u : Nat) : (State.reserve s t u).Inv := modTenant_inv hI t _

@[simp] theorem giveBack_inv {s : State} (hI : s.Inv) (t u : Nat) : (State.giveBack s t u).Inv := modTenant_inv hI t _

@[simp] theorem dropWork_inv {s : State} (hI : s.Inv) (w : FrontWork) : (State.dropWork s w).Inv := by
  simp [State.dropWork, hI]

@[simp] theorem leaveIdle_inv {s : State} (hI : s.Inv) : s.leaveIdle.Inv := by
  refine modPower_inv hI ?_
  have := inv_power hI
  unfold powerOk at *
  dsimp only
  by_cases h : s.power.pstate = 1
  · rw [h] at this ⊢; simpa using this
  · simpa [h] using this

@[simp] theorem wake_inv {s : State} (hI : s.Inv) : s.wake.Inv := by simp [State.wake, hI]

@[simp] theorem sendLines_inv {s : State} (hI : s.Inv) (a : Nat) (k : Nat) : (State.sendLines s a k).Inv := by
  induction k generalizing s a with
  | zero => exact hI
  | succ k ih => exact ih (sendLine_inv hI a) (a + 64)

@[simp] theorem writeT2_inv {s : State} (hI : s.Inv) (addr : Nat) (bs : List Byte) : (State.writeT2 s addr bs).Inv := by
  unfold State.writeT2
  dsimp only
  split
  · exact hI
  · exact sendLines_inv (by simp [hI]) _ _

@[simp] theorem sendRead_inv {s : State} (hI : s.Inv) (addr : Nat) (use : ReadUse) : (State.sendRead s addr use).Inv := by
  refine send_inv (modLink_inv hI (inv_link hI)) _

@[simp] theorem readSource_inv {s : State} (hI : s.Inv) : (State.readSource s).Inv := by
  unfold State.readSource
  repeat' split
  · exact modLink_inv (sendRead_inv hI _ _) (inv_link (sendRead_inv hI _ _))
  all_goals exact hI

@[simp] theorem readSources_inv {s : State} (hI : s.Inv) (l : List (Nat × Nat)) : (State.readSources s l).Inv := by
  unfold State.readSources
  dsimp only
  split
  · exact hI
  · exact readSource_inv (modLink_inv hI (inv_link hI))

@[simp] theorem fetchRecords_inv {s : State} (hI : s.Inv) (n : Nat) (k : Nat) : (State.fetchRecords s n k).Inv := by
  induction k generalizing s with
  | zero => exact hI
  | succ k ih =>
    unfold State.fetchRecords
    dsimp only
    split
    · exact ih (modCmd_inv (sendRead_inv hI _ _) (inv_cmdRing (sendRead_inv hI _ _) n))
    · exact hI

@[simp] theorem fetch_inv {s : State} (hI : s.Inv) (n : Nat) : (State.fetch s n).Inv := by
  exact fetchRecords_inv hI n 64

@[simp] theorem writeConsumer_inv {s : State} (hI : s.Inv) (n : Nat) : (State.writeConsumer s n).Inv := by
  simp [State.writeConsumer, hI]

@[simp] theorem takeArrived_inv {s : State} (hI : s.Inv) (n : Nat) (k : Nat) : (State.takeArrived s n k).Inv := by
  induction k generalizing s with
  | zero => exact hI
  | succ k ih =>
    unfold State.takeArrived
    dsimp only
    repeat' split
    · rename_i hf
      have := taken_of_fetches (Bool.and_eq_true _ _ ▸ hf : _ ∧ _).2
      exact ih (writeConsumer_inv (modCmd_inv hI (by simp; omega)) n)
    all_goals exact hI

@[simp] theorem serveRing_inv {s : State} (hI : s.Inv) (n : Nat) : (State.serveRing s n).Inv := by
  simp [State.serveRing, hI]

@[simp] theorem serveFor_inv {s : State} (hI : s.Inv) (c : Nat) : (State.serveFor s c).Inv := by
  unfold State.serveFor
  refine foldl_keeps hI (fun s n hI => ?_)
  split
  · exact serveRing_inv hI n
  · exact hI

@[simp] theorem serveAll_inv {s : State} (hI : s.Inv) : s.serveAll.Inv := foldl_keeps hI (fun _ n hI => serveRing_inv hI n)

@[simp] theorem placeFreed_inv {s : State} (hI : s.Inv) (ring : Nat) : (State.placeFreed s ring).Inv := by
  unfold State.placeFreed
  split
  · exact serveRing_inv hI ring
  · exact serveAll_inv hI

@[simp] theorem takeProducer_inv {s : State} (hI : s.Inv) (n : Nat) (idx : U32) : (State.takeProducer s n idx).Inv := by
  unfold State.takeProducer
  dsimp only
  repeat' split
  · exact hI
  · exact setOverrun_inv (modCmd_inv hI (by simp [hI])) n
  · exact serveRing_inv (modCmd_inv hI (by simp [hI])) n

@[simp] theorem endRecord_inv {s : State} (hI : s.Inv) (done : Option (Nat × Nat)) : (State.endRecord s done).Inv := by
  unfold State.endRecord
  split
  · exact hI
  · refine foldl_keeps (by simp [hI]) (fun s r hI => ?_)
    split
    · exact hI
    · exact giveBack_inv hI _ _

/-- The completion rings do not change when a record ends. -/
@[simp] theorem endRecord_cqRings (s : State) (done : Option (Nat × Nat)) : (s.endRecord done).cqRings = s.cqRings := by
  unfold State.endRecord
  split
  · rfl
  · exact foldl_keeps (P := fun t => t.cqRings = s.cqRings) rfl (fun t r h => by split <;> exact h)

@[simp] theorem writePost_inv {s : State} (hI : s.Inv) (p : Post) : (State.writePost s p).Inv := by
  have h1 (b z q l) : ({ s with t2 := writeSlots s.t2 b z q l } : State).Inv := by simp [hI]
  have h2 (b z q l ls) : (List.foldl (State.sendLineOf true)
      ({ s with t2 := writeSlots s.t2 b z q l } : State) ls).Inv :=
    foldl_keeps (h1 b z q l) (fun s a hI => sendLineOf_inv hI true a)
  have h3 (t : State) (c : Nat) (idx : U32) (d : CohLink → List Deferred) (ht : t.Inv) :
      ((t.modCq c (fun q => { q with producer := idx })).modLink (fun l => { l with deferred := d l })).Inv :=
    modLink_inv (modCq_inv ht (inv_cqRing ht c)) (inv_link (s := t) ht)
  have h4 (t : State) (ht : t.Inv) : (if p.int then t.setCq p.cq else t).Inv := ite_inv (setCq_inv ht _) ht
  have h5 (t : State) (ht : t.Inv) (l : List Nat) : ({ t with faults := { t.faults with due := l } } : State).Inv := ht
  unfold State.writePost
  dsimp only at h2 h3 ⊢
  split
  · exact h5 _ (h4 _ (h3 _ _ _ _ (h2 _ _ _ _ _))) _
  · exact h4 _ (h3 _ _ _ _ (h2 _ _ _ _ _))

@[simp] theorem post_inv {s : State} (hI : s.Inv) (p : Post) : (State.post s p).Inv := by
  unfold State.post
  dsimp only
  repeat' split
  · exact endRecord_inv hI _
  · exact writePost_inv (endRecord_inv hI _) _
  · rename_i hl _
    have : ((s.endRecord p.done).cqRing p.cq).held = (s.cqRing p.cq).held := by
      simp [State.cqRing]
    exact modCq_inv (endRecord_inv hI _) (by simp [this]; omega)
  · exact modLink_inv hI (by simp [hI])

@[simp] theorem drainHeld_inv {s : State} (hI : s.Inv) (c : Nat) (k : Nat) : (State.drainHeld s c k).Inv := by
  induction k generalizing s with
  | zero => exact hI
  | succ k ih =>
    unfold State.drainHeld
    split
    · exact hI
    · rename_i p rest hr
      split
      · refine ih (writePost_inv (modCq_inv hI ?_) p)
        have := inv_cqRing hI c
        rw [hr] at this
        simp at this ⊢; omega
      · exact hI

@[simp] theorem unstall_inv {s : State} (hI : s.Inv) (c : Nat) : (State.unstall s c).Inv := by
  unfold State.unstall
  dsimp only
  refine foldl_keeps (modLink_inv hI (by simp [hI])) (fun s d hI => ?_)
  split
  · exact post_inv hI _
  · exact hI

@[simp] theorem drainCq_inv {s : State} (hI : s.Inv) (c : Nat) : (State.drainCq s c).Inv := by
  simp (maxDischargeDepth := 20) [State.drainCq, hI]

@[simp] theorem takeConsumer_inv {s : State} (hI : s.Inv) (c : Nat) (idx : U32) : (State.takeConsumer s c idx).Inv := by
  unfold State.takeConsumer
  split
  · exact drainCq_inv (modCq_inv hI (inv_cqRing hI c)) c
  · exact hI

@[simp] theorem rewatch_inv {s : State} (hI : s.Inv) (p : Nat → Bool) : (State.rewatch s p).Inv := by
  unfold State.rewatch
  refine foldl_keeps hI (fun s w hI => ?_)
  split
  · exact sendRead_inv (modLink_inv hI (by simp [hI])) _ _
  · exact hI

@[simp] theorem resumeRings_inv {s : State} (hI : s.Inv) : s.resumeRings.Inv := by
  unfold State.resumeRings
  dsimp only
  have h1 : (if s.traffic then s.rewatch (fun a => !s.link.shared.contains a) else s).Inv :=
    ite_inv (rewatch_inv hI _) hI
  refine serveAll_inv (foldl_keeps (pumpAll_inv (readSource_inv h1)) ?_)
  · intro s c hI
    split
    · exact drainCq_inv hI c
    · exact hI

@[simp] theorem releaseWrite_inv {s : State} (hI : s.Inv) (w : WaitingWrite) : (State.releaseWrite s w).Inv := by
  unfold State.releaseWrite
  split <;> simp [hI]

@[simp] theorem releaseAll_inv {s : State} (hI : s.Inv) : (State.releaseAll s).Inv := by
  unfold State.releaseAll
  exact foldl_keeps (modLink_inv hI (by simp [hI])) (fun s d hI => releaseWrite_inv hI _)

@[simp] theorem completeAfter_inv {s : State} (hI : s.Inv) (needs : List U16) (r : Record) (id status : Nat) (results : List Byte) : (State.completeAfter s needs r id status results).Inv := by
  simp (maxDischargeDepth := 20) [State.completeAfter, hI]

@[simp] theorem complete_inv {s : State} (hI : s.Inv) (r : Record) (id status : Nat) (results : List Byte) : (State.complete s r id status results).Inv := by
  simp [State.complete, hI]

@[simp] theorem completeId_inv {s : State} (hI : s.Inv) (id status : Nat) (results : List Byte) : (State.completeId s id status results).Inv := by
  unfold State.completeId
  split <;> simp [hI]

@[simp] theorem enableCmd_inv {s : State} (hI : s.Inv) (n : Nat) : (State.enableCmd s n).Inv := by
  unfold State.enableCmd
  have h1 : ((s.modCmd n CmdRing.enable).putSetting (cmdObj n) 1 1).Inv :=
    putSetting_inv (modCmd_inv hI (inv_cmdRing hI n)) _ _ _
  dsimp only at h1 ⊢
  split
  · exact sendRead_inv (writeConsumer_inv h1 _) _ _
  · exact h1

@[simp] theorem enableCq_inv {s : State} (hI : s.Inv) (n : Nat) : (State.enableCq s n).Inv := by
  unfold State.enableCq
  have h1 : ((s.modCq n (fun q => { q with enabled := true, producer := 0, consumer := 0 })).putSetting
      (cqObj n) 1 1).Inv := putSetting_inv (modCq_inv hI (by simp [hI])) _ _ _
  dsimp only at h1 ⊢
  split
  · exact sendRead_inv (writeT2_inv h1 _ _) _ _
  · exact h1

@[simp] theorem dropWatch_inv {s : State} (hI : s.Inv) (addr : Nat) : (State.dropWatch s addr).Inv := by
  unfold State.dropWatch
  split
  · exact send_inv (modLink_inv hI (by simp [hI])) _
  · exact hI

@[simp] theorem dropReads_inv {s : State} (hI : s.Inv) (u : ReadUse) : (State.dropReads s u).Inv :=
  modLink_inv hI (inv_link hI)

@[simp] theorem staleRecords_inv {s : State} (hI : s.Inv) (p : Nat → Bool) : (State.staleRecords s p).Inv := by
  simp [State.staleRecords, hI]

@[simp] theorem disableCmd_inv {s : State} (hI : s.Inv) (n : Nat) : (State.disableCmd s n).Inv := by
  unfold State.disableCmd
  exact dropWatch_inv (putSetting_inv (modCmd_inv (dropReads_inv (staleRecords_inv hI _) _) (inv_cmdRing (dropReads_inv (staleRecords_inv hI _) _) n)) _ _ _) _

@[simp] theorem disableCq_inv {s : State} (hI : s.Inv) (n : Nat) : (State.disableCq s n).Inv := by
  unfold State.disableCq
  exact dropWatch_inv (putSetting_inv (modCq_inv (dropReads_inv hI _) (inv_cqRing (dropReads_inv hI _) n)) _ _ _) _

@[simp] theorem endObjects_inv {s : State} (hI : s.Inv) : (State.endObjects s).Inv := by
  simp [State.endObjects, hI]

@[simp] theorem completeAll_inv {s : State} (hI : s.Inv) (status : Nat) (l : List (Nat × Record)) : (State.completeAll s status l).Inv := by
  unfold State.completeAll
  exact foldl_keeps hI (fun s e hI => post_inv hI _)

@[simp] theorem undoLine_inv {s : State} (hI : s.Inv) (e : U16 × Nat × Line) : (State.undoLine s e).Inv := by
  unfold State.undoLine
  split <;> simp [hI]

@[simp] theorem unsettle_inv {s : State} (hI : s.Inv) : s.unsettle.Inv := by
  unfold State.unsettle
  exact foldl_keeps hI (fun s e hI => undoLine_inv hI e)

@[simp] theorem enterFault_inv {s : State} (hI : s.Inv) : (State.enterFault s).Inv := by
  have h2 (f : Deferred → Bool) : ((s.unsettle.modLink (fun l => { l with
      sources := [], deferred := l.deferred.filter f })).staleRecords (fun _ => true)).Inv :=
    staleRecords_inv (modLink_inv (unsettle_inv hI) (inv_link (unsettle_inv hI))) (fun _ => true)
  have h3 (t : State) (ht : t.Inv) : ({ t with
      cmdRings := t.cmdRings.map (fun (r : CmdRing) => { r.refetch with taken := [], former := [] }) } : State).Inv := by
    simp only [inv_mk]
    refine ⟨by simp [ht], by simp [ht], by simp [ht], by simp [ht], by simp [ht], by simp [ht], by simp [ht],
      by simp [ht], fun n => ?_, by simp [ht], by simp [ht]⟩
    rw [vGet_map _ _ _ _ CmdRing.reset]
    split <;> simp [CmdRing.reset]
  have h4 (t : State) (ht : t.Inv) (b : Bool) : ({ t with
      startUp := { t.startUp with report := none },
      faults := { t.faults with faultStates := t.faults.faultStates + 1, owed := b } } : State).Inv := by simp [ht]
  have h5 := fun f l b => serveAll_inv (completeAll_inv (h4 _ (endObjects_inv (h3 _ (h2 f))) b) stJobRestarted l)
  unfold State.enterFault
  dsimp only
  split
  · exact sendPeer_inv (h5 _ _ _) _ _
  · exact h5 _ _ _

@[simp] theorem pairFaulted_inv {s : State} (hI : s.Inv) : (State.pairFaulted s).Inv := by
  simp (maxDischargeDepth := 20) [State.pairFaulted, hI]

@[simp] theorem raiseFault_inv {s : State} (hI : s.Inv) (source : Nat) : (State.raiseFault s source).Inv := by
  simp (maxDischargeDepth := 20) [State.raiseFault, hI]

@[simp] theorem injectDue_inv {s : State} (hI : s.Inv) : s.injectDue.Inv := by
  unfold State.injectDue
  exact foldl_keeps (by simp [hI]) (fun s n hI => raiseFault_inv hI n)

@[simp] theorem resumeTraffic_inv {s : State} (hI : s.Inv) : s.resumeTraffic.Inv := injectDue_inv (resumeRings_inv hI)

@[simp] theorem setLive_inv {s : State} (hI : s.Inv) (source : Nat) (live rail : Bool) : (State.setLive s source live rail).Inv := by
  simp [State.setLive, hI]

@[simp] theorem holdFault_inv {s : State} (hI : s.Inv) (source : Nat) : (State.holdFault s source).Inv := by
  simp [State.holdFault, hI]

@[simp] theorem fillLevels_inv {s : State} (hI : s.Inv) : (State.fillLevels s).Inv := by
  simp [State.fillLevels, hI]

@[simp] theorem restartJob_inv {s : State} (hI : s.Inv) : (State.restartJob s).Inv := by
  simp (maxDischargeDepth := 20) [State.restartJob, hI]

end Sys2Proof.Machine
end

