-- ==== Sys2Proof/Laws/InvOperands.lean ====
section
/-!
SUPPORT. The invariant `State.Inv` is kept by the functions of Machine/Operands.lean.
-/

-- Each worker thread reserves stack of its own: proofs run one after another, to bound memory.
set_option Elab.async false

namespace Sys2Proof.Machine


/-- An outcome whose next state, if any, satisfies the invariant. -/
def Keeps (o : Host.Outcome State Fault Refusal) : Prop := ∀ t, o = .next t → t.Inv

@[simp] theorem keeps_next {s : State} : Keeps (.next s) ↔ s.Inv :=
  ⟨fun h => h s rfl, fun h t e => by cases e; exact h⟩

/-- Waking from Idle keeps the power state legal. -/
@[simp] theorem powerOk_wake {p : Power} (h : powerOk p = true) :
    powerOk { p with pstate := if p.pstate = 1 then 0 else p.pstate } = true := by
  simp only [powerOk, Bool.and_eq_true, decide_eq_true_eq] at *
  by_cases h1 : p.pstate = 1
  · simp [h1] at *; exact h
  · simp [h1] at *; exact h

@[simp] theorem charge_inv {s : State} (hI : s.Inv) (t units : Nat) : (State.charge s t units).Inv := by
  simp [State.charge, hI]

@[simp] theorem baleUnits_inv {s : State} (hI : s.Inv) (t n : Nat) : (State.baleUnits s t n).Inv := by
  simp [State.baleUnits, hI]

@[simp] theorem countRefusal_inv {s : State} (hI : s.Inv) (t status : Nat) : (State.countRefusal s t status).Inv := by
  simp [State.countRefusal, hI]


/-- A record's start keeps the invariant when its plan's effect does, from any state that meets it. -/
theorem startRecord_inv {s : State} (hI : s.Inv) (r : Record) (plan : Record → State → Plan)
    (hp : ∀ t v id, v.Inv → firstFailure (planChecks t r (plan r t)) = stOk → ((plan r t).run id v).Inv) :
    (s.startRecord r plan).Inv := by
  have key (t : State) (id : Nat) (ht : t.Inv) : (if !t.seqOk r then t.complete r id stBadParam (t.refusalResult r stBadParam)
      else
        let u := t.modCmd r.ring (fun c => { c with lastSeq := some r.seq })
        let p := plan r u
        let st := firstFailure (planChecks u r p)
        if st == stOk then p.run id (u.readSources p.sources)
        else (u.countRefusal r.tenant st).complete r id st (u.refusalResult r st)).Inv := by
    have hu : (t.modCmd r.ring (fun c => { c with lastSeq := some r.seq })).Inv :=
      modCmd_inv ht (inv_cmdRing ht r.ring)
    dsimp only
    repeat' split
    · exact complete_inv ht _ _ _ _
    · rename_i hst
      exact hp _ _ _ (readSources_inv hu _) (by simpa using hst)
    · exact complete_inv (countRefusal_inv hu _ _) _ _ _ _
  unfold State.startRecord
  split
  · exact complete_inv hI _ _ _ _
  · exact key _ _ (leaveIdle_inv hI)

theorem offer_inv {s : State} (hI : s.Inv) (r : Record) (plan : Record → State → Plan)
    (hp : ∀ t v id, v.Inv → firstFailure (planChecks t r (plan r t)) = stOk → ((plan r t).run id v).Inv) :
    (s.offer r plan).Inv := by
  unfold State.offer
  repeat' split
  · exact hI
  · exact startRecord_inv hI r plan hp
  · rename_i hf _
    have := taken_of_fetches (n := r.ring) (s := s) (by simpa using hf)
    exact modCmd_inv hI (by simp; omega)

/-- A record row keeps the invariant when the effect of its plan does, its checks passed. -/
theorem record_inv' {s : State} (hI : s.Inv) (r : Record) (op : Nat) (plan : Record → State → Plan)
    (hp : ∀ t v r id, v.Inv → firstFailure (planChecks t r (plan r t)) = stOk → ((plan r t).run id v).Inv) :
    (s.record r op plan).Inv :=
  offer_inv hI _ plan (fun t v id h e => hp t v _ id h e)

/-- A record row keeps the invariant when the effect of its plan does. -/
theorem record_inv {s : State} (hI : s.Inv) (r : Record) (op : Nat) (plan : Record → State → Plan)
    (hp : ∀ t v r id, v.Inv → ((plan r t).run id v).Inv) : (s.record r op plan).Inv :=
  record_inv' hI r op plan (fun t v r id h _ => hp t v r id h)

/-- Checks that all pass pass one by one. -/
theorem firstFailure_ok {l : List (Bool × Nat)} (h : firstFailure l = stOk) (hl : ∀ c ∈ l, c.2 ≠ stOk) :
    ∀ c ∈ l, c.1 = true := by
  induction l with
  | nil => simp
  | cons x xs ih =>
    unfold firstFailure at h
    split at h
    · rename_i hx
      intro c hc
      cases List.mem_cons.1 hc with
      | inl e => exact e ▸ hx
      | inr e => exact ih h (fun c hc => hl c (List.mem_cons_of_mem _ hc)) c e
    · exact absurd h (hl _ (List.mem_cons_self ..))

end Sys2Proof.Machine
end

