-- ==== Sys2Proof/Laws/InvChannels.lean ====
section
/-!
SUPPORT. The invariant `State.Inv` is kept by the functions of Machine/Channels.lean.
-/

-- Each worker thread reserves stack of its own: proofs run one after another, to bound memory.
set_option Elab.async false

namespace Sys2Proof.Machine

@[simp] theorem modChannel_inv {s : State} (hI : s.Inv) (h : Nat) (f : Channel → Channel) : (State.modChannel s h f).Inv := by
  simp [State.modChannel, hI]

@[simp] theorem putPersistent_inv {s : State} (hI : s.Inv) (index sub v : Nat) : (State.putPersistent s index sub v).Inv := by
  simp [State.putPersistent, hI]

@[simp] theorem keepLate_inv {s : State} (hI : s.Inv) : (State.keepLate s).Inv := by
  simp (maxDischargeDepth := 20) [State.keepLate, hI]

@[simp] theorem takeArbMode_inv {s : State} (hI : s.Inv) : (State.takeArbMode s).Inv := by
  unfold State.takeArbMode
  dsimp only
  split
  · exact hI
  · exact keepLate_inv hI

@[simp] theorem refreshAll_inv {s : State} (hI : s.Inv) (h : Nat) : (State.refreshAll s h).Inv := by
  unfold State.refreshAll
  split <;> simp [hI]

/-- A refresh bears on no power state. -/
@[simp] theorem refreshAll_power (s : State) (h : Nat) : (State.refreshAll s h).power = s.power := by
  unfold State.refreshAll
  split <;> rfl

@[simp] theorem refreshAlls_power (l : List Nat) (s : State) : (l.foldl State.refreshAll s).power = s.power := by
  induction l generalizing s with
  | nil => rfl
  | cons h l ih => simp [ih]

end Sys2Proof.Machine
end

