-- ==== Sys2Proof/Laws/InvRoute.lean ====
section
/-!
SUPPORT. The invariant `State.Inv` is kept by the functions of Machine/Route.lean.
-/

-- Each worker thread reserves stack of its own: proofs run one after another, to bound memory.
set_option Elab.async false

namespace Sys2Proof.Machine

@[simp] theorem putOnPort_inv {s : State} (hI : s.Inv) (p : Nat) (m : Sent) : (State.putOnPort s p m).Inv := by
  simp (maxDischargeDepth := 20) [State.putOnPort, hI]

@[simp] theorem sendOnPort_inv {s : State} (hI : s.Inv) (p : Nat) (m : Sent) : (State.sendOnPort s p m).Inv := by
  simp [State.sendOnPort, hI]

@[simp] theorem sendTo_inv {s : State} (hI : s.Inv) (d : Nat) (mk : Nat → Sent) : (State.sendTo s d mk).Inv := by
  unfold State.sendTo
  split <;> simp [hI]

end Sys2Proof.Machine
end

