-- ==== Sys2Proof/Laws/InvBarrier.lean ====
section
/-!
SUPPORT. The invariant `State.Inv` is kept by the functions of Machine/Barrier.lean.
-/

-- Each worker thread reserves stack of its own: proofs run one after another, to bound memory.
set_option Elab.async false

namespace Sys2Proof.Machine

@[simp] theorem modBarrier_inv {s : State} (hI : s.Inv) (b : Nat) (f : Barrier → Barrier) : (State.modBarrier s b f).Inv := by
  simp [State.modBarrier, hI]

@[simp] theorem ownArrival_inv {s : State} (hI : s.Inv) (b : Nat) : (State.ownArrival s b).Inv := by
  unfold State.ownArrival
  dsimp only
  repeat' split
  all_goals first
    | exact hI
    | simp (maxDischargeDepth := 20) [hI]; done
    | refine foldl_inv (by simp (maxDischargeDepth := 20) [hI]) (fun s a hI => ?_); simp (maxDischargeDepth := 20) [hI]

@[simp] theorem takeArrival_inv {s : State} (hI : s.Inv) (m : SyncMsg) : (State.takeArrival s m).Inv := by
  simp [State.takeArrival, hI]

@[simp] theorem takeRelease_inv {s : State} (hI : s.Inv) (m : SyncMsg) : (State.takeRelease s m).Inv := by
  simp [State.takeRelease, hI]

@[simp] theorem tellRelease_inv {s : State} (hI : s.Inv) (b : Nat) : (State.tellRelease s b).Inv := by
  unfold State.tellRelease
  dsimp only
  split
  · exact hI
  · exact foldl_keeps hI (fun s d hI => sendTo_inv hI d _)

@[simp] theorem nextEpoch_inv {s : State} (hI : s.Inv) (b : Nat) : (State.nextEpoch s b).Inv := by
  unfold State.nextEpoch
  exact foldl_inv (modBarrier_inv (tellRelease_inv hI b) _ _) (fun s a hI => by split <;> simp (maxDischargeDepth := 20) [hI])

@[simp] theorem boundaryArrival_inv {s : State} (hI : s.Inv) : (State.boundaryArrival s).Inv := by
  simp (maxDischargeDepth := 20) [State.boundaryArrival, hI]

end Sys2Proof.Machine
end

