-- ==== Sys2Proof/Laws/InvWinnow.lean ====
section
/-!
SUPPORT. The invariant `State.Inv` is kept by the functions of Machine/Winnow.lean.
-/

-- Each worker thread reserves stack of its own: proofs run one after another, to bound memory.
set_option Elab.async false

namespace Sys2Proof.Machine

@[simp] theorem runTopk_inv {s : State} (hI : s.Inv) (r : Record) (id : Nat) : (runTopk r id s).Inv := by
  simp (maxDischargeDepth := 20) [runTopk, hI]

theorem planTopk_inv {v : State} (ht : v.Inv) (t : State) (r : Record) (id : Nat) : ((planTopk r t).run id v).Inv := by
  simp (maxDischargeDepth := 20) [planTopk, ht]

theorem execTopk_keeps {s : State} (hI : s.Inv) (r : Record) : Keeps (execTopk r s) := by
  unfold execTopk
  exact keeps_next.2 (record_inv hI _ _ _ (fun t v r id hI => planTopk_inv hI t r id))

@[simp] theorem runTopkMerge_inv {s : State} (hI : s.Inv) (r : Record) (id : Nat) : (runTopkMerge r id s).Inv := by
  simp (maxDischargeDepth := 20) [runTopkMerge, hI]

theorem planTopkMerge_inv {v : State} (ht : v.Inv) (t : State) (r : Record) (id : Nat) : ((planTopkMerge r t).run id v).Inv := by
  simp (maxDischargeDepth := 20) [planTopkMerge, ht]

theorem execTopkMerge_keeps {s : State} (hI : s.Inv) (r : Record) : Keeps (execTopkMerge r s) := by
  unfold execTopkMerge
  exact keeps_next.2 (record_inv hI _ _ _ (fun t v r id hI => planTopkMerge_inv hI t r id))

end Sys2Proof.Machine
end

