-- ==== Sys2Proof/Laws/InvQuota.lean ====
section
/-!
SUPPORT. The invariant `State.Inv` is kept by the functions of Machine/Quota.lean.
-/

-- Each worker thread reserves stack of its own: proofs run one after another, to bound memory.
set_option Elab.async false

namespace Sys2Proof.Machine

@[simp] theorem freeFrames_inv {s : State} (hI : s.Inv) : (State.freeFrames s).Inv := by
  simp [State.freeFrames, hI]

@[simp] theorem trimRetained_inv {s : State} (hI : s.Inv) (t : Nat) (k : Nat) : (State.trimRetained s t k).Inv := by
  induction k generalizing s t with
  | zero => exact hI
  | succ k ih =>
    unfold State.trimRetained
    try dsimp only
    repeat' split
    all_goals first | (with_reducible exact hI) | (with_reducible exact ih hI) | simp (maxDischargeDepth := 20) [hI, ih]

@[simp] theorem notePeaks_inv {s : State} (hI : s.Inv) (t : Nat) : (State.notePeaks s t).Inv := by
  have h1 := trimRetained_inv hI t s.granary.retained.length
  unfold State.notePeaks
  simp [h1]

@[simp] theorem quarantineFrames_inv {s : State} (hI : s.Inv) (t n : Nat) (kv : Bool) : (State.quarantineFrames s t n kv).Inv := by
  simp [State.quarantineFrames, hI]

@[simp] theorem toQuarantine_inv {s : State} (hI : s.Inv) (t n : Nat) : (State.toQuarantine s t n).Inv := by
  simp [State.toQuarantine, hI]

end Sys2Proof.Machine
end

