-- ==== Sys2Proof/Laws/InvSheaf.lean ====
section
/-!
SUPPORT. The invariant `State.Inv` is kept by the functions of Machine/Sheaf.lean.
-/

-- Each worker thread reserves stack of its own: proofs run one after another, to bound memory.
set_option Elab.async false

namespace Sys2Proof.Machine

@[simp] theorem modSheaf_inv {s : State} (hI : s.Inv) (f : Sheaf → Sheaf) : (State.modSheaf s f).Inv := by
  simp [State.modSheaf, hI]

@[simp] theorem modTable_inv {s : State} (hI : s.Inv) (n : Nat) (f : Table → Table) : (State.modTable s n f).Inv := by
  simp [State.modTable, hI]

@[simp] theorem runTableCreate_inv {s : State} (hI : s.Inv) (r : Record) (id : Nat) : (runTableCreate r id s).Inv := by
  simp (maxDischargeDepth := 20) [runTableCreate, hI]

theorem planTableCreate_inv {v : State} (ht : v.Inv) (t : State) (r : Record) (id : Nat) : ((planTableCreate r t).run id v).Inv := by
  simp (maxDischargeDepth := 20) [planTableCreate, ht]

theorem execTableCreate_keeps {s : State} (hI : s.Inv) (r : Record) : Keeps (execTableCreate r s) := by
  unfold execTableCreate
  exact keeps_next.2 (record_inv hI _ _ _ (fun t v r id hI => planTableCreate_inv hI t r id))

@[simp] theorem freeTable_inv {s : State} (hI : s.Inv) (t : Table) : (State.freeTable s t).Inv := by
  unfold State.freeTable
  dsimp only
  repeat' split
  all_goals simp (maxDischargeDepth := 20) [hI]

@[simp] theorem freeLeaving_inv {s : State} (hI : s.Inv) : (State.freeLeaving s).Inv := by
  unfold State.freeLeaving
  exact foldl_keeps (modSheaf_inv hI _) (fun s x hI => toQuarantine_inv hI _ _)

@[simp] theorem dropTable_inv {s : State} (hI : s.Inv) (n : Nat) : (State.dropTable s n).Inv := by
  unfold State.dropTable
  repeat' split
  all_goals first
    | exact hI
    | simp (maxDischargeDepth := 20) [hI]; done
    | refine foldl_inv (by simp (maxDischargeDepth := 20) [hI]) (fun s a hI => ?_); simp (maxDischargeDepth := 20) [hI]

theorem planTableDrop_inv {v : State} (ht : v.Inv) (t : State) (r : Record) (id : Nat) : ((planTableDrop r t).run id v).Inv := by
  simp (maxDischargeDepth := 20) [planTableDrop, ht]

theorem execTableDrop_keeps {s : State} (hI : s.Inv) (r : Record) : Keeps (execTableDrop r s) := by
  unfold execTableDrop
  exact keeps_next.2 (record_inv hI _ _ _ (fun t v r id hI => planTableDrop_inv hI t r id))

@[simp] theorem runGather_inv {s : State} (hI : s.Inv) (r : Record) (id : Nat) : (runGather r id s).Inv := by
  simp (maxDischargeDepth := 20) [runGather, hI]

theorem planGather_inv {v : State} (ht : v.Inv) (t : State) (r : Record) (id : Nat) : ((planGather r t).run id v).Inv := by
  simp (maxDischargeDepth := 20) [planGather, ht]

theorem execGather_keeps {s : State} (hI : s.Inv) (r : Record) : Keeps (execGather r s) := by
  unfold execGather
  exact keeps_next.2 (record_inv hI _ _ _ (fun t v r id hI => planGather_inv hI t r id))

@[simp] theorem runTableSave_inv {s : State} (hI : s.Inv) (r : Record) (id : Nat) : (runTableSave r id s).Inv := by
  simp [runTableSave, hI]

theorem planTableSave_inv {v : State} (ht : v.Inv) (t : State) (r : Record) (id : Nat) : ((planTableSave r t).run id v).Inv := by
  simp (maxDischargeDepth := 20) [planTableSave, ht]

theorem execTableSave_keeps {s : State} (hI : s.Inv) (r : Record) : Keeps (execTableSave r s) := by
  unfold execTableSave
  exact keeps_next.2 (record_inv hI _ _ _ (fun t v r id hI => planTableSave_inv hI t r id))

@[simp] theorem join_inv {s : State} (hI : s.Inv) (n : Nat) (add : Batch → Batch) : (State.join s n add).Inv := by
  simp [State.join, hI]

@[simp] theorem runScatter_inv {s : State} (hI : s.Inv) (r : Record) (id : Nat) : (runScatter r id s).Inv := by
  simp [runScatter, hI]

theorem planScatter_inv {v : State} (ht : v.Inv) (t : State) (r : Record) (id : Nat) : ((planScatter r t).run id v).Inv := by
  simp (maxDischargeDepth := 20) [planScatter, ht]

theorem execScatter_keeps {s : State} (hI : s.Inv) (r : Record) : Keeps (execScatter r s) := by
  unfold execScatter
  exact keeps_next.2 (record_inv hI _ _ _ (fun t v r id hI => planScatter_inv hI t r id))

@[simp] theorem runRowLoad_inv {s : State} (hI : s.Inv) (r : Record) (id : Nat) : (runRowLoad r id s).Inv := by
  simp [runRowLoad, hI]

theorem planRowLoad_inv {v : State} (ht : v.Inv) (t : State) (r : Record) (id : Nat) : ((planRowLoad r t).run id v).Inv := by
  simp (maxDischargeDepth := 20) [planRowLoad, ht]

theorem execRowLoad_keeps {s : State} (hI : s.Inv) (r : Record) : Keeps (execRowLoad r s) := by
  unfold execRowLoad
  exact keeps_next.2 (record_inv hI _ _ _ (fun t v r id hI => planRowLoad_inv hI t r id))

@[simp] theorem runPool_inv {s : State} (hI : s.Inv) (r : Record) (id : Nat) : (runPool r id s).Inv := by
  simp (maxDischargeDepth := 20) [runPool, hI]

theorem planPool_inv {v : State} (ht : v.Inv) (t : State) (r : Record) (id : Nat) : ((planPool r t).run id v).Inv := by
  simp (maxDischargeDepth := 20) [planPool, ht]

theorem execPool_keeps {s : State} (hI : s.Inv) (r : Record) : Keeps (execPool r s) := by
  unfold execPool
  exact keeps_next.2 (record_inv hI _ _ _ (fun t v r id hI => planPool_inv hI t r id))

@[simp] theorem hotRows_inv {s : State} (hI : s.Inv) : (State.hotRows s).Inv := by
  simp [State.hotRows, hI]

@[simp] theorem boundaryDue_inv {s : State} (hI : s.Inv) : (State.boundaryDue s).Inv := by
  unfold State.boundaryDue
  repeat' split
  all_goals simp +contextual (maxDischargeDepth := 20) [hI]

@[simp] theorem flip_inv {s : State} (hI : s.Inv) : (State.flip s).Inv := by
  unfold State.flip
  refine foldl_inv (by simp (maxDischargeDepth := 20) [hI]) (fun s a hI => ?_)
  simp (maxDischargeDepth := 20) [hI]

theorem execQuietUsExpiry_keeps {s : State} (hI : s.Inv) : Keeps (execQuietUsExpiry s) := by
  simp [execQuietUsExpiry, hI]

end Sys2Proof.Machine
end

