-- ==== Sys2Proof/Laws/InvVersions.lean ====
section
/-!
SUPPORT. The invariant `State.Inv` is kept by the functions of Machine/Versions.lean.
-/

-- Each worker thread reserves stack of its own: proofs run one after another, to bound memory.
set_option Elab.async false

namespace Sys2Proof.Machine

@[simp] theorem modVersion_inv {s : State} (hI : s.Inv) (model version : Nat) (f : Version → Version) : (State.modVersion s model version f).Inv := by
  simp [State.modVersion, hI]

@[simp] theorem freeVersion_inv {s : State} (hI : s.Inv) (v : Version) : (State.freeVersion s v).Inv := by
  simp [State.freeVersion, hI]

@[simp] theorem freeRetired_inv {s : State} (hI : s.Inv) : (State.freeRetired s).Inv := by
  unfold State.freeRetired
  exact foldl_inv hI (fun s a hI => by simp (maxDischargeDepth := 20) [hI])

end Sys2Proof.Machine
end

