-- ==== Sys2Proof/Laws/InvModels.lean ====
section
/-!
SUPPORT. The invariant `State.Inv` is kept by the functions of Machine/Models.lean.
-/

-- Each worker thread reserves stack of its own: proofs run one after another, to bound memory.
set_option Elab.async false

namespace Sys2Proof.Machine

@[simp] theorem makeCurrent_inv {s : State} (hI : s.Inv) (model version : Nat) : (State.makeCurrent s model version).Inv := by
  simp [State.makeCurrent, hI]

@[simp] theorem placeCores_inv {s : State} (hI : s.Inv) (v : Version) : (State.placeCores s v).Inv := by
  simp [State.placeCores, hI]

@[simp] theorem runModelLoad_inv {s : State} (hI : s.Inv) (r : Record) (id : Nat) : (runModelLoad r id s).Inv := by
  unfold runModelLoad
  dsimp only
  split <;> simp (maxDischargeDepth := 20) [hI]

theorem planModelLoad_inv {v : State} (ht : v.Inv) (t : State) (r : Record) (id : Nat) : ((planModelLoad r t).run id v).Inv := by
  simp (maxDischargeDepth := 20) [planModelLoad, ht]

theorem execModelLoad_keeps {s : State} (hI : s.Inv) (r : Record) : Keeps (execModelLoad r s) := by
  unfold execModelLoad
  exact keeps_next.2 (record_inv hI _ _ _ (fun t v r id hI => planModelLoad_inv hI t r id))

@[simp] theorem runModelRetire_inv {s : State} (hI : s.Inv) (r : Record) (id : Nat) : (runModelRetire r id s).Inv := by
  unfold runModelRetire
  split <;> simp (maxDischargeDepth := 20) [hI]

theorem planModelRetire_inv {v : State} (ht : v.Inv) (t : State) (r : Record) (id : Nat) : ((planModelRetire r t).run id v).Inv := by
  simp (maxDischargeDepth := 20) [planModelRetire, ht]

theorem execModelRetire_keeps {s : State} (hI : s.Inv) (r : Record) : Keeps (execModelRetire r s) := by
  unfold execModelRetire
  exact keeps_next.2 (record_inv hI _ _ _ (fun t v r id hI => planModelRetire_inv hI t r id))

@[simp] theorem runModelCurrent_inv {s : State} (hI : s.Inv) (r : Record) (id : Nat) : (runModelCurrent r id s).Inv := by
  unfold runModelCurrent
  split <;> simp [hI]

theorem planModelCurrent_inv {v : State} (ht : v.Inv) (t : State) (r : Record) (id : Nat) : ((planModelCurrent r t).run id v).Inv := by
  simp (maxDischargeDepth := 20) [planModelCurrent, ht]

theorem execModelCurrent_keeps {s : State} (hI : s.Inv) (r : Record) : Keeps (execModelCurrent r s) := by
  unfold execModelCurrent
  exact keeps_next.2 (record_inv hI _ _ _ (fun t v r id hI => planModelCurrent_inv hI t r id))

@[simp] theorem cacheIn_inv {s : State} (hI : s.Inv) (news : List CachedBale) (busy : CachedBale → Bool) : (State.cacheIn s news busy).Inv := by
  simp [State.cacheIn, hI]

@[simp] theorem runModelPin_inv {s : State} (hI : s.Inv) (r : Record) (id : Nat) : (runModelPin r id s).Inv := by
  unfold runModelPin
  split <;> simp (maxDischargeDepth := 20) [hI]

theorem planModelPin_inv {v : State} (ht : v.Inv) (t : State) (r : Record) (id : Nat) : ((planModelPin r t).run id v).Inv := by
  simp (maxDischargeDepth := 20) [planModelPin, ht]

theorem execModelPin_keeps {s : State} (hI : s.Inv) (r : Record) : Keeps (execModelPin r s) := by
  unfold execModelPin
  exact keeps_next.2 (record_inv hI _ _ _ (fun t v r id hI => planModelPin_inv hI t r id))

end Sys2Proof.Machine
end

