-- ==== Sys2Proof/Laws/InvKv.lean ====
section
/-!
SUPPORT. The invariant `State.Inv` is kept by the functions of Machine/Kv.lean.
-/

-- Each worker thread reserves stack of its own: proofs run one after another, to bound memory.
set_option Elab.async false

namespace Sys2Proof.Machine

@[simp] theorem modSession_inv {s : State} (hI : s.Inv) (h : U64) (f : Session → Session) : (State.modSession s h f).Inv := by
  simp [State.modSession, hI]

@[simp] theorem putKvData_inv {s : State} (hI : s.Inv) (f : Nat) (m : Mem) : (State.putKvData s f m).Inv := by
  simp [State.putKvData, hI]

@[simp] theorem newFrame_inv {s : State} (hI : s.Inv) (tenant : Nat) (m : Mem) : (State.newFrame s tenant m).1.Inv := by
  simp [State.newFrame, hI]

@[simp] theorem dropFrames_inv {s : State} (hI : s.Inv) (tenant : Nat) : (State.dropFrames s tenant).Inv := by
  simp [State.dropFrames, hI]

@[simp] theorem unmapKv_inv {s : State} (hI : s.Inv) (h : U64) (p : KvBale → Bool) : (State.unmapKv s h p).Inv := by
  simp [State.unmapKv, hI]

end Sys2Proof.Machine
end

