-- ==== Sys2Proof/Laws/InvVcore.lean ====
section
/-!
SUPPORT. The invariant `State.Inv` is kept by the functions of Machine/Vcore.lean and Machine/Interlock.lean.
-/

-- Each worker thread reserves stack of its own: proofs run one after another, to bound memory.
set_option Elab.async false

namespace Sys2Proof.Machine

@[simp] theorem putVcore_inv {s : State} (hI : s.Inv) (vc : Nat) (c : VCore) : (State.putVcore s vc c).Inv := by
  simp [State.putVcore, hI]

@[simp] theorem modVcore_inv {s : State} (hI : s.Inv) (vc : Nat) (f : VCore → VCore) : (State.modVcore s vc f).Inv := by
  simp [State.modVcore, hI]

@[simp] theorem violation_inv {s : State} (hI : s.Inv) (vc : Nat) : (State.violation s vc).Inv := by
  simp [State.violation, hI]

@[simp] theorem passed_inv {s : State} (hI : s.Inv) (vc : Nat) (c : VCore) : (s.passed vc c).Inv := hI

@[simp] theorem issue_inv {s : State} (hI : s.Inv) (vc : Nat) (w : CoreWord) (is : Bool) (f : VCore → State → State) (hf : ∀ (z0 : VCore) (z1 : State), z1.Inv → (f z0 z1).Inv) : (State.issue s vc w is f).Inv := by
  unfold State.issue
  split <;> simp (maxDischargeDepth := 20) [hI, hf]

@[simp] theorem issueIn_inv {s : State} (hI : s.Inv) (vc : Nat) (w : CoreWord) (is : Bool) (ok : VCore → State → Bool) (f : VCore → State → State) (hf : ∀ (z0 : VCore) (z1 : State), z1.Inv → (f z0 z1).Inv) : (State.issueIn s vc w is ok f).Inv := by
  unfold State.issueIn
  repeat' split
  all_goals simp +contextual (maxDischargeDepth := 20) [hI, hf]

@[simp] theorem noteNarrow_inv {s : State} (hI : s.Inv) (tag : Option RowTag) (layer values clipped : Nat) : (State.noteNarrow s tag layer values clipped).Inv := by
  unfold State.noteNarrow
  split <;> simp [hI]

end Sys2Proof.Machine
end

