-- ==== Sys2Proof/Laws/InvArrays.lean ====
section
/-!
SUPPORT. The invariant `State.Inv` is kept by the functions of Machine/Arrays.lean.
-/

-- Each worker thread reserves stack of its own: proofs run one after another, to bound memory.
set_option Elab.async false

namespace Sys2Proof.Machine

@[simp] theorem modCoreCounts_inv {s : State} (hI : s.Inv) (n : Nat) (f : CoreCounts → CoreCounts) : (State.modCoreCounts s n f).Inv := by
  simp [State.modCoreCounts, hI]

@[simp] theorem countMma_inv {s : State} (hI : s.Inv) (vc : Nat) (w : CoreWord) (modes : List RowMode) : (State.countMma s vc w modes).Inv := by
  simp [State.countMma, hI]

@[simp] theorem putRows_inv {s : State} (hI : s.Inv) (vc layer : Nat) (rows : List RowResult) : (State.putRows s vc layer rows).Inv := by
  unfold State.putRows
  exact foldl_inv hI (fun s a hI => by simp (maxDischargeDepth := 20) [hI])

@[simp] theorem runMma_inv {s : State} (hI : s.Inv) (vc : Nat) (c : VCore) (w : CoreWord) (a : MmaCtx) : (State.runMma s vc c w a).Inv := by
  simp [State.runMma, hI]

theorem execMma_keeps {s : State} (hI : s.Inv) (vc : Nat) (w : CoreWord) : Keeps (execMma vc w s) := by
  unfold execMma
  refine keeps_next.2 (issueIn_inv hI _ _ _ _ _ (fun c t hI => ?_))
  split <;> simp [hI]

end Sys2Proof.Machine
end

