-- ==== Sys2Proof/Laws/InvGleaner.lean ====
section
/-!
SUPPORT. The invariant `State.Inv` is kept by the functions of Machine/Gleaner.lean.
-/

-- Each worker thread reserves stack of its own: proofs run one after another, to bound memory.
set_option Elab.async false

namespace Sys2Proof.Machine

@[simp] theorem modSlot_inv {s : State} (hI : s.Inv) (i : Nat) (f : IndexSlot → IndexSlot) : (State.modSlot s i f).Inv := by
  unfold State.modSlot
  try dsimp only
  repeat' split
  all_goals first | (with_reducible exact hI) | (with_reducible refine foldl_inv (by simp (maxDischargeDepth := 20) [hI]) (fun s a hI => ?_); (repeat' split) <;> (simp (maxDischargeDepth := 20) [hI]; done)) | (simp (maxDischargeDepth := 20) [hI]; done) | (simp +contextual (maxDischargeDepth := 20) [hI]; done)

@[simp] theorem putPartition_inv {s : State} (hI : s.Inv) (p : Partition) : (State.putPartition s p).Inv := by
  unfold State.putPartition
  try dsimp only
  repeat' split
  all_goals first | (with_reducible exact hI) | (with_reducible refine foldl_inv (by simp (maxDischargeDepth := 20) [hI]) (fun s a hI => ?_); (repeat' split) <;> (simp (maxDischargeDepth := 20) [hI]; done)) | (simp (maxDischargeDepth := 20) [hI]; done) | (simp +contextual (maxDischargeDepth := 20) [hI]; done)

@[simp] theorem runIndexCreate_inv {s : State} (hI : s.Inv) (r : Record) (id : Nat) : (runIndexCreate r id s).Inv := by
  unfold runIndexCreate
  try dsimp only
  repeat' split
  all_goals first | (with_reducible exact hI) | (with_reducible refine foldl_inv (by simp (maxDischargeDepth := 20) [hI]) (fun s a hI => ?_); (repeat' split) <;> (simp (maxDischargeDepth := 20) [hI]; done)) | (simp (maxDischargeDepth := 20) [hI]; done) | (simp +contextual (maxDischargeDepth := 20) [hI]; done)

theorem planIndexCreate_inv {v : State} (ht : v.Inv) (t : State) (r : Record) (id : Nat) : ((planIndexCreate r t).run id v).Inv := by
  simp (maxDischargeDepth := 20) [planIndexCreate, ht]

theorem execIndexCreate_keeps {s : State} (hI : s.Inv) (r : Record) : Keeps (execIndexCreate r s) := by
  unfold execIndexCreate
  exact keeps_next.2 (record_inv hI _ _ _ (fun t v r id hI => planIndexCreate_inv hI t r id))

@[simp] theorem dropInserts_inv {s : State} (hI : s.Inv) (i : Nat) : (State.dropInserts s i).Inv :=
  foldl_keeps hI (fun _ _ hI => completeId_inv (countRefusal_inv (dropWork_inv hI _) _ _) _ _ _)

@[simp] theorem dropSlot_inv {s : State} (hI : s.Inv) (i : Nat) : (State.dropSlot s i).Inv := by
  unfold State.dropSlot
  refine foldl_inv ?_ (fun s a hI => ?_)
  · have h := dropInserts_inv hI i
    have h2 (l : List Partition) (f : Partition → Nat) : (l.foldl (fun (s : State) (p : Partition) =>
        s.toQuarantine p.tenant (f p)) (s.dropInserts i)).Inv := foldl_keeps h (fun _ _ hI => toQuarantine_inv hI _ _)
    exact modSlot_inv (h2 _ _) i (fun _ => IndexSlot.empty)
  · repeat' split
    all_goals simp (maxDischargeDepth := 20) [hI]

theorem planIndexDrop_inv {v : State} (ht : v.Inv) (t : State) (r : Record) (id : Nat) : ((planIndexDrop r t).run id v).Inv := by
  simp (maxDischargeDepth := 20) [planIndexDrop, ht]

theorem execIndexDrop_keeps {s : State} (hI : s.Inv) (r : Record) : Keeps (execIndexDrop r s) := by
  unfold execIndexDrop
  exact keeps_next.2 (record_inv hI _ _ _ (fun t v r id hI => planIndexDrop_inv hI t r id))

@[simp] theorem runVecInsert_inv {s : State} (hI : s.Inv) (r : Record) (id : Nat) : (runVecInsert r id s).Inv := by
  unfold runVecInsert
  try dsimp only
  repeat' split
  all_goals first | (with_reducible exact hI) | (with_reducible refine foldl_inv (by simp (maxDischargeDepth := 20) [hI]) (fun s a hI => ?_); (repeat' split) <;> (simp (maxDischargeDepth := 20) [hI]; done)) | (simp (maxDischargeDepth := 20) [hI]; done) | (simp +contextual (maxDischargeDepth := 20) [hI]; done)

theorem planVecInsert_inv {v : State} (ht : v.Inv) (t : State) (r : Record) (id : Nat) : ((planVecInsert r t).run id v).Inv := by
  simp (maxDischargeDepth := 20) [planVecInsert, ht]

theorem execVecInsert_keeps {s : State} (hI : s.Inv) (r : Record) : Keeps (execVecInsert r s) := by
  unfold execVecInsert
  exact keeps_next.2 (record_inv hI _ _ _ (fun t v r id hI => planVecInsert_inv hI t r id))

@[simp] theorem runVecDelete_inv {s : State} (hI : s.Inv) (r : Record) (id : Nat) : (runVecDelete r id s).Inv := by
  unfold runVecDelete
  try dsimp only
  repeat' split
  all_goals first | (with_reducible exact hI) | (with_reducible refine foldl_inv (by simp (maxDischargeDepth := 20) [hI]) (fun s a hI => ?_); (repeat' split) <;> (simp (maxDischargeDepth := 20) [hI]; done)) | (simp (maxDischargeDepth := 20) [hI]; done) | (simp +contextual (maxDischargeDepth := 20) [hI]; done)

theorem planVecDelete_inv {v : State} (ht : v.Inv) (t : State) (r : Record) (id : Nat) : ((planVecDelete r t).run id v).Inv := by
  simp (maxDischargeDepth := 20) [planVecDelete, ht]

theorem execVecDelete_keeps {s : State} (hI : s.Inv) (r : Record) : Keeps (execVecDelete r s) := by
  unfold execVecDelete
  exact keeps_next.2 (record_inv hI _ _ _ (fun t v r id hI => planVecDelete_inv hI t r id))

@[simp] theorem startMerge_inv {s : State} (hI : s.Inv) (p : Partition) (run : Option Nat) : (State.startMerge s p run).Inv := by
  unfold State.startMerge
  try dsimp only
  repeat' split
  all_goals first | (with_reducible exact hI) | (with_reducible refine foldl_inv (by simp (maxDischargeDepth := 20) [hI]) (fun s a hI => ?_); (repeat' split) <;> (simp (maxDischargeDepth := 20) [hI]; done)) | (simp (maxDischargeDepth := 20) [hI]; done) | (simp +contextual (maxDischargeDepth := 20) [hI]; done)

@[simp] theorem runIndexPublish_inv {s : State} (hI : s.Inv) (r : Record) (id : Nat) : (runIndexPublish r id s).Inv := by
  unfold runIndexPublish
  try dsimp only
  repeat' split
  all_goals first | (with_reducible exact hI) | (with_reducible refine foldl_inv (by simp (maxDischargeDepth := 20) [hI]) (fun s a hI => ?_); (repeat' split) <;> (simp (maxDischargeDepth := 20) [hI]; done)) | (simp (maxDischargeDepth := 20) [hI]; done) | (simp +contextual (maxDischargeDepth := 20) [hI]; done)

theorem planIndexPublish_inv {v : State} (ht : v.Inv) (t : State) (r : Record) (id : Nat) : ((planIndexPublish r t).run id v).Inv := by
  simp (maxDischargeDepth := 20) [planIndexPublish, ht]

theorem execIndexPublish_keeps {s : State} (hI : s.Inv) (r : Record) : Keeps (execIndexPublish r s) := by
  unfold execIndexPublish
  exact keeps_next.2 (record_inv hI _ _ _ (fun t v r id hI => planIndexPublish_inv hI t r id))

@[simp] theorem switchGeneration_inv {s : State} (hI : s.Inv) (slot tenant : Nat) : (State.switchGeneration s slot tenant).Inv := by
  unfold State.switchGeneration
  try dsimp only
  repeat' split
  all_goals first | (with_reducible exact hI) | (with_reducible refine foldl_inv (by simp (maxDischargeDepth := 20) [hI]) (fun s a hI => ?_); (repeat' split) <;> (simp (maxDischargeDepth := 20) [hI]; done)) | (simp (maxDischargeDepth := 20) [hI]; done) | (simp +contextual (maxDischargeDepth := 20) [hI]; done)

theorem execGenerationSwitch_keeps {s : State} (hI : s.Inv) (slot tenant : Nat) : Keeps (execGenerationSwitch slot tenant s) := by
  unfold execGenerationSwitch
  try dsimp only
  repeat' split
  all_goals first | (simp (maxDischargeDepth := 20) [hI]; done) | (simp +contextual (maxDischargeDepth := 20) [hI]; done) | (rw [keeps_next]; (first | refine issueIn_inv hI _ _ _ _ _ (fun c t hI => ?_) | refine issue_inv hI _ _ _ _ (fun c t hI => ?_)); (try dsimp only); (repeat' split) <;> first | (with_reducible exact hI) | (simp (maxDischargeDepth := 20) [hI]; done))

@[simp] theorem autoPublish_inv {s : State} (hI : s.Inv) (slot tenant : Nat) : (State.autoPublish s slot tenant).Inv := by
  unfold State.autoPublish
  try dsimp only
  repeat' split
  all_goals first | (with_reducible exact hI) | (with_reducible refine foldl_inv (by simp (maxDischargeDepth := 20) [hI]) (fun s a hI => ?_); (repeat' split) <;> (simp (maxDischargeDepth := 20) [hI]; done)) | (simp (maxDischargeDepth := 20) [hI]; done) | (simp +contextual (maxDischargeDepth := 20) [hI]; done)

theorem execAutoPublish_keeps {s : State} (hI : s.Inv) (slot tenant : Nat) : Keeps (execAutoPublish slot tenant s) := by
  unfold execAutoPublish
  try dsimp only
  repeat' split
  all_goals first | (simp (maxDischargeDepth := 20) [hI]; done) | (simp +contextual (maxDischargeDepth := 20) [hI]; done) | (rw [keeps_next]; (first | refine issueIn_inv hI _ _ _ _ _ (fun c t hI => ?_) | refine issue_inv hI _ _ _ _ (fun c t hI => ?_)); (try dsimp only); (repeat' split) <;> first | (with_reducible exact hI) | (simp (maxDischargeDepth := 20) [hI]; done))

@[simp] theorem keepImage_inv {s : State} (hI : s.Inv) (x : ImageRange)  : (State.keepImage s x).Inv := by
  unfold State.keepImage
  try dsimp only
  repeat' split
  all_goals first | (with_reducible exact hI) | (with_reducible refine foldl_inv (by simp (maxDischargeDepth := 20) [hI]) (fun s a hI => ?_); (repeat' split) <;> (simp (maxDischargeDepth := 20) [hI]; done)) | (simp (maxDischargeDepth := 20) [hI]; done) | (simp +contextual (maxDischargeDepth := 20) [hI]; done)

@[simp] theorem runIndexSave_inv {s : State} (hI : s.Inv) (r : Record) (id : Nat) : (runIndexSave r id s).Inv := by
  unfold runIndexSave
  try dsimp only
  repeat' split
  all_goals first | (with_reducible exact hI) | (with_reducible refine foldl_inv (by simp (maxDischargeDepth := 20) [hI]) (fun s a hI => ?_); (repeat' split) <;> (simp (maxDischargeDepth := 20) [hI]; done)) | (simp (maxDischargeDepth := 20) [hI]; done) | (simp +contextual (maxDischargeDepth := 20) [hI]; done)

theorem planIndexSave_inv {v : State} (ht : v.Inv) (t : State) (r : Record) (id : Nat) : ((planIndexSave r t).run id v).Inv := by
  simp (maxDischargeDepth := 20) [planIndexSave, ht]

theorem execIndexSave_keeps {s : State} (hI : s.Inv) (r : Record) : Keeps (execIndexSave r s) := by
  unfold execIndexSave
  exact keeps_next.2 (record_inv hI _ _ _ (fun t v r id hI => planIndexSave_inv hI t r id))

@[simp] theorem runIndexLoad_inv {s : State} (hI : s.Inv) (r : Record) (id : Nat) : (runIndexLoad r id s).Inv := by
  unfold runIndexLoad
  try dsimp only
  repeat' split
  all_goals first | (with_reducible exact hI) | (with_reducible refine foldl_inv (by simp (maxDischargeDepth := 20) [hI]) (fun s a hI => ?_); (repeat' split) <;> (simp (maxDischargeDepth := 20) [hI]; done)) | (simp (maxDischargeDepth := 20) [hI]; done) | (simp +contextual (maxDischargeDepth := 20) [hI]; done)

theorem planIndexLoad_inv {v : State} (ht : v.Inv) (t : State) (r : Record) (id : Nat) : ((planIndexLoad r t).run id v).Inv := by
  simp (maxDischargeDepth := 20) [planIndexLoad, ht]

theorem execIndexLoad_keeps {s : State} (hI : s.Inv) (r : Record) : Keeps (execIndexLoad r s) := by
  unfold execIndexLoad
  exact keeps_next.2 (record_inv hI _ _ _ (fun t v r id hI => planIndexLoad_inv hI t r id))

@[simp] theorem deliverSearch_inv {s : State} (hI : s.Inv) (r : Record) (id : Nat) (a : SearchArgs) (smallest : Bool) (best : List WEntry) (probed scored : Nat) (gen : U64) : (State.deliverSearch s r id a smallest best probed scored gen).Inv := by
  unfold State.deliverSearch
  try dsimp only
  repeat' split
  all_goals first | (with_reducible exact hI) | (with_reducible refine foldl_inv (by simp (maxDischargeDepth := 20) [hI]) (fun s a hI => ?_); (repeat' split) <;> (simp (maxDischargeDepth := 20) [hI]; done)) | (simp (maxDischargeDepth := 20) [hI]; done) | (simp +contextual (maxDischargeDepth := 20) [hI]; done)

@[simp] theorem chargeFrom_inv {s : State} (hI : s.Inv) (t id need used : Nat) : (s.chargeFrom t id need used).Inv := by
  unfold State.chargeFrom
  simp (maxDischargeDepth := 20) [hI]

@[simp] theorem runSearch_inv {s : State} (hI : s.Inv) (r : Record) (id : Nat) : (runSearch r id s).Inv := by
  unfold runSearch
  try dsimp only
  repeat' split
  all_goals first | (with_reducible exact hI) | (with_reducible refine foldl_inv (by simp (maxDischargeDepth := 20) [hI]) (fun s a hI => ?_); (repeat' split) <;> (simp (maxDischargeDepth := 20) [hI]; done)) | (simp (maxDischargeDepth := 20) [hI]; done) | (simp +contextual (maxDischargeDepth := 20) [hI]; done)

theorem planSearch_inv {v : State} (ht : v.Inv) (t : State) (r : Record) (id : Nat) : ((planSearch r t).run id v).Inv := by
  simp (maxDischargeDepth := 20) [planSearch, ht]

theorem execSearch_keeps {s : State} (hI : s.Inv) (r : Record) : Keeps (execSearch r s) := by
  unfold execSearch
  exact keeps_next.2 (record_inv hI _ _ _ (fun t v r id hI => planSearch_inv hI t r id))

end Sys2Proof.Machine
end

