-- ==== Sys2Proof/Laws/InvThresher.lean ====
section
/-!
SUPPORT. The invariant `State.Inv` is kept by the functions of Machine/Thresher.lean.
-/

-- Each worker thread reserves stack of its own: proofs run one after another, to bound memory.
set_option Elab.async false

namespace Sys2Proof.Machine

@[simp] theorem runTokenise_inv {s : State} (hI : s.Inv) (r : Record) (id : Nat) : (runTokenise r id s).Inv := by
  simp (maxDischargeDepth := 20) [runTokenise, hI]

theorem planTokenise_inv {v : State} (ht : v.Inv) (t : State) (r : Record) (id : Nat) : ((planTokenise r t).run id v).Inv := by
  simp (maxDischargeDepth := 20) [planTokenise, ht]

theorem execTokenise_keeps {s : State} (hI : s.Inv) (r : Record) : Keeps (execTokenise r s) := by
  unfold execTokenise
  exact keeps_next.2 (record_inv hI _ _ _ (fun t v r id hI => planTokenise_inv hI t r id))

@[simp] theorem runDetokenise_inv {s : State} (hI : s.Inv) (r : Record) (id : Nat) : (runDetokenise r id s).Inv := by
  simp (maxDischargeDepth := 20) [runDetokenise, hI]

theorem planDetokenise_inv {v : State} (ht : v.Inv) (t : State) (r : Record) (id : Nat) : ((planDetokenise r t).run id v).Inv := by
  simp (maxDischargeDepth := 20) [planDetokenise, ht]

theorem execDetokenise_keeps {s : State} (hI : s.Inv) (r : Record) : Keeps (execDetokenise r s) := by
  unfold execDetokenise
  exact keeps_next.2 (record_inv hI _ _ _ (fun t v r id hI => planDetokenise_inv hI t r id))

@[simp] theorem runGrammarLoad_inv {s : State} (hI : s.Inv) (r : Record) (id : Nat) : (runGrammarLoad r id s).Inv := by
  simp (maxDischargeDepth := 20) [runGrammarLoad, hI]

theorem planGrammarLoad_inv {v : State} (ht : v.Inv) (t : State) (r : Record) (id : Nat) : ((planGrammarLoad r t).run id v).Inv := by
  simp (maxDischargeDepth := 20) [planGrammarLoad, ht]

theorem execGrammarLoad_keeps {s : State} (hI : s.Inv) (r : Record) : Keeps (execGrammarLoad r s) := by
  unfold execGrammarLoad
  exact keeps_next.2 (record_inv hI _ _ _ (fun t v r id hI => planGrammarLoad_inv hI t r id))

@[simp] theorem freeGrammars_inv {s : State} (hI : s.Inv) : (State.freeGrammars s).Inv := by
  simp [State.freeGrammars, hI]

@[simp] theorem dropGrammar_inv {s : State} (hI : s.Inv) (n : Nat) : (State.dropGrammar s n).Inv := by
  simp [State.dropGrammar, hI]

theorem planGrammarDrop_inv {v : State} (ht : v.Inv) (t : State) (r : Record) (id : Nat) : ((planGrammarDrop r t).run id v).Inv := by
  simp (maxDischargeDepth := 20) [planGrammarDrop, ht]

theorem execGrammarDrop_keeps {s : State} (hI : s.Inv) (r : Record) : Keeps (execGrammarDrop r s) := by
  unfold execGrammarDrop
  exact keeps_next.2 (record_inv hI _ _ _ (fun t v r id hI => planGrammarDrop_inv hI t r id))

@[simp] theorem runTemplateLoad_inv {s : State} (hI : s.Inv) (r : Record) (id : Nat) : (runTemplateLoad r id s).Inv := by
  simp (maxDischargeDepth := 20) [runTemplateLoad, hI]

theorem planTemplateLoad_inv {v : State} (ht : v.Inv) (t : State) (r : Record) (id : Nat) : ((planTemplateLoad r t).run id v).Inv := by
  simp (maxDischargeDepth := 20) [planTemplateLoad, ht]

theorem execTemplateLoad_keeps {s : State} (hI : s.Inv) (r : Record) : Keeps (execTemplateLoad r s) := by
  unfold execTemplateLoad
  exact keeps_next.2 (record_inv hI _ _ _ (fun t v r id hI => planTemplateLoad_inv hI t r id))

theorem planTemplateDrop_inv {v : State} (ht : v.Inv) (t : State) (r : Record) (id : Nat) : ((planTemplateDrop r t).run id v).Inv := by
  simp (maxDischargeDepth := 20) [planTemplateDrop, ht]

theorem execTemplateDrop_keeps {s : State} (hI : s.Inv) (r : Record) : Keeps (execTemplateDrop r s) := by
  unfold execTemplateDrop
  exact keeps_next.2 (record_inv hI _ _ _ (fun t v r id hI => planTemplateDrop_inv hI t r id))

@[simp] theorem dropStore_inv {s : State} (hI : s.Inv) (slot tenant : Nat) : (State.dropStore s slot tenant).Inv := by
  simp [State.dropStore, hI]

@[simp] theorem runPassageLoad_inv {s : State} (hI : s.Inv) (r : Record) (id : Nat) : (runPassageLoad r id s).Inv := by
  simp (maxDischargeDepth := 20) [runPassageLoad, hI]

theorem planPassageLoad_inv {v : State} (ht : v.Inv) (t : State) (r : Record) (id : Nat) : ((planPassageLoad r t).run id v).Inv := by
  simp (maxDischargeDepth := 20) [planPassageLoad, ht]

theorem execPassageLoad_keeps {s : State} (hI : s.Inv) (r : Record) : Keeps (execPassageLoad r s) := by
  unfold execPassageLoad
  exact keeps_next.2 (record_inv hI _ _ _ (fun t v r id hI => planPassageLoad_inv hI t r id))

theorem planPassageDrop_inv {v : State} (ht : v.Inv) (t : State) (r : Record) (id : Nat) : ((planPassageDrop r t).run id v).Inv := by
  simp (maxDischargeDepth := 20) [planPassageDrop, ht]

theorem execPassageDrop_keeps {s : State} (hI : s.Inv) (r : Record) : Keeps (execPassageDrop r s) := by
  unfold execPassageDrop
  exact keeps_next.2 (record_inv hI _ _ _ (fun t v r id hI => planPassageDrop_inv hI t r id))

@[simp] theorem runPack_inv {s : State} (hI : s.Inv) (r : Record) (id : Nat) : (runPack r id s).Inv := by
  unfold runPack
  dsimp only
  split <;> simp (maxDischargeDepth := 20) [hI]

theorem planPack_inv {v : State} (ht : v.Inv) (t : State) (r : Record) (id : Nat) : ((planPack r t).run id v).Inv := by
  simp (maxDischargeDepth := 20) [planPack, ht]

theorem execPack_keeps {s : State} (hI : s.Inv) (r : Record) : Keeps (execPack r s) := by
  unfold execPack
  exact keeps_next.2 (record_inv hI _ _ _ (fun t v r id hI => planPack_inv hI t r id))

end Sys2Proof.Machine
end

