-- ==== Sys2Proof/Laws/InvSeal.lean ====
section
/-!
SUPPORT. The invariant `State.Inv` is kept by the functions of Machine/Seal.lean.
-/

-- Each worker thread reserves stack of its own: proofs run one after another, to bound memory.
set_option Elab.async false

namespace Sys2Proof.Machine

@[simp] theorem useIvs_inv {s : State} (hI : s.Inv) (n : Nat) : (State.useIvs s n).Inv := by
  simp [State.useIvs, hI]

@[simp] theorem modArea_inv {s : State} (hI : s.Inv) (t : Nat) (f : SealArea → SealArea) : (State.modArea s t f).Inv := by
  simp [State.modArea, hI]

@[simp] theorem writeSeal_inv {s : State} (hI : s.Inv) (tenant : Nat) (session sealNo : U64) (os : List SealObj) : (State.writeSeal s tenant session sealNo os).1.Inv := by
  exact baleUnits_inv (count_inv (modArea_inv (useIvs_inv
    (foldl_inv hI (fun _ _ h => writeT2_inv h _ _)) _) _ _) _ _) _ _

@[simp] theorem sendQueued_inv {s : State} (hI : s.Inv) (qs : List (((U64 × U64) × Nat) × Sent)) : (State.sendQueued s qs).Inv := by
  induction qs generalizing s with
  | nil => simp [State.sendQueued, hI]
  | cons q qs ih =>
    unfold State.sendQueued
    split
    · exact ih (by simp [hI])
    · simp [hI]

@[simp] theorem receiptIn_inv {s : State} (hI : s.Inv) (session no : U64) (ok : Bool) : (State.receiptIn s session no ok).Inv := by
  unfold State.receiptIn
  exact sendQueued_inv (by simp [hI]) _

@[simp] theorem sendMirror_inv {s : State} (hI : s.Inv) (session : U64) (i : SealInfo) (new : List SealEntry) (state : Nat) : (State.sendMirror s session i new state).Inv := by
  simp (maxDischargeDepth := 20) [State.sendMirror, hI]

@[simp] theorem retireWalk_inv {s : State} (hI : s.Inv) (e : U32) : (State.retireWalk s e).Inv := by
  simp [State.retireWalk, hI]

@[simp] theorem modSealing_inv {s : State} (hI : s.Inv) (h : U64) (f : Sealing → Sealing) : (State.modSealing s h f).Inv := by
  simp [State.modSealing, hI]

@[simp] theorem askSeal_inv {s : State} (hI : s.Inv) (h : U64) (c : SealCause) : (State.askSeal s h c).Inv := by
  simp [State.askSeal, hI]

@[simp] theorem completeCause_inv {s : State} (hI : s.Inv) (c : SealCause) (needs : List U16) (status : Nat) (res : List Byte) : (State.completeCause s c needs status res).Inv := by
  unfold State.completeCause
  dsimp only
  repeat' split
  all_goals first | exact hI | skip
  all_goals first
    | (refine foldl_keeps hI (fun s a hI => ?_); split <;> simp [hI]; done)
    | simp [hI]

@[simp] theorem dropMirror_inv {s : State} (hI : s.Inv) (l : List (U64 × U64)) : (State.dropMirror s l).Inv := by
  simp (maxDischargeDepth := 20) [State.dropMirror, hI]

@[simp] theorem dropNone_inv {s : State} (hI : s.Inv) (h : U64) : (State.dropNone s h).Inv := hI

@[simp] theorem dropChild_inv {s : State} (hI : s.Inv) (child : U64) : (State.dropChild s child).Inv := by
  unfold State.dropChild
  split
  · split
    · exact dropNone_inv (dropFrames_inv (by simp [hI]) _) _
    · exact hI
  · exact hI

@[simp] theorem failSealWith_inv {s : State} (hI : s.Inv) (h : U64) (status : Nat) (res : Nat → List Byte) : (State.failSealWith s h status res).Inv := by
  have h1 (o : Option U64) : ((o.map s.dropChild).getD s).Inv := by cases o <;> simp [hI]
  have h2 (t : State) (ht : t.Inv) (c : Prop) [Decidable c] (e : U32) : (if c then t.retireWalk e else t).Inv :=
    ite_inv (retireWalk_inv ht e) ht
  have h3 (t : State) (ht : t.Inv) (c : Prop) [Decidable c] (f : Counts → Counts) :
      (if c then t.count (handleTenant h) f else t).Inv := ite_inv (count_inv ht _ _) ht
  unfold State.failSealWith
  split
  · exact hI
  · split
    · exact hI
    · exact completeCause_inv (countRefusal_inv (h3 _ (dropMirror_inv (h2 _ (modSession_inv (h1 _) _ _) _ _) _) _ _)
        _ _) _ _ _ _

@[simp] theorem failSeal_inv {s : State} (hI : s.Inv) (h : U64) (status : Nat) : (State.failSeal s h status).Inv := by
  simp [State.failSeal, hI]

@[simp] theorem childInfo_inv {s : State} (hI : s.Inv) (child : U64) (es : List SealEntry) : (State.childInfo s child es).1.Inv := by
  exact writeSeal_inv hI _ _ _ _

@[simp] theorem putSession_inv {s : State} (hI : s.Inv) (x : Session) : (State.putSession s x).Inv := by
  simp [State.putSession, hI]

@[simp] theorem makeRoom_inv {s : State} (hI : s.Inv) (h : U64) : (State.makeRoom s h).Inv := by
  simp [State.makeRoom, hI]

@[simp] theorem forkChild_inv {s : State} (hI : s.Inv) (x : Session) (child : U64) (es : List SealEntry) (mirror : Bool) : (State.forkChild s x child es mirror).1.Inv := by
  have h (y : Session) := putSession_inv (makeRoom_inv (childInfo_inv hI child es) child) y
  unfold State.forkChild
  dsimp only
  split
  · exact sendMirror_inv (h _) _ _ _ _
  · exact h _

theorem epochs_inv {s : State} (hI : s.Inv) (e : Epochs) : State.Inv { s with epochs := e } := hI

@[simp] theorem takeSeal_inv {s : State} (hI : s.Inv) (h : U64) (x : Session) (q : Sealing) (os : List SealObj) : (State.takeSeal s h x q os).Inv := by
  have hw := writeSeal_inv hI (handleTenant h) h x.nextSeal os
  have hm {c : Prop} [Decidable c] (i : SealInfo) (news : List SealEntry) :
      (if c then (s.writeSeal (handleTenant h) h x.nextSeal os).1.sendMirror h i news x.residentState
        else (s.writeSeal (handleTenant h) h x.nextSeal os).1).Inv := by
    split
    · exact sendMirror_inv hw _ _ _ _
    · exact hw
  unfold State.takeSeal
  dsimp only
  apply modSealing_inv
  apply epochs_inv
  cases q.cause with
  | fork i child => exact modSession_inv (forkChild_inv (hm _ _) _ _ _ _) _ _
  | _ => exact modSession_inv (hm _ _) _ _

@[simp] theorem snapshot_inv {s : State} (hI : s.Inv) (h : U64) : (State.snapshot s h).Inv := by
  unfold State.snapshot
  dsimp only
  repeat' split
  all_goals first | exact hI | exact failSeal_inv hI _ _ | exact takeSeal_inv hI _ _ _ _

@[simp] theorem startSeal_inv {s : State} (hI : s.Inv) (h : U64) : (State.startSeal s h).Inv := by
  unfold State.startSeal
  repeat' split
  all_goals simp [hI]

@[simp] theorem snapshots_inv {s : State} (hI : s.Inv) : (State.snapshots s).Inv := by
  unfold State.snapshots
  exact foldl_inv hI (fun s a hI => by simp (maxDischargeDepth := 20) [hI])

@[simp] theorem releaseRetained_inv {s : State} (hI : s.Inv) (h : U64) : (State.releaseRetained s h).Inv := by
  simp [State.releaseRetained, hI]

@[simp] theorem parkBales_inv {s : State} (hI : s.Inv) (x : Session) (info : SealInfo) (drop : Bool) : (State.parkBales s x info drop).1.Inv := by
  have h : (x.kv.foldl (fun s k => s.putKvData k.frame (x.sealedData (s.kvData k.frame))) s).Inv :=
    foldl_inv hI (fun _ _ h => putKvData_inv h _ _)
  unfold State.parkBales
  dsimp only
  split
  · exact unmapKv_inv hI _ _
  · exact unmapKv_inv (by simp [h]) _ _

@[simp] theorem endSeal_inv {s : State} (hI : s.Inv) (h : U64) : (State.endSeal s h).Inv := by
  unfold State.endSeal
  split
  · exact hI
  split
  · exact hI
  split
  · exact hI
  dsimp only
  have hr := retireWalk_inv hI
  split
  · exact baleUnits_inv (sendTo_inv (modSealing_inv (retireWalk_inv hI _) _ _) _ _) _ _
  · split
    · simp (maxDischargeDepth := 20) [hI]
    · simp (maxDischargeDepth := 20) [hI]
    · simp (maxDischargeDepth := 20) [hI]

@[simp] theorem unpairSeals_inv {s : State} (hI : s.Inv) : (State.unpairSeals s).Inv := by
  simp [State.unpairSeals, hI]

end Sys2Proof.Machine
end

