-- ==== Sys2Proof/Laws/InvRuns.lean ====
section
/-!
SUPPORT. The invariant `State.Inv` is kept by the functions of Machine/Runs.lean.
-/

-- Each worker thread reserves stack of its own: proofs run one after another, to bound memory.
set_option Elab.async false

namespace Sys2Proof.Machine

@[simp] theorem closeSession_inv {s : State} (hI : s.Inv) (h : U64) : (State.closeSession s h).Inv := by
  simp (maxDischargeDepth := 20) [State.closeSession, hI]

@[simp] theorem beginPrefill_inv {s : State} (hI : s.Inv) (h : U64) (toks : List Nat) (id : Nat) : (State.beginPrefill s h toks id).Inv := by
  simp [State.beginPrefill, hI]

@[simp] theorem beginRun_inv {s : State} (hI : s.Inv) (h : U64) (p : Line) (id cq : Nat) (implicit : Bool) (front : Option (List Byte × List Byte)) (pinned : List (Nat × Nat)) : (State.beginRun s h p id cq implicit front pinned).Inv := by
  simp [State.beginRun, hI]

@[simp] theorem continueRun_inv {s : State} (hI : s.Inv) (h : U64) (id cq : Nat) (implicit : Bool) : (State.continueRun s h id cq implicit).Inv := by
  simp [State.continueRun, hI]

@[simp] theorem postAfter_inv {s : State} (hI : s.Inv) (needs : List U16) (p : Post) : (State.postAfter s needs p).Inv := by
  simp (maxDischargeDepth := 20) [State.postAfter, hI]

@[simp] theorem postOutput_inv {s : State} (hI : s.Inv) (step : U64) (cq : Nat) (es : List OutEntry) : (State.postOutput s step cq es).Inv := by
  simp [State.postOutput, hI]

@[simp] theorem postOutputs_inv {s : State} (hI : s.Inv) (step : U64) (es : List OutEntry) : (State.postOutputs s step es).Inv := by
  unfold State.postOutputs
  exact foldl_inv hI (fun s a hI => by simp (maxDischargeDepth := 20) [hI])

@[simp] theorem completeDone_inv {s : State} (hI : s.Inv) (es : List OutEntry) (d : RunDone) : (State.completeDone s es d).Inv := by
  unfold State.completeDone
  split <;> simp [hI]

end Sys2Proof.Machine
end

