-- ==== Sys2Proof/Laws/InvSteps.lean ====
section
/-!
SUPPORT. The invariant `State.Inv` is kept by the functions of Machine/Steps.lean.
-/

-- Each worker thread reserves stack of its own: proofs run one after another, to bound memory.
set_option Elab.async false

namespace Sys2Proof.Machine

@[simp] theorem settle_inv {s : State} (hI : s.Inv) (t reserved used : Nat) : (State.settle s t reserved used).Inv := by
  exact modTenant_inv (ite_inv (giveBack_inv hI _ _) (reserve_inv hI _ _)) _ _

@[simp] theorem takeRows_inv {s : State} (hI : s.Inv) (t cap used : Nat) (rs : List Nat) : (State.takeRows s t cap used rs).1.Inv := by
  induction rs generalizing s used with
  | nil => simpa [State.takeRows] using hI
  | cons r rs ih =>
    unfold State.takeRows
    dsimp only
    repeat' split
    · exact hI
    · exact ih (reserve_inv hI _ _) _
    · exact hI

@[simp] theorem takeFront_inv {s : State} (hI : s.Inv) (cap used : Nat) (ws : List FrontWork) : (State.takeFront s cap used ws).1.Inv := by
  induction ws generalizing s used with
  | nil => simpa [State.takeFront] using hI
  | cons w ws ih =>
    have h := takeRows_inv hI w.record.tenant cap used w.rows
    unfold State.takeFront
    dsimp only
    split
    · exact h
    · exact ih h _

@[simp] theorem takeDecode_inv {s : State} (hI : s.Inv) (k : Nat) (k1 : List Session) : (State.takeDecode s k k1).1.Inv := by
  induction k1 generalizing s k with
  | nil => cases k <;> exact hI
  | cons x xs ih =>
    cases k with
    | zero => exact hI
    | succ k =>
      have h1 (t u : Nat) := ih (reserve_inv hI t u)
      have h2 (t : Nat) (f : Counts → Counts) := ih (count_inv hI t f)
      unfold State.takeDecode
      dsimp only
      repeat' split
      all_goals first | exact ih hI _ | exact h1 _ _ _ | exact h2 _ _ _

@[simp] theorem takeChunk_inv {s : State} (hI : s.Inv) (items : List (Session × Nat)) (encoder : Nat) : (State.takeChunk s items encoder).1.Inv := by
  unfold State.takeChunk
  dsimp only
  repeat' split
  all_goals simp [hI]

@[simp] theorem openStep_inv {s : State} (hI : s.Inv) : (State.openStep s).Inv := by
  have h (a b c d e f g) := modSheaf_inv (takeFront_inv (takeChunk_inv (takeDecode_inv hI a b) c d) e 0 f) g
  unfold State.openStep
  have hp (p : Power) (h : powerOk p = true) : powerOk { p with pstate := if p.pstate == 1 then 0 else p.pstate } = true := by
    simp only [powerOk] at h ⊢
    split <;> simp_all
  simp only [inv_mk]
  refine ⟨inv_t2 (h _ _ _ _ _ _ _), inv_staging (h _ _ _ _ _ _ _), inv_stage (h _ _ _ _ _ _ _), hp _ (inv_power (h _ _ _ _ _ _ _)), inv_mode (h _ _ _ _ _ _ _),
    inv_job (h _ _ _ _ _ _ _), inv_pairing (h _ _ _ _ _ _ _), inv_link (h _ _ _ _ _ _ _), inv_taken (h _ _ _ _ _ _ _), inv_held (h _ _ _ _ _ _ _), inv_kept (h _ _ _ _ _ _ _)⟩

theorem execStepOpen_keeps {s : State} (hI : s.Inv) : Keeps (execStepOpen s) := by
  unfold execStepOpen
  exact keeps_next.2 (ite_inv (takeArbMode_inv (openStep_inv hI)) hI)

@[simp] theorem mapNew_inv {s : State} (hI : s.Inv) (h : U64) (v : Version) (k : Nat × Nat) : (State.mapNew s h v k).Inv := by
  unfold State.mapNew
  split
  · exact modSession_inv (newFrame_inv hI _ _) _ _
  · exact hI

@[simp] theorem mapCopy_inv {s : State} (hI : s.Inv) (h : U64) (k : KvBale) : (State.mapCopy s h k).Inv := by
  exact count_inv (modSession_inv (newFrame_inv hI _ _) _ _) _ _

@[simp] theorem setupSeq_inv {s : State} (hI : s.Inv) (grown : Nat) (h : U64) (n : Nat) : (State.setupSeq s grown h n).1.Inv := by
  unfold State.setupSeq
  dsimp only
  repeat' split
  all_goals simp +contextual (maxDischargeDepth := 20) [hI]

@[simp] theorem setupDecode_inv {s : State} (hI : s.Inv) (k : Nat) (k1 : List StepSeq) : (State.setupDecode s k k1).1.Inv := by
  induction k1 generalizing s k with
  | nil => exact hI
  | cons q qs ih =>
    have h := setupSeq_inv hI k q.session q.appends
    unfold State.setupDecode
    dsimp only
    split
    · exact ih h _
    · exact ih h _
    · exact ih (giveBack_inv h _ _) _

@[simp] theorem setupChunk_inv {s : State} (hI : s.Inv) (grown : Nat) (k : Option Chunk) : (State.setupChunk s grown k).1.Inv := by
  unfold State.setupChunk
  dsimp only
  repeat' split
  all_goals simp [hI]

@[simp] theorem startPrograms_inv {s : State} (hI : s.Inv) (o : OpenStep) : (State.startPrograms s o).Inv := by
  simp [State.startPrograms, hI]

@[simp] theorem setupStep_inv {s : State} (hI : s.Inv) (o : OpenStep) : (State.setupStep s o).Inv := by
  simp (maxDischargeDepth := 20) [State.setupStep, hI]

theorem execEpochOpen_keeps {s : State} (hI : s.Inv) : Keeps (execEpochOpen s) := by
  unfold execEpochOpen
  split <;> simp (maxDischargeDepth := 20) [hI]

@[simp] theorem accountSession_inv {s : State} (hI : s.Inv) (h : U64) (len : Nat) : (State.accountSession s h len).Inv := by
  unfold State.accountSession
  repeat' split
  all_goals simp [hI]

@[simp] theorem dropFront_inv {s : State} (hI : s.Inv) (h : U64) : (State.dropFront s h).Inv := by
  exact foldl_keeps hI (fun _ w hI => dropWork_inv hI w)

@[simp] theorem endRun_inv {s : State} (hI : s.Inv) (h : U64) (v : Version) (e : RunEnd) (toks : List Nat) : (State.endRun s h v e toks).Inv := by
  unfold State.endRun
  dsimp only
  split <;> simp [hI]

@[simp] theorem endCommands_inv {s : State} (hI : s.Inv) (h : U64) (kept : Bool) : (State.endCommands s h kept).1.Inv := by
  unfold State.endCommands
  dsimp only
  repeat' split
  all_goals simp [hI]

@[simp] theorem chargeSeq_inv {s : State} (hI : s.Inv) (w : SeqWork) (out : Option (Drawn × Nat)) (grammar : Bool) (unmapped : Nat) : (State.chargeSeq s w out grammar unmapped).Inv := by
  simp (maxDischargeDepth := 20) [State.chargeSeq, hI]

@[simp] theorem settleSeq_inv {s : State} (hI : s.Inv) (x : Session) (w : SeqWork) (out : Option (Drawn × Nat)) : (State.settleSeq s x w out).Inv := by
  unfold State.settleSeq
  dsimp only
  split <;> simp (maxDischargeDepth := 20) [hI]

@[simp] theorem keepMarks_inv {s : State} (hI : s.Inv) (h : U64) (old : BitVec 2) : (State.keepMarks s h old).Inv := by
  simp [State.keepMarks, hI]

@[simp] theorem fillCache_inv {s : State} (hI : s.Inv) (step : U64) (keys : List (Nat × Nat)) (v : Version) : (State.fillCache s step keys v).Inv := by
  simp [State.fillCache, hI]

@[simp] theorem fillCaches_inv {s : State} (hI : s.Inv) (step : U64) (keys : List (Nat × Nat)) : (State.fillCaches s step keys).Inv := by
  unfold State.fillCaches
  exact foldl_keeps hI (fun s v hI => fillCache_inv hI _ _ _)

@[simp] theorem addDurations_inv {s : State} (hI : s.Inv) (o : OpenStep) : (State.addDurations s o).Inv := by
  unfold State.addDurations
  exact foldl_inv hI (fun s a hI => by simp (maxDischargeDepth := 20) [hI])

@[simp] theorem endWindow_inv {s : State} (hI : s.Inv) : (State.endWindow s).Inv := by
  unfold State.endWindow
  exact foldl_inv hI (fun s a hI => by simp (maxDischargeDepth := 20) [hI])

@[simp] theorem measureStep_inv {s : State} (hI : s.Inv) (o : OpenStep) : (State.measureStep s o).Inv := by
  have h : ((if s.windowFull then s.endWindow else s).addDurations o).Inv :=
    addDurations_inv (ite_inv (endWindow_inv hI) hI) _
  exact h

theorem execSlowWindowEnd_keeps {s : State} (hI : s.Inv) : Keeps (execSlowWindowEnd s) := by
  simp [execSlowWindowEnd, hI]

@[simp] theorem reportSlack_inv {s : State} (hI : s.Inv) (n : Nat) (p : Nat) : (State.reportSlack n s p).Inv := by
  simp (maxDischargeDepth := 20) [State.reportSlack, hI]

@[simp] theorem reportSlacks_inv {s : State} (hI : s.Inv) : (State.reportSlacks s).Inv := by
  unfold State.reportSlacks
  exact foldl_inv hI (fun s a hI => by simp (maxDischargeDepth := 20) [hI])

theorem endAppend_inv {a : Ending} {s : State} (h : s.Inv) (x : Session) (v : Version) (w : SeqWork) :
    (State.endAppend a s x v w).s.Inv := by
  have hk := keepMarks_inv h w.session x.marks
  unfold State.endAppend
  dsimp only
  split
  · exact hk
  · exact endCommands_inv (endRun_inv hk _ _ _ _) _ _

theorem ite_ending_inv {c : Prop} [Decidable c] {a b : Ending} (ha : a.s.Inv) (hb : b.s.Inv) :
    (if c then a else b).s.Inv := by split <;> assumption

theorem endRunStep_inv (sp : List Nat) {a : Ending} {s : State} (h : s.Inv) (x : Session) (v : Version) (r : Run)
    (w : SeqWork) (out : Option (Drawn × Nat)) : (State.endRunStep sp a s x v r w out).s.Inv := by
  have h3 (n : Nat) (bs : List Byte) (f : Counts → Counts) (g : Session → Session) :=
    modSession_inv (count_inv (writeT2_inv h n bs) (handleTenant w.session) f) w.session g
  unfold State.endRunStep
  dsimp only
  apply ite_ending_inv
  · apply ite_inv
    · exact h3 _ _ _ _
    · exact keepMarks_inv (h3 _ _ _ _) _ _
  · apply endCommands_inv
    apply endRun_inv
    apply ite_inv
    · exact h3 _ _ _ _
    · exact keepMarks_inv (h3 _ _ _ _) _ _

theorem endSeq_inv (sp eo : List Nat) {a : Ending} (h : a.s.Inv) (w : SeqWork) : (State.endSeq sp eo a w).s.Inv := by
  unfold State.endSeq
  repeat' split
  · exact h
  · exact h
  · exact endAppend_inv (settleSeq_inv h _ _ _) _ _ _
  · exact endRunStep_inv sp (settleSeq_inv h _ _ _) _ _ _ _ _

theorem endByCommand_inv (sp eo : List Nat) {a : Ending} (h : a.s.Inv) (x : U64) :
    (State.endByCommand sp eo a x).s.Inv := by
  unfold State.endByCommand
  repeat' split
  · exact h
  · exact endCommands_inv (modSession_inv h _ _) _ _
  · exact endSeq_inv sp eo h _
  · exact h

theorem endings_inv {α : Type} (f : Ending → α → Ending) (hf : ∀ a x, a.s.Inv → (f a x).s.Inv) (l : List α)
    {a : Ending} (h : a.s.Inv) : (l.foldl f a).s.Inv := by
  induction l generalizing a with
  | nil => exact h
  | cons x xs ih => exact ih (hf _ _ h)

@[simp] theorem endSequences_inv {s : State} (hI : s.Inv) (o : OpenStep) : (State.endSequences s o).Inv := by
  unfold State.endSequences
  dsimp only
  apply foldl_inv
  · exact postOutputs_inv (endings_inv _ (fun a x h => endByCommand_inv _ _ h x) _
      (endings_inv _ (fun a x h => endSeq_inv _ _ h x) _ hI)) _ _
  · intro s d h
    exact completeDone_inv h _ _

end Sys2Proof.Machine
end

