-- ==== Sys2Proof/Laws/InvRevive.lean ====
section
/-!
SUPPORT. The invariant `State.Inv` is kept by the functions of Machine/Revive.lean.
-/

-- Each worker thread reserves stack of its own: proofs run one after another, to bound memory.
set_option Elab.async false

namespace Sys2Proof.Machine

@[simp] theorem mapSource_inv {s : State} (hI : s.Inv) (h : U64) (eb : SealEntry × BaleSource) : (State.mapSource s h eb).Inv := by
  unfold State.mapSource
  split <;> simp [hI]

@[simp] theorem waitForPark_inv {s : State} (hI : s.Inv) (h : U64) (id : Nat) : (State.waitForPark s h id).Inv := by
  simp [State.waitForPark, hI]


@[simp] theorem waitPinned_inv {s : State} (hI : s.Inv) (h : U64) (id : Nat) (pins : List (Nat × Nat)) :
    (State.waitPinned s h id pins).Inv := waitForPark_inv (by simp [hI]) h id

/-- A revive keeps the invariant: what it installs is a session, its bales and counters. -/
theorem reviveFrom_inv {s t : State} (hI : s.Inv) {h : U64} {root : Nat} {m : Bool} {rt n : Nat} {no : U64}
    (e : s.reviveFrom h root m = .done t rt n no) : t.Inv := by
  unfold State.reviveFrom at e
  dsimp only at e
  repeat' split at e
  all_goals first | contradiction | skip
  simp only [ReviveResult.done.injEq] at e
  obtain ⟨rfl, -, -, -⟩ := e
  have hf (bs : List (SealEntry × BaleSource)) (y : Session) :
      (bs.foldl (fun s b => s.mapSource h b) ((s.makeRoom h).putSession y)).Inv :=
    foldl_inv (putSession_inv (makeRoom_inv hI _) _) (fun _ _ h => mapSource_inv h _ _)
  have hr (bs : List (SealEntry × BaleSource)) (y : Session) := releaseRetained_inv (notePeaks_inv (hf bs y) (handleTenant h)) h
  exact baleUnits_inv (count_inv (by simp [hr]) _ _) _ _

theorem reviveParked_inv {s t : State} (hI : s.Inv) {h : U64} {rt n : Nat} {no : U64}
    (e : s.reviveParked h = .done t rt n no) : t.Inv := by
  unfold State.reviveParked at e
  split at e
  · exact reviveFrom_inv hI e
  · contradiction

end Sys2Proof.Machine
end

