-- ==== Sys2Proof/Laws/InvSessions.lean ====
section
/-!
SUPPORT. The invariant `State.Inv` is kept by the functions of Machine/Sessions.lean.
-/

-- Each worker thread reserves stack of its own: proofs run one after another, to bound memory.
set_option Elab.async false

namespace Sys2Proof.Machine

@[simp] theorem late_inv {s : State} (hI : s.Inv) (r : Record) (id : Nat) (checks : List (Bool × Nat)) (k : State → State) (hk : ∀ (z0 : State), z0.Inv → (k z0).Inv) : (State.late s r id checks k).Inv := by
  simp (maxDischargeDepth := 20) [State.late, hI, hk]

@[simp] theorem withRevive_inv {s : State} (hI : s.Inv) (r : Record) (id : Nat) (pins : List (Nat × Nat)) (k : Bool → State → State) (hk : ∀ (z0 : Bool) (z1 : State), z1.Inv → (k z0 z1).Inv) : (State.withRevive s r id pins k).Inv := by
  unfold State.withRevive
  split
  · exact hk _ _ hI
  · split
    · exact waitPinned_inv hI _ _ _
    · have hr := readSources_inv hI (s.parkedReads r.handle)
      dsimp only
      split
      · exact complete_inv (countRefusal_inv hr _ _) _ _ _ _
      · rename_i e
        exact hk _ _ (reviveParked_inv hr e)

@[simp] theorem runOpen_inv {s : State} (hI : s.Inv) (r : Record) (id : Nat) : (runOpen r id s).Inv := by
  unfold runOpen
  dsimp only
  repeat' split
  all_goals simp +contextual (maxDischargeDepth := 20) [hI]

theorem planOpen_inv {v : State} (ht : v.Inv) (t : State) (r : Record) (id : Nat) : ((planOpen r t).run id v).Inv := by
  simp (maxDischargeDepth := 20) [planOpen, ht]

theorem execOpenSession_keeps {s : State} (hI : s.Inv) (r : Record) : Keeps (execOpenSession r s) := by
  unfold execOpenSession
  exact keeps_next.2 (record_inv hI _ _ _ (fun t v r id hI => planOpen_inv hI t r id))

@[simp] theorem countText_inv {s : State} (hI : s.Inv) (t : Nat) (v : Version) (a : AppendArgs) : (State.countText s t v a).Inv := by
  unfold State.countText
  split <;> simp [hI]

@[simp] theorem runAppend_inv {s : State} (hI : s.Inv) (r : Record) (id : Nat) : (runAppend r id s).Inv := by
  unfold runAppend
  refine late_inv hI _ _ _ _ (fun s hI => ?_)
  split
  · exact hI
  · rename_i v _
    dsimp only
    have h := beginPrefill_inv (countText_inv hI r.tenant v (appendArgs r)) r.handle (appendTokens s (appendArgs r) v) id
    split
    · exact h
    · exact complete_inv (modSession_inv h _ _) _ _ _ _

theorem planAppend_inv {v : State} (ht : v.Inv) (t : State) (r : Record) (id : Nat) : ((planAppend r t).run id v).Inv := by
  simp (maxDischargeDepth := 20) [planAppend, ht]

theorem execAppend_keeps {s : State} (hI : s.Inv) (r : Record) : Keeps (execAppend r s) := by
  unfold execAppend
  exact keeps_next.2 (record_inv hI _ _ _ (fun t v r id hI => planAppend_inv hI t r id))

@[simp] theorem runGenerate_inv {s : State} (hI : s.Inv) (r : Record) (id : Nat) : (runGenerate r id s).Inv := by
  unfold runGenerate
  exact late_inv hI _ _ _ _ (fun s hI => withRevive_inv hI _ _ _ _ (fun b s hI => beginRun_inv hI _ _ _ _ _ _ _))

theorem planGenerate_inv {v : State} (ht : v.Inv) (t : State) (r : Record) (id : Nat) : ((planGenerate r t).run id v).Inv := by
  simp (maxDischargeDepth := 20) [planGenerate, ht]

theorem execGenerate_keeps {s : State} (hI : s.Inv) (r : Record) : Keeps (execGenerate r s) := by
  unfold execGenerate
  exact keeps_next.2 (record_inv hI _ _ _ (fun t v r id hI => planGenerate_inv hI t r id))

@[simp] theorem runResume_inv {s : State} (hI : s.Inv) (r : Record) (id : Nat) : (runResume r id s).Inv := by
  unfold runResume
  refine late_inv hI _ _ _ _ (fun s hI => withRevive_inv hI _ _ _ _ (fun b s hI => ?_))
  split
  · exact hI
  · rename_i v _
    dsimp only
    have h := beginPrefill_inv (countText_inv hI r.tenant v (appendArgs r)) r.handle (appendTokens s (appendArgs r) v) id
    split
    · exact continueRun_inv h _ _ _ _
    · exact beginRun_inv h _ _ _ _ _ _ _

theorem planResume_inv {v : State} (ht : v.Inv) (t : State) (r : Record) (id : Nat) : ((planResume r t).run id v).Inv := by
  simp (maxDischargeDepth := 20) [planResume, ht]

theorem execResume_keeps {s : State} (hI : s.Inv) (r : Record) : Keeps (execResume r s) := by
  unfold execResume
  exact keeps_next.2 (record_inv hI _ _ _ (fun t v r id hI => planResume_inv hI t r id))

@[simp] theorem runPark_inv {s : State} (hI : s.Inv) (r : Record) (id : Nat) : (runPark r id s).Inv := by
  unfold runPark
  repeat' split
  all_goals simp +contextual (maxDischargeDepth := 20) [hI]

theorem planPark_inv {v : State} (ht : v.Inv) (t : State) (r : Record) (id : Nat) : ((planPark r t).run id v).Inv := by
  simp (maxDischargeDepth := 20) [planPark, ht]

theorem execPark_keeps {s : State} (hI : s.Inv) (r : Record) : Keeps (execPark r s) := by
  unfold execPark
  exact keeps_next.2 (record_inv hI _ _ _ (fun t v r id hI => planPark_inv hI t r id))

@[simp] theorem useMirror_inv {s : State} (hI : s.Inv) (h : U64) : (State.useMirror s h).Inv := by
  simp [State.useMirror, hI]

@[simp] theorem runRevive_inv {s : State} (hI : s.Inv) (r : Record) (id : Nat) : (runRevive r id s).Inv := by
  unfold runRevive
  refine late_inv hI _ _ _ _ (fun s hI => ?_)
  split
  · exact waitForPark_inv hI _ _
  · dsimp only
    split
    · exact complete_inv (countRefusal_inv (readSources_inv hI _) _ _) _ _ _ _
    · rename_i t rt n no e
      have ht : t.Inv := by
        repeat' split at e
        all_goals first
          | exact reviveFrom_inv (readSources_inv hI _) e
          | exact reviveParked_inv (readSources_inv hI _) e
          | contradiction
      split <;> simp [ht]

theorem planRevive_inv {v : State} (ht : v.Inv) (t : State) (r : Record) (id : Nat) : ((planRevive r t).run id v).Inv := by
  simp (maxDischargeDepth := 20) [planRevive, ht]

theorem execRevive_keeps {s : State} (hI : s.Inv) (r : Record) : Keeps (execRevive r s) := by
  unfold execRevive
  exact keeps_next.2 (record_inv hI _ _ _ (fun t v r id hI => planRevive_inv hI t r id))

@[simp] theorem moveParked_inv {s : State} (hI : s.Inv) (h : U64) (id rank : Nat) : (State.moveParked s h id rank).Inv := by
  unfold State.moveParked
  repeat' split
  · exact hI
  · exact completeId_inv hI _ _ _
  · exact sendTo_inv (readSources_inv (modSession_inv hI _ _) _) _ _

@[simp] theorem runMove_inv {s : State} (hI : s.Inv) (r : Record) (id : Nat) : (runMove r id s).Inv := by
  unfold runMove
  repeat' split
  all_goals simp +contextual (maxDischargeDepth := 20) [hI]

theorem planMove_inv {v : State} (ht : v.Inv) (t : State) (r : Record) (id : Nat) : ((planMove r t).run id v).Inv := by
  simp (maxDischargeDepth := 20) [planMove, ht]

theorem execMove_keeps {s : State} (hI : s.Inv) (r : Record) : Keeps (execMove r s) := by
  unfold execMove
  exact keeps_next.2 (record_inv hI _ _ _ (fun t v r id hI => planMove_inv hI t r id))

@[simp] theorem forkParked_inv {s : State} (hI : s.Inv) (h child : U64) (id : Nat) : (State.forkParked s h child id).Inv := by
  unfold State.forkParked
  repeat' split
  all_goals simp (maxDischargeDepth := 20) [hI]

@[simp] theorem runFork_inv {s : State} (hI : s.Inv) (r : Record) (id : Nat) : (runFork r id s).Inv := by
  unfold runFork
  repeat' split
  all_goals simp +contextual (maxDischargeDepth := 20) [hI]

theorem planFork_inv {v : State} (ht : v.Inv) (t : State) (r : Record) (id : Nat) : ((planFork r t).run id v).Inv := by
  simp (maxDischargeDepth := 20) [planFork, ht]

theorem execFork_keeps {s : State} (hI : s.Inv) (r : Record) : Keeps (execFork r s) := by
  unfold execFork
  exact keeps_next.2 (record_inv hI _ _ _ (fun t v r id hI => planFork_inv hI t r id))

@[simp] theorem runClose_inv {s : State} (hI : s.Inv) (r : Record) (id : Nat) : (runClose r id s).Inv := by
  unfold runClose
  repeat' split
  all_goals simp +contextual (maxDischargeDepth := 20) [hI]

theorem planClose_inv {v : State} (ht : v.Inv) (t : State) (r : Record) (id : Nat) : ((planClose r t).run id v).Inv := by
  simp (maxDischargeDepth := 20) [planClose, ht]

theorem execClose_keeps {s : State} (hI : s.Inv) (r : Record) : Keeps (execClose r s) := by
  unfold execClose
  exact keeps_next.2 (record_inv hI _ _ _ (fun t v r id hI => planClose_inv hI t r id))

@[simp] theorem runSeal_inv {s : State} (hI : s.Inv) (r : Record) (id : Nat) : (runSeal r id s).Inv := by
  unfold runSeal
  repeat' split
  all_goals simp +contextual (maxDischargeDepth := 20) [hI]

theorem planSeal_inv {v : State} (ht : v.Inv) (t : State) (r : Record) (id : Nat) : ((planSeal r t).run id v).Inv := by
  simp (maxDischargeDepth := 20) [planSeal, ht]

theorem execSealSession_keeps {s : State} (hI : s.Inv) (r : Record) : Keeps (execSealSession r s) := by
  unfold execSealSession
  exact keeps_next.2 (record_inv hI _ _ _ (fun t v r id hI => planSeal_inv hI t r id))

@[simp] theorem autoSeal_inv {s : State} (hI : s.Inv) (h : U64) : (State.autoSeal s h).Inv := by
  unfold State.autoSeal
  split <;> simp [hI]

theorem execAutomaticSeal_keeps {s : State} (hI : s.Inv) (session : U64) : Keeps (execAutomaticSeal session s) := by
  simp [execAutomaticSeal, hI]

end Sys2Proof.Machine
end

