-- ==== Sys2Proof/Laws/InvServing.lean ====
section
/-!
SUPPORT. The invariant `State.Inv` is kept by the functions of Machine/Serving.lean.
-/

-- Each worker thread reserves stack of its own: proofs run one after another, to bound memory.
set_option Elab.async false

namespace Sys2Proof.Machine

@[simp] theorem startFront_inv {s : State} (hI : s.Inv) (r : Record) (id : Nat) (a : ReqArgs) (implicit : Bool) :
    (State.startFront s r id a implicit).Inv := by
  unfold State.startFront
  split
  · exact hI
  · have h (w : FrontWork) (f : Counts → Counts) : (State.count { s with front := s.front ++ [w] } r.tenant f).Inv :=
      count_inv (s := { s with front := s.front ++ [w] }) hI r.tenant f
    dsimp only
    split
    · exact beginRun_inv (h _ _) _ _ _ _ _ _ _
    · exact h _ _

@[simp] theorem putFront_inv {s : State} (hI : s.Inv) (w : FrontWork) : (State.putFront s w).Inv := by
  simp [State.putFront, hI]

@[simp] theorem removeFront_inv {s : State} (hI : s.Inv) (id : Nat) : (State.removeFront s id).Inv := by
  simp [State.removeFront, hI]

@[simp] theorem failFront_inv {s : State} (hI : s.Inv) (w : FrontWork) (status : Nat) : (State.failFront s w status).Inv := by
  have h := completeId_inv (countRefusal_inv (removeFront_inv hI w.id) w.record.tenant status) w.id status []
  unfold State.failFront
  dsimp only
  split
  · exact foldl_keeps (endCommands_inv (modSession_inv h _ _) _ _) (fun s d h => completeDone_inv h _ _)
  · exact h

@[simp] theorem uncharge_inv {s : State} (hI : s.Inv) (w : FrontWork) : (State.uncharge s w).Inv := by
  simp [State.uncharge, hI]

@[simp] theorem packStage_inv {s : State} (hI : s.Inv) (w : FrontWork) : (State.packStage s w).Inv := by
  have hs := removeFront_inv hI w.id
  have h1 {c d : Prop} [Decidable c] [Decidable d] {t : State} (ht : t.Inv) (n m : Nat) (l k : List Byte) :
      (if d then (if c then t else t.writeT2 n l).writeT2 m k else (if c then t else t.writeT2 n l)).Inv := by
    repeat' split
    all_goals first | exact ht | exact writeT2_inv ht _ _ | exact writeT2_inv (writeT2_inv ht _ _) _ _
  unfold State.packStage
  extract_lets
  split
  · exact failFront_inv (uncharge_inv hI _) _ _
  · extract_lets
    split
    · exact failFront_inv (uncharge_inv hI _) _ _
    · apply ite_inv
      · exact modSession_inv (beginPrefill_inv (h1 hs _ _ _ _) _ _ _) _ _
      · split
        · exact completeAfter_inv (h1 hs _ _ _ _) _ _ _ _ _
        · exact h1 hs _ _ _ _

@[simp] theorem searchStage_inv {s : State} (hI : s.Inv) (w : FrontWork) (ev : Version) : (State.searchStage s w ev).Inv := by
  unfold State.searchStage
  dsimp only
  split
  · exact failFront_inv hI _ _
  · have h (w' : FrontWork) (n : Nat) (p : Partition) := putFront_inv (putPartition_inv (charge_inv hI w.record.tenant n) p) w'
    apply ite_inv
    · exact packStage_inv (h _ _ _) _
    · exact h _ _ _

@[simp] theorem runRequest_inv {s : State} (hI : s.Inv) (r : Record) (id : Nat) : (runRequest r id s).Inv := by
  unfold runRequest
  dsimp only
  repeat' split
  all_goals simp +contextual (maxDischargeDepth := 20) [hI]

theorem planRequest_inv {v : State} (ht : v.Inv) (t : State) (r : Record) (id : Nat) : ((planRequest r t).run id v).Inv := by
  simp (maxDischargeDepth := 20) [planRequest, ht]

theorem execRequest_keeps {s : State} (hI : s.Inv) (r : Record) : Keeps (execRequest r s) := by
  unfold execRequest
  exact keeps_next.2 (record_inv hI _ _ _ (fun t v r id hI => planRequest_inv hI t r id))

@[simp] theorem countItems_inv {s : State} (hI : s.Inv) (t : Nat) (a : EmbedArgs) (v : Version) : (State.countItems s t a v).Inv := by
  unfold State.countItems
  dsimp only
  split <;> simp [hI]

@[simp] theorem endEmbed_inv {s : State} (hI : s.Inv) (w : FrontWork) (v : Version) : (State.endEmbed s w v).Inv := by
  have h := removeFront_inv hI w.id
  unfold State.endEmbed
  dsimp only
  split
  · apply ite_inv
    · exact failFront_inv hI _ _
    · exact completeId_inv (notePeaks_inv (putPartition_inv (modSlot_inv h _ _) _) _) _ _ _
  · split
    · exact completeAfter_inv (writeT2_inv h _ _) _ _ _ _ _
    · exact writeT2_inv h _ _

@[simp] theorem runEmbed_inv {s : State} (hI : s.Inv) (r : Record) (id : Nat) : (runEmbed r id s).Inv := by
  unfold runEmbed
  split <;> simp (maxDischargeDepth := 20) [hI]

theorem planEmbed_inv {v : State} (ht : v.Inv) (t : State) (r : Record) (id : Nat) : ((planEmbed r t).run id v).Inv := by
  simp (maxDischargeDepth := 20) [planEmbed, ht]

theorem execEmbed_keeps {s : State} (hI : s.Inv) (r : Record) : Keeps (execEmbed r s) := by
  unfold execEmbed
  exact keeps_next.2 (record_inv hI _ _ _ (fun t v r id hI => planEmbed_inv hI t r id))

@[simp] theorem stageDone_inv {s : State} (hI : s.Inv) (w : FrontWork) : (State.stageDone s w).Inv := by
  unfold State.stageDone
  split
  · exact packStage_inv hI _
  · split
    · exact failFront_inv hI _ _
    · split
      · exact endEmbed_inv hI _ _
      · exact searchStage_inv hI _ _

@[simp] theorem endRows_inv {s : State} (hI : s.Inv) (e : Nat × List Nat) : (State.endRows s e).Inv := by
  unfold State.endRows
  split
  · exact hI
  · have h (a b : Nat) (f : Counts → Counts) (w : FrontWork) := putFront_inv (count_inv (settle_inv hI a b b) a f) w
    dsimp only
    apply ite_inv
    · exact stageDone_inv (h _ _ _ _) _
    · exact h _ _ _ _

@[simp] theorem endFront_inv {s : State} (hI : s.Inv) (o : OpenStep) : (State.endFront s o).Inv := by
  unfold State.endFront
  exact foldl_keeps (s := s) hI (fun s e h => endRows_inv h e)

@[simp] theorem runSafeguardRead_inv {s : State} (hI : s.Inv) (r : Record) (id : Nat) : (runSafeguardRead r id s).Inv := by
  unfold runSafeguardRead
  dsimp only
  split <;> simp [hI]

theorem planSafeguardRead_inv {v : State} (ht : v.Inv) (t : State) (r : Record) (id : Nat) : ((planSafeguardRead r t).run id v).Inv := by
  simp (maxDischargeDepth := 20) [planSafeguardRead, ht]

theorem execSafeguardRead_keeps {s : State} (hI : s.Inv) (r : Record) : Keeps (execSafeguardRead r s) := by
  unfold execSafeguardRead
  exact keeps_next.2 (record_inv hI _ _ _ (fun t v r id hI => planSafeguardRead_inv hI t r id))

@[simp] theorem startWaiting_inv {s : State} (hI : s.Inv) (id : Nat) : (State.startWaiting s id).Inv := by
  unfold State.startWaiting
  dsimp only
  repeat' split
  all_goals simp [hI]

@[simp] theorem startAfter_inv {s : State} (hI : s.Inv) (h : U64) : (State.startAfter s h).Inv := by
  unfold State.startAfter
  split
  · exact hI
  · split
    · exact hI
    · exact freeRetired_inv (foldl_inv (dropNone_inv (modSession_inv hI _ _) _) (fun s a hI => startWaiting_inv hI _))

@[simp] theorem startWaiters_inv {s : State} (hI : s.Inv) : (State.startWaiters s).Inv := by
  unfold State.startWaiters
  exact foldl_inv hI (fun s a hI => by simp (maxDischargeDepth := 20) [hI])

@[simp] theorem sealComplete_inv {s : State} (hI : s.Inv) (h : U64) : (State.sealComplete s h).Inv := by
  unfold State.sealComplete
  split <;> simp (maxDischargeDepth := 20) [hI]

end Sys2Proof.Machine
end

