-- ==== Sys2Proof/Laws/InvJobs.lean ====
section
/-!
SUPPORT. The invariant `State.Inv` is kept by the functions of Machine/Jobs.lean.
-/

-- Each worker thread reserves stack of its own: proofs run one after another, to bound memory.
set_option Elab.async false

namespace Sys2Proof.Machine

@[simp] theorem resetSelectors_inv {s : State} (hI : s.Inv) (tenant : Nat) : (State.resetSelectors s tenant).Inv := by
  simp [State.resetSelectors, hI]

@[simp] theorem dropBalances_inv {s : State} (hI : s.Inv) : (State.dropBalances s).Inv := by
  simp [State.dropBalances, hI]

@[simp] theorem stopRuns_inv {s : State} (hI : s.Inv) : (State.stopRuns s).Inv := by
  unfold State.stopRuns
  extract_lets
  apply foldl_inv
  · exact postOutputs_inv (endings_inv _ (fun a x h => endSeq_inv _ _ h _) _ hI) _ _
  · intro s d h
    exact completeDone_inv h _ _

@[simp] theorem stopRecords_inv {s : State} (hI : s.Inv) (keep : Nat) : (State.stopRecords s keep).Inv := by
  unfold State.stopRecords
  exact foldl_inv hI (fun s a hI => by simp (maxDischargeDepth := 20) [hI])

@[simp] theorem stopTaken_inv {s : State} (hI : s.Inv) : (State.stopTaken s).Inv := by
  unfold State.stopTaken
  extract_lets
  refine serveAll_inv (foldl_inv ?_ (fun s r h => complete_inv h _ _ _ _))
  obtain ⟨h1, h2, h3, h4, h5, h6, h7, h8, h9, h10, h11⟩ := hI
  refine ⟨h1, h2, h3, h4, h5, h6, h7, h8, fun n => ?_, h10, h11⟩
  have := h9 n
  simp only [State.cmdRing] at *
  rw [vGet_map _ _ _ _ CmdRing.reset]
  split
  · exact Nat.le_trans (List.length_filter_le _ _) this
  · simp [CmdRing.reset]

@[simp] theorem judgePort_inv {s : State} (hI : s.Inv) (p : Nat) : (State.judgePort s p).Inv := by
  unfold State.judgePort
  apply ite_inv
  · exact ite_inv (movePort_inv hI _ _) (modPort_inv (movePort_inv hI _ _) _ _)
  · exact hI

@[simp] theorem advertise_inv {s : State} (hI : s.Inv) (p : Nat) : (State.advertise s p).Inv := by
  simp [State.advertise, hI]

@[simp] theorem reportJob_inv {s : State} (hI : s.Inv) : (State.reportJob s).Inv :=
  foldl_inv hI (fun s p hs => advertise_inv (judgePort_inv hs _) _)

@[simp] theorem routeCheck_inv {s : State} (hI : s.Inv) : (State.routeCheck s).Inv := by
  simp [State.routeCheck, hI]

@[simp] theorem freeJob_inv {s : State} (hI : s.Inv) : (State.freeJob s).Inv := by
  simp (maxDischargeDepth := 20) [State.freeJob, hI]

@[simp] theorem finishJob_inv {s : State} (hI : s.Inv) : (State.finishJob s).Inv := by
  unfold State.finishJob
  split <;> simp (maxDischargeDepth := 20) [hI]

@[simp] theorem finishDrained_inv {s : State} (hI : s.Inv) : (State.finishDrained s).Inv := by
  simp [State.finishDrained, hI]

@[simp] theorem runJobEnd_inv {s : State} (hI : s.Inv) (r : Record) (id : Nat) : (runJobEnd r id s).Inv := by
  simp (maxDischargeDepth := 20) [runJobEnd, hI]

theorem planJobEnd_inv {v : State} (ht : v.Inv) (t : State) (r : Record) (id : Nat) : ((planJobEnd r t).run id v).Inv := by
  simp (maxDischargeDepth := 20) [planJobEnd, ht]

theorem execJobEnd_keeps {s : State} (hI : s.Inv) (r : Record) : Keeps (execJobEnd r s) := by
  unfold execJobEnd
  exact keeps_next.2 (record_inv hI _ _ _ (fun t v r id hI => planJobEnd_inv hI t r id))

theorem execGraceExpiry_keeps {s : State} (hI : s.Inv) : Keeps (execGraceExpiry s) := by
  simp [execGraceExpiry, hI]

@[simp] theorem nextJobSettings_inv {s : State} (hI : s.Inv) : (State.nextJobSettings s).Inv := by
  simp [State.nextJobSettings, hI]

@[simp] theorem setImplicit_inv {s : State} (hI : s.Inv) (ts on : List Nat) : (State.setImplicit s ts on).Inv := by
  unfold State.setImplicit
  exact foldl_inv hI (fun s a hI => by simp (maxDischargeDepth := 20) [hI])

@[simp] theorem endDefault_inv {s : State} (hI : s.Inv) (id : Nat) : (State.endDefault s id).Inv := by
  simp (maxDischargeDepth := 20) [State.endDefault, hI]

@[simp] theorem installJob_inv {s : State} (hI : s.Inv) (state : Nat) (hs : state ≤ 3) (m : Manifest) :
    (State.installJob s state m).Inv := by
  have h := nextJobSettings_inv hI
  unfold State.installJob
  refine reportJob_inv (resetSelectors_inv (dropBalances_inv (drew_inv ?_ _)) _)
  exact ⟨h.1, h.2.1, h.2.2.1, h.2.2.2.1, h.2.2.2.2.1, hs, h.2.2.2.2.2.2⟩

@[simp] theorem runJobLoad_inv {s : State} (hI : s.Inv) (r : Record) (id : Nat) : (runJobLoad r id s).Inv := by
  simp (maxDischargeDepth := 20) [runJobLoad, hI]

theorem planJobLoad_inv {v : State} (ht : v.Inv) (t : State) (r : Record) (id : Nat) : ((planJobLoad r t).run id v).Inv := by
  simp (maxDischargeDepth := 20) [planJobLoad, ht]

theorem execJobLoad_keeps {s : State} (hI : s.Inv) (r : Record) : Keeps (execJobLoad r s) := by
  unfold execJobLoad
  exact keeps_next.2 (record_inv hI _ _ _ (fun t v r id hI => planJobLoad_inv hI t r id))

@[simp] theorem loadDefaultJob_inv {s : State} (hI : s.Inv) : (State.loadDefaultJob s).Inv := by
  simp (maxDischargeDepth := 20) [State.loadDefaultJob, hI]

end Sys2Proof.Machine
end

