-- ==== Sys2Proof/Laws/InvBoundary.lean ====
section
/-!
SUPPORT. The invariant `State.Inv` is kept by the functions of Machine/Boundary.lean.
-/

-- Each worker thread reserves stack of its own: proofs run one after another, to bound memory.
set_option Elab.async false

namespace Sys2Proof.Machine

@[simp] theorem closeOne_inv {s : State} (hI : s.Inv) : (State.closeOne s).Inv := by
  simp (maxDischargeDepth := 20) [State.closeOne, hI]

@[simp] theorem closeDue_inv {s : State} (hI : s.Inv) : (State.closeDue s).Inv := by
  unfold State.closeDue
  dsimp only
  exact ite_inv (closeOne_inv (boundaryDue_inv (modSheaf_inv (closeOne_inv hI) _))) (closeOne_inv hI)

@[simp] theorem joinPuts_inv {s : State} (hI : s.Inv) : (State.joinPuts s).Inv := by
  unfold State.joinPuts
  exact foldl_inv (modSheaf_inv hI _) (fun s u hI => join_inv hI _ _)

@[simp] theorem stepBoundary_inv {s : State} (hI : s.Inv) : (State.stepBoundary s).Inv := by
  simp [State.stepBoundary, hI]

@[simp] theorem fillPinned_inv {s : State} (hI : s.Inv) : (State.fillPinned s).Inv := by
  unfold State.fillPinned
  exact foldl_inv hI (fun s u hI => cacheIn_inv hI _ _)

theorem execTableBoundary_keeps {s : State} (hI : s.Inv) : Keeps (execTableBoundary s) := by
  simp (maxDischargeDepth := 20) [execTableBoundary, hI]

theorem step_none_inv {s : State} (hI : s.Inv) :
    State.Inv { s with step := none, epochs := { s.epochs with view := none } } := hI

@[simp] theorem endStep_inv {s : State} (hI : s.Inv) (o : OpenStep) : (State.endStep s o).Inv := by
  unfold State.endStep
  split
  · exact raiseFault_inv hI _
  · have h := step_none_inv (fillPinned_inv (fillCaches_inv (endSequences_inv (endFront_inv hI o) o) o.number (s.stepKeys o)))
    exact finishDrained_inv (closeDue_inv (stepBoundary_inv (joinPuts_inv (reportSlacks_inv (measureStep_inv (freeGrammars_inv
      (freeRetired_inv (freeLeaving_inv h))) _)))))

theorem execStepEnd_keeps {s : State} (hI : s.Inv) : Keeps (execStepEnd s) := by
  unfold execStepEnd
  split <;> simp [hI]

theorem execSealComplete_keeps {s : State} (hI : s.Inv) (session : U64) : Keeps (execSealComplete session s) := by
  simp (maxDischargeDepth := 20) [execSealComplete, hI]

end Sys2Proof.Machine
end

