-- ==== Sys2Proof/Laws/InvDram.lean ====
section
/-!
SUPPORT. The invariant `State.Inv` is kept by the functions of Machine/Dram.lean.
-/

-- Each worker thread reserves stack of its own: proofs run one after another, to bound memory.
set_option Elab.async false

namespace Sys2Proof.Machine

@[simp] theorem setSuspect_inv {s : State} (hI : s.Inv) (h : Nat) : (State.setSuspect s h).Inv := by
  simp [State.setSuspect, hI]

@[simp] theorem corrected_inv {s : State} (hI : s.Inv) (h line : Nat) : (State.corrected s h line).Inv := by
  simp (maxDischargeDepth := 20) [State.corrected, hI]

@[simp] theorem badLine_inv {s : State} (hI : s.Inv) (h : Nat) (misdirected : Bool) : (State.badLine s h misdirected).Inv := by
  simp (maxDischargeDepth := 20) [State.badLine, hI]

@[simp] theorem putHost_inv {s : State} (hI : s.Inv) (t : Nat) (m : Mem) : (State.putHost s t m).Inv := by
  simp [State.putHost, hI]

@[simp] theorem writeHost_inv {s : State} (hI : s.Inv) (t va : Nat) (bs : List Byte) : (State.writeHost s t va bs).Inv := by
  simp [State.writeHost, hI]

@[simp] theorem miscorrect_inv {s : State} (hI : s.Inv) (h line : Nat) : (State.miscorrect s h line).Inv := by
  unfold State.miscorrect
  exact foldl_keeps (foldl_keeps hI (fun s p h => foldl_keeps h (fun s i h => drew_inv (writeHost_inv h _ _ _) _)))
    (fun s f h => foldl_keeps h (fun s i h => drew_inv (putKvData_inv h _ _) _))

@[simp] theorem lineRead_inv {s : State} (hI : s.Inv) (h line : Nat) (found : LineRead) : (State.lineRead s h line found).Inv := by
  unfold State.lineRead
  split
  · exact hI
  · exact corrected_inv hI _ _
  · exact badLine_inv hI _ _
  · exact badLine_inv hI _ _
  · exact ite_inv (badLine_inv (drew_inv hI _) _ _) (corrected_inv (miscorrect_inv (drew_inv hI _) _ _) _ _)

theorem execRefresh_keeps {s : State} (hI : s.Inv) (channel : Nat) : Keeps (execRefresh channel s) := by
  simp (maxDischargeDepth := 20) [execRefresh, hI]

theorem execScrubRead_keeps {s : State} (hI : s.Inv) (channel line : Nat) (found : LineRead) : Keeps (execScrubRead channel line found s) := by
  simp (maxDischargeDepth := 20) [execScrubRead, hI]

@[simp] theorem writtenBack_inv {s : State} (hI : s.Inv) (h line : Nat) : (State.writtenBack s h line).Inv := by
  simp [State.writtenBack, hI]

theorem execCorrectionWriteBack_keeps {s : State} (hI : s.Inv) (channel line : Nat) : Keeps (execCorrectionWriteBack channel line s) := by
  unfold execCorrectionWriteBack
  exact keeps_next.2 (ite_inv (writtenBack_inv hI _ _) (writtenBack_inv (corrected_inv hI _ _) _ _))

theorem execRetrainInterval_keeps {s : State} (hI : s.Inv) (channel : Nat) (beyond : Bool) : Keeps (execRetrainInterval channel beyond s) := by
  simp [execRetrainInterval, hI]

theorem execFullRetrainEnd_keeps {s : State} (hI : s.Inv) (channel : Nat) (ok : Bool) : Keeps (execFullRetrainEnd channel ok s) := by
  simp (maxDischargeDepth := 20) [execFullRetrainEnd, hI]

end Sys2Proof.Machine
end

