-- ==== Sys2Proof/Laws/InvFaults.lean ====
section
/-!
SUPPORT. The invariant `State.Inv` is kept by the functions of Machine/Faults.lean.
-/

-- Each worker thread reserves stack of its own: proofs run one after another, to bound memory.
set_option Elab.async false

namespace Sys2Proof.Machine

@[simp] theorem setPair_inv {s : State} (hI : s.Inv) (state : Nat) (hs : state ≤ 3) :
    (State.setPair s state).Inv := by
  unfold State.setPair
  simp [hI, hs]

@[simp] theorem tryPair_inv {s : State} (hI : s.Inv) : (State.tryPair s).Inv := by
  simp (maxDischargeDepth := 20) [State.tryPair, hI]

@[simp] theorem readPair_inv {s : State} (hI : s.Inv) (source : Nat) (rail : Rail) : (State.readPair s source rail).Inv := by
  unfold State.readPair
  repeat' split
  all_goals first | (simp [hI]; done) | exact ite_inv (badLine_inv (by simp [hI]) _ _) (by simp [hI])

theorem execFaultSourceAssert_keeps {s : State} (hI : s.Inv) (source : Nat) (rail : Rail) : Keeps (execFaultSourceAssert source rail s) := by
  simp [execFaultSourceAssert, hI]

@[simp] theorem clearSticky_inv {s : State} (hI : s.Inv) (ones : BitVec 96) : (State.clearSticky s ones).Inv := by
  simp (maxDischargeDepth := 20) [State.clearSticky, hI]

theorem execJobRestart_keeps {s : State} (hI : s.Inv) : Keeps (execJobRestart s) := by
  simp [execJobRestart, hI]

@[simp] theorem runDiagEcho_inv {s : State} (hI : s.Inv) (y0 : Record) (id : Nat) : (runDiagEcho y0 id s).Inv := by
  simp [runDiagEcho, hI]

theorem planDiagEcho_inv {v : State} (ht : v.Inv) (t : State) (r : Record) (id : Nat) : ((planDiagEcho r t).run id v).Inv := by
  simp (maxDischargeDepth := 20) [planDiagEcho, ht]

theorem execDiagEcho_keeps {s : State} (hI : s.Inv) (r : Record) : Keeps (execDiagEcho r s) := by
  unfold execDiagEcho
  exact keeps_next.2 (record_inv hI _ _ _ (fun t v r id hI => planDiagEcho_inv hI t r id))

@[simp] theorem runFaultInject_inv {s : State} (hI : s.Inv) (r : Record) (id : Nat) : (runFaultInject r id s).Inv := by
  simp (maxDischargeDepth := 20) [runFaultInject, hI]

theorem planFaultInject_inv {v : State} (ht : v.Inv) (t : State) (r : Record) (id : Nat) : ((planFaultInject r t).run id v).Inv := by
  simp (maxDischargeDepth := 20) [planFaultInject, ht]

theorem execFaultInject_keeps {s : State} (hI : s.Inv) (r : Record) : Keeps (execFaultInject r s) := by
  unfold execFaultInject
  exact keeps_next.2 (record_inv hI _ _ _ (fun t v r id hI => planFaultInject_inv hI t r id))

@[simp] theorem runFaultRead_inv {s : State} (hI : s.Inv) (y0 : Record) (id : Nat) : (runFaultRead y0 id s).Inv := by
  simp [runFaultRead, hI]

theorem planFaultRead_inv {v : State} (ht : v.Inv) (t : State) (r : Record) (id : Nat) : ((planFaultRead r t).run id v).Inv := by
  simp (maxDischargeDepth := 20) [planFaultRead, ht]

theorem execFaultRead_keeps {s : State} (hI : s.Inv) (r : Record) : Keeps (execFaultRead r s) := by
  unfold execFaultRead
  exact keeps_next.2 (record_inv hI _ _ _ (fun t v r id hI => planFaultRead_inv hI t r id))

end Sys2Proof.Machine
end

