-- ==== Sys2Proof/Laws/InvLink.lean ====
section
/-!
SUPPORT. The invariant `State.Inv` is kept by the functions of Machine/Link.lean.
-/

-- Each worker thread reserves stack of its own: proofs run one after another, to bound memory.
set_option Elab.async false

namespace Sys2Proof.Machine

@[simp] theorem protoFault_inv {s : State} (hI : s.Inv) : (State.protoFault s).Inv := by
  simp [State.protoFault, hI]

@[simp] theorem snpInv_inv {s : State} (hI : s.Inv) (tag : U16) (addr : U64) : (State.snpInv s tag addr).Inv := by
  unfold State.snpInv
  dsimp only
  repeat' split
  all_goals first
    | exact hI
    | simp (maxDischargeDepth := 20) [hI]; done
    | refine foldl_inv (by simp (maxDischargeDepth := 20) [hI]) (fun s a hI => ?_); simp (maxDischargeDepth := 20) [hI]

theorem execSnpInv_keeps {s : State} (hI : s.Inv) (tag : U16) (addr : U64) : Keeps (execSnpInv tag addr s) := by
  unfold execSnpInv
  exact keeps_next.2 (snpInv_inv (ite_inv (wake_inv hI) hI) tag addr)

@[simp] theorem keepWatched_inv {s : State} (hI : s.Inv) (x : ReadOut) (enabled : Bool) : (State.keepWatched s x enabled).Inv := by
  simp (maxDischargeDepth := 20) [State.keepWatched, hI]

@[simp] theorem dataArrives_inv {s : State} (hI : s.Inv) (tag : U16) (line : Line) : (State.dataArrives s tag line).Inv := by
  unfold State.dataArrives
  repeat' split
  all_goals simp (maxDischargeDepth := 20) [hI]

theorem execData_keeps {s : State} (hI : s.Inv) (tag : U16) (line : Line) : Keeps (execData tag line s) := by
  simp [execData, hI]

@[simp] theorem wrAck_inv {s : State} (hI : s.Inv) (tag : U16) : (State.wrAck s tag).Inv := by
  unfold State.wrAck
  exact ite_inv (injectDue_inv (releaseAll_inv (pumpLink_inv (modLink_inv hI (inv_link hI)) 0))) (protoFault_inv hI)

@[simp] theorem refetchRings_inv {s : State} (hI : s.Inv) (p : Nat → Bool) : (State.refetchRings s p).Inv := by
  unfold State.refetchRings
  refine foldl_inv (staleRecords_inv hI p) (fun s n hI => ?_)
  exact ite_inv (modCmd_inv hI (inv_cmdRing hI n)) hI

theorem execWrAck_keeps {s : State} (hI : s.Inv) (tag : U16) : Keeps (execWrAck tag s) := by
  simp [execWrAck, hI]

@[simp] theorem errAnswer_inv {s : State} (hI : s.Inv) (tag : U16) : (State.errAnswer s tag).Inv := by
  unfold State.errAnswer
  refine ite_inv (foldl_inv (injectDue_inv (releaseAll_inv (pumpLink_inv (raiseFault_inv
    (modLink_inv (refetchRings_inv hI _) ?_) _) 0))) (fun s n hI => ?_)) (protoFault_inv hI)
  · exact inv_link (refetchRings_inv hI _)
  · exact ite_inv (serveRing_inv hI n) hI

theorem execErr_keeps {s : State} (hI : s.Inv) (tag : U16) : Keeps (execErr tag s) := by
  simp [execErr, hI]

theorem execWinRd_keeps {s : State} (hI : s.Inv) (tag : U16) (off : Nat) : Keeps (execWinRd tag off s) := by
  unfold execWinRd
  dsimp only
  exact keeps_next.2 (ite_inv (modLink_inv (send_inv hI _) (inv_link (send_inv hI _))) (send_inv hI _))

theorem layers_inv {s : State} (hI : s.Inv) (v : Vector FlitLayer 9) : State.Inv { s with layers := v } := hI

@[simp] theorem resetLayer_inv {s : State} (hI : s.Inv) (link : Nat) : (State.resetLayer s link).Inv := by
  unfold State.resetLayer
  exact ite_inv (layers_inv hI _) (layers_inv (modPort_inv hI _ _) _)

@[simp] theorem resendSlots_inv {s : State} (hI : s.Inv) (c : Nat) : (State.resendSlots s c).Inv := by
  unfold State.resendSlots
  dsimp only
  repeat' split
  all_goals first
    | exact hI
    | simp (maxDischargeDepth := 20) [hI]; done
    | refine foldl_inv (by simp (maxDischargeDepth := 20) [hI]) (fun s a hI => ?_); simp (maxDischargeDepth := 20) [hI]

@[simp] theorem ownIndex_inv {s : State} (hI : s.Inv) (n : Nat) : (State.ownIndex s n).Inv := by
  simp (maxDischargeDepth := 20) [State.ownIndex, hI]

@[simp] theorem cohAdvert_inv {s : State} (hI : s.Inv) : (State.cohAdvert s).Inv := send_inv hI _

@[simp] theorem linkAbsent_inv {s : State} (hI : s.Inv) : (State.linkAbsent s).Inv :=
  refreshSys_inv (modLink_inv hI (Nat.zero_le 3))

@[simp] theorem linkTrained_inv {s : State} (hI : s.Inv) (base size : U64) (lanes : U16) (reqMsgs reqCells srspMsgs wrspMsgs wrspCells : Nat) : (State.linkTrained s base size lanes reqMsgs reqCells srspMsgs wrspMsgs wrspCells).Inv := by
  have hA := cohAdvert_inv hI
  have hD := linkAbsent_inv hA
  unfold State.linkTrained
  apply ite_inv hI
  dsimp only
  split
  · apply ite_inv
    · exact resumeTraffic_inv (foldl_inv (layers_inv (resetLayer_inv (modLink_inv hA (Nat.le_succ 2)) 0) _)
        (fun s c h => ownIndex_inv h c))
    · exact hD
  · exact hD

theorem execLinkTrained_keeps {s : State} (hI : s.Inv) (base size : U64) (lanes : U16) (reqMsgs reqCells srspMsgs wrspMsgs wrspCells : Nat) : Keeps (execLinkTrained base size lanes reqMsgs reqCells srspMsgs wrspMsgs wrspCells s) := by
  simp [execLinkTrained, hI]

@[simp] theorem linkLost_inv {s : State} (hI : s.Inv) : (State.linkLost s).Inv := by
  have h := linkAbsent_inv (refetchRings_inv (unsettle_inv hI) (fun _ => true))
  exact raiseFault_inv (modLink_inv h (inv_link h)) _

theorem execCoherentLinkLost_keeps {s : State} (hI : s.Inv) : Keeps (execCoherentLinkLost s) := by
  simp [execCoherentLinkLost, hI]

@[simp] theorem trainLink_inv {s : State} (hI : s.Inv) : (State.trainLink s).Inv := by
  simp [State.trainLink, hI]

theorem execLinkTrainingRetry_keeps {s : State} (hI : s.Inv) : Keeps (execLinkTrainingRetry s) := by
  simp [execLinkTrainingRetry, hI]

@[simp] theorem watchPoll_inv {s : State} (hI : s.Inv) : (State.watchPoll s).Inv := by
  simp [State.watchPoll, hI]

theorem execWatchPoll_keeps {s : State} (hI : s.Inv) : Keeps (execWatchPoll s) := by
  simp [execWatchPoll, hI]

@[simp] theorem sendAck_inv {s : State} (hI : s.Inv) (link : Nat) (nak : Bool) : (State.sendAck s link nak).Inv := by
  simp [State.sendAck, hI]

@[simp] theorem resendFlits_inv {s : State} (hI : s.Inv) (link : Nat) : (State.resendFlits s link).Inv := by
  unfold State.resendFlits
  exact ite_inv (modLink_inv hI (inv_link hI)) (modPort_inv hI _ _)

@[simp] theorem retrainLink_inv {s : State} (hI : s.Inv) (link : Nat) : (State.retrainLink s link).Inv := by
  unfold State.retrainLink
  exact setLinkCause_inv (resendFlits_inv (ite_inv (modLink_inv (layers_inv hI _) (inv_link hI)) (layers_inv hI _)) link) link

@[simp] theorem takeAckNak_inv {s : State} (hI : s.Inv) (link : Nat) (f : Flit) : (State.takeAckNak s link f).Inv := by
  unfold State.takeAckNak
  have h := layers_inv (pumpLink_inv (resendFlits_inv (layers_inv hI
    (vMod s.layers link (fun y => { y.credited link f with lastAck := flitAckNo f }))) link) link)
  exact ite_inv (ite_inv (retrainLink_inv (h _) link) (h _)) (pumpLink_inv (layers_inv (layers_inv hI _) _) link)

@[simp] theorem deliverCells_inv {s : State} (hI : s.Inv) (link : Nat) (f : Flit) : (State.deliverCells s link f).Inv := by
  unfold State.deliverCells
  dsimp only
  split
  · split
    · exact hI
    · exact protoFault_inv hI
  · apply ite_inv
    · exact layers_inv (modPort_inv hI _ _) _
    · exact raiseFault_inv (layers_inv (modPort_inv hI _ _) _) _

@[simp] theorem flit_inv {s : State} (hI : s.Inv) (link : Nat) (f : Flit) : (State.flit s link f).Inv := by
  have h : (if link == 0 then s.modLink (fun l => { l with
      fecCorrected := l.fecCorrected + BitVec.ofNat 64 f.fecFixed,
      fecUncorr := if f.fecGood then l.fecUncorr else l.fecUncorr + 1 }) else s).Inv :=
    ite_inv (modLink_inv hI (inv_link hI)) hI
  unfold State.flit
  dsimp only
  refine ite_inv (sendAck_inv h _ _) (ite_inv h (ite_inv (sendAck_inv h _ _) ?_))
  have h2 (v : Vector FlitLayer 9) := deliverCells_inv (takeAckNak_inv (layers_inv h v) link f) link f
  exact ite_inv (sendAck_inv (h2 _) _ _) (h2 _)

theorem execFlit_keeps {s : State} (hI : s.Inv) (link : Nat) (f : Flit) : Keeps (execFlit link f s) := by
  simp [execFlit, hI]

@[simp] theorem ackInterval_inv {s : State} (hI : s.Inv) (link : Nat) : (State.ackInterval s link).Inv := by
  simp [State.ackInterval, hI]

theorem execAcknowledgeInterval_keeps {s : State} (hI : s.Inv) (link : Nat) : Keeps (execAcknowledgeInterval link s) := by
  simp [execAcknowledgeInterval, hI]

end Sys2Proof.Machine
end

