-- ==== Sys2Proof/Laws/InvTiers.lean ====
section
/-!
SUPPORT. The invariant `State.Inv` is kept by the functions of Machine/Tiers.lean.
-/

-- Each worker thread reserves stack of its own: proofs run one after another, to bound memory.
set_option Elab.async false

namespace Sys2Proof.Machine

@[simp] theorem modWindow_inv {s : State} (hI : s.Inv) (n : Nat) (f : Window → Window) : (State.modWindow s n f).Inv := by
  simp [State.modWindow, hI]

@[simp] theorem unmapPages_inv {s : State} (hI : s.Inv) (t : Nat) (p : Page → Bool) : (State.unmapPages s t p).Inv := by
  unfold State.unmapPages
  repeat' split
  all_goals simp +contextual (maxDischargeDepth := 20) [hI]

@[simp] theorem dropLeft_inv {s : State} (hI : s.Inv) : (State.dropLeft s).Inv := by
  simp [State.dropLeft, hI]

@[simp] theorem mapPage_inv {s : State} (hI : s.Inv) (t va : Nat) (big : Bool) (quad : Nat) (window : Option Nat) : (State.mapPage s t va big quad window).Inv := by
  exact modTiers_same hI rfl

@[simp] theorem mapPages_inv {s : State} (hI : s.Inv) (t va n : Nat) (big : Bool) (quad : Nat) (window : Option Nat) : (State.mapPages s t va n big quad window).Inv := by
  exact foldl_keeps (dropLeft_inv hI) (fun s i h => mapPage_inv h _ _ _ _ _)

theorem writebacks_inv {s : State} (h : s.Inv) (n : U64) :
    (s.modTiers (fun p => { p with writebacks := n })).Inv := modTiers_same h rfl

@[simp] theorem writeBack_inv {s : State} (hI : s.Inv) (w : Window) (b : Nat) : (State.writeBack s w b).Inv := by
  exact writebacks_inv (modWindow_inv (writeT2_inv hI _ _) _ _) _

@[simp] theorem evict_inv {s : State} (hI : s.Inv) (w : Window) (h : HeldBale) : (State.evict s w h).Inv := by
  exact modTiers_same (modWindow_inv (putHost_inv (ite_inv (writeBack_inv hI _ _) hI) _ _) _ _) (by dsimp only)

@[simp] theorem fillBale_inv {s : State} (hI : s.Inv) (w : Window) (b : Nat) : (State.fillBale s w b).Inv := by
  unfold State.fillBale
  repeat' split
  all_goals simp (maxDischargeDepth := 20) [hI]

@[simp] theorem touchBale_inv {s : State} (hI : s.Inv) (n b : Nat) (write : Bool) : (State.touchBale s n b write).Inv := by
  unfold State.touchBale
  split <;> simp (maxDischargeDepth := 20) [hI]

@[simp] theorem touchHost_inv {s : State} (hI : s.Inv) (t va : Nat) (write : Bool) : (State.touchHost s t va write).Inv := by
  unfold State.touchHost
  split <;> simp [hI]

@[simp] theorem flushWindow_inv {s : State} (hI : s.Inv) (w : Window) : (State.flushWindow s w).Inv := by
  unfold State.flushWindow
  exact foldl_inv hI (fun s a hI => by simp (maxDischargeDepth := 20) [hI])

@[simp] theorem closeWindow_inv {s : State} (hI : s.Inv) (w : Window) : (State.closeWindow s w).Inv := by
  simp (maxDischargeDepth := 20) [State.closeWindow, hI]

theorem execWindowFill_keeps {s : State} (hI : s.Inv) (window bale : Nat) (write : Option (Nat × Byte)) : Keeps (execWindowFill window bale write s) := by
  unfold execWindowFill
  repeat' split
  all_goals simp [hI]

@[simp] theorem runPageMap_inv {s : State} (hI : s.Inv) (r : Record) (id : Nat) : (runPageMap r id s).Inv := by
  simp (maxDischargeDepth := 20) [runPageMap, hI]

theorem planPageMap_inv {v : State} (ht : v.Inv) (t : State) (r : Record) (id : Nat) : ((planPageMap r t).run id v).Inv := by
  simp (maxDischargeDepth := 20) [planPageMap, ht]

theorem execPageMap_keeps {s : State} (hI : s.Inv) (r : Record) : Keeps (execPageMap r s) := by
  unfold execPageMap
  exact keeps_next.2 (record_inv hI _ _ _ (fun t v r id hI => planPageMap_inv hI t r id))

@[simp] theorem runPageUnmap_inv {s : State} (hI : s.Inv) (r : Record) (id : Nat) : (runPageUnmap r id s).Inv := by
  simp (maxDischargeDepth := 20) [runPageUnmap, hI]

theorem planPageUnmap_inv {v : State} (ht : v.Inv) (t : State) (r : Record) (id : Nat) : ((planPageUnmap r t).run id v).Inv := by
  simp (maxDischargeDepth := 20) [planPageUnmap, ht]

theorem execPageUnmap_keeps {s : State} (hI : s.Inv) (r : Record) : Keeps (execPageUnmap r s) := by
  unfold execPageUnmap
  exact keeps_next.2 (record_inv hI _ _ _ (fun t v r id hI => planPageUnmap_inv hI t r id))

theorem copyDone_inv {s : State} (h : s.Inv) (s0 : State) (id : Nat) (l : List Byte) :
    (match s.running? id with
      | some x => s.completeAfter (newWrites s0 s) x.record id stOk l
      | none => s).Inv := by
  split
  · exact completeAfter_inv h _ _ _ _ _
  · exact h

@[simp] theorem runCopyIn_inv {s : State} (hI : s.Inv) (r : Record) (id : Nat) : (runCopyIn r id s).Inv := by
  exact copyDone_inv (foldl_inv hI (fun s p h => writeHost_inv (touchHost_inv h _ _ _) _ _ _)) _ _ _

theorem planCopyIn_inv {v : State} (ht : v.Inv) (t : State) (r : Record) (id : Nat) : ((planCopyIn r t).run id v).Inv := by
  simp (maxDischargeDepth := 20) [planCopyIn, ht]

theorem execCopyIn_keeps {s : State} (hI : s.Inv) (r : Record) : Keeps (execCopyIn r s) := by
  unfold execCopyIn
  exact keeps_next.2 (record_inv hI _ _ _ (fun t v r id hI => planCopyIn_inv hI t r id))

@[simp] theorem runCopyOut_inv {s : State} (hI : s.Inv) (r : Record) (id : Nat) : (runCopyOut r id s).Inv := by
  exact copyDone_inv (foldl_inv hI (fun s p h => writeT2_inv (touchHost_inv h _ _ _) _ _)) _ _ _

theorem planCopyOut_inv {v : State} (ht : v.Inv) (t : State) (r : Record) (id : Nat) : ((planCopyOut r t).run id v).Inv := by
  simp (maxDischargeDepth := 20) [planCopyOut, ht]

theorem execCopyOut_keeps {s : State} (hI : s.Inv) (r : Record) : Keeps (execCopyOut r s) := by
  unfold execCopyOut
  exact keeps_next.2 (record_inv hI _ _ _ (fun t v r id hI => planCopyOut_inv hI t r id))

theorem runTierMode_inv {s : State} (hI : s.Inv) {r : Record} (hm : r.fieldN 16 1 ≤ 4) (id : Nat) :
    (runTierMode r id s).Inv := by
  have h : (if r.fieldN 16 1 = 0 then s.tiers.windows.foldl
      (fun s w => s.closeWindow ((s.window? w.number).getD w)) s else s).Inv :=
    ite_inv (foldl_inv hI (fun s w h => closeWindow_inv h _)) hI
  exact completeAfter_inv (modTiers_inv h hm) _ _ _ _ _

/-- TIER_MODE writes a mode that its checks allow. -/
theorem planTierMode_inv {v : State} (ht : v.Inv) (t : State) (r : Record) (id : Nat)
    (e : firstFailure (planChecks t r (planTierMode r t)) = stOk) : ((planTierMode r t).run id v).Inv := by
  have hm : [0, 2, 3, 4].contains (r.fieldN 16 1) = true := by
    refine firstFailure_ok e ?_ ([0, 2, 3, 4].contains (r.fieldN 16 1), stBadParam) ?_
    · simp [planChecks, planTierMode, stOk, stBadParam, stNotSupported, stDenied, stWrongState]
    · simp [planChecks, planTierMode]
  have hm : r.fieldN 16 1 ≤ 4 := by simp at hm; omega
  exact runTierMode_inv ht hm id

theorem execTierMode_keeps {s : State} (hI : s.Inv) (r : Record) : Keeps (execTierMode r s) :=
  keeps_next.2 (record_inv' hI _ _ _ (fun t v r id h e => planTierMode_inv h t r id e))

@[simp] theorem runWindowOpen_inv {s : State} (hI : s.Inv) (r : Record) (id : Nat) : (runWindowOpen r id s).Inv := by
  simp (maxDischargeDepth := 20) [runWindowOpen, hI]

theorem planWindowOpen_inv {v : State} (ht : v.Inv) (t : State) (r : Record) (id : Nat) : ((planWindowOpen r t).run id v).Inv := by
  simp (maxDischargeDepth := 20) [planWindowOpen, ht]

theorem execWindowOpen_keeps {s : State} (hI : s.Inv) (r : Record) : Keeps (execWindowOpen r s) := by
  unfold execWindowOpen
  exact keeps_next.2 (record_inv hI _ _ _ (fun t v r id hI => planWindowOpen_inv hI t r id))

theorem planWindowFlush_inv {v : State} (ht : v.Inv) (t : State) (r : Record) (id : Nat) :
    ((planWindowFlush r t).run id v).Inv := by
  simp only [planWindowFlush, planWindow]
  split
  · exact completeAfter_inv (flushWindow_inv ht _) _ _ _ _ _
  · exact ht

theorem execWindowFlush_keeps {s : State} (hI : s.Inv) (r : Record) : Keeps (execWindowFlush r s) :=
  keeps_next.2 (record_inv hI _ _ _ (fun t v r id h => planWindowFlush_inv h t r id))

theorem planWindowClose_inv {v : State} (ht : v.Inv) (t : State) (r : Record) (id : Nat) :
    ((planWindowClose r t).run id v).Inv := by
  simp only [planWindowClose, planWindow]
  split
  · exact completeAfter_inv (closeWindow_inv ht _) _ _ _ _ _
  · exact ht

theorem execWindowClose_keeps {s : State} (hI : s.Inv) (r : Record) : Keeps (execWindowClose r s) :=
  keeps_next.2 (record_inv hI _ _ _ (fun t v r id h => planWindowClose_inv h t r id))

@[simp] theorem releaseQuarantine_inv {s : State} (hI : s.Inv) (e : U32) : (State.releaseQuarantine s e).Inv := by
  simp [State.releaseQuarantine, hI]

theorem execQuarantineRelease_keeps {s : State} (hI : s.Inv) (epoch : U32) : Keeps (execQuarantineRelease epoch s) := by
  simp [execQuarantineRelease, hI]

end Sys2Proof.Machine
end

