-- ==== Sys2Proof/Laws/InvMoveEngine.lean ====
section
/-!
SUPPORT. The invariant `State.Inv` is kept by the functions of Machine/MoveEngine.lean.
-/

-- Each worker thread reserves stack of its own: proofs run one after another, to bound memory.
set_option Elab.async false

namespace Sys2Proof.Machine

@[simp] theorem readPiece_inv {s : State} (hI : s.Inv) (t va n : Nat) : (State.readPiece s t va n).1.Inv := by
  unfold State.readPiece
  split <;> simp [hI]

@[simp] theorem writeOld_inv {s : State} (hI : s.Inv) (p : Page) (va : Nat) (bs : List Byte) : (State.writeOld s p va bs).Inv := by
  simp [State.writeOld, hI]

@[simp] theorem writeGone_inv {s : State} (hI : s.Inv) (f o : Nat) (bs : List Byte) : (State.writeGone s f o bs).Inv := hI

@[simp] theorem writeKv_inv {s : State} (hI : s.Inv) (h : U64) (k : KvBale) (o : Nat) (bs : List Byte) : (State.writeKv s h k o bs).Inv := by
  unfold State.writeKv
  exact ite_inv (modSession_inv (putKvData_inv hI _ _) _ _) (writeGone_inv hI _ _ _)

@[simp] theorem writePiece_inv {s : State} (hI : s.Inv) (t va : Nat) (bs : List Byte) : (State.writePiece s t va bs).Inv := by
  unfold State.writePiece
  split <;> simp [hI]

theorem pairs_inv {α β : Type} (f : State × β → α → State × β) (hf : ∀ r x, r.1.Inv → (f r x).1.Inv)
    (l : List α) {r : State × β} (h : r.1.Inv) : (l.foldl f r).1.Inv := by
  induction l generalizing r with
  | nil => exact h
  | cons x xs ih => exact ih (hf _ _ h)

@[simp] theorem readFar_inv {s : State} (hI : s.Inv) (a : MoveArgs) : (State.readFar s a).1.Inv := by
  unfold State.readFar
  split
  · refine pairs_inv (r := (s, [])) _ (fun r x h => ?_) _ hI
    exact readPiece_inv h _ _ _
  · exact hI
  · exact hI

@[simp] theorem writeFar_inv {s : State} (hI : s.Inv) (a : MoveArgs) (bs : List Byte) : (State.writeFar s a bs).Inv := by
  unfold State.writeFar
  repeat' split
  all_goals first
    | exact hI
    | simp (maxDischargeDepth := 20) [hI]; done
    | refine foldl_inv (by simp (maxDischargeDepth := 20) [hI]) (fun s a hI => ?_); simp (maxDischargeDepth := 20) [hI]

theorem execMoveInstruction_keeps {s : State} (hI : s.Inv) (vc : Nat) (w : CoreWord) : Keeps (execMoveInstruction vc w s) := by
  unfold execMoveInstruction
  refine keeps_next.2 (issueIn_inv hI _ _ _ _ _ (fun c t hI => ?_))
  simp (maxDischargeDepth := 20) [hI]

theorem execHandoff_keeps {s : State} (hI : s.Inv) (vc : Nat) (w : CoreWord) : Keeps (execHandoff vc w s) := by
  unfold execHandoff
  refine keeps_next.2 (issueIn_inv hI _ _ _ _ _ (fun c t hI => ?_))
  simp [hI]

end Sys2Proof.Machine
end

