-- ==== Sys2Proof/Laws/InvRendezvous.lean ====
section
/-!
SUPPORT. The invariant `State.Inv` is kept by the functions of Machine/Rendezvous.lean.
-/

-- Each worker thread reserves stack of its own: proofs run one after another, to bound memory.
set_option Elab.async false

namespace Sys2Proof.Machine

@[simp] theorem takeParts_inv {s : State} (hI : s.Inv) (b : Nat) (p : Parts) : (State.takeParts s b p).Inv := by
  simp (maxDischargeDepth := 20) [State.takeParts, hI]

@[simp] theorem releaseCore_inv {s : State} (hI : s.Inv) (ps : List Parts) (w : Nat × Option CoreWord) : (State.releaseCore ps s w).Inv := by
  simp [State.releaseCore, hI]

@[simp] theorem tryBarrier_inv {s : State} (hI : s.Inv) (b : Nat) : (State.tryBarrier s b).Inv := by
  unfold State.tryBarrier
  repeat' split
  all_goals simp +contextual (maxDischargeDepth := 20) [hI]

@[simp] theorem coreArrival_inv {s : State} (hI : s.Inv) (b vc : Nat) (mask : U64) (ranks : List Nat) (wait : CoreWait) : (State.coreArrival s b vc mask ranks wait).Inv := by
  simp (maxDischargeDepth := 20) [State.coreArrival, hI]

end Sys2Proof.Machine
end

