-- ==== Sys2Proof/Laws/InvPeer.lean ====
section
/-!
SUPPORT. The invariant `State.Inv` is kept by the functions of Machine/Peer.lean.
-/

-- Each worker thread reserves stack of its own: proofs run one after another, to bound memory.
set_option Elab.async false

namespace Sys2Proof.Machine

@[simp] theorem routeFault_inv {s : State} (hI : s.Inv) (onRoute : Bool) : (State.routeFault s onRoute).Inv := by
  simp [State.routeFault, hI]

@[simp] theorem releaseWaiting_inv {s : State} (hI : s.Inv) (p : Nat) : (State.releaseWaiting s p).Inv := by
  unfold State.releaseWaiting
  repeat' split
  all_goals first
    | exact hI
    | simp (maxDischargeDepth := 20) [hI]; done
    | refine foldl_inv (by simp (maxDischargeDepth := 20) [hI]) (fun s a hI => ?_); simp (maxDischargeDepth := 20) [hI]

@[simp] theorem takeReport_inv {s : State} (hI : s.Inv) (p : Nat) (job : U64) (rank : Nat) : (State.takeReport s p job rank).Inv := by
  simp (maxDischargeDepth := 20) [State.takeReport, hI]

@[simp] theorem portTrained_inv {s : State} (hI : s.Inv) (p : Nat) (lanes : Byte) (serial : U64) (job : Option (U64 × Nat)) : (State.portTrained s p lanes serial job).Inv := by
  unfold State.portTrained
  repeat' split
  all_goals simp (maxDischargeDepth := 20) [hI]

theorem execPeerPortTrained_keeps {s : State} (hI : s.Inv) (port : Nat) (lanes : Byte) (serial : U64) (job : Option (U64 × Nat)) : Keeps (execPeerPortTrained port lanes serial job s) := by
  simp [execPeerPortTrained, hI]

@[simp] theorem endPair_inv {s : State} (hI : s.Inv) : (State.endPair s).Inv := by
  simp (maxDischargeDepth := 20) [State.endPair, hI]

@[simp] theorem sendMoves_inv {s : State} (hI : s.Inv) : (State.sendMoves s).Inv := by
  exact startWaiters_inv (foldl_keeps hI (fun s h hs => sealComplete_inv hs h))

@[simp] theorem refuseMove_inv {s : State} (hI : s.Inv) (h : U64) (status : Nat) : (State.refuseMove s h status).Inv := by
  unfold State.refuseMove
  split <;> simp [hI]

@[simp] theorem portDown_inv {s : State} (hI : s.Inv) (p : Nat) (state : Nat) : (State.portDown s p state).Inv := by
  unfold State.portDown
  dsimp only
  apply ite_inv (movePort_inv hI _ _)
  have h (f : PeerPort → PeerPort) (g : Nat × PeerIn → Bool) :
      State.Inv { s.movePort p f with inbox := (s.movePort p f).inbox.filter g } := movePort_inv hI p f
  exact routeFault_inv (foldl_keeps (ite_inv (endPair_inv (h _ _)) (h _ _)) (fun s h hs => refuseMove_inv hs h 0)) _

theorem execPeerPortDown_keeps {s : State} (hI : s.Inv) (port : Nat) : Keeps (execPeerPortDown port s) := by
  simp [execPeerPortDown, hI]

theorem execJoinTimeout_keeps {s : State} (hI : s.Inv) (port : Nat) : Keeps (execJoinTimeout port s) := by
  simp [execJoinTimeout, hI]

theorem execNeighbourJobReport_keeps {s : State} (hI : s.Inv) (port : Nat) (job : U64) (rank : Nat) : Keeps (execNeighbourJobReport port job rank s) := by
  simp [execNeighbourJobReport, hI]

@[simp] theorem cohLaneFailure_inv {s : State} (hI : s.Inv) (working : U16) : (State.cohLaneFailure s working).Inv := by
  unfold State.cohLaneFailure
  repeat' split
  all_goals simp (maxDischargeDepth := 20) [hI]

@[simp] theorem peerLaneFailure_inv {s : State} (hI : s.Inv) (p : Nat) (working : Byte) : (State.peerLaneFailure s p working).Inv := by
  unfold State.peerLaneFailure
  extract_lets
  apply ite_inv hI
  split
  · exact setLinkCause_inv (resendFlits_inv (modPort_inv hI _ _) _) _
  · exact portDown_inv hI p 0

theorem execLaneFailure_keeps {s : State} (hI : s.Inv) (link : Nat) (working : U16) : Keeps (execLaneFailure link working s) := by
  simp [execLaneFailure, hI]

@[simp] theorem onChannel_inv {s : State} (hI : s.Inv) (p : Nat) (x : PeerIn) (waits : Bool) (k : State → State)
    (hk : ∀ (z0 : State), z0.Inv → (k z0).Inv) : (State.onChannel s p x waits k).Inv := by
  unfold State.onChannel
  exact ite_inv (ite_inv (raiseFault_inv hI _) (ite_inv (by exact hI) (hk s hI))) hI

@[simp] theorem relay_inv {s : State} (hI : s.Inv) (dst : Nat) (mk : Nat → Sent) : (State.relay s dst mk).Inv := by
  unfold State.relay
  split <;> simp [hI]

@[simp] theorem forMe_inv {s : State} (hI : s.Inv) (dst : Nat) (mk : Nat → Sent) (k : State → State) (hk : ∀ (z0 : State), z0.Inv → (k z0).Inv) : (State.forMe s dst mk k).Inv := by
  simp (maxDischargeDepth := 20) [State.forMe, hI, hk]

@[simp] theorem syncArrives_inv {s : State} (hI : s.Inv) (m : SyncMsg) : (State.syncArrives s m).Inv := by
  simp (maxDischargeDepth := 20) [State.syncArrives, hI]

@[simp] theorem syncIn_inv {s : State} (hI : s.Inv) (port dst : Nat) (m : SyncMsg) : (State.syncIn s port dst m).Inv := by
  unfold State.syncIn
  exact onChannel_inv hI _ _ _ _ (fun s hI => forMe_inv hI _ _ _ (fun s hI => syncArrives_inv hI m))

theorem execBarrierArrival_keeps {s : State} (hI : s.Inv) (port dst : Nat) (m : SyncMsg) : Keeps (execBarrierArrival port dst m s) := by
  simp [execBarrierArrival, hI]

theorem execBarrierTimeout_keeps {s : State} (hI : s.Inv) (barrier : Nat) : Keeps (execBarrierTimeout barrier s) := by
  simp [execBarrierTimeout, hI]

@[simp] theorem storeSealed_inv {s : State} (hI : s.Inv) (tenant : Nat) (session sealNo : U64) (os : List SealedBale) (es : List SealEntry) : (State.storeSealed s tenant session sealNo os es).1.Inv := by
  unfold State.storeSealed
  repeat' split
  all_goals simp +contextual (maxDischargeDepth := 20) [hI]

@[simp] theorem keepIncoming_inv {s : State} (hI : s.Inv) (k : U64 × U64) (es : List SealEntry) :
    (State.keepIncoming s k es).Inv := by
  simp [State.keepIncoming, hI]

@[simp] theorem takeMirrored_inv {s : State} (hI : s.Inv) (m : MovedSession) : (State.takeMirrored s m).1.Inv := by
  unfold State.takeMirrored
  dsimp only
  repeat' split
  all_goals first
    | exact hI
    | exact keepIncoming_inv (storeSealed_inv hI _ _ _ _ _) _ _

@[simp] theorem mirroredArrives_inv {s : State} (hI : s.Inv) (m : MovedSession) : (State.mirroredArrives s m).Inv := by
  simp (maxDischargeDepth := 20) [State.mirroredArrives, hI]

@[simp] theorem installResident_inv {s : State} (hI : s.Inv) (x : Session) (v : Version) (base : Nat) (state : Nat) (bs : List (SealedBale × List Byte)) : (State.installResident s x v base state bs).Inv := by
  unfold State.installResident
  repeat' split
  all_goals simp +contextual (maxDischargeDepth := 20) [hI]

@[simp] theorem installParked_inv {s : State} (hI : s.Inv) (x : Session) (v : Version) (m : MovedSession) : (State.installParked s x v m).Inv := by
  simp (maxDischargeDepth := 20) [State.installParked, hI]

@[simp] theorem takeMoved_inv {s : State} (hI : s.Inv) (m : MovedSession) : (State.takeMoved s m).1.Inv := by
  unfold State.takeMoved
  dsimp only
  repeat' split
  all_goals simp [hI]

@[simp] theorem movedArrives_inv {s : State} (hI : s.Inv) (src : Nat) (m : MovedSession) : (State.movedArrives s src m).Inv := by
  simp (maxDischargeDepth := 20) [State.movedArrives, hI]

@[simp] theorem bulkArrives_inv {s : State} (hI : s.Inv) (b : Bulk) : (State.bulkArrives s b).Inv := by
  unfold State.bulkArrives
  split <;> simp (maxDischargeDepth := 20) [hI]

@[simp] theorem bulkIn_inv {s : State} (hI : s.Inv) (port dst : Nat) (b : Bulk) : (State.bulkIn s port dst b).Inv := by
  have h (t : State) (b : Bulk) (hI : t.Inv) :
      (if port = 0 then t else t.forMe dst (fun q => .bulk q dst b) (fun s => s.bulkArrives b)).Inv :=
    ite_inv hI (forMe_inv hI _ _ _ (fun s hI => bulkArrives_inv hI b))
  unfold State.bulkIn
  split
  · exact onChannel_inv hI _ _ _ _ (fun s hI =>
      ite_inv (mirroredArrives_inv hI _) (forMe_inv hI _ _ _ (fun s hI => hI)))
  · exact onChannel_inv hI _ _ _ _ (fun s hI => h s _ hI)
  · exact onChannel_inv hI _ _ _ _ (fun s hI => h s _ hI)

theorem execBulk_keeps {s : State} (hI : s.Inv) (port dst : Nat) (b : Bulk) : Keeps (execBulk port dst b s) := by
  simp [execBulk, hI]

@[simp] theorem moveAnswered_inv {s : State} (hI : s.Inv) (h : U64) (status : Nat) : (State.moveAnswered s h status).Inv := by
  unfold State.moveAnswered
  split
  · exact hI
  split
  · exact hI
  dsimp only
  apply ite_inv
  · exact sendMoves_inv (completeCause_inv (closeSession_inv (count_inv
      (by have h := modSession_inv hI h (fun x => { x with sealing := x.sealing.drop 1 }); exact h) _ _) _) _ _ _ _)
  · exact sendMoves_inv (refuseMove_inv hI _ _)

@[simp] theorem receiptFor_inv {s : State} (hI : s.Inv) (h key : U64) (no : U64) (status : Nat) : (State.receiptFor s h key no status).Inv := by
  unfold State.receiptFor
  repeat' split
  all_goals simp [hI]

@[simp] theorem twinReceipt_inv {s : State} (hI : s.Inv) (key no : U64) (status : Nat) : (State.twinReceipt s key no status).Inv := by
  unfold State.twinReceipt
  exact startWaiters_inv (foldl_keeps (receiptIn_inv hI _ _ _) (fun s a hI => receiptFor_inv hI _ _ _ _))

@[simp] theorem ackArrives_inv {s : State} (hI : s.Inv) (a : AckMsg) : (State.ackArrives s a).Inv := by
  unfold State.ackArrives
  split <;> simp [hI]

@[simp] theorem ackIn_inv {s : State} (hI : s.Inv) (port dst : Nat) (a : AckMsg) : (State.ackIn s port dst a).Inv := by
  unfold State.ackIn
  refine onChannel_inv hI _ _ _ _ (fun s hI => ite_inv ?_ (forMe_inv hI _ _ _ (fun s hI => ackArrives_inv hI a)))
  split
  · exact ite_inv hI (finishDrained_inv (twinReceipt_inv hI _ _ _))
  · exact hI

theorem execAckp_keeps {s : State} (hI : s.Inv) (port dst : Nat) (a : AckMsg) : Keeps (execAckp port dst a s) := by
  simp [execAckp, hI]

@[simp] theorem slackArrives_inv {s : State} (hI : s.Inv) (p : Nat) (m : Message) : (State.slackArrives s p m).Inv := by
  simp [State.slackArrives, hI]

@[simp] theorem slackIn_inv {s : State} (hI : s.Inv) (port : Nat) (m : Message) : (State.slackIn s port m).Inv := by
  unfold State.slackIn
  exact onChannel_inv hI _ _ _ _ (fun s hI => slackArrives_inv hI _ m)

theorem execSlackReport_keeps {s : State} (hI : s.Inv) (port : Nat) (m : Message) : Keeps (execSlackReport port m s) := by
  simp [execSlackReport, hI]

end Sys2Proof.Machine
end

