-- ==== Sys2Proof/Laws/InvPairing.lean ====
section
/-!
SUPPORT. The invariant `State.Inv` is kept by the functions of Machine/Pairing.lean.
-/

-- Each worker thread reserves stack of its own: proofs run one after another, to bound memory.
set_option Elab.async false

namespace Sys2Proof.Machine

@[simp] theorem pairing__inv {s : State} (hI : s.Inv) (port row : Nat) (m : Message) (k : State → State)
    (hk : ∀ (z0 : State), z0.Inv → (k z0).Inv) : (State.pairing_ s port row m k).Inv := by
  unfold State.pairing_
  exact onChannel_inv hI _ _ _ _ (fun s hI => ite_inv (hk s hI) (raiseFault_inv hI _))

@[simp] theorem hello_inv {s : State} (hI : s.Inv) (m : Message) : (State.hello s m).Inv := by
  simp (maxDischargeDepth := 20) [State.hello, hI]

@[simp] theorem helloIn_inv {s : State} (hI : s.Inv) (port : Nat) (m : Message) : (State.helloIn s port m).Inv :=
  pairing__inv hI _ _ _ _ (fun s hI => hello_inv hI m)

theorem execHello_keeps {s : State} (hI : s.Inv) (port : Nat) (m : Message) : Keeps (execHello port m s) := by
  simp [execHello, hI]

theorem execHelloTimer_keeps {s : State} (hI : s.Inv) : Keeps (execHelloTimer s) := by
  simp [execHelloTimer, hI]

@[simp] theorem pairUp_inv {s : State} (hI : s.Inv) (serial : U64) : (State.pairUp s serial).Inv := by
  simp (maxDischargeDepth := 20) [State.pairUp, hI]

@[simp] theorem readyIn_inv {s : State} (hI : s.Inv) (port : Nat) (m : Message) : (State.readyIn s port m).Inv :=
  pairing__inv hI _ _ _ _ (fun s hI => ite_inv (pairUp_inv hI _) hI)

theorem execReady_keeps {s : State} (hI : s.Inv) (port : Nat) (m : Message) : Keeps (execReady port m s) := by
  simp [execReady, hI]

@[simp] theorem leavePaired_inv {s : State} (hI : s.Inv) (state : Nat) (hs : state ≤ 3) :
    (State.leavePaired s state).Inv := unpairSeals_inv (setPair_inv hI _ hs)

@[simp] theorem detachIn_inv {s : State} (hI : s.Inv) (port : Nat) (m : Message) : (State.detachIn s port m).Inv :=
  pairing__inv hI _ _ _ _ (fun s hI => ite_inv (putOnPort_inv (leavePaired_inv hI 3 (by decide)) _ _) hI)

theorem execDetach_keeps {s : State} (hI : s.Inv) (port : Nat) (m : Message) : Keeps (execDetach port m s) := by
  simp [execDetach, hI]

@[simp] theorem detachedIn_inv {s : State} (hI : s.Inv) (port : Nat) (m : Message) : (State.detachedIn s port m).Inv :=
  pairing__inv hI _ _ _ _ (fun s hI => ite_inv (endPair_inv hI) hI)

theorem execDetached_keeps {s : State} (hI : s.Inv) (port : Nat) (m : Message) : Keeps (execDetached port m s) := by
  simp [execDetached, hI]

theorem execDetachTimeout_keeps {s : State} (hI : s.Inv) : Keeps (execDetachTimeout s) := by
  simp [execDetachTimeout, hI]

@[simp] theorem faultIn_inv {s : State} (hI : s.Inv) (port : Nat) (m : Message) : (State.faultIn s port m).Inv :=
  pairing__inv hI _ _ _ _ (fun s hI => ite_inv (leavePaired_inv (setSys_inv hI _) 1 (by decide)) (setSys_inv hI _))

theorem execFault_keeps {s : State} (hI : s.Inv) (port : Nat) (m : Message) : Keeps (execFault port m s) := by
  simp [execFault, hI]

@[simp] theorem peerIn_inv {s : State} (hI : s.Inv) (p : Nat) (x : PeerIn) : (State.peerIn s p x).Inv := by
  unfold State.peerIn
  split
  · exact syncIn_inv hI _ _ _
  · exact bulkIn_inv hI _ _ _
  · exact ackIn_inv hI _ _ _
  · exact slackIn_inv hI _ _
  · exact helloIn_inv hI _ _
  · exact readyIn_inv hI _ _
  · exact detachIn_inv hI _ _
  · exact detachedIn_inv hI _ _
  · exact faultIn_inv hI _ _

@[simp] theorem takeInbox_inv {s : State} (hI : s.Inv) : (State.takeInbox s).Inv :=
  foldl_inv (s := { s with inbox := [] }) hI (fun s e hI => peerIn_inv hI e.1 e.2)

theorem execTwinSenseN_keeps {s : State} (hI : s.Inv) (low : Bool) : Keeps (execTwinSenseN low s) := by
  simp (maxDischargeDepth := 20) [execTwinSenseN, hI]

end Sys2Proof.Machine
end

