-- ==== Sys2Proof/Laws/InvTrust.lean ====
section
/-!
SUPPORT. The invariant `State.Inv` is kept by the functions of Machine/Trust.lean.
-/

-- Each worker thread reserves stack of its own: proofs run one after another, to bound memory.
set_option Elab.async false

namespace Sys2Proof.Machine

theorem execPresenceButton_keeps {s : State} (hI : s.Inv) : Keeps (execPresenceButton s) := by
  simp [execPresenceButton, hI]

theorem execPresenceWindowExpiry_keeps {s : State} (hI : s.Inv) : Keeps (execPresenceWindowExpiry s) := by
  simp [execPresenceWindowExpiry, hI]

theorem execPresenceJumper_keeps {s : State} (hI : s.Inv) (fitted : Bool) : Keeps (execPresenceJumper fitted s) := by
  simp [execPresenceJumper, hI]

@[simp] theorem startQuote_inv {s : State} (hI : s.Inv) : (State.startQuote s).Inv := by
  simp [State.startQuote, hI]

@[simp] theorem endQuote_inv {s : State} (hI : s.Inv) : (State.endQuote s).Inv := by
  simp (maxDischargeDepth := 20) [State.endQuote, hI]

theorem execQuoteWritten_keeps {s : State} (hI : s.Inv) : Keeps (execQuoteWritten s) := by
  simp [execQuoteWritten, hI]

@[simp] theorem destroyKeys_inv {s : State} (hI : s.Inv) : (State.destroyKeys s).Inv := by
  simp [State.destroyKeys, hI]

@[simp] theorem importKey_inv {s : State} (hI : s.Inv) (t : Nat) : (State.importKey s t).1.Inv := by
  unfold State.importKey
  dsimp only
  repeat' split
  all_goals simp [hI]

@[simp] theorem eraseKey_inv {s : State} (hI : s.Inv) (t : Nat) : (State.eraseKey s t).1.Inv := by
  unfold State.eraseKey
  repeat' split
  all_goals simp [hI]

@[simp] theorem endJobNow_inv {s : State} (hI : s.Inv) : (State.endJobNow s).Inv := by
  simp (maxDischargeDepth := 20) [State.endJobNow, hI]

@[simp] theorem unlockDebug_inv {s : State} (hI : s.Inv) : (State.unlockDebug s).Inv := by
  simp (maxDischargeDepth := 20) [State.unlockDebug, hI]

@[simp] theorem startOp_inv {s : State} (hI : s.Inv) (op : Nat) : (State.startOp s op).Inv := by
  simp (maxDischargeDepth := 20) [State.startOp, hI]

@[simp] theorem endOp_inv {s : State} (hI : s.Inv) (result : Nat) : (State.endOp s result).Inv := by
  simp [State.endOp, hI]

@[simp] theorem putSlot_inv {s : State} (hI : s.Inv) (target slot : Nat) (f : Firmware) : (State.putSlot s target slot f).Inv := by
  unfold State.putSlot
  split <;> simp [hI]

@[simp] theorem endInstall_inv {s : State} (hI : s.Inv) (target : Nat) : (State.endInstall s target).Inv := by
  simp (maxDischargeDepth := 20) [State.endInstall, hI]

@[simp] theorem endRotate_inv {s : State} (hI : s.Inv) : (State.endRotate s).Inv := by
  simp (maxDischargeDepth := 20) [State.endRotate, hI]

@[simp] theorem abandonOp_inv {s : State} (hI : s.Inv) : (State.abandonOp s).Inv := by
  simp (maxDischargeDepth := 20) [State.abandonOp, hI]

@[simp] theorem setStageOff_inv {s : State} (hI : s.Inv) (v : Nat) : (State.setStageOff s v).Inv := by
  simp [State.setStageOff, hI]

@[simp] theorem stageWord_inv {s : State} (hI : s.Inv) (v : Nat) : (State.stageWord s v).Inv := by
  simp [State.stageWord, hI]

@[simp] theorem tamper_inv {s : State} (hI : s.Inv) : (State.tamper s).Inv := by
  simp (maxDischargeDepth := 20) [State.tamper, hI]

theorem execTamperBreak_keeps {s : State} (hI : s.Inv) : Keeps (execTamperBreak s) := by
  simp [execTamperBreak, hI]

end Sys2Proof.Machine
end

