-- ==== Sys2Proof/Laws/InvPower.lean ====
section
/-!
SUPPORT. The invariant `State.Inv` is kept by the functions of Machine/Power.lean.
-/

-- Each worker thread reserves stack of its own: proofs run one after another, to bound memory.
set_option Elab.async false

namespace Sys2Proof.Machine

theorem putBit_ne_zero : ∀ (x : BitVec 5) (c : Fin 5), putBit x c true ≠ 0 := by decide

/-- An asserted cause forces Hold, and Hold has a cause. -/
@[simp] theorem hold_inv {s : State} (hI : s.Inv) (cause : Nat) (hc : cause < 5) : (s.hold cause).Inv := by
  unfold State.hold
  dsimp only
  split
  · exact hI
  · refine refreshSys_inv (modPower_inv hI ?_)
    have := putBit_ne_zero s.power.holdWhy ⟨cause, hc⟩
    simp only [powerOk]
    simpa using this

theorem powerOk_ends {p : Power} (h : powerOk p = true) (hp : p.pstate ≠ 2) : p.holdWhy = 0 := by
  simp only [powerOk, Bool.and_eq_true, decide_eq_true_eq] at h
  have h2 := h.2
  have h3 : (p.pstate == 2) = false := by simpa using hp
  rw [h3] at h2
  simpa using h2

theorem powerOk_why (p : Power) (w : BitVec 5) :
    powerOk { p with holdWhy := w, pstate := if w == 0 then 0 else 2 } = true := by
  have key : ∀ w : BitVec 5, (decide ((if w == 0 then 0 else 2) ≤ 3) &&
      (((if w == 0 then 0 else 2) == 2) == (w != 0))) = true := by decide
  exact key w

@[simp] theorem unhold_inv {s : State} (hI : s.Inv) (cause : Nat) : (State.unhold s cause).Inv := by
  have h := modPower_inv (f := fun p => { p with
    holdWhy := putBit s.power.holdWhy cause false,
    pstate := if putBit s.power.holdWhy cause false == 0 then 0 else 2 }) hI (powerOk_why _ _)
  have ht := takeInbox_inv (resumeTraffic_inv h)
  unfold State.unhold
  exact ite_inv hI (ite_inv h (ite_inv (closeDue_inv (boundaryDue_inv ht)) ht))

@[simp] theorem senseThermal_inv {s : State} (hI : s.Inv) : (State.senseThermal s).Inv := by
  simp [State.senseThermal, hI]

@[simp] theorem endTrip_inv {s : State} (hI : s.Inv) : (State.endTrip s).Inv := by
  simp [State.endTrip, hI]

@[simp] theorem senseTj_inv {s : State} (hI : s.Inv) (tj : Nat) : (State.senseTj s tj).Inv := by
  simp (maxDischargeDepth := 20) [State.senseTj, hI]

theorem execThermalTrip_keeps {s : State} (hI : s.Inv) (tj : Nat) : Keeps (execThermalTrip tj s) := by
  simp (maxDischargeDepth := 20) [execThermalTrip, hI]

@[simp] theorem throttleUpdate_inv {s : State} (hI : s.Inv) (vinMv inputW tj : Nat) (overCap : Bool) : (State.throttleUpdate s vinMv inputW tj overCap).Inv := by
  simp (maxDischargeDepth := 20) [State.throttleUpdate, hI]

theorem execThrottleUpdate_keeps {s : State} (hI : s.Inv) (vinMv inputW tj : Nat) (overCap : Bool) : Keeps (execThrottleUpdate vinMv inputW tj overCap s) := by
  simp [execThrottleUpdate, hI]

theorem execDroopDetection_keeps {s : State} (hI : s.Inv) (quadrant : Nat) : Keeps (execDroopDetection quadrant s) := by
  simp [execDroopDetection, hI]

theorem execDroopRelease_keeps {s : State} (hI : s.Inv) (quadrant : Nat) : Keeps (execDroopRelease quadrant s) := by
  simp [execDroopRelease, hI]

theorem execLpddr6Hot_keeps {s : State} (hI : s.Inv) (package : Nat) : Keeps (execLpddr6Hot package s) := by
  simp [execLpddr6Hot, hI]

theorem execLpddr6HotFault_keeps {s : State} (hI : s.Inv) (package : Nat) : Keeps (execLpddr6HotFault package s) := by
  simp (maxDischargeDepth := 20) [execLpddr6HotFault, hI]

@[simp] theorem readPackage_inv {s : State} (hI : s.Inv) (package : Nat) (temp rated : Int) : (State.readPackage s package temp rated).Inv := by
  simp (maxDischargeDepth := 20) [State.readPackage, hI]

theorem execPackageTemperatureReadout_keeps {s : State} (hI : s.Inv) (package : Nat) (temp rated : Int) : Keeps (execPackageTemperatureReadout package temp rated s) := by
  simp [execPackageTemperatureReadout, hI]

theorem execRackAlert_keeps {s : State} (hI : s.Inv) (low : Bool) : Keeps (execRackAlert low s) := by
  simp (maxDischargeDepth := 20) [execRackAlert, hI]

theorem execRegulatorAlert_keeps {s : State} (hI : s.Inv) (asserted : Bool) : Keeps (execRegulatorAlert asserted s) := by
  simp (maxDischargeDepth := 20) [execRegulatorAlert, hI]

theorem execAlertHoldExpiry_keeps {s : State} (hI : s.Inv) (regulator : Bool) : Keeps (execAlertHoldExpiry regulator s) := by
  simp (maxDischargeDepth := 20) [execAlertHoldExpiry, hI]

theorem execVinFault_keeps {s : State} (hI : s.Inv) : Keeps (execVinFault s) := by
  simp [execVinFault, hI]

theorem execNvWriteInhibit_keeps {s : State} (hI : s.Inv) : Keeps (execNvWriteInhibit s) := by
  simp (maxDischargeDepth := 20) [execNvWriteInhibit, hI]

theorem execNvWriteResume_keeps {s : State} (hI : s.Inv) : Keeps (execNvWriteResume s) := by
  have h (n m : Nat) (b : Bool) : State.Inv { s with part := { s.part with fusePending := b, rollback := n, fusesDue := m } } := hI
  exact keeps_next.2 (takeInbox_inv (modPower_inv (h _ _ _) (inv_power hI)))

theorem execInputSagEnd_keeps {s : State} (hI : s.Inv) : Keeps (execInputSagEnd s) := by
  simp [execInputSagEnd, hI]

theorem execClockFault_keeps {s : State} (hI : s.Inv) : Keeps (execClockFault s) := by
  simp [execClockFault, hI]

theorem execIdleEntry_keeps {s : State} (hI : s.Inv) : Keeps (execIdleEntry s) := by
  unfold execIdleEntry
  split
  · rename_i e
    have h0 : s.power.pstate = 0 := by simp at e; exact e.1
    refine keeps_next.2 (modPower_inv hI ?_)
    have := powerOk_ends (inv_power hI) (by omega)
    simp [powerOk, this]
  · exact keeps_next.2 hI

@[simp] theorem enterSleep_inv {s : State} (hI : s.Inv) : (State.enterSleep s).Inv := by
  unfold State.enterSleep
  split
  · rename_i e
    refine modPower_inv (foldl_keeps hI (fun s h hs => refreshAll_inv hs h)) ?_
    have : s.power.holdWhy = 0 := by simpa using e
    rw [refreshAlls_power]
    simp [powerOk, this]
  · exact hI

theorem leaveSleep_inv {s : State} (hI : s.Inv) (h3 : s.power.pstate = 3) : (State.leaveSleep s).Inv := by
  have := powerOk_ends (inv_power hI) (by omega)
  refine closeDue_inv (takeInbox_inv (resumeTraffic_inv (modPower_inv hI ?_)))
  simp [powerOk, this]

theorem execSleepExit_keeps {s : State} (hI : s.Inv) : Keeps (execSleepExit s) := by
  unfold execSleepExit
  split
  · rename_i e
    have h3 : s.power.pstate = 3 := by simp at e; exact e.1
    exact keeps_next.2 (leaveSleep_inv hI h3)
  · exact keeps_next.2 hI

@[simp] theorem apportion_inv {s : State} (hI : s.Inv) (e : Nat) : (State.apportion s e).Inv := by
  simp [State.apportion, hI]

theorem execEnergyInterval_keeps {s : State} (hI : s.Inv) (nanojoules : Nat) : Keeps (execEnergyInterval nanojoules s) := by
  simp (maxDischargeDepth := 20) [execEnergyInterval, hI]

end Sys2Proof.Machine
end

