-- ==== Sys2Proof/Laws/InvTallies.lean ====
section
/-!
SUPPORT. The invariant `State.Inv` is kept by the functions of Machine/Tallies.lean.
-/

-- Each worker thread reserves stack of its own: proofs run one after another, to bound memory.
set_option Elab.async false

namespace Sys2Proof.Machine

@[simp] theorem putTally_inv {s : State} (hI : s.Inv) (t : Tally) : (State.putTally s t).Inv := by
  simp [State.putTally, hI]

@[simp] theorem countTallyOp_inv {s : State} (hI : s.Inv) : (State.countTallyOp s).Inv := by
  simp [State.countTallyOp, hI]

@[simp] theorem endWaiter_inv {s : State} (hI : s.Inv) (status : Nat) (results : List Byte) (w : Waiter) : (State.endWaiter s status results w).Inv := by
  unfold State.endWaiter
  split <;> simp [hI]

@[simp] theorem signalTally_inv {s : State} (hI : s.Inv) (n count : Nat) : (State.signalTally s n count).Inv := by
  unfold State.signalTally
  exact foldl_inv hI (fun s a hI => by simp (maxDischargeDepth := 20) [hI])

@[simp] theorem runTallyClaim_inv {s : State} (hI : s.Inv) (r : Record) (id : Nat) : (runTallyClaim r id s).Inv := by
  simp (maxDischargeDepth := 20) [runTallyClaim, hI]

theorem planTallyClaim_inv {v : State} (ht : v.Inv) (t : State) (r : Record) (id : Nat) : ((planTallyClaim r t).run id v).Inv := by
  simp (maxDischargeDepth := 20) [planTallyClaim, ht]

theorem execTallyClaim_keeps {s : State} (hI : s.Inv) (r : Record) : Keeps (execTallyClaim r s) := by
  unfold execTallyClaim
  exact keeps_next.2 (record_inv hI _ _ _ (fun t v r id hI => planTallyClaim_inv hI t r id))

@[simp] theorem runTallyRelease_inv {s : State} (hI : s.Inv) (r : Record) (id : Nat) : (runTallyRelease r id s).Inv := by
  unfold runTallyRelease
  repeat' split
  all_goals simp +contextual (maxDischargeDepth := 20) [hI]

theorem planTallyRelease_inv {v : State} (ht : v.Inv) (t : State) (r : Record) (id : Nat) : ((planTallyRelease r t).run id v).Inv := by
  simp (maxDischargeDepth := 20) [planTallyRelease, ht]

theorem execTallyRelease_keeps {s : State} (hI : s.Inv) (r : Record) : Keeps (execTallyRelease r s) := by
  unfold execTallyRelease
  exact keeps_next.2 (record_inv hI _ _ _ (fun t v r id hI => planTallyRelease_inv hI t r id))

@[simp] theorem runTallySignal_inv {s : State} (hI : s.Inv) (r : Record) (id : Nat) : (runTallySignal r id s).Inv := by
  simp [runTallySignal, hI]

theorem planTallySignal_inv {v : State} (ht : v.Inv) (t : State) (r : Record) (id : Nat) : ((planTallySignal r t).run id v).Inv := by
  simp (maxDischargeDepth := 20) [planTallySignal, ht]

theorem execTallySignal_keeps {s : State} (hI : s.Inv) (r : Record) : Keeps (execTallySignal r s) := by
  unfold execTallySignal
  exact keeps_next.2 (record_inv hI _ _ _ (fun t v r id hI => planTallySignal_inv hI t r id))

@[simp] theorem runTallyWait_inv {s : State} (hI : s.Inv) (r : Record) (id : Nat) : (runTallyWait r id s).Inv := by
  simp (maxDischargeDepth := 20) [runTallyWait, hI]

theorem planTallyWait_inv {v : State} (ht : v.Inv) (t : State) (r : Record) (id : Nat) : ((planTallyWait r t).run id v).Inv := by
  simp (maxDischargeDepth := 20) [planTallyWait, ht]

theorem execTallyWait_keeps {s : State} (hI : s.Inv) (r : Record) : Keeps (execTallyWait r s) := by
  unfold execTallyWait
  exact keeps_next.2 (record_inv hI _ _ _ (fun t v r id hI => planTallyWait_inv hI t r id))

@[simp] theorem runTallyRead_inv {s : State} (hI : s.Inv) (r : Record) (id : Nat) : (runTallyRead r id s).Inv := by
  simp [runTallyRead, hI]

theorem planTallyRead_inv {v : State} (ht : v.Inv) (t : State) (r : Record) (id : Nat) : ((planTallyRead r t).run id v).Inv := by
  simp (maxDischargeDepth := 20) [planTallyRead, ht]

theorem execTallyRead_keeps {s : State} (hI : s.Inv) (r : Record) : Keeps (execTallyRead r s) := by
  unfold execTallyRead
  exact keeps_next.2 (record_inv hI _ _ _ (fun t v r id hI => planTallyRead_inv hI t r id))

theorem execTallyTimeout_keeps {s : State} (hI : s.Inv) (tally ring : Nat) (seq : U32) : Keeps (execTallyTimeout tally ring seq s) := by
  unfold execTallyTimeout
  dsimp only
  repeat' split
  all_goals simp [hI]

end Sys2Proof.Machine
end

