-- ==== Sys2Proof/Laws/InvRecords.lean ====
section
/-!
SUPPORT. The invariant `State.Inv` is kept by the functions of Machine/Records.lean.
-/

-- Each worker thread reserves stack of its own: proofs run one after another, to bound memory.
set_option Elab.async false

namespace Sys2Proof.Machine

/-- The effect of a plan, its checks passed, keeps the invariant. -/
def PlanKeeps (p : Record → State → Plan) : Prop :=
  ∀ t v r id, v.Inv → firstFailure (planChecks t r (p r t)) = stOk → ((p r t).run id v).Inv

/-- Whatever its opcode, a record whose checks pass keeps the invariant. -/
theorem planOf_keeps (q : Record) : PlanKeeps (planOf q) := by
  unfold planOf
  split
  · exact fun t v r id ht _ => planIndexCreate_inv ht t r id
  · exact fun t v r id ht _ => planIndexLoad_inv ht t r id
  · exact fun t v r id ht _ => planIndexDrop_inv ht t r id
  · exact fun t v r id ht _ => planIndexSave_inv ht t r id
  · exact fun t v r id ht _ => planVecInsert_inv ht t r id
  · exact fun t v r id ht _ => planVecDelete_inv ht t r id
  · exact fun t v r id ht _ => planIndexPublish_inv ht t r id
  · exact fun t v r id ht _ => planSearch_inv ht t r id
  · exact fun t v r id ht _ => planTopk_inv ht t r id
  · exact fun t v r id ht _ => planTopkMerge_inv ht t r id
  · exact fun t v r id ht _ => planTokenise_inv ht t r id
  · exact fun t v r id ht _ => planDetokenise_inv ht t r id
  · exact fun t v r id ht _ => planGrammarLoad_inv ht t r id
  · exact fun t v r id ht _ => planGrammarDrop_inv ht t r id
  · exact fun t v r id ht _ => planTemplateLoad_inv ht t r id
  · exact fun t v r id ht _ => planTemplateDrop_inv ht t r id
  · exact fun t v r id ht _ => planPassageLoad_inv ht t r id
  · exact fun t v r id ht _ => planPassageDrop_inv ht t r id
  · exact fun t v r id ht _ => planPack_inv ht t r id
  · exact fun t v r id ht _ => planTableCreate_inv ht t r id
  · exact fun t v r id ht _ => planTableDrop_inv ht t r id
  · exact fun t v r id ht _ => planRowLoad_inv ht t r id
  · exact fun t v r id ht _ => planTableSave_inv ht t r id
  · exact fun t v r id ht _ => planGather_inv ht t r id
  · exact fun t v r id ht _ => planPool_inv ht t r id
  · exact fun t v r id ht _ => planScatter_inv ht t r id
  · exact fun t v r id ht _ => planJobLoad_inv ht t r id
  · exact fun t v r id ht _ => planJobEnd_inv ht t r id
  · exact fun t v r id ht _ => planRequest_inv ht t r id
  · exact fun t v r id ht _ => planEmbed_inv ht t r id
  · exact fun t v r id ht _ => planSafeguardRead_inv ht t r id
  · exact fun t v r id ht _ => planOpen_inv ht t r id
  · exact fun t v r id ht _ => planAppend_inv ht t r id
  · exact fun t v r id ht _ => planGenerate_inv ht t r id
  · exact fun t v r id ht _ => planResume_inv ht t r id
  · exact fun t v r id ht _ => planPark_inv ht t r id
  · exact fun t v r id ht _ => planRevive_inv ht t r id
  · exact fun t v r id ht _ => planMove_inv ht t r id
  · exact fun t v r id ht _ => planFork_inv ht t r id
  · exact fun t v r id ht _ => planClose_inv ht t r id
  · exact fun t v r id ht _ => planSeal_inv ht t r id
  · exact fun t v r id ht _ => planPageMap_inv ht t r id
  · exact fun t v r id ht _ => planPageUnmap_inv ht t r id
  · exact fun t v r id ht _ => planCopyIn_inv ht t r id
  · exact fun t v r id ht _ => planCopyOut_inv ht t r id
  · exact fun t v r id ht e => planTierMode_inv ht t r id e
  · exact fun t v r id ht _ => planWindowOpen_inv ht t r id
  · exact fun t v r id ht _ => planWindowFlush_inv ht t r id
  · exact fun t v r id ht _ => planWindowClose_inv ht t r id
  · exact fun t v r id ht _ => planModelLoad_inv ht t r id
  · exact fun t v r id ht _ => planModelRetire_inv ht t r id
  · exact fun t v r id ht _ => planModelCurrent_inv ht t r id
  · exact fun t v r id ht _ => planModelPin_inv ht t r id
  · exact fun t v r id ht _ => planTallyClaim_inv ht t r id
  · exact fun t v r id ht _ => planTallyRelease_inv ht t r id
  · exact fun t v r id ht _ => planTallySignal_inv ht t r id
  · exact fun t v r id ht _ => planTallyWait_inv ht t r id
  · exact fun t v r id ht _ => planTallyRead_inv ht t r id
  · exact fun t v r id ht _ => planDiagEcho_inv ht t r id
  · exact fun t v r id ht _ => planFaultInject_inv ht t r id
  · exact fun t v r id ht _ => planFaultRead_inv ht t r id
  · exact fun t v r id ht _ => ht

theorem startFormer_inv {s : State} (hI : s.Inv) (r : Record) (n : Nat) (k : Option U32)
    (rest : List (Nat × Option U32)) : (State.startFormer s r n k rest).Inv := by
  have h := startRecord_inv (modCmd_inv (n := r.ring) (f := fun c => { c with lastSeq := k }) hI
    (inv_cmdRing hI r.ring)) r (planOf r) (fun t v id ht => planOf_keeps _ t v _ id ht)
  exact modCmd_inv h (inv_cmdRing h r.ring)

@[simp] theorem startHead_inv {s : State} (hI : s.Inv) (ring : Nat) : (State.startHead s ring).Inv := by
  unfold State.startHead
  split
  · exact hI
  · rename_i r rest e
    have h1 := inv_cmdRing hI ring
    rw [e] at h1
    simp only [List.length_cons] at h1
    split
    · have hr := modCmd_inv (n := ring) (f := fun c => { c with taken := rest }) hI (by simp only; omega)
      dsimp only
      split
      · exact placeFreed_inv (startRecord_inv hr _ _ (fun t v id ht => planOf_keeps _ t v _ id ht)) _
      · exact placeFreed_inv (startFormer_inv hr _ _ _ _) _
    · exact hI

theorem execRecordStart_keeps {s : State} (hI : s.Inv) (ring : Nat) : Keeps (execRecordStart ring s) := by
  simp [execRecordStart, hI]

end Sys2Proof.Machine
end

