-- ==== Sys2Proof/Laws/InvStartUp.lean ====
section
/-!
SUPPORT. The invariant `State.Inv` is kept by the functions of Machine/StartUp.lean.
-/

-- Each worker thread reserves stack of its own: proofs run one after another, to bound memory.
set_option Elab.async false

namespace Sys2Proof.Machine


theorem startUp_inv {s : State} (hI : s.Inv) (x : StartUp) (h : stageOk x.stage = true) :
    State.Inv { s with startUp := x } :=
  ⟨hI.1, hI.2.1, h, hI.2.2.2⟩

@[simp] theorem stageOk_low {n : Nat} (h : n ≤ 7) : stageOk n = true := by simp [stageOk, h]
@[simp] theorem stageOk_minimal : stageOk 0xFE = true := rfl
@[simp] theorem stageOk_recovery : stageOk 0xFF = true := rfl

theorem vGet_replicate {α : Type} (m n : Nat) (a : α) : vGet (Vector.replicate m a) n a = a := by
  unfold vGet
  by_cases h : n < m <;> simp [h]

theorem trained_inv {s : State} (hI : s.Inv) (ch : Vector Channel 192) (c : Capability) (x : StartUp)
    (h : stageOk x.stage = true) : State.Inv { s with channels := ch, cap := c, startUp := x } :=
  ⟨hI.1, hI.2.1, h, hI.2.2.2⟩

theorem capability_inv {s : State} (hI : s.Inv) (c : Capability) (x : StartUp)
    (h : stageOk x.stage = true) : State.Inv { s with cap := c, startUp := x } :=
  ⟨hI.1, hI.2.1, h, hI.2.2.2⟩

theorem service_inv {s : State} (hI : s.Inv) (ms : Nat) : State.Inv { s with
    startUp := { s.startUp with stage := 7, stMs := ms }
    tiers := { s.tiers with mode := 0 } } :=
  ⟨hI.1, hI.2.1, rfl, hI.2.2.2.1, Nat.zero_le _, hI.2.2.2.2.2⟩

@[simp] theorem holdAgain_inv {s : State} (hI : s.Inv) : (State.holdAgain s).Inv := by
  have h (t : State) (ht : t.Inv) (c : Prop) [Decidable c] (k : Nat) (hk : k < 5) :
      (if c then t.hold k else t).Inv := by
    split
    · exact hold_inv ht k hk
    · exact ht
  exact h _ (h _ (h _ hI _ 0 (by decide)) _ 1 (by decide)) _ 2 (by decide)

@[simp] theorem sampleTerm_inv {s : State} (hI : s.Inv) : (State.sampleTerm s).Inv :=
  ite_inv hI (startUp_inv hI { s.startUp with terminated := s.startUp.termLow } (inv_stage hI))

/-- What a reset keeps does not bear on the invariant, but for companion memory and the staging area. -/
theorem resetBase_inv {s : State} (hI : s.Inv) (kind : Nat) : State.Inv { State.reset with
    pending := s.pending
    ident := s.ident
    startUp := { StartUp.reset with
      lastReset := kind, resetLow := s.startUp.resetLow, powered := s.startUp.powered,
      mated := s.startUp.mated, termLow := s.startUp.termLow, terminated := s.startUp.terminated }
    dict := { Dict.reset with store := s.dict.store, commits := s.dict.commits }
    mgmt := { Mgmt.reset with link := s.mgmt.link }
    t2 := s.t2
    sent := s.sent
    part := s.part.kept (kind == 0)
    power := s.power.kept
    pairing := { Pairing.reset with cabled := s.pairing.cabled }
    timestamp := if kind = 0 then 0 else s.timestamp
    draws := s.draws } := by
  refine ⟨hI.1, hI.2.1, rfl, rfl, Nat.le_of_ble_eq_true rfl, Nat.le_of_ble_eq_true rfl, Nat.le_of_ble_eq_true rfl,
    Nat.le_of_ble_eq_true rfl, fun n => ?_, fun n => ?_, Nat.le_of_ble_eq_true rfl⟩
  · show (vGet (Vector.replicate _ CmdRing.reset) n CmdRing.reset).taken.length ≤ 64
    rw [vGet_replicate]; decide
  · show (vGet (Vector.replicate _ CqRing.reset) n CqRing.reset).held.length ≤ 256
    rw [vGet_replicate]; decide

@[simp] theorem doReset_inv {s : State} (hI : s.Inv) (kind : Nat) : (State.doReset s kind).Inv := by
  exact sampleTerm_inv (holdAgain_inv (resetBase_inv hI kind))

theorem execPowerOnReset_keeps {s : State} (hI : s.Inv) : Keeps (execPowerOnReset s) := by
  simp (maxDischargeDepth := 20) [execPowerOnReset, hI]

theorem execPinReset_keeps {s : State} (hI : s.Inv) (low : Bool) : Keeps (execPinReset low s) := by
  have h := startUp_inv hI { s.startUp with resetLow := low } (inv_stage hI)
  unfold execPinReset
  exact keeps_next.2 (ite_inv (doReset_inv h 1) (sampleTerm_inv h))

theorem execPmateN_keeps {s : State} (hI : s.Inv) (closed : Bool) : Keeps (execPmateN closed s) := by
  have h := startUp_inv hI { s.startUp with mated := closed, powered := false } (inv_stage hI)
  unfold execPmateN
  exact keeps_next.2 (ite_inv hI (ite_inv (doReset_inv h 0) h))

theorem execUndervoltageLockout_keeps {s : State} (hI : s.Inv) : Keeps (execUndervoltageLockout s) := by
  simp [execUndervoltageLockout, hI]

@[simp] theorem softReset_inv {s : State} (hI : s.Inv) : (State.softReset s).Inv := by
  simp [State.softReset, hI]

@[simp] theorem doFactoryReset_inv {s : State} (hI : s.Inv) : (State.doFactoryReset s).Inv := by
  simp (maxDischargeDepth := 20) [State.doFactoryReset, hI]

theorem execTrustOperationEnd_keeps {s : State} (hI : s.Inv) : Keeps (execTrustOperationEnd s) := by
  unfold execTrustOperationEnd
  repeat' split
  all_goals simp [hI]

@[simp] theorem restore_inv {s : State} (hI : s.Inv) : (State.restore s).Inv := by
  simp [State.restore, hI]

@[simp] theorem recovery_inv {s : State} (hI : s.Inv) (noPartition : Bool) : (State.recovery s noPartition).Inv := by
  have h := startUp_inv hI { s.startUp with stage := 0xFF, noPartition := noPartition } rfl
  exact ⟨h.1, h.2.1, h.2.2⟩

@[simp] theorem bootSp_inv {s : State} (hI : s.Inv) (f : Found) (sp : Nat) : (State.bootSp s f sp).Inv := by
  exact ⟨hI.1, hI.2.1, hI.2.2⟩

@[simp] theorem bootImage_inv {s : State} (hI : s.Inv) (n : Nat) : (State.bootImage s n).Inv := by
  exact ⟨hI.1, hI.2.1, rfl, hI.2.2.2⟩

@[simp] theorem bootCause_inv {s : State} (hI : s.Inv) (target slot : Nat) : (State.bootCause s target slot).Inv := by
  simp [State.bootCause, hI]

@[simp] theorem bootMain_inv {s : State} (hI : s.Inv) (f : Found) (sp : Nat) : (State.bootMain s f sp).Inv := by
  unfold State.bootMain
  dsimp only
  split
  · exact recovery_inv (bootSp_inv (bootCause_inv hI 1 sp) f sp) false
  · exact bootImage_inv (bootCause_inv (bootSp_inv (bootCause_inv hI 1 sp) f sp) 0 _) _

@[simp] theorem bootChain_inv {s : State} (hI : s.Inv) (f : Found) : (State.bootChain s f).Inv := by
  unfold State.bootChain
  refine ite_inv (startUp_inv hI { s.startUp with halted := true } (inv_stage hI)) ?_
  dsimp only
  split
  · exact recovery_inv (restore_inv hI) true
  · exact bootMain_inv (restore_inv hI) f _

@[simp] theorem beginTraining_inv {s : State} (hI : s.Inv) : (State.beginTraining s).Inv := by
  have h := startUp_inv hI { s.startUp with stage := 2 } rfl
  have h' (l : CohLink → CohLink) (hl : (l s.link).state ≤ 3) := modLink_inv (f := l) h hl
  unfold State.beginTraining
  extract_lets
  refine foldl_inv (h' _ ?_) (fun s p hs => ?_)
  · have := inv_link hI
    dsimp only
    split <;> omega
  · split
    · exact movePort_inv hs _ _
    · exact hs

@[simp] theorem endTraining_inv {s : State} (hI : s.Inv) (f : Found) : (State.endTraining s f).Inv := by
  unfold State.endTraining
  split
  · exact hI
  · exact trained_inv hI _ _ _ rfl

@[simp] theorem testSuspect_inv {s : State} (hI : s.Inv) (f : Found) (h : Nat) : (State.testSuspect f s h).Inv := by
  simp (maxDischargeDepth := 20) [State.testSuspect, hI]

@[simp] theorem testSuspects_inv {s : State} (hI : s.Inv) (f : Found) : (State.testSuspects s f).Inv := by
  have h : ((List.range 192).foldl (State.testSuspect f) s).Inv := foldl_inv hI (fun s n h => testSuspect_inv h _ _)
  exact startUp_inv h _ rfl

@[simp] theorem commitFuses_inv {s : State} (hI : s.Inv) (f : Firmware) : (State.commitFuses s f).Inv := by
  unfold State.commitFuses
  split
  · refine ite_inv (ite_inv ?_ ?_) hI <;> exact hI
  · exact hI

@[simp] theorem fixCapability_inv {s : State} (hI : s.Inv) (f : Found) : (State.fixCapability s f).Inv := by
  have h := capability_inv hI (s.findCapability f) { s.startUp with stage := 5, st4Ms := f.ms } rfl
  exact ite_inv (commitFuses_inv (commitFuses_inv h _) _) h

@[simp] theorem placeReport_inv {s : State} (hI : s.Inv) (f : Found) : (State.placeReport s f).Inv := by
  have h1 (a : Nat) (l : List Byte) (n : U64) (k : List U16) : State.Inv ({ s.writeT2 a l with
      startUp := { s.startUp with report := some k },
      tiers := { s.tiers with fills := s.tiers.fills + n, writebacks := s.tiers.writebacks + n } }) := by
    obtain ⟨h1, h2, -, h4, -, h6⟩ := writeT2_inv hI a l
    have h3 := inv_stage hI
    have h5 := inv_mode hI
    exact ⟨h1, h2, h3, h4, h5, h6⟩
  exact ite_inv hI (ite_inv (h1 _ _ _ _) (startUp_inv hI { s.startUp with suWritten := 2 } (inv_stage hI)))

@[simp] theorem endReport_inv {s : State} (hI : s.Inv) (f : Found) : (State.endReport s f).Inv :=
  ite_inv (startUp_inv hI { s.startUp with stage := 6 } rfl)
    (refreshSys_inv (startUp_inv hI { s.startUp with stage := 0xFE, stMs := f.ms } rfl))

@[simp] theorem writeReport_inv {s : State} (hI : s.Inv) (f : Found) : (State.writeReport s f).Inv := by
  have h := placeReport_inv hI f
  unfold State.writeReport
  split
  · exact ite_inv h (endReport_inv h f)
  · exact ite_inv hI (endReport_inv (startUp_inv hI { s.startUp with report := none, suWritten := 1 } (inv_stage hI)) f)

@[simp] theorem beginService_inv {s : State} (hI : s.Inv) (f : Found) : (State.beginService s f).Inv := by
  have h2 := service_inv (loadDefaultJob_inv hI) f.ms
  have h3 {c : Prop} [Decidable c] {t : State} (ht : t.Inv) : (if c then t.enableCmd 0 else t).Inv :=
    ite_inv (enableCmd_inv ht _) ht
  have h4 {c : Prop} [Decidable c] {t : State} (ht : t.Inv) : (if c then t.enableCq 0 else t).Inv :=
    ite_inv (enableCq_inv ht _) ht
  exact tryPair_inv (h4 (h3 h2))

@[simp] theorem startUpStage_inv {s : State} (hI : s.Inv) (f : Found) : (State.startUpStage s f).Inv := by
  unfold State.startUpStage
  repeat' split
  all_goals simp [hI]

theorem execStartUpStage_keeps {s : State} (hI : s.Inv) (f : Found) : Keeps (execStartUpStage f s) := by
  simp [execStartUpStage, hI]

theorem execManagementLinkChange_keeps {s : State} (hI : s.Inv) (up : Bool) : Keeps (execManagementLinkChange up s) := by
  simp [execManagementLinkChange, hI]

end Sys2Proof.Machine
end

