-- ==== Sys2Proof/Laws/InvDictionary.lean ====
section
/-!
SUPPORT. The invariant `State.Inv` is kept by the functions of Machine/Dictionary.lean.
-/

-- Each worker thread reserves stack of its own: proofs run one after another, to bound memory.
set_option Elab.async false

namespace Sys2Proof.Machine

@[simp] theorem putSub_inv {s : State} (hI : s.Inv) (index sub v : Nat) : (State.putSub s index sub v).Inv := by
  simp [State.putSub, hI]

@[simp] theorem putSelector_inv {s : State} (hI : s.Inv) (route index sub v : Nat) : (State.putSelector s route index sub v).Inv := by
  simp [State.putSelector, hI]

@[simp] theorem setCmdEnable_inv {s : State} (hI : s.Inv) (n v : Nat) : (State.setCmdEnable s n v).Inv := by
  simp (maxDischargeDepth := 20) [State.setCmdEnable, hI]

@[simp] theorem setCqEnable_inv {s : State} (hI : s.Inv) (n v : Nat) : (State.setCqEnable s n v).Inv := by
  simp (maxDischargeDepth := 20) [State.setCqEnable, hI]

@[simp] theorem clearCause_inv {s : State} (hI : s.Inv) (index sub v : Nat) : (State.clearCause s index sub v).Inv := by
  simp [State.clearCause, hI]

@[simp] theorem clearStickyWord_inv {s : State} (hI : s.Inv) (sub v : Nat) : (State.clearStickyWord s sub v).Inv := by
  simp [State.clearStickyWord, hI]

@[simp] theorem setPortEnable_inv {s : State} (hI : s.Inv) (p v : Nat) : (State.setPortEnable s p v).Inv := by
  simp (maxDischargeDepth := 20) [State.setPortEnable, hI]

@[simp] theorem setPairEn_inv {s : State} (hI : s.Inv) (v : Nat) : (State.setPairEn s v).Inv := by
  simp (maxDischargeDepth := 20) [State.setPairEn, hI]

@[simp] theorem detachNow_inv {s : State} (hI : s.Inv) : (State.detachNow s).Inv := by
  simp [State.detachNow, hI]

@[simp] theorem limitChanged_inv {s : State} (hI : s.Inv) (sub : Nat) : (State.limitChanged s sub).Inv := by
  simp (maxDischargeDepth := 20) [State.limitChanged, hI]

@[simp] theorem putTenant_inv {s : State} (hI : s.Inv) (t index sub v : Nat) : (State.putTenant s t index sub v).Inv := by
  unfold State.putTenant
  split <;> simp [hI]

@[simp] theorem putModule_inv {s : State} (hI : s.Inv) (index sub v : Nat) : (State.putModule s index sub v).Inv := by
  unfold State.putModule
  split <;> simp [hI]

@[simp] theorem acceptWrite_inv {s : State} (hI : s.Inv) (route index sub v : Nat) : (State.acceptWrite s route index sub v).1.Inv := by
  unfold State.acceptWrite
  repeat' split
  all_goals simp [hI]

@[simp] theorem dictWrite_inv {s : State} (hI : s.Inv) (route index sub v : Nat) : (State.dictWrite s route index sub v).1.Inv := by
  unfold State.dictWrite
  dsimp only
  split <;> simp [hI]

end Sys2Proof.Machine
end

