-- ==== Sys2Proof/Laws/InvRequests.lean ====
section
/-!
SUPPORT. The invariant `State.Inv` is kept by the functions of Machine/Requests.lean.
-/

-- Each worker thread reserves stack of its own: proofs run one after another, to bound memory.
set_option Elab.async false

namespace Sys2Proof.Machine

@[simp] theorem Answer.finish_inv {s : State} (hI : s.Inv) (a : Answer) : (Answer.finish a s).Inv := by
  simp [Answer.finish, hI]

theorem answers_inv {s : State} (hI : s.Inv) (st : Nat) (v : Option Nat) (b : Bool) :
    (s.answers st v b).state.Inv := by
  cases v
  · exact drew_inv hI 1
  · exact hI

theorem request_inv {s : State} (hI : s.Inv) (route op index sub : Nat) (v : Nat) (z : Bool) :
    (s.request route op index sub v z).state.Inv := by
  unfold State.request
  repeat' split
  · unfold State.readRequest
    split
    · exact answers_inv hI _ _ _
    · exact answers_inv (ite_inv (drew_inv hI _) hI) _ _ _
  · exact answers_inv hI _ _ _
  · exact answers_inv (dictWrite_inv hI _ _ _ _) _ _ _
  · exact answers_inv hI _ _ _
  · exact answers_inv hI _ _ _

theorem finish_inv {t : State} (ht : t.Inv) (a : Answer) : (a.finish t).Inv := by
  unfold Answer.finish
  split
  · exact softReset_inv ht
  · exact ht

@[simp] theorem rowWrite_inv {s : State} (hI : s.Inv) (route index sub : Nat) (value : U64) : (State.rowWrite s route index sub value).Inv := by
  have h := request_inv (wake_inv hI) route 2 index sub value.toNat true
  exact ite_inv (finish_inv (send_inv h _) _) hI

@[simp] theorem putSlotLine_inv {s : State} (hI : s.Inv) (slot : Nat) (f : WinSlot → WinSlot) : (State.putSlotLine s slot f).Inv := by
  simp [State.putSlotLine, hI]

@[simp] theorem runSlot_inv {s : State} (hI : s.Inv) (slot : Nat) (l : Line) : (State.runSlot s slot l).Inv := by
  have h := request_inv (putSlotLine_inv hI slot (fun x => { x with response := setField x.response 0 1 0 })) 0
    (field l 0 1) (field l 2 2) (field l 4 1) (field l 8 8) (requestZeros l)
  exact finish_inv (putSlotLine_inv h _ _) _

@[simp] theorem requestAt_inv {s : State} (hI : s.Inv) (slot : Nat) (l : Line) : (State.requestAt s slot l).Inv := by
  have h := drew_inv hI 1
  exact ite_inv (modLink_inv h (inv_link h)) (runSlot_inv (ite_inv h hI) _ _)

@[simp] theorem winWr_inv {s : State} (hI : s.Inv) (tag : U16) (off : Nat) (l : Line) : (State.winWr s tag off l).Inv := by
  have h := send_inv (wake_inv hI) (.winDone tag)
  have h' := putSlotLine_inv h (off / 128) (fun x => { x with request := l })
  exact ite_inv (ite_inv (requestAt_inv h' _ _) h') h

theorem execWinWr_keeps {s : State} (hI : s.Inv) (tag : U16) (off : Nat) (line : Line) : Keeps (execWinWr tag off line s) := by
  simp [execWinWr, hI]

@[simp] theorem runEntries_inv {s : State} (hI : s.Inv) (f : MgmtFrame) (i : Nat) (k : Nat) : (State.runEntries s f i k).1.Inv := by
  induction k generalizing s i with
  | zero => exact hI
  | succ k ih => exact ih (request_inv hI _ _ _ _ _ _) _

theorem keep_inv {s : State} (hI : s.Inv) (k : KeptFrame) : State.Inv { s with mgmt := s.mgmt.keep k } :=
  ⟨hI.1, hI.2.1, hI.2.2.1, hI.2.2.2.1, hI.2.2.2.2.1, hI.2.2.2.2.2.1, hI.2.2.2.2.2.2.1, hI.2.2.2.2.2.2.2.1,
    hI.2.2.2.2.2.2.2.2.1, hI.2.2.2.2.2.2.2.2.2.1, by simp only [Mgmt.keep, List.length_take]; omega⟩

@[simp] theorem sendKept_inv {s : State} (hI : s.Inv) (k : KeptFrame) : (State.sendKept s k).Inv := by
  exact send_inv (keep_inv hI k) _

@[simp] theorem acceptFrame_inv {s : State} (hI : s.Inv) (f : MgmtFrame) : (State.acceptFrame s f).Inv := by
  unfold State.acceptFrame
  dsimp only
  split <;> simp (maxDischargeDepth := 20) [hI]

theorem mgmt_inv {s : State} (hI : s.Inv) (m : Mgmt) (hm : m.kept = s.mgmt.kept) : State.Inv { s with mgmt := m } := by
  obtain ⟨h1, h2, h3, h4, h5, h6, h7, h8, h9, h10, h11⟩ := hI
  exact ⟨h1, h2, h3, h4, h5, h6, h7, h8, h9, h10, hm ▸ h11⟩

@[simp] theorem judgeFrame_inv {s : State} (hI : s.Inv) (f : MgmtFrame) : (State.judgeFrame s f).Inv := by
  exact ite_inv (acceptFrame_inv hI f) (mgmt_inv hI _ rfl)

@[simp] theorem mgmtFrame_inv {s : State} (hI : s.Inv) (f : MgmtFrame) : (State.mgmtFrame s f).Inv := by
  have h := drew_inv hI 1
  exact ite_inv (ite_inv (mgmt_inv h _ rfl) (judgeFrame_inv (ite_inv h hI) f)) hI

theorem execDictionaryFrame_keeps {s : State} (hI : s.Inv) (f : MgmtFrame) : Keeps (execDictionaryFrame f s) := by
  simp [execDictionaryFrame, hI]

@[simp] theorem commit_inv {s : State} (hI : s.Inv) (index sub : Nat) : (State.commit s index sub).Inv := by
  unfold State.commit
  split <;> simp [hI]

theorem execDictionaryCommit_keeps {s : State} (hI : s.Inv) (index sub : Nat) : Keeps (execDictionaryCommit index sub s) := by
  simp [execDictionaryCommit, hI]

theorem execDictionaryWrite_keeps {s : State} (hI : s.Inv) (route index sub : Nat) (value : U64) : Keeps (execDictionaryWrite route index sub value s) := by
  simp [execDictionaryWrite, hI]

theorem execCommandRingEnable_keeps {s : State} (hI : s.Inv) (route ring : Nat) (value : U64) : Keeps (execCommandRingEnable route ring value s) := by
  simp [execCommandRingEnable, hI]

theorem execCompletionRingEnable_keeps {s : State} (hI : s.Inv) (route ring : Nat) (value : U64) : Keeps (execCompletionRingEnable route ring value s) := by
  simp [execCompletionRingEnable, hI]

theorem execQuote_keeps {s : State} (hI : s.Inv) (route : Nat) (value : U64) : Keeps (execQuote route value s) := by
  simp [execQuote, hI]

theorem execKeyImport_keeps {s : State} (hI : s.Inv) (route : Nat) (value : U64) : Keeps (execKeyImport route value s) := by
  simp [execKeyImport, hI]

theorem execKeyErase_keeps {s : State} (hI : s.Inv) (route : Nat) (value : U64) : Keeps (execKeyErase route value s) := by
  simp [execKeyErase, hI]

theorem execInstallMainFirmware_keeps {s : State} (hI : s.Inv) (route : Nat) : Keeps (execInstallMainFirmware route s) := by
  simp [execInstallMainFirmware, hI]

theorem execInstallPartitionFirmware_keeps {s : State} (hI : s.Inv) (route : Nat) : Keeps (execInstallPartitionFirmware route s) := by
  simp [execInstallPartitionFirmware, hI]

theorem execRotateIdentity_keeps {s : State} (hI : s.Inv) (route : Nat) : Keeps (execRotateIdentity route s) := by
  simp [execRotateIdentity, hI]

theorem execDebugUnlock_keeps {s : State} (hI : s.Inv) (route : Nat) : Keeps (execDebugUnlock route s) := by
  simp [execDebugUnlock, hI]

theorem execFactoryReset_keeps {s : State} (hI : s.Inv) (route : Nat) : Keeps (execFactoryReset route s) := by
  simp [execFactoryReset, hI]

theorem execStageOff_keeps {s : State} (hI : s.Inv) (route : Nat) (value : U64) : Keeps (execStageOff route value s) := by
  simp [execStageOff, hI]

theorem execStageData_keeps {s : State} (hI : s.Inv) (route : Nat) (value : U64) : Keeps (execStageData route value s) := by
  simp [execStageData, hI]

theorem execStickyClear_keeps {s : State} (hI : s.Inv) (route sub : Nat) (value : U64) : Keeps (execStickyClear route sub value s) := by
  simp [execStickyClear, hI]

theorem execCauseClear_keeps {s : State} (hI : s.Inv) (route index sub : Nat) (value : U64) : Keeps (execCauseClear route index sub value s) := by
  simp [execCauseClear, hI]

theorem execSleep_keeps {s : State} (hI : s.Inv) (route : Nat) (value : U64) : Keeps (execSleep route value s) := by
  simp [execSleep, hI]

theorem execSoftReset_keeps {s : State} (hI : s.Inv) (route : Nat) (value : U64) : Keeps (execSoftReset route value s) := by
  simp [execSoftReset, hI]

theorem execPeerPortEnable_keeps {s : State} (hI : s.Inv) (route port : Nat) (value : U64) : Keeps (execPeerPortEnable route port value s) := by
  simp [execPeerPortEnable, hI]

theorem execPairEn_keeps {s : State} (hI : s.Inv) (route : Nat) (value : U64) : Keeps (execPairEn route value s) := by
  simp [execPairEn, hI]

theorem execDetachPair_keeps {s : State} (hI : s.Inv) (route : Nat) (value : U64) : Keeps (execDetachPair route value s) := by
  simp [execDetachPair, hI]

end Sys2Proof.Machine
end

