-- ==== Sys2Proof/Laws/InvDebug.lean ====
section
/-!
SUPPORT. The invariant `State.Inv` is kept by the functions of Machine/Debug.lean.
-/

-- Each worker thread reserves stack of its own: proofs run one after another, to bound memory.
set_option Elab.async false

namespace Sys2Proof.Machine

theorem execIdcode_keeps {s : State} (hI : s.Inv) : Keeps (execIdcode s) := by
  simp [execIdcode, hI]

@[simp] theorem bypass_inv {s : State} (hI : s.Inv) (tdi : Bool) : (State.bypass s tdi).Inv := send_inv hI _

theorem execBypass_keeps {s : State} (hI : s.Inv) (tdi : Bool) : Keeps (execBypass tdi s) := by
  simp [execBypass, hI]

@[simp] theorem debugWrite_inv {s : State} (hI : s.Inv) (p : DebugPlace) (v : U64) : (State.debugWrite s p v).Inv := by
  unfold State.debugWrite
  split <;> simp [hI]

@[simp] theorem debugAccess_inv {s : State} (hI : s.Inv) (a : DebugAccess) : (State.debugAccess s a).Inv := by
  unfold State.debugAccess
  refine ite_inv (bypass_inv hI a.tdi) ?_
  split
  · exact send_inv (drew_inv hI 1) _
  · exact debugWrite_inv hI _ _
  · exact raiseFault_inv hI _

theorem execDebugPortAccess_keeps {s : State} (hI : s.Inv) (a : DebugAccess) : Keeps (execDebugPortAccess a s) := by
  simp [execDebugPortAccess, hI]

end Sys2Proof.Machine
end

