-- ==== Sys2Proof/Laws/InvRowPort.lean ====
section
/-!
SUPPORT. The invariant `State.Inv` is kept by the functions of Machine/RowPort.lean.
-/

-- Each worker thread reserves stack of its own: proofs run one after another, to bound memory.
set_option Elab.async false

namespace Sys2Proof.Machine

@[simp] theorem endRequest_inv {s : State} (hI : s.Inv) (h : U64) (status : Nat) : (State.endRequest s h status).Inv := by
  simp [State.endRequest, hI]

@[simp] theorem rowPort_inv {s : State} (hI : s.Inv) (vc : Nat) (w : CoreWord) (op : Nat) (find : VCore → RowTag → State → Option Table) (ok : VCore → Table → Bool) (f : VCore → RowTag → Table → State → State) (hf : ∀ (z0 : VCore) (z1 : RowTag) (z2 : Table) (z3 : State), z3.Inv → (f z0 z1 z2 z3).Inv) : (State.rowPort s vc w op find ok f).Inv := by
  unfold State.rowPort
  refine issue_inv hI _ _ _ _ (fun c t ht => ?_)
  repeat' split
  · exact ht
  · exact ht
  · exact endRequest_inv ht _ _
  · exact hf _ _ _ _ ht
  · exact violation_inv hI _

@[simp] theorem modRead_inv {s : State} (hI : s.Inv) (n : Nat) (f : Table → Table) : (State.modRead s n f).Inv := by
  simp [State.modRead, hI]

@[simp] theorem runRowget_inv {s : State} (hI : s.Inv) (vc : Nat) (w : CoreWord) (c : VCore) (g : RowTag) (t : Table) : (runRowget vc w c g t s).Inv := by
  simp [runRowget, hI]

theorem execRowget_keeps {s : State} (hI : s.Inv) (vc : Nat) (w : CoreWord) : Keeps (execRowget vc w s) := by
  unfold execRowget
  repeat' split
  all_goals simp +contextual (maxDischargeDepth := 20) [hI]

@[simp] theorem runRowpool_inv {s : State} (hI : s.Inv) (vc : Nat) (w : CoreWord) (c : VCore) (g : RowTag) (t : Table) : (runRowpool vc w c g t s).Inv := by
  simp [runRowpool, hI]

theorem execRowpool_keeps {s : State} (hI : s.Inv) (vc : Nat) (w : CoreWord) : Keeps (execRowpool vc w s) := by
  unfold execRowpool
  repeat' split
  all_goals simp +contextual (maxDischargeDepth := 20) [hI]

@[simp] theorem runRowput_inv {s : State} (hI : s.Inv) (w : CoreWord) (c : VCore) (g : RowTag) (t : Table) : (runRowput w c g t s).Inv := by
  simp [runRowput, hI]

theorem execRowput_keeps {s : State} (hI : s.Inv) (vc : Nat) (w : CoreWord) : Keeps (execRowput vc w s) := by
  unfold execRowput
  repeat' split
  all_goals simp +contextual (maxDischargeDepth := 20) [hI]

end Sys2Proof.Machine
end

