-- ==== Sys2Proof/Laws/InvSequencer.lean ====
section
/-!
SUPPORT. The invariant `State.Inv` is kept by the functions of Machine/Sequencer.lean.
-/

-- Each worker thread reserves stack of its own: proofs run one after another, to bound memory.
set_option Elab.async false

namespace Sys2Proof.Machine

@[simp] theorem setPc_inv {s : State} (hI : s.Inv) (vc n : Nat) : (State.setPc s vc n).Inv := by
  simp [State.setPc, hI]

theorem execJump_keeps {s : State} (hI : s.Inv) (vc : Nat) (w : CoreWord) : Keeps (execJump vc w s) := by
  unfold execJump
  refine keeps_next.2 (issue_inv hI _ _ _ _ (fun c t hI => ?_))
  simp [hI]

theorem execBranch_keeps {s : State} (hI : s.Inv) (vc : Nat) (w : CoreWord) : Keeps (execBranch vc w s) := by
  unfold execBranch
  refine keeps_next.2 (issue_inv hI _ _ _ _ (fun c t hI => ?_))
  simp [hI]

theorem execLoop_keeps {s : State} (hI : s.Inv) (vc : Nat) (w : CoreWord) : Keeps (execLoop vc w s) := by
  unfold execLoop
  refine keeps_next.2 (issue_inv hI _ _ _ _ (fun c t hI => ?_))
  simp (maxDischargeDepth := 20) [hI]

@[simp] theorem nextProgram_inv {s : State} (hI : s.Inv) (vc : Nat) : (State.nextProgram s vc).Inv := by
  unfold State.nextProgram
  split
  · exact hI
  · rename_i e _
    exact putVcore_inv hI vc e.2

theorem execHalt_keeps {s : State} (hI : s.Inv) (vc : Nat) (w : CoreWord) : Keeps (execHalt vc w s) := by
  unfold execHalt
  refine keeps_next.2 (issue_inv hI _ _ _ _ (fun c t hI => ?_))
  simp [hI]

theorem execDrain_keeps {s : State} (hI : s.Inv) (vc : Nat) (w : CoreWord) : Keeps (execDrain vc w s) := by
  simp [execDrain, hI]

@[simp] theorem scalar_inv {s : State} (hI : s.Inv) (vc : Nat) (w : CoreWord) (op : Nat) (f : U64 → U64 → U64) : (State.scalar s vc w op f).Inv := by
  unfold State.scalar
  repeat' split
  all_goals simp +contextual (maxDischargeDepth := 20) [hI]

theorem execAdd_keeps {s : State} (hI : s.Inv) (vc : Nat) (w : CoreWord) : Keeps (execAdd vc w s) := by
  simp [execAdd, hI]

theorem execSub_keeps {s : State} (hI : s.Inv) (vc : Nat) (w : CoreWord) : Keeps (execSub vc w s) := by
  simp [execSub, hI]

theorem execMul_keeps {s : State} (hI : s.Inv) (vc : Nat) (w : CoreWord) : Keeps (execMul vc w s) := by
  simp [execMul, hI]

theorem execAnd_keeps {s : State} (hI : s.Inv) (vc : Nat) (w : CoreWord) : Keeps (execAnd vc w s) := by
  simp [execAnd, hI]

theorem execOr_keeps {s : State} (hI : s.Inv) (vc : Nat) (w : CoreWord) : Keeps (execOr vc w s) := by
  simp [execOr, hI]

theorem execXor_keeps {s : State} (hI : s.Inv) (vc : Nat) (w : CoreWord) : Keeps (execXor vc w s) := by
  simp [execXor, hI]

theorem execShl_keeps {s : State} (hI : s.Inv) (vc : Nat) (w : CoreWord) : Keeps (execShl vc w s) := by
  simp [execShl, hI]

theorem execShr_keeps {s : State} (hI : s.Inv) (vc : Nat) (w : CoreWord) : Keeps (execShr vc w s) := by
  simp [execShr, hI]

theorem execLoadi_keeps {s : State} (hI : s.Inv) (vc : Nat) (w : CoreWord) : Keeps (execLoadi vc w s) := by
  unfold execLoadi
  refine keeps_next.2 (issue_inv hI _ _ _ _ (fun c t hI => ?_))
  simp [hI]

theorem execLd_keeps {s : State} (hI : s.Inv) (vc : Nat) (w : CoreWord) : Keeps (execLd vc w s) := by
  unfold execLd
  refine keeps_next.2 (issueIn_inv hI _ _ _ _ _ (fun c t hI => ?_))
  simp [hI]

theorem execSt_keeps {s : State} (hI : s.Inv) (vc : Nat) (w : CoreWord) : Keeps (execSt vc w s) := by
  unfold execSt
  refine keeps_next.2 (issueIn_inv hI _ _ _ _ _ (fun c t hI => ?_))
  simp [hI]

theorem execTallyAdd_keeps {s : State} (hI : s.Inv) (vc : Nat) (w : CoreWord) : Keeps (execTallyAdd vc w s) := by
  unfold execTallyAdd
  refine keeps_next.2 (issueIn_inv hI _ _ _ _ _ (fun c t hI => ?_))
  simp [hI]

theorem execTallyWaitInstruction_keeps {s : State} (hI : s.Inv) (vc : Nat) (w : CoreWord) : Keeps (execTallyWaitInstruction vc w s) := by
  unfold execTallyWaitInstruction
  refine keeps_next.2 (issue_inv hI _ _ _ _ (fun c t hI => ?_))
  simp (maxDischargeDepth := 20) [hI]

theorem execBarrier_keeps {s : State} (hI : s.Inv) (vc : Nat) (w : CoreWord) : Keeps (execBarrier vc w s) := by
  unfold execBarrier
  refine keeps_next.2 (issueIn_inv hI _ _ _ _ _ (fun c t hI => ?_))
  simp [hI]

theorem execCollect_keeps {s : State} (hI : s.Inv) (vc : Nat) (w : CoreWord) : Keeps (execCollect vc w s) := by
  unfold execCollect
  repeat' split
  all_goals simp +contextual (maxDischargeDepth := 20) [hI]

end Sys2Proof.Machine
end

