-- ==== Sys2Proof/Laws/InvVectorUnit.lean ====
section
/-!
SUPPORT. The invariant `State.Inv` is kept by the functions of Machine/VectorUnit.lean.
-/

-- Each worker thread reserves stack of its own: proofs run one after another, to bound memory.
set_option Elab.async false

namespace Sys2Proof.Machine

@[simp] theorem vector_inv {s : State} (hI : s.Inv) (vc : Nat) (w : CoreWord) (f : VecForm) (g : VecRow → List U32) : (State.vector s vc w f g).Inv := by
  unfold State.vector
  repeat' split
  all_goals simp +contextual (maxDischargeDepth := 20) [hI]

theorem execVectorAdd_keeps {s : State} (hI : s.Inv) (vc : Nat) (w : CoreWord) : Keeps (execVectorAdd vc w s) := by
  simp [execVectorAdd, hI]

theorem execVectorSub_keeps {s : State} (hI : s.Inv) (vc : Nat) (w : CoreWord) : Keeps (execVectorSub vc w s) := by
  simp [execVectorSub, hI]

theorem execVectorMul_keeps {s : State} (hI : s.Inv) (vc : Nat) (w : CoreWord) : Keeps (execVectorMul vc w s) := by
  simp [execVectorMul, hI]

theorem execFma_keeps {s : State} (hI : s.Inv) (vc : Nat) (w : CoreWord) : Keeps (execFma vc w s) := by
  simp [execFma, hI]

theorem execMax_keeps {s : State} (hI : s.Inv) (vc : Nat) (w : CoreWord) : Keeps (execMax vc w s) := by
  simp [execMax, hI]

theorem execExp_keeps {s : State} (hI : s.Inv) (vc : Nat) (w : CoreWord) : Keeps (execExp vc w s) := by
  simp [execExp, hI]

theorem execRecip_keeps {s : State} (hI : s.Inv) (vc : Nat) (w : CoreWord) : Keeps (execRecip vc w s) := by
  simp [execRecip, hI]

theorem execRsqrt_keeps {s : State} (hI : s.Inv) (vc : Nat) (w : CoreWord) : Keeps (execRsqrt vc w s) := by
  simp [execRsqrt, hI]

theorem execSilu_keeps {s : State} (hI : s.Inv) (vc : Nat) (w : CoreWord) : Keeps (execSilu vc w s) := by
  simp [execSilu, hI]

theorem execGelu_keeps {s : State} (hI : s.Inv) (vc : Nat) (w : CoreWord) : Keeps (execGelu vc w s) := by
  simp [execGelu, hI]

theorem execCvt_keeps {s : State} (hI : s.Inv) (vc : Nat) (w : CoreWord) : Keeps (execCvt vc w s) := by
  simp [execCvt, hI]

theorem execRsum_keeps {s : State} (hI : s.Inv) (vc : Nat) (w : CoreWord) : Keeps (execRsum vc w s) := by
  simp [execRsum, hI]

theorem execRmax_keeps {s : State} (hI : s.Inv) (vc : Nat) (w : CoreWord) : Keeps (execRmax vc w s) := by
  simp [execRmax, hI]

theorem execSoftmax_keeps {s : State} (hI : s.Inv) (vc : Nat) (w : CoreWord) : Keeps (execSoftmax vc w s) := by
  simp [execSoftmax, hI]

theorem execRmsnorm_keeps {s : State} (hI : s.Inv) (vc : Nat) (w : CoreWord) : Keeps (execRmsnorm vc w s) := by
  simp [execRmsnorm, hI]

theorem execLayernorm_keeps {s : State} (hI : s.Inv) (vc : Nat) (w : CoreWord) : Keeps (execLayernorm vc w s) := by
  simp [execLayernorm, hI]

theorem execRope_keeps {s : State} (hI : s.Inv) (vc : Nat) (w : CoreWord) : Keeps (execRope vc w s) := by
  simp [execRope, hI]

theorem execHadamard_keeps {s : State} (hI : s.Inv) (vc : Nat) (w : CoreWord) : Keeps (execHadamard vc w s) := by
  simp [execHadamard, hI]

theorem execPsum_keeps {s : State} (hI : s.Inv) (vc : Nat) (w : CoreWord) : Keeps (execPsum vc w s) := by
  simp [execPsum, hI]

end Sys2Proof.Machine
end

