-- ==== Sys2Proof/Laws/InvWalker.lean ====
section
/-!
SUPPORT. The invariant `State.Inv` is kept by the functions of Machine/Walker.lean.
-/

-- Each worker thread reserves stack of its own: proofs run one after another, to bound memory.
set_option Elab.async false

namespace Sys2Proof.Machine

@[simp] theorem appendOne_inv {s : State} (hI : s.Inv) (a : AttCtx) (sram : Mem) (w : CoreWord) (r : AttRow) (values : Nat) : (State.appendOne a sram w r s values).Inv := by
  unfold State.appendOne
  dsimp only
  split <;> simp (maxDischargeDepth := 20) [hI]

@[simp] theorem appendRow_inv {s : State} (hI : s.Inv) (a : AttCtx) (sram : Mem) (w : CoreWord) (r : AttRow) : (State.appendRow a sram w s r).Inv := by
  simp [State.appendRow, hI]

@[simp] theorem walkRows_inv {s : State} (hI : s.Inv) (vc : Nat) (c : VCore) (a : AttCtx) (w : CoreWord) (rows : List AttRow) : (State.walkRows s vc c a w rows).Inv := by
  simp [State.walkRows, hI]

@[simp] theorem walkOrWait_inv {s : State} (hI : s.Inv) (vc : Nat) (c : VCore) (a : AttCtx) (w : CoreWord) : (State.walkOrWait s vc c a w).Inv := by
  simp (maxDischargeDepth := 20) [State.walkOrWait, hI]

theorem execAttend_keeps {s : State} (hI : s.Inv) (vc : Nat) (w : CoreWord) : Keeps (execAttend vc w s) := by
  unfold execAttend
  refine keeps_next.2 (issueIn_inv hI _ _ _ _ _ (fun c t ht => ?_))
  split
  · exact ht
  · rename_i a _
    have h : (if aAppend w then (t.attRows c a w).foldl (State.appendRow a c.sram w) t else t).Inv :=
      ite_inv (foldl_inv ht (fun s r h => appendRow_inv h _ _ _ _)) ht
    exact ite_inv (walkOrWait_inv h _ _ _ _) h

@[simp] theorem resumeWalk_inv {s : State} (hI : s.Inv) (vc : Nat) (w : CoreWord) : (State.resumeWalk vc s w).Inv := by
  unfold State.resumeWalk
  split
  · exact hI
  split
  · exact hI
  dsimp only
  split
  · rename_i c _ _ a _ _
    exact modVcore_inv (walkRows_inv hI vc c a w (s.attRows c a w)) vc (fun c => { c with walks := c.walks.erase w })
  · exact hI

theorem execWrittenThroughMark_keeps {s : State} (hI : s.Inv) (vc : Nat) : Keeps (execWrittenThroughMark vc s) := by
  unfold execWrittenThroughMark
  refine keeps_next.2 ?_
  split
  · exact hI
  · exact ite_inv (foldl_keeps hI (fun s w h => resumeWalk_inv h vc w)) hI

theorem execWalkWaitTimeout_keeps {s : State} (hI : s.Inv) (vc : Nat) : Keeps (execWalkWaitTimeout vc s) := by
  unfold execWalkWaitTimeout
  split <;> simp [hI]

end Sys2Proof.Machine
end

