-- ==== Sys2Proof/Laws/InvTick.lean ====
section
/-!
SUPPORT. The invariant `State.Inv` is kept by the functions of Machine/Tick.lean.
-/

-- Each worker thread reserves stack of its own: proofs run one after another, to bound memory.
set_option Elab.async false

namespace Sys2Proof.Machine

@[simp] theorem tick_inv {s : State} (hI : s.Inv) : (State.tick s).Inv := by
  simp [State.tick, hI]

end Sys2Proof.Machine
end

