-- ==== Sys2Proof/Laws/Records.lean ====
section
/-!
SUPPORT. What a record row does, said once: a record that is accepted runs its plan, one that fails a check is
completed with that check's status, and one that may not start waits (R17, R21, R23, R25).
-/

-- Each worker thread reserves stack of its own: proofs run one after another, to bound memory.
set_option Elab.async false

namespace Sys2Proof.Machine

theorem withOpcode_opcode (r : Record) (op : Nat) (h : op < 65536) : (withOpcode r op).opcode = op := by
  have hb : (setField r.bits 0 2 op).extractLsb' (8 * 0) (8 * 2) = BitVec.ofNat 16 op := by
    apply BitVec.eq_of_getLsbD_eq
    intro i hi
    have hi : i < 16 := hi
    simp only [setField, BitVec.getLsbD_extractLsb', BitVec.getLsbD_or, BitVec.getLsbD_and, BitVec.getLsbD_not,
      BitVec.getLsbD_shiftLeft, BitVec.getLsbD_ofNat, Nat.testBit_two_pow_sub_one, Nat.testBit_mod_two_pow]
    simp [hi, show i < 512 by omega]
  show ((setField r.bits 0 2 op).extractLsb' (8 * 0) (8 * 2)).toNat = op
  rw [hb]
  simp [Nat.mod_eq_of_lt h]

theorem withOpcode_ring (r : Record) (op : Nat) : (withOpcode r op).ring = r.ring := rfl

/-- What starting a record comes to once `seq` has passed: the plan's effect, or the first failing check's
status. -/
theorem offer_starts {s : State} {q : Record} (h : Starts s q) (hq : s.seqOk q = true) :
    s.offer q (planOf q) =
      if firstFailure (s.checksOf q) == stOk then (planOf q q (s.started q)).run s.newId (s.begun q)
      else ((s.started q).countRefusal q.tenant (firstFailure (s.checksOf q))).complete q s.newId
        (firstFailure (s.checksOf q)) ((s.started q).refusalResult q (firstFailure (s.checksOf q))) := by
  have e : s.offer q (planOf q) = s.startRecord q (planOf q) := by
    simp [State.offer, h.fetched, h.oldest, h.may]
  rw [e]
  unfold State.startRecord
  rw [h.here]
  refine Eq.trans (if_neg ?_) rfl
  have : ∀ t : State, State.seqOk t.leaveIdle q = State.seqOk t q := by
    intro t; unfold State.leaveIdle; rfl
  rw [this, show State.seqOk { s with
    running := s.running ++ [Running.mk s.newId q (s.admitTo q.opcode) [] 0],
    job := { s.job with started := s.job.started + 1 } } q = s.seqOk q from rfl, hq]; decide

/-- An accepted record runs its plan. -/
theorem offer_accepted {s : State} {q : Record} (h : Accepted s q) :
    s.offer q (planOf q) = (planOf q q (s.started q)).run s.newId (s.begun q) := by
  rw [offer_starts h.starts h.seq, if_pos (by rw [h.checks]; rfl)]

/-- A record that fails a check is completed with its status and does nothing else. -/
theorem offer_refused {s : State} {q : Record} (h : Starts s q) (hq : s.seqOk q = true)
    (hc : firstFailure (s.checksOf q) ≠ stOk) :
    s.offer q (planOf q) = ((s.started q).countRefusal q.tenant (firstFailure (s.checksOf q))).complete q s.newId
        (firstFailure (s.checksOf q)) ((s.started q).refusalResult q (firstFailure (s.checksOf q))) := by
  rw [offer_starts h hq, if_neg (by simpa using hc)]

/-- A row whose plan is its opcode's runs that plan when the record is accepted. -/
theorem record_accepted {s : State} {r : Record} {op : Nat} {plan : Record → State → Plan} (ho : op < 65536)
    (hp : ∀ q : Record, q.opcode = op → planOf q = plan) (h : Accepted s (withOpcode r op)) :
    s.record r op plan =
      (plan (withOpcode r op) (s.started (withOpcode r op))).run s.newId (s.begun (withOpcode r op)) := by
  unfold State.record
  rw [← hp _ (withOpcode_opcode r op ho)]
  exact offer_accepted h

end Sys2Proof.Machine
end

