-- ==== Sys2Proof/Laws/State.lean ====
section
/-!
SUPPORT. What each update of the state does to each of its fields: one lemma for each update and field, true by
definition, so that no later proof unfolds a record update.
-/

-- Each worker thread reserves stack of its own: proofs run one after another, to bound memory.
set_option Elab.async false

namespace Sys2Proof.Machine

variable (s : State)

/-! ### `State.send` -/

@[simp] theorem State.send_pending (m : Sent) : (s.send m).pending = s.pending := rfl
@[simp] theorem State.send_ident (m : Sent) : (s.send m).ident = s.ident := rfl
@[simp] theorem State.send_cap (m : Sent) : (s.send m).cap = s.cap := rfl
@[simp] theorem State.send_startUp (m : Sent) : (s.send m).startUp = s.startUp := rfl
@[simp] theorem State.send_dict (m : Sent) : (s.send m).dict = s.dict := rfl
@[simp] theorem State.send_mgmt (m : Sent) : (s.send m).mgmt = s.mgmt := rfl
@[simp] theorem State.send_t2 (m : Sent) : (s.send m).t2 = s.t2 := rfl
@[simp] theorem State.send_link (m : Sent) : (s.send m).link = s.link := rfl
@[simp] theorem State.send_layers (m : Sent) : (s.send m).layers = layersWith s.layers s.room (s.creditsOf m) m := rfl
@[simp] theorem State.send_ports (m : Sent) : (s.send m).ports = s.ports := rfl
@[simp] theorem State.send_inbox (m : Sent) : (s.send m).inbox = s.inbox := rfl
@[simp] theorem State.send_sent (m : Sent) : (s.send m).sent = m :: s.sent := rfl
@[simp] theorem State.send_cmdRings (m : Sent) : (s.send m).cmdRings = s.cmdRings := rfl
@[simp] theorem State.send_cqRings (m : Sent) : (s.send m).cqRings = s.cqRings := rfl
@[simp] theorem State.send_running (m : Sent) : (s.send m).running = s.running := rfl
@[simp] theorem State.send_job (m : Sent) : (s.send m).job = s.job := rfl
@[simp] theorem State.send_tenants (m : Sent) : (s.send m).tenants = s.tenants := rfl
@[simp] theorem State.send_areas (m : Sent) : (s.send m).areas = s.areas := rfl
@[simp] theorem State.send_slots (m : Sent) : (s.send m).slots = s.slots := rfl
@[simp] theorem State.send_partitions (m : Sent) : (s.send m).partitions = s.partitions := rfl
@[simp] theorem State.send_images (m : Sent) : (s.send m).images = s.images := rfl
@[simp] theorem State.send_sheaf (m : Sent) : (s.send m).sheaf = s.sheaf := rfl
@[simp] theorem State.send_grammars (m : Sent) : (s.send m).grammars = s.grammars := rfl
@[simp] theorem State.send_grammarSerial (m : Sent) : (s.send m).grammarSerial = s.grammarSerial := rfl
@[simp] theorem State.send_templates (m : Sent) : (s.send m).templates = s.templates := rfl
@[simp] theorem State.send_stores (m : Sent) : (s.send m).stores = s.stores := rfl
@[simp] theorem State.send_models (m : Sent) : (s.send m).models = s.models := rfl
@[simp] theorem State.send_granary (m : Sent) : (s.send m).granary = s.granary := rfl
@[simp] theorem State.send_step (m : Sent) : (s.send m).step = s.step := rfl
@[simp] theorem State.send_front (m : Sent) : (s.send m).front = s.front := rfl
@[simp] theorem State.send_epochs (m : Sent) : (s.send m).epochs = s.epochs := rfl
@[simp] theorem State.send_tiers (m : Sent) : (s.send m).tiers = s.tiers := rfl
@[simp] theorem State.send_cores (m : Sent) : (s.send m).cores = s.cores := rfl
@[simp] theorem State.send_sync (m : Sent) : (s.send m).sync = s.sync := rfl
@[simp] theorem State.send_part (m : Sent) : (s.send m).part = s.part := rfl
@[simp] theorem State.send_faults (m : Sent) : (s.send m).faults = s.faults := rfl
@[simp] theorem State.send_causes (m : Sent) : (s.send m).causes = s.causes := rfl
@[simp] theorem State.send_power (m : Sent) : (s.send m).power = s.power := rfl
@[simp] theorem State.send_channels (m : Sent) : (s.send m).channels = s.channels := rfl
@[simp] theorem State.send_deadlineFirst (m : Sent) : (s.send m).deadlineFirst = s.deadlineFirst := rfl
@[simp] theorem State.send_pairing (m : Sent) : (s.send m).pairing = s.pairing := rfl
@[simp] theorem State.send_timestamp (m : Sent) : (s.send m).timestamp = s.timestamp := rfl
@[simp] theorem State.send_draws (m : Sent) : (s.send m).draws = s.draws := rfl

/-! ### `State.drew` -/

@[simp] theorem State.drew_pending (n : Nat) : (s.drew n).pending = s.pending := rfl
@[simp] theorem State.drew_ident (n : Nat) : (s.drew n).ident = s.ident := rfl
@[simp] theorem State.drew_cap (n : Nat) : (s.drew n).cap = s.cap := rfl
@[simp] theorem State.drew_startUp (n : Nat) : (s.drew n).startUp = s.startUp := rfl
@[simp] theorem State.drew_dict (n : Nat) : (s.drew n).dict = s.dict := rfl
@[simp] theorem State.drew_mgmt (n : Nat) : (s.drew n).mgmt = s.mgmt := rfl
@[simp] theorem State.drew_t2 (n : Nat) : (s.drew n).t2 = s.t2 := rfl
@[simp] theorem State.drew_link (n : Nat) : (s.drew n).link = s.link := rfl
@[simp] theorem State.drew_layers (n : Nat) : (s.drew n).layers = s.layers := rfl
@[simp] theorem State.drew_ports (n : Nat) : (s.drew n).ports = s.ports := rfl
@[simp] theorem State.drew_inbox (n : Nat) : (s.drew n).inbox = s.inbox := rfl
@[simp] theorem State.drew_sent (n : Nat) : (s.drew n).sent = s.sent := rfl
@[simp] theorem State.drew_cmdRings (n : Nat) : (s.drew n).cmdRings = s.cmdRings := rfl
@[simp] theorem State.drew_cqRings (n : Nat) : (s.drew n).cqRings = s.cqRings := rfl
@[simp] theorem State.drew_running (n : Nat) : (s.drew n).running = s.running := rfl
@[simp] theorem State.drew_job (n : Nat) : (s.drew n).job = s.job := rfl
@[simp] theorem State.drew_tenants (n : Nat) : (s.drew n).tenants = s.tenants := rfl
@[simp] theorem State.drew_areas (n : Nat) : (s.drew n).areas = s.areas := rfl
@[simp] theorem State.drew_slots (n : Nat) : (s.drew n).slots = s.slots := rfl
@[simp] theorem State.drew_partitions (n : Nat) : (s.drew n).partitions = s.partitions := rfl
@[simp] theorem State.drew_images (n : Nat) : (s.drew n).images = s.images := rfl
@[simp] theorem State.drew_sheaf (n : Nat) : (s.drew n).sheaf = s.sheaf := rfl
@[simp] theorem State.drew_grammars (n : Nat) : (s.drew n).grammars = s.grammars := rfl
@[simp] theorem State.drew_grammarSerial (n : Nat) : (s.drew n).grammarSerial = s.grammarSerial := rfl
@[simp] theorem State.drew_templates (n : Nat) : (s.drew n).templates = s.templates := rfl
@[simp] theorem State.drew_stores (n : Nat) : (s.drew n).stores = s.stores := rfl
@[simp] theorem State.drew_models (n : Nat) : (s.drew n).models = s.models := rfl
@[simp] theorem State.drew_granary (n : Nat) : (s.drew n).granary = s.granary := rfl
@[simp] theorem State.drew_step (n : Nat) : (s.drew n).step = s.step := rfl
@[simp] theorem State.drew_front (n : Nat) : (s.drew n).front = s.front := rfl
@[simp] theorem State.drew_epochs (n : Nat) : (s.drew n).epochs = s.epochs := rfl
@[simp] theorem State.drew_tiers (n : Nat) : (s.drew n).tiers = s.tiers := rfl
@[simp] theorem State.drew_cores (n : Nat) : (s.drew n).cores = s.cores := rfl
@[simp] theorem State.drew_sync (n : Nat) : (s.drew n).sync = s.sync := rfl
@[simp] theorem State.drew_part (n : Nat) : (s.drew n).part = s.part := rfl
@[simp] theorem State.drew_faults (n : Nat) : (s.drew n).faults = s.faults := rfl
@[simp] theorem State.drew_causes (n : Nat) : (s.drew n).causes = s.causes := rfl
@[simp] theorem State.drew_power (n : Nat) : (s.drew n).power = s.power := rfl
@[simp] theorem State.drew_channels (n : Nat) : (s.drew n).channels = s.channels := rfl
@[simp] theorem State.drew_deadlineFirst (n : Nat) : (s.drew n).deadlineFirst = s.deadlineFirst := rfl
@[simp] theorem State.drew_pairing (n : Nat) : (s.drew n).pairing = s.pairing := rfl
@[simp] theorem State.drew_timestamp (n : Nat) : (s.drew n).timestamp = s.timestamp := rfl
@[simp] theorem State.drew_draws (n : Nat) : (s.drew n).draws = s.draws + n := rfl

/-! ### `State.putSetting` -/

@[simp] theorem State.putSetting_pending (i x v : Nat) : (s.putSetting i x v).pending = s.pending := rfl
@[simp] theorem State.putSetting_ident (i x v : Nat) : (s.putSetting i x v).ident = s.ident := rfl
@[simp] theorem State.putSetting_cap (i x v : Nat) : (s.putSetting i x v).cap = s.cap := rfl
@[simp] theorem State.putSetting_startUp (i x v : Nat) : (s.putSetting i x v).startUp = s.startUp := rfl
@[simp] theorem State.putSetting_mgmt (i x v : Nat) : (s.putSetting i x v).mgmt = s.mgmt := rfl
@[simp] theorem State.putSetting_t2 (i x v : Nat) : (s.putSetting i x v).t2 = s.t2 := rfl
@[simp] theorem State.putSetting_link (i x v : Nat) : (s.putSetting i x v).link = s.link := rfl
@[simp] theorem State.putSetting_layers (i x v : Nat) : (s.putSetting i x v).layers = s.layers := rfl
@[simp] theorem State.putSetting_ports (i x v : Nat) : (s.putSetting i x v).ports = s.ports := rfl
@[simp] theorem State.putSetting_inbox (i x v : Nat) : (s.putSetting i x v).inbox = s.inbox := rfl
@[simp] theorem State.putSetting_sent (i x v : Nat) : (s.putSetting i x v).sent = s.sent := rfl
@[simp] theorem State.putSetting_cmdRings (i x v : Nat) : (s.putSetting i x v).cmdRings = s.cmdRings := rfl
@[simp] theorem State.putSetting_cqRings (i x v : Nat) : (s.putSetting i x v).cqRings = s.cqRings := rfl
@[simp] theorem State.putSetting_running (i x v : Nat) : (s.putSetting i x v).running = s.running := rfl
@[simp] theorem State.putSetting_job (i x v : Nat) : (s.putSetting i x v).job = s.job := rfl
@[simp] theorem State.putSetting_tenants (i x v : Nat) : (s.putSetting i x v).tenants = s.tenants := rfl
@[simp] theorem State.putSetting_areas (i x v : Nat) : (s.putSetting i x v).areas = s.areas := rfl
@[simp] theorem State.putSetting_slots (i x v : Nat) : (s.putSetting i x v).slots = s.slots := rfl
@[simp] theorem State.putSetting_partitions (i x v : Nat) : (s.putSetting i x v).partitions = s.partitions := rfl
@[simp] theorem State.putSetting_images (i x v : Nat) : (s.putSetting i x v).images = s.images := rfl
@[simp] theorem State.putSetting_sheaf (i x v : Nat) : (s.putSetting i x v).sheaf = s.sheaf := rfl
@[simp] theorem State.putSetting_grammars (i x v : Nat) : (s.putSetting i x v).grammars = s.grammars := rfl
@[simp] theorem State.putSetting_grammarSerial (i x v : Nat) : (s.putSetting i x v).grammarSerial = s.grammarSerial := rfl
@[simp] theorem State.putSetting_templates (i x v : Nat) : (s.putSetting i x v).templates = s.templates := rfl
@[simp] theorem State.putSetting_stores (i x v : Nat) : (s.putSetting i x v).stores = s.stores := rfl
@[simp] theorem State.putSetting_models (i x v : Nat) : (s.putSetting i x v).models = s.models := rfl
@[simp] theorem State.putSetting_granary (i x v : Nat) : (s.putSetting i x v).granary = s.granary := rfl
@[simp] theorem State.putSetting_step (i x v : Nat) : (s.putSetting i x v).step = s.step := rfl
@[simp] theorem State.putSetting_front (i x v : Nat) : (s.putSetting i x v).front = s.front := rfl
@[simp] theorem State.putSetting_epochs (i x v : Nat) : (s.putSetting i x v).epochs = s.epochs := rfl
@[simp] theorem State.putSetting_tiers (i x v : Nat) : (s.putSetting i x v).tiers = s.tiers := rfl
@[simp] theorem State.putSetting_cores (i x v : Nat) : (s.putSetting i x v).cores = s.cores := rfl
@[simp] theorem State.putSetting_sync (i x v : Nat) : (s.putSetting i x v).sync = s.sync := rfl
@[simp] theorem State.putSetting_part (i x v : Nat) : (s.putSetting i x v).part = s.part := rfl
@[simp] theorem State.putSetting_faults (i x v : Nat) : (s.putSetting i x v).faults = s.faults := rfl
@[simp] theorem State.putSetting_causes (i x v : Nat) : (s.putSetting i x v).causes = s.causes := rfl
@[simp] theorem State.putSetting_power (i x v : Nat) : (s.putSetting i x v).power = s.power := rfl
@[simp] theorem State.putSetting_channels (i x v : Nat) : (s.putSetting i x v).channels = s.channels := rfl
@[simp] theorem State.putSetting_deadlineFirst (i x v : Nat) : (s.putSetting i x v).deadlineFirst = s.deadlineFirst := rfl
@[simp] theorem State.putSetting_pairing (i x v : Nat) : (s.putSetting i x v).pairing = s.pairing := rfl
@[simp] theorem State.putSetting_timestamp (i x v : Nat) : (s.putSetting i x v).timestamp = s.timestamp := rfl
@[simp] theorem State.putSetting_draws (i x v : Nat) : (s.putSetting i x v).draws = s.draws := rfl

/-! ### `State.modPort` -/

@[simp] theorem State.modPort_pending (p : Nat) (f : PeerPort → PeerPort) : (s.modPort p f).pending = s.pending := rfl
@[simp] theorem State.modPort_ident (p : Nat) (f : PeerPort → PeerPort) : (s.modPort p f).ident = s.ident := rfl
@[simp] theorem State.modPort_cap (p : Nat) (f : PeerPort → PeerPort) : (s.modPort p f).cap = s.cap := rfl
@[simp] theorem State.modPort_startUp (p : Nat) (f : PeerPort → PeerPort) : (s.modPort p f).startUp = s.startUp := rfl
@[simp] theorem State.modPort_dict (p : Nat) (f : PeerPort → PeerPort) : (s.modPort p f).dict = s.dict := rfl
@[simp] theorem State.modPort_mgmt (p : Nat) (f : PeerPort → PeerPort) : (s.modPort p f).mgmt = s.mgmt := rfl
@[simp] theorem State.modPort_t2 (p : Nat) (f : PeerPort → PeerPort) : (s.modPort p f).t2 = s.t2 := rfl
@[simp] theorem State.modPort_link (p : Nat) (f : PeerPort → PeerPort) : (s.modPort p f).link = s.link := rfl
@[simp] theorem State.modPort_layers (p : Nat) (f : PeerPort → PeerPort) : (s.modPort p f).layers = s.layers := rfl
@[simp] theorem State.modPort_ports (p : Nat) (f : PeerPort → PeerPort) : (s.modPort p f).ports = vMod s.ports p f := rfl
@[simp] theorem State.modPort_inbox (p : Nat) (f : PeerPort → PeerPort) : (s.modPort p f).inbox = s.inbox := rfl
@[simp] theorem State.modPort_sent (p : Nat) (f : PeerPort → PeerPort) : (s.modPort p f).sent = s.sent := rfl
@[simp] theorem State.modPort_cmdRings (p : Nat) (f : PeerPort → PeerPort) : (s.modPort p f).cmdRings = s.cmdRings := rfl
@[simp] theorem State.modPort_cqRings (p : Nat) (f : PeerPort → PeerPort) : (s.modPort p f).cqRings = s.cqRings := rfl
@[simp] theorem State.modPort_running (p : Nat) (f : PeerPort → PeerPort) : (s.modPort p f).running = s.running := rfl
@[simp] theorem State.modPort_job (p : Nat) (f : PeerPort → PeerPort) : (s.modPort p f).job = s.job := rfl
@[simp] theorem State.modPort_tenants (p : Nat) (f : PeerPort → PeerPort) : (s.modPort p f).tenants = s.tenants := rfl
@[simp] theorem State.modPort_areas (p : Nat) (f : PeerPort → PeerPort) : (s.modPort p f).areas = s.areas := rfl
@[simp] theorem State.modPort_slots (p : Nat) (f : PeerPort → PeerPort) : (s.modPort p f).slots = s.slots := rfl
@[simp] theorem State.modPort_partitions (p : Nat) (f : PeerPort → PeerPort) : (s.modPort p f).partitions = s.partitions := rfl
@[simp] theorem State.modPort_images (p : Nat) (f : PeerPort → PeerPort) : (s.modPort p f).images = s.images := rfl
@[simp] theorem State.modPort_sheaf (p : Nat) (f : PeerPort → PeerPort) : (s.modPort p f).sheaf = s.sheaf := rfl
@[simp] theorem State.modPort_grammars (p : Nat) (f : PeerPort → PeerPort) : (s.modPort p f).grammars = s.grammars := rfl
@[simp] theorem State.modPort_grammarSerial (p : Nat) (f : PeerPort → PeerPort) : (s.modPort p f).grammarSerial = s.grammarSerial := rfl
@[simp] theorem State.modPort_templates (p : Nat) (f : PeerPort → PeerPort) : (s.modPort p f).templates = s.templates := rfl
@[simp] theorem State.modPort_stores (p : Nat) (f : PeerPort → PeerPort) : (s.modPort p f).stores = s.stores := rfl
@[simp] theorem State.modPort_models (p : Nat) (f : PeerPort → PeerPort) : (s.modPort p f).models = s.models := rfl
@[simp] theorem State.modPort_granary (p : Nat) (f : PeerPort → PeerPort) : (s.modPort p f).granary = s.granary := rfl
@[simp] theorem State.modPort_step (p : Nat) (f : PeerPort → PeerPort) : (s.modPort p f).step = s.step := rfl
@[simp] theorem State.modPort_front (p : Nat) (f : PeerPort → PeerPort) : (s.modPort p f).front = s.front := rfl
@[simp] theorem State.modPort_epochs (p : Nat) (f : PeerPort → PeerPort) : (s.modPort p f).epochs = s.epochs := rfl
@[simp] theorem State.modPort_tiers (p : Nat) (f : PeerPort → PeerPort) : (s.modPort p f).tiers = s.tiers := rfl
@[simp] theorem State.modPort_cores (p : Nat) (f : PeerPort → PeerPort) : (s.modPort p f).cores = s.cores := rfl
@[simp] theorem State.modPort_sync (p : Nat) (f : PeerPort → PeerPort) : (s.modPort p f).sync = s.sync := rfl
@[simp] theorem State.modPort_part (p : Nat) (f : PeerPort → PeerPort) : (s.modPort p f).part = s.part := rfl
@[simp] theorem State.modPort_faults (p : Nat) (f : PeerPort → PeerPort) : (s.modPort p f).faults = s.faults := rfl
@[simp] theorem State.modPort_causes (p : Nat) (f : PeerPort → PeerPort) : (s.modPort p f).causes = s.causes := rfl
@[simp] theorem State.modPort_power (p : Nat) (f : PeerPort → PeerPort) : (s.modPort p f).power = s.power := rfl
@[simp] theorem State.modPort_channels (p : Nat) (f : PeerPort → PeerPort) : (s.modPort p f).channels = s.channels := rfl
@[simp] theorem State.modPort_deadlineFirst (p : Nat) (f : PeerPort → PeerPort) : (s.modPort p f).deadlineFirst = s.deadlineFirst := rfl
@[simp] theorem State.modPort_pairing (p : Nat) (f : PeerPort → PeerPort) : (s.modPort p f).pairing = s.pairing := rfl
@[simp] theorem State.modPort_timestamp (p : Nat) (f : PeerPort → PeerPort) : (s.modPort p f).timestamp = s.timestamp := rfl
@[simp] theorem State.modPort_draws (p : Nat) (f : PeerPort → PeerPort) : (s.modPort p f).draws = s.draws := rfl

/-! ### `State.modCmd` -/

@[simp] theorem State.modCmd_pending (n : Nat) (f : CmdRing → CmdRing) : (s.modCmd n f).pending = s.pending := rfl
@[simp] theorem State.modCmd_ident (n : Nat) (f : CmdRing → CmdRing) : (s.modCmd n f).ident = s.ident := rfl
@[simp] theorem State.modCmd_cap (n : Nat) (f : CmdRing → CmdRing) : (s.modCmd n f).cap = s.cap := rfl
@[simp] theorem State.modCmd_startUp (n : Nat) (f : CmdRing → CmdRing) : (s.modCmd n f).startUp = s.startUp := rfl
@[simp] theorem State.modCmd_dict (n : Nat) (f : CmdRing → CmdRing) : (s.modCmd n f).dict = s.dict := rfl
@[simp] theorem State.modCmd_mgmt (n : Nat) (f : CmdRing → CmdRing) : (s.modCmd n f).mgmt = s.mgmt := rfl
@[simp] theorem State.modCmd_t2 (n : Nat) (f : CmdRing → CmdRing) : (s.modCmd n f).t2 = s.t2 := rfl
@[simp] theorem State.modCmd_link (n : Nat) (f : CmdRing → CmdRing) : (s.modCmd n f).link = s.link := rfl
@[simp] theorem State.modCmd_layers (n : Nat) (f : CmdRing → CmdRing) : (s.modCmd n f).layers = s.layers := rfl
@[simp] theorem State.modCmd_ports (n : Nat) (f : CmdRing → CmdRing) : (s.modCmd n f).ports = s.ports := rfl
@[simp] theorem State.modCmd_inbox (n : Nat) (f : CmdRing → CmdRing) : (s.modCmd n f).inbox = s.inbox := rfl
@[simp] theorem State.modCmd_sent (n : Nat) (f : CmdRing → CmdRing) : (s.modCmd n f).sent = s.sent := rfl
@[simp] theorem State.modCmd_cmdRings (n : Nat) (f : CmdRing → CmdRing) : (s.modCmd n f).cmdRings = vMod s.cmdRings n f := rfl
@[simp] theorem State.modCmd_cqRings (n : Nat) (f : CmdRing → CmdRing) : (s.modCmd n f).cqRings = s.cqRings := rfl
@[simp] theorem State.modCmd_running (n : Nat) (f : CmdRing → CmdRing) : (s.modCmd n f).running = s.running := rfl
@[simp] theorem State.modCmd_job (n : Nat) (f : CmdRing → CmdRing) : (s.modCmd n f).job = s.job := rfl
@[simp] theorem State.modCmd_tenants (n : Nat) (f : CmdRing → CmdRing) : (s.modCmd n f).tenants = s.tenants := rfl
@[simp] theorem State.modCmd_areas (n : Nat) (f : CmdRing → CmdRing) : (s.modCmd n f).areas = s.areas := rfl
@[simp] theorem State.modCmd_slots (n : Nat) (f : CmdRing → CmdRing) : (s.modCmd n f).slots = s.slots := rfl
@[simp] theorem State.modCmd_partitions (n : Nat) (f : CmdRing → CmdRing) : (s.modCmd n f).partitions = s.partitions := rfl
@[simp] theorem State.modCmd_images (n : Nat) (f : CmdRing → CmdRing) : (s.modCmd n f).images = s.images := rfl
@[simp] theorem State.modCmd_sheaf (n : Nat) (f : CmdRing → CmdRing) : (s.modCmd n f).sheaf = s.sheaf := rfl
@[simp] theorem State.modCmd_grammars (n : Nat) (f : CmdRing → CmdRing) : (s.modCmd n f).grammars = s.grammars := rfl
@[simp] theorem State.modCmd_grammarSerial (n : Nat) (f : CmdRing → CmdRing) : (s.modCmd n f).grammarSerial = s.grammarSerial := rfl
@[simp] theorem State.modCmd_templates (n : Nat) (f : CmdRing → CmdRing) : (s.modCmd n f).templates = s.templates := rfl
@[simp] theorem State.modCmd_stores (n : Nat) (f : CmdRing → CmdRing) : (s.modCmd n f).stores = s.stores := rfl
@[simp] theorem State.modCmd_models (n : Nat) (f : CmdRing → CmdRing) : (s.modCmd n f).models = s.models := rfl
@[simp] theorem State.modCmd_granary (n : Nat) (f : CmdRing → CmdRing) : (s.modCmd n f).granary = s.granary := rfl
@[simp] theorem State.modCmd_step (n : Nat) (f : CmdRing → CmdRing) : (s.modCmd n f).step = s.step := rfl
@[simp] theorem State.modCmd_front (n : Nat) (f : CmdRing → CmdRing) : (s.modCmd n f).front = s.front := rfl
@[simp] theorem State.modCmd_epochs (n : Nat) (f : CmdRing → CmdRing) : (s.modCmd n f).epochs = s.epochs := rfl
@[simp] theorem State.modCmd_tiers (n : Nat) (f : CmdRing → CmdRing) : (s.modCmd n f).tiers = s.tiers := rfl
@[simp] theorem State.modCmd_cores (n : Nat) (f : CmdRing → CmdRing) : (s.modCmd n f).cores = s.cores := rfl
@[simp] theorem State.modCmd_sync (n : Nat) (f : CmdRing → CmdRing) : (s.modCmd n f).sync = s.sync := rfl
@[simp] theorem State.modCmd_part (n : Nat) (f : CmdRing → CmdRing) : (s.modCmd n f).part = s.part := rfl
@[simp] theorem State.modCmd_faults (n : Nat) (f : CmdRing → CmdRing) : (s.modCmd n f).faults = s.faults := rfl
@[simp] theorem State.modCmd_causes (n : Nat) (f : CmdRing → CmdRing) : (s.modCmd n f).causes = s.causes := rfl
@[simp] theorem State.modCmd_power (n : Nat) (f : CmdRing → CmdRing) : (s.modCmd n f).power = s.power := rfl
@[simp] theorem State.modCmd_channels (n : Nat) (f : CmdRing → CmdRing) : (s.modCmd n f).channels = s.channels := rfl
@[simp] theorem State.modCmd_deadlineFirst (n : Nat) (f : CmdRing → CmdRing) : (s.modCmd n f).deadlineFirst = s.deadlineFirst := rfl
@[simp] theorem State.modCmd_pairing (n : Nat) (f : CmdRing → CmdRing) : (s.modCmd n f).pairing = s.pairing := rfl
@[simp] theorem State.modCmd_timestamp (n : Nat) (f : CmdRing → CmdRing) : (s.modCmd n f).timestamp = s.timestamp := rfl
@[simp] theorem State.modCmd_draws (n : Nat) (f : CmdRing → CmdRing) : (s.modCmd n f).draws = s.draws := rfl

/-! ### `State.modCq` -/

@[simp] theorem State.modCq_pending (n : Nat) (f : CqRing → CqRing) : (s.modCq n f).pending = s.pending := rfl
@[simp] theorem State.modCq_ident (n : Nat) (f : CqRing → CqRing) : (s.modCq n f).ident = s.ident := rfl
@[simp] theorem State.modCq_cap (n : Nat) (f : CqRing → CqRing) : (s.modCq n f).cap = s.cap := rfl
@[simp] theorem State.modCq_startUp (n : Nat) (f : CqRing → CqRing) : (s.modCq n f).startUp = s.startUp := rfl
@[simp] theorem State.modCq_dict (n : Nat) (f : CqRing → CqRing) : (s.modCq n f).dict = s.dict := rfl
@[simp] theorem State.modCq_mgmt (n : Nat) (f : CqRing → CqRing) : (s.modCq n f).mgmt = s.mgmt := rfl
@[simp] theorem State.modCq_t2 (n : Nat) (f : CqRing → CqRing) : (s.modCq n f).t2 = s.t2 := rfl
@[simp] theorem State.modCq_link (n : Nat) (f : CqRing → CqRing) : (s.modCq n f).link = s.link := rfl
@[simp] theorem State.modCq_layers (n : Nat) (f : CqRing → CqRing) : (s.modCq n f).layers = s.layers := rfl
@[simp] theorem State.modCq_ports (n : Nat) (f : CqRing → CqRing) : (s.modCq n f).ports = s.ports := rfl
@[simp] theorem State.modCq_inbox (n : Nat) (f : CqRing → CqRing) : (s.modCq n f).inbox = s.inbox := rfl
@[simp] theorem State.modCq_sent (n : Nat) (f : CqRing → CqRing) : (s.modCq n f).sent = s.sent := rfl
@[simp] theorem State.modCq_cmdRings (n : Nat) (f : CqRing → CqRing) : (s.modCq n f).cmdRings = s.cmdRings := rfl
@[simp] theorem State.modCq_cqRings (n : Nat) (f : CqRing → CqRing) : (s.modCq n f).cqRings = vMod s.cqRings n f := rfl
@[simp] theorem State.modCq_running (n : Nat) (f : CqRing → CqRing) : (s.modCq n f).running = s.running := rfl
@[simp] theorem State.modCq_job (n : Nat) (f : CqRing → CqRing) : (s.modCq n f).job = s.job := rfl
@[simp] theorem State.modCq_tenants (n : Nat) (f : CqRing → CqRing) : (s.modCq n f).tenants = s.tenants := rfl
@[simp] theorem State.modCq_areas (n : Nat) (f : CqRing → CqRing) : (s.modCq n f).areas = s.areas := rfl
@[simp] theorem State.modCq_slots (n : Nat) (f : CqRing → CqRing) : (s.modCq n f).slots = s.slots := rfl
@[simp] theorem State.modCq_partitions (n : Nat) (f : CqRing → CqRing) : (s.modCq n f).partitions = s.partitions := rfl
@[simp] theorem State.modCq_images (n : Nat) (f : CqRing → CqRing) : (s.modCq n f).images = s.images := rfl
@[simp] theorem State.modCq_sheaf (n : Nat) (f : CqRing → CqRing) : (s.modCq n f).sheaf = s.sheaf := rfl
@[simp] theorem State.modCq_grammars (n : Nat) (f : CqRing → CqRing) : (s.modCq n f).grammars = s.grammars := rfl
@[simp] theorem State.modCq_grammarSerial (n : Nat) (f : CqRing → CqRing) : (s.modCq n f).grammarSerial = s.grammarSerial := rfl
@[simp] theorem State.modCq_templates (n : Nat) (f : CqRing → CqRing) : (s.modCq n f).templates = s.templates := rfl
@[simp] theorem State.modCq_stores (n : Nat) (f : CqRing → CqRing) : (s.modCq n f).stores = s.stores := rfl
@[simp] theorem State.modCq_models (n : Nat) (f : CqRing → CqRing) : (s.modCq n f).models = s.models := rfl
@[simp] theorem State.modCq_granary (n : Nat) (f : CqRing → CqRing) : (s.modCq n f).granary = s.granary := rfl
@[simp] theorem State.modCq_step (n : Nat) (f : CqRing → CqRing) : (s.modCq n f).step = s.step := rfl
@[simp] theorem State.modCq_front (n : Nat) (f : CqRing → CqRing) : (s.modCq n f).front = s.front := rfl
@[simp] theorem State.modCq_epochs (n : Nat) (f : CqRing → CqRing) : (s.modCq n f).epochs = s.epochs := rfl
@[simp] theorem State.modCq_tiers (n : Nat) (f : CqRing → CqRing) : (s.modCq n f).tiers = s.tiers := rfl
@[simp] theorem State.modCq_cores (n : Nat) (f : CqRing → CqRing) : (s.modCq n f).cores = s.cores := rfl
@[simp] theorem State.modCq_sync (n : Nat) (f : CqRing → CqRing) : (s.modCq n f).sync = s.sync := rfl
@[simp] theorem State.modCq_part (n : Nat) (f : CqRing → CqRing) : (s.modCq n f).part = s.part := rfl
@[simp] theorem State.modCq_faults (n : Nat) (f : CqRing → CqRing) : (s.modCq n f).faults = s.faults := rfl
@[simp] theorem State.modCq_causes (n : Nat) (f : CqRing → CqRing) : (s.modCq n f).causes = s.causes := rfl
@[simp] theorem State.modCq_power (n : Nat) (f : CqRing → CqRing) : (s.modCq n f).power = s.power := rfl
@[simp] theorem State.modCq_channels (n : Nat) (f : CqRing → CqRing) : (s.modCq n f).channels = s.channels := rfl
@[simp] theorem State.modCq_deadlineFirst (n : Nat) (f : CqRing → CqRing) : (s.modCq n f).deadlineFirst = s.deadlineFirst := rfl
@[simp] theorem State.modCq_pairing (n : Nat) (f : CqRing → CqRing) : (s.modCq n f).pairing = s.pairing := rfl
@[simp] theorem State.modCq_timestamp (n : Nat) (f : CqRing → CqRing) : (s.modCq n f).timestamp = s.timestamp := rfl
@[simp] theorem State.modCq_draws (n : Nat) (f : CqRing → CqRing) : (s.modCq n f).draws = s.draws := rfl

/-! ### `State.modLink` -/

@[simp] theorem State.modLink_pending (f : CohLink → CohLink) : (s.modLink f).pending = s.pending := rfl
@[simp] theorem State.modLink_ident (f : CohLink → CohLink) : (s.modLink f).ident = s.ident := rfl
@[simp] theorem State.modLink_cap (f : CohLink → CohLink) : (s.modLink f).cap = s.cap := rfl
@[simp] theorem State.modLink_startUp (f : CohLink → CohLink) : (s.modLink f).startUp = s.startUp := rfl
@[simp] theorem State.modLink_dict (f : CohLink → CohLink) : (s.modLink f).dict = s.dict := rfl
@[simp] theorem State.modLink_mgmt (f : CohLink → CohLink) : (s.modLink f).mgmt = s.mgmt := rfl
@[simp] theorem State.modLink_t2 (f : CohLink → CohLink) : (s.modLink f).t2 = s.t2 := rfl
@[simp] theorem State.modLink_link (f : CohLink → CohLink) : (s.modLink f).link = f s.link := rfl
@[simp] theorem State.modLink_layers (f : CohLink → CohLink) : (s.modLink f).layers = s.layers := rfl
@[simp] theorem State.modLink_ports (f : CohLink → CohLink) : (s.modLink f).ports = s.ports := rfl
@[simp] theorem State.modLink_inbox (f : CohLink → CohLink) : (s.modLink f).inbox = s.inbox := rfl
@[simp] theorem State.modLink_sent (f : CohLink → CohLink) : (s.modLink f).sent = s.sent := rfl
@[simp] theorem State.modLink_cmdRings (f : CohLink → CohLink) : (s.modLink f).cmdRings = s.cmdRings := rfl
@[simp] theorem State.modLink_cqRings (f : CohLink → CohLink) : (s.modLink f).cqRings = s.cqRings := rfl
@[simp] theorem State.modLink_running (f : CohLink → CohLink) : (s.modLink f).running = s.running := rfl
@[simp] theorem State.modLink_job (f : CohLink → CohLink) : (s.modLink f).job = s.job := rfl
@[simp] theorem State.modLink_tenants (f : CohLink → CohLink) : (s.modLink f).tenants = s.tenants := rfl
@[simp] theorem State.modLink_areas (f : CohLink → CohLink) : (s.modLink f).areas = s.areas := rfl
@[simp] theorem State.modLink_slots (f : CohLink → CohLink) : (s.modLink f).slots = s.slots := rfl
@[simp] theorem State.modLink_partitions (f : CohLink → CohLink) : (s.modLink f).partitions = s.partitions := rfl
@[simp] theorem State.modLink_images (f : CohLink → CohLink) : (s.modLink f).images = s.images := rfl
@[simp] theorem State.modLink_sheaf (f : CohLink → CohLink) : (s.modLink f).sheaf = s.sheaf := rfl
@[simp] theorem State.modLink_grammars (f : CohLink → CohLink) : (s.modLink f).grammars = s.grammars := rfl
@[simp] theorem State.modLink_grammarSerial (f : CohLink → CohLink) : (s.modLink f).grammarSerial = s.grammarSerial := rfl
@[simp] theorem State.modLink_templates (f : CohLink → CohLink) : (s.modLink f).templates = s.templates := rfl
@[simp] theorem State.modLink_stores (f : CohLink → CohLink) : (s.modLink f).stores = s.stores := rfl
@[simp] theorem State.modLink_models (f : CohLink → CohLink) : (s.modLink f).models = s.models := rfl
@[simp] theorem State.modLink_granary (f : CohLink → CohLink) : (s.modLink f).granary = s.granary := rfl
@[simp] theorem State.modLink_step (f : CohLink → CohLink) : (s.modLink f).step = s.step := rfl
@[simp] theorem State.modLink_front (f : CohLink → CohLink) : (s.modLink f).front = s.front := rfl
@[simp] theorem State.modLink_epochs (f : CohLink → CohLink) : (s.modLink f).epochs = s.epochs := rfl
@[simp] theorem State.modLink_tiers (f : CohLink → CohLink) : (s.modLink f).tiers = s.tiers := rfl
@[simp] theorem State.modLink_cores (f : CohLink → CohLink) : (s.modLink f).cores = s.cores := rfl
@[simp] theorem State.modLink_sync (f : CohLink → CohLink) : (s.modLink f).sync = s.sync := rfl
@[simp] theorem State.modLink_part (f : CohLink → CohLink) : (s.modLink f).part = s.part := rfl
@[simp] theorem State.modLink_faults (f : CohLink → CohLink) : (s.modLink f).faults = s.faults := rfl
@[simp] theorem State.modLink_causes (f : CohLink → CohLink) : (s.modLink f).causes = s.causes := rfl
@[simp] theorem State.modLink_power (f : CohLink → CohLink) : (s.modLink f).power = s.power := rfl
@[simp] theorem State.modLink_channels (f : CohLink → CohLink) : (s.modLink f).channels = s.channels := rfl
@[simp] theorem State.modLink_deadlineFirst (f : CohLink → CohLink) : (s.modLink f).deadlineFirst = s.deadlineFirst := rfl
@[simp] theorem State.modLink_pairing (f : CohLink → CohLink) : (s.modLink f).pairing = s.pairing := rfl
@[simp] theorem State.modLink_timestamp (f : CohLink → CohLink) : (s.modLink f).timestamp = s.timestamp := rfl
@[simp] theorem State.modLink_draws (f : CohLink → CohLink) : (s.modLink f).draws = s.draws := rfl

/-! ### `State.modPower` -/

@[simp] theorem State.modPower_pending (f : Power → Power) : (s.modPower f).pending = s.pending := rfl
@[simp] theorem State.modPower_ident (f : Power → Power) : (s.modPower f).ident = s.ident := rfl
@[simp] theorem State.modPower_cap (f : Power → Power) : (s.modPower f).cap = s.cap := rfl
@[simp] theorem State.modPower_startUp (f : Power → Power) : (s.modPower f).startUp = s.startUp := rfl
@[simp] theorem State.modPower_dict (f : Power → Power) : (s.modPower f).dict = s.dict := rfl
@[simp] theorem State.modPower_mgmt (f : Power → Power) : (s.modPower f).mgmt = s.mgmt := rfl
@[simp] theorem State.modPower_t2 (f : Power → Power) : (s.modPower f).t2 = s.t2 := rfl
@[simp] theorem State.modPower_link (f : Power → Power) : (s.modPower f).link = s.link := rfl
@[simp] theorem State.modPower_layers (f : Power → Power) : (s.modPower f).layers = s.layers := rfl
@[simp] theorem State.modPower_ports (f : Power → Power) : (s.modPower f).ports = s.ports := rfl
@[simp] theorem State.modPower_inbox (f : Power → Power) : (s.modPower f).inbox = s.inbox := rfl
@[simp] theorem State.modPower_sent (f : Power → Power) : (s.modPower f).sent = s.sent := rfl
@[simp] theorem State.modPower_cmdRings (f : Power → Power) : (s.modPower f).cmdRings = s.cmdRings := rfl
@[simp] theorem State.modPower_cqRings (f : Power → Power) : (s.modPower f).cqRings = s.cqRings := rfl
@[simp] theorem State.modPower_running (f : Power → Power) : (s.modPower f).running = s.running := rfl
@[simp] theorem State.modPower_job (f : Power → Power) : (s.modPower f).job = s.job := rfl
@[simp] theorem State.modPower_tenants (f : Power → Power) : (s.modPower f).tenants = s.tenants := rfl
@[simp] theorem State.modPower_areas (f : Power → Power) : (s.modPower f).areas = s.areas := rfl
@[simp] theorem State.modPower_slots (f : Power → Power) : (s.modPower f).slots = s.slots := rfl
@[simp] theorem State.modPower_partitions (f : Power → Power) : (s.modPower f).partitions = s.partitions := rfl
@[simp] theorem State.modPower_images (f : Power → Power) : (s.modPower f).images = s.images := rfl
@[simp] theorem State.modPower_sheaf (f : Power → Power) : (s.modPower f).sheaf = s.sheaf := rfl
@[simp] theorem State.modPower_grammars (f : Power → Power) : (s.modPower f).grammars = s.grammars := rfl
@[simp] theorem State.modPower_grammarSerial (f : Power → Power) : (s.modPower f).grammarSerial = s.grammarSerial := rfl
@[simp] theorem State.modPower_templates (f : Power → Power) : (s.modPower f).templates = s.templates := rfl
@[simp] theorem State.modPower_stores (f : Power → Power) : (s.modPower f).stores = s.stores := rfl
@[simp] theorem State.modPower_models (f : Power → Power) : (s.modPower f).models = s.models := rfl
@[simp] theorem State.modPower_granary (f : Power → Power) : (s.modPower f).granary = s.granary := rfl
@[simp] theorem State.modPower_step (f : Power → Power) : (s.modPower f).step = s.step := rfl
@[simp] theorem State.modPower_front (f : Power → Power) : (s.modPower f).front = s.front := rfl
@[simp] theorem State.modPower_epochs (f : Power → Power) : (s.modPower f).epochs = s.epochs := rfl
@[simp] theorem State.modPower_tiers (f : Power → Power) : (s.modPower f).tiers = s.tiers := rfl
@[simp] theorem State.modPower_cores (f : Power → Power) : (s.modPower f).cores = s.cores := rfl
@[simp] theorem State.modPower_sync (f : Power → Power) : (s.modPower f).sync = s.sync := rfl
@[simp] theorem State.modPower_part (f : Power → Power) : (s.modPower f).part = s.part := rfl
@[simp] theorem State.modPower_faults (f : Power → Power) : (s.modPower f).faults = s.faults := rfl
@[simp] theorem State.modPower_causes (f : Power → Power) : (s.modPower f).causes = s.causes := rfl
@[simp] theorem State.modPower_power (f : Power → Power) : (s.modPower f).power = f s.power := rfl
@[simp] theorem State.modPower_channels (f : Power → Power) : (s.modPower f).channels = s.channels := rfl
@[simp] theorem State.modPower_deadlineFirst (f : Power → Power) : (s.modPower f).deadlineFirst = s.deadlineFirst := rfl
@[simp] theorem State.modPower_pairing (f : Power → Power) : (s.modPower f).pairing = s.pairing := rfl
@[simp] theorem State.modPower_timestamp (f : Power → Power) : (s.modPower f).timestamp = s.timestamp := rfl
@[simp] theorem State.modPower_draws (f : Power → Power) : (s.modPower f).draws = s.draws := rfl

/-! ### `State.modTiers` -/

@[simp] theorem State.modTiers_pending (f : Tiers → Tiers) : (s.modTiers f).pending = s.pending := rfl
@[simp] theorem State.modTiers_ident (f : Tiers → Tiers) : (s.modTiers f).ident = s.ident := rfl
@[simp] theorem State.modTiers_cap (f : Tiers → Tiers) : (s.modTiers f).cap = s.cap := rfl
@[simp] theorem State.modTiers_startUp (f : Tiers → Tiers) : (s.modTiers f).startUp = s.startUp := rfl
@[simp] theorem State.modTiers_dict (f : Tiers → Tiers) : (s.modTiers f).dict = s.dict := rfl
@[simp] theorem State.modTiers_mgmt (f : Tiers → Tiers) : (s.modTiers f).mgmt = s.mgmt := rfl
@[simp] theorem State.modTiers_t2 (f : Tiers → Tiers) : (s.modTiers f).t2 = s.t2 := rfl
@[simp] theorem State.modTiers_link (f : Tiers → Tiers) : (s.modTiers f).link = s.link := rfl
@[simp] theorem State.modTiers_layers (f : Tiers → Tiers) : (s.modTiers f).layers = s.layers := rfl
@[simp] theorem State.modTiers_ports (f : Tiers → Tiers) : (s.modTiers f).ports = s.ports := rfl
@[simp] theorem State.modTiers_inbox (f : Tiers → Tiers) : (s.modTiers f).inbox = s.inbox := rfl
@[simp] theorem State.modTiers_sent (f : Tiers → Tiers) : (s.modTiers f).sent = s.sent := rfl
@[simp] theorem State.modTiers_cmdRings (f : Tiers → Tiers) : (s.modTiers f).cmdRings = s.cmdRings := rfl
@[simp] theorem State.modTiers_cqRings (f : Tiers → Tiers) : (s.modTiers f).cqRings = s.cqRings := rfl
@[simp] theorem State.modTiers_running (f : Tiers → Tiers) : (s.modTiers f).running = s.running := rfl
@[simp] theorem State.modTiers_job (f : Tiers → Tiers) : (s.modTiers f).job = s.job := rfl
@[simp] theorem State.modTiers_tenants (f : Tiers → Tiers) : (s.modTiers f).tenants = s.tenants := rfl
@[simp] theorem State.modTiers_areas (f : Tiers → Tiers) : (s.modTiers f).areas = s.areas := rfl
@[simp] theorem State.modTiers_slots (f : Tiers → Tiers) : (s.modTiers f).slots = s.slots := rfl
@[simp] theorem State.modTiers_partitions (f : Tiers → Tiers) : (s.modTiers f).partitions = s.partitions := rfl
@[simp] theorem State.modTiers_images (f : Tiers → Tiers) : (s.modTiers f).images = s.images := rfl
@[simp] theorem State.modTiers_sheaf (f : Tiers → Tiers) : (s.modTiers f).sheaf = s.sheaf := rfl
@[simp] theorem State.modTiers_grammars (f : Tiers → Tiers) : (s.modTiers f).grammars = s.grammars := rfl
@[simp] theorem State.modTiers_grammarSerial (f : Tiers → Tiers) : (s.modTiers f).grammarSerial = s.grammarSerial := rfl
@[simp] theorem State.modTiers_templates (f : Tiers → Tiers) : (s.modTiers f).templates = s.templates := rfl
@[simp] theorem State.modTiers_stores (f : Tiers → Tiers) : (s.modTiers f).stores = s.stores := rfl
@[simp] theorem State.modTiers_models (f : Tiers → Tiers) : (s.modTiers f).models = s.models := rfl
@[simp] theorem State.modTiers_granary (f : Tiers → Tiers) : (s.modTiers f).granary = s.granary := rfl
@[simp] theorem State.modTiers_step (f : Tiers → Tiers) : (s.modTiers f).step = s.step := rfl
@[simp] theorem State.modTiers_front (f : Tiers → Tiers) : (s.modTiers f).front = s.front := rfl
@[simp] theorem State.modTiers_epochs (f : Tiers → Tiers) : (s.modTiers f).epochs = s.epochs := rfl
@[simp] theorem State.modTiers_tiers (f : Tiers → Tiers) : (s.modTiers f).tiers = f s.tiers := rfl
@[simp] theorem State.modTiers_cores (f : Tiers → Tiers) : (s.modTiers f).cores = s.cores := rfl
@[simp] theorem State.modTiers_sync (f : Tiers → Tiers) : (s.modTiers f).sync = s.sync := rfl
@[simp] theorem State.modTiers_part (f : Tiers → Tiers) : (s.modTiers f).part = s.part := rfl
@[simp] theorem State.modTiers_faults (f : Tiers → Tiers) : (s.modTiers f).faults = s.faults := rfl
@[simp] theorem State.modTiers_causes (f : Tiers → Tiers) : (s.modTiers f).causes = s.causes := rfl
@[simp] theorem State.modTiers_power (f : Tiers → Tiers) : (s.modTiers f).power = s.power := rfl
@[simp] theorem State.modTiers_channels (f : Tiers → Tiers) : (s.modTiers f).channels = s.channels := rfl
@[simp] theorem State.modTiers_deadlineFirst (f : Tiers → Tiers) : (s.modTiers f).deadlineFirst = s.deadlineFirst := rfl
@[simp] theorem State.modTiers_pairing (f : Tiers → Tiers) : (s.modTiers f).pairing = s.pairing := rfl
@[simp] theorem State.modTiers_timestamp (f : Tiers → Tiers) : (s.modTiers f).timestamp = s.timestamp := rfl
@[simp] theorem State.modTiers_draws (f : Tiers → Tiers) : (s.modTiers f).draws = s.draws := rfl

/-! ### `State.modSheaf` -/

@[simp] theorem State.modSheaf_pending (f : Sheaf → Sheaf) : (s.modSheaf f).pending = s.pending := rfl
@[simp] theorem State.modSheaf_ident (f : Sheaf → Sheaf) : (s.modSheaf f).ident = s.ident := rfl
@[simp] theorem State.modSheaf_cap (f : Sheaf → Sheaf) : (s.modSheaf f).cap = s.cap := rfl
@[simp] theorem State.modSheaf_startUp (f : Sheaf → Sheaf) : (s.modSheaf f).startUp = s.startUp := rfl
@[simp] theorem State.modSheaf_dict (f : Sheaf → Sheaf) : (s.modSheaf f).dict = s.dict := rfl
@[simp] theorem State.modSheaf_mgmt (f : Sheaf → Sheaf) : (s.modSheaf f).mgmt = s.mgmt := rfl
@[simp] theorem State.modSheaf_t2 (f : Sheaf → Sheaf) : (s.modSheaf f).t2 = s.t2 := rfl
@[simp] theorem State.modSheaf_link (f : Sheaf → Sheaf) : (s.modSheaf f).link = s.link := rfl
@[simp] theorem State.modSheaf_layers (f : Sheaf → Sheaf) : (s.modSheaf f).layers = s.layers := rfl
@[simp] theorem State.modSheaf_ports (f : Sheaf → Sheaf) : (s.modSheaf f).ports = s.ports := rfl
@[simp] theorem State.modSheaf_inbox (f : Sheaf → Sheaf) : (s.modSheaf f).inbox = s.inbox := rfl
@[simp] theorem State.modSheaf_sent (f : Sheaf → Sheaf) : (s.modSheaf f).sent = s.sent := rfl
@[simp] theorem State.modSheaf_cmdRings (f : Sheaf → Sheaf) : (s.modSheaf f).cmdRings = s.cmdRings := rfl
@[simp] theorem State.modSheaf_cqRings (f : Sheaf → Sheaf) : (s.modSheaf f).cqRings = s.cqRings := rfl
@[simp] theorem State.modSheaf_running (f : Sheaf → Sheaf) : (s.modSheaf f).running = s.running := rfl
@[simp] theorem State.modSheaf_job (f : Sheaf → Sheaf) : (s.modSheaf f).job = s.job := rfl
@[simp] theorem State.modSheaf_tenants (f : Sheaf → Sheaf) : (s.modSheaf f).tenants = s.tenants := rfl
@[simp] theorem State.modSheaf_areas (f : Sheaf → Sheaf) : (s.modSheaf f).areas = s.areas := rfl
@[simp] theorem State.modSheaf_slots (f : Sheaf → Sheaf) : (s.modSheaf f).slots = s.slots := rfl
@[simp] theorem State.modSheaf_partitions (f : Sheaf → Sheaf) : (s.modSheaf f).partitions = s.partitions := rfl
@[simp] theorem State.modSheaf_images (f : Sheaf → Sheaf) : (s.modSheaf f).images = s.images := rfl
@[simp] theorem State.modSheaf_sheaf (f : Sheaf → Sheaf) : (s.modSheaf f).sheaf = f s.sheaf := rfl
@[simp] theorem State.modSheaf_grammars (f : Sheaf → Sheaf) : (s.modSheaf f).grammars = s.grammars := rfl
@[simp] theorem State.modSheaf_grammarSerial (f : Sheaf → Sheaf) : (s.modSheaf f).grammarSerial = s.grammarSerial := rfl
@[simp] theorem State.modSheaf_templates (f : Sheaf → Sheaf) : (s.modSheaf f).templates = s.templates := rfl
@[simp] theorem State.modSheaf_stores (f : Sheaf → Sheaf) : (s.modSheaf f).stores = s.stores := rfl
@[simp] theorem State.modSheaf_models (f : Sheaf → Sheaf) : (s.modSheaf f).models = s.models := rfl
@[simp] theorem State.modSheaf_granary (f : Sheaf → Sheaf) : (s.modSheaf f).granary = s.granary := rfl
@[simp] theorem State.modSheaf_step (f : Sheaf → Sheaf) : (s.modSheaf f).step = s.step := rfl
@[simp] theorem State.modSheaf_front (f : Sheaf → Sheaf) : (s.modSheaf f).front = s.front := rfl
@[simp] theorem State.modSheaf_epochs (f : Sheaf → Sheaf) : (s.modSheaf f).epochs = s.epochs := rfl
@[simp] theorem State.modSheaf_tiers (f : Sheaf → Sheaf) : (s.modSheaf f).tiers = s.tiers := rfl
@[simp] theorem State.modSheaf_cores (f : Sheaf → Sheaf) : (s.modSheaf f).cores = s.cores := rfl
@[simp] theorem State.modSheaf_sync (f : Sheaf → Sheaf) : (s.modSheaf f).sync = s.sync := rfl
@[simp] theorem State.modSheaf_part (f : Sheaf → Sheaf) : (s.modSheaf f).part = s.part := rfl
@[simp] theorem State.modSheaf_faults (f : Sheaf → Sheaf) : (s.modSheaf f).faults = s.faults := rfl
@[simp] theorem State.modSheaf_causes (f : Sheaf → Sheaf) : (s.modSheaf f).causes = s.causes := rfl
@[simp] theorem State.modSheaf_power (f : Sheaf → Sheaf) : (s.modSheaf f).power = s.power := rfl
@[simp] theorem State.modSheaf_channels (f : Sheaf → Sheaf) : (s.modSheaf f).channels = s.channels := rfl
@[simp] theorem State.modSheaf_deadlineFirst (f : Sheaf → Sheaf) : (s.modSheaf f).deadlineFirst = s.deadlineFirst := rfl
@[simp] theorem State.modSheaf_pairing (f : Sheaf → Sheaf) : (s.modSheaf f).pairing = s.pairing := rfl
@[simp] theorem State.modSheaf_timestamp (f : Sheaf → Sheaf) : (s.modSheaf f).timestamp = s.timestamp := rfl
@[simp] theorem State.modSheaf_draws (f : Sheaf → Sheaf) : (s.modSheaf f).draws = s.draws := rfl

/-! ### `State.modTenant` -/

@[simp] theorem State.modTenant_pending (t : Nat) (f : Tenant → Tenant) : (s.modTenant t f).pending = s.pending := rfl
@[simp] theorem State.modTenant_ident (t : Nat) (f : Tenant → Tenant) : (s.modTenant t f).ident = s.ident := rfl
@[simp] theorem State.modTenant_cap (t : Nat) (f : Tenant → Tenant) : (s.modTenant t f).cap = s.cap := rfl
@[simp] theorem State.modTenant_startUp (t : Nat) (f : Tenant → Tenant) : (s.modTenant t f).startUp = s.startUp := rfl
@[simp] theorem State.modTenant_dict (t : Nat) (f : Tenant → Tenant) : (s.modTenant t f).dict = s.dict := rfl
@[simp] theorem State.modTenant_mgmt (t : Nat) (f : Tenant → Tenant) : (s.modTenant t f).mgmt = s.mgmt := rfl
@[simp] theorem State.modTenant_t2 (t : Nat) (f : Tenant → Tenant) : (s.modTenant t f).t2 = s.t2 := rfl
@[simp] theorem State.modTenant_link (t : Nat) (f : Tenant → Tenant) : (s.modTenant t f).link = s.link := rfl
@[simp] theorem State.modTenant_layers (t : Nat) (f : Tenant → Tenant) : (s.modTenant t f).layers = s.layers := rfl
@[simp] theorem State.modTenant_ports (t : Nat) (f : Tenant → Tenant) : (s.modTenant t f).ports = s.ports := rfl
@[simp] theorem State.modTenant_inbox (t : Nat) (f : Tenant → Tenant) : (s.modTenant t f).inbox = s.inbox := rfl
@[simp] theorem State.modTenant_sent (t : Nat) (f : Tenant → Tenant) : (s.modTenant t f).sent = s.sent := rfl
@[simp] theorem State.modTenant_cmdRings (t : Nat) (f : Tenant → Tenant) : (s.modTenant t f).cmdRings = s.cmdRings := rfl
@[simp] theorem State.modTenant_cqRings (t : Nat) (f : Tenant → Tenant) : (s.modTenant t f).cqRings = s.cqRings := rfl
@[simp] theorem State.modTenant_running (t : Nat) (f : Tenant → Tenant) : (s.modTenant t f).running = s.running := rfl
@[simp] theorem State.modTenant_job (t : Nat) (f : Tenant → Tenant) : (s.modTenant t f).job = s.job := rfl
@[simp] theorem State.modTenant_tenants (t : Nat) (f : Tenant → Tenant) : (s.modTenant t f).tenants = updWhere (fun x => x.number == t) f s.tenants := rfl
@[simp] theorem State.modTenant_areas (t : Nat) (f : Tenant → Tenant) : (s.modTenant t f).areas = s.areas := rfl
@[simp] theorem State.modTenant_slots (t : Nat) (f : Tenant → Tenant) : (s.modTenant t f).slots = s.slots := rfl
@[simp] theorem State.modTenant_partitions (t : Nat) (f : Tenant → Tenant) : (s.modTenant t f).partitions = s.partitions := rfl
@[simp] theorem State.modTenant_images (t : Nat) (f : Tenant → Tenant) : (s.modTenant t f).images = s.images := rfl
@[simp] theorem State.modTenant_sheaf (t : Nat) (f : Tenant → Tenant) : (s.modTenant t f).sheaf = s.sheaf := rfl
@[simp] theorem State.modTenant_grammars (t : Nat) (f : Tenant → Tenant) : (s.modTenant t f).grammars = s.grammars := rfl
@[simp] theorem State.modTenant_grammarSerial (t : Nat) (f : Tenant → Tenant) : (s.modTenant t f).grammarSerial = s.grammarSerial := rfl
@[simp] theorem State.modTenant_templates (t : Nat) (f : Tenant → Tenant) : (s.modTenant t f).templates = s.templates := rfl
@[simp] theorem State.modTenant_stores (t : Nat) (f : Tenant → Tenant) : (s.modTenant t f).stores = s.stores := rfl
@[simp] theorem State.modTenant_models (t : Nat) (f : Tenant → Tenant) : (s.modTenant t f).models = s.models := rfl
@[simp] theorem State.modTenant_granary (t : Nat) (f : Tenant → Tenant) : (s.modTenant t f).granary = s.granary := rfl
@[simp] theorem State.modTenant_step (t : Nat) (f : Tenant → Tenant) : (s.modTenant t f).step = s.step := rfl
@[simp] theorem State.modTenant_front (t : Nat) (f : Tenant → Tenant) : (s.modTenant t f).front = s.front := rfl
@[simp] theorem State.modTenant_epochs (t : Nat) (f : Tenant → Tenant) : (s.modTenant t f).epochs = s.epochs := rfl
@[simp] theorem State.modTenant_tiers (t : Nat) (f : Tenant → Tenant) : (s.modTenant t f).tiers = s.tiers := rfl
@[simp] theorem State.modTenant_cores (t : Nat) (f : Tenant → Tenant) : (s.modTenant t f).cores = s.cores := rfl
@[simp] theorem State.modTenant_sync (t : Nat) (f : Tenant → Tenant) : (s.modTenant t f).sync = s.sync := rfl
@[simp] theorem State.modTenant_part (t : Nat) (f : Tenant → Tenant) : (s.modTenant t f).part = s.part := rfl
@[simp] theorem State.modTenant_faults (t : Nat) (f : Tenant → Tenant) : (s.modTenant t f).faults = s.faults := rfl
@[simp] theorem State.modTenant_causes (t : Nat) (f : Tenant → Tenant) : (s.modTenant t f).causes = s.causes := rfl
@[simp] theorem State.modTenant_power (t : Nat) (f : Tenant → Tenant) : (s.modTenant t f).power = s.power := rfl
@[simp] theorem State.modTenant_channels (t : Nat) (f : Tenant → Tenant) : (s.modTenant t f).channels = s.channels := rfl
@[simp] theorem State.modTenant_deadlineFirst (t : Nat) (f : Tenant → Tenant) : (s.modTenant t f).deadlineFirst = s.deadlineFirst := rfl
@[simp] theorem State.modTenant_pairing (t : Nat) (f : Tenant → Tenant) : (s.modTenant t f).pairing = s.pairing := rfl
@[simp] theorem State.modTenant_timestamp (t : Nat) (f : Tenant → Tenant) : (s.modTenant t f).timestamp = s.timestamp := rfl
@[simp] theorem State.modTenant_draws (t : Nat) (f : Tenant → Tenant) : (s.modTenant t f).draws = s.draws := rfl

/-! ### `State.count` -/

@[simp] theorem State.count_pending (t : Nat) (f : Counts → Counts) : (s.count t f).pending = s.pending := rfl
@[simp] theorem State.count_ident (t : Nat) (f : Counts → Counts) : (s.count t f).ident = s.ident := rfl
@[simp] theorem State.count_cap (t : Nat) (f : Counts → Counts) : (s.count t f).cap = s.cap := rfl
@[simp] theorem State.count_startUp (t : Nat) (f : Counts → Counts) : (s.count t f).startUp = s.startUp := rfl
@[simp] theorem State.count_dict (t : Nat) (f : Counts → Counts) : (s.count t f).dict = s.dict := rfl
@[simp] theorem State.count_mgmt (t : Nat) (f : Counts → Counts) : (s.count t f).mgmt = s.mgmt := rfl
@[simp] theorem State.count_t2 (t : Nat) (f : Counts → Counts) : (s.count t f).t2 = s.t2 := rfl
@[simp] theorem State.count_link (t : Nat) (f : Counts → Counts) : (s.count t f).link = s.link := rfl
@[simp] theorem State.count_layers (t : Nat) (f : Counts → Counts) : (s.count t f).layers = s.layers := rfl
@[simp] theorem State.count_ports (t : Nat) (f : Counts → Counts) : (s.count t f).ports = s.ports := rfl
@[simp] theorem State.count_inbox (t : Nat) (f : Counts → Counts) : (s.count t f).inbox = s.inbox := rfl
@[simp] theorem State.count_sent (t : Nat) (f : Counts → Counts) : (s.count t f).sent = s.sent := rfl
@[simp] theorem State.count_cmdRings (t : Nat) (f : Counts → Counts) : (s.count t f).cmdRings = s.cmdRings := rfl
@[simp] theorem State.count_cqRings (t : Nat) (f : Counts → Counts) : (s.count t f).cqRings = s.cqRings := rfl
@[simp] theorem State.count_running (t : Nat) (f : Counts → Counts) : (s.count t f).running = s.running := rfl
@[simp] theorem State.count_job (t : Nat) (f : Counts → Counts) : (s.count t f).job = s.job := rfl
@[simp] theorem State.count_areas (t : Nat) (f : Counts → Counts) : (s.count t f).areas = s.areas := rfl
@[simp] theorem State.count_slots (t : Nat) (f : Counts → Counts) : (s.count t f).slots = s.slots := rfl
@[simp] theorem State.count_partitions (t : Nat) (f : Counts → Counts) : (s.count t f).partitions = s.partitions := rfl
@[simp] theorem State.count_images (t : Nat) (f : Counts → Counts) : (s.count t f).images = s.images := rfl
@[simp] theorem State.count_sheaf (t : Nat) (f : Counts → Counts) : (s.count t f).sheaf = s.sheaf := rfl
@[simp] theorem State.count_grammars (t : Nat) (f : Counts → Counts) : (s.count t f).grammars = s.grammars := rfl
@[simp] theorem State.count_grammarSerial (t : Nat) (f : Counts → Counts) : (s.count t f).grammarSerial = s.grammarSerial := rfl
@[simp] theorem State.count_templates (t : Nat) (f : Counts → Counts) : (s.count t f).templates = s.templates := rfl
@[simp] theorem State.count_stores (t : Nat) (f : Counts → Counts) : (s.count t f).stores = s.stores := rfl
@[simp] theorem State.count_models (t : Nat) (f : Counts → Counts) : (s.count t f).models = s.models := rfl
@[simp] theorem State.count_granary (t : Nat) (f : Counts → Counts) : (s.count t f).granary = s.granary := rfl
@[simp] theorem State.count_step (t : Nat) (f : Counts → Counts) : (s.count t f).step = s.step := rfl
@[simp] theorem State.count_front (t : Nat) (f : Counts → Counts) : (s.count t f).front = s.front := rfl
@[simp] theorem State.count_epochs (t : Nat) (f : Counts → Counts) : (s.count t f).epochs = s.epochs := rfl
@[simp] theorem State.count_tiers (t : Nat) (f : Counts → Counts) : (s.count t f).tiers = s.tiers := rfl
@[simp] theorem State.count_cores (t : Nat) (f : Counts → Counts) : (s.count t f).cores = s.cores := rfl
@[simp] theorem State.count_sync (t : Nat) (f : Counts → Counts) : (s.count t f).sync = s.sync := rfl
@[simp] theorem State.count_part (t : Nat) (f : Counts → Counts) : (s.count t f).part = s.part := rfl
@[simp] theorem State.count_faults (t : Nat) (f : Counts → Counts) : (s.count t f).faults = s.faults := rfl
@[simp] theorem State.count_causes (t : Nat) (f : Counts → Counts) : (s.count t f).causes = s.causes := rfl
@[simp] theorem State.count_power (t : Nat) (f : Counts → Counts) : (s.count t f).power = s.power := rfl
@[simp] theorem State.count_channels (t : Nat) (f : Counts → Counts) : (s.count t f).channels = s.channels := rfl
@[simp] theorem State.count_deadlineFirst (t : Nat) (f : Counts → Counts) : (s.count t f).deadlineFirst = s.deadlineFirst := rfl
@[simp] theorem State.count_pairing (t : Nat) (f : Counts → Counts) : (s.count t f).pairing = s.pairing := rfl
@[simp] theorem State.count_timestamp (t : Nat) (f : Counts → Counts) : (s.count t f).timestamp = s.timestamp := rfl
@[simp] theorem State.count_draws (t : Nat) (f : Counts → Counts) : (s.count t f).draws = s.draws := rfl

/-! ### `State.modBarrier` -/

@[simp] theorem State.modBarrier_pending (b : Nat) (f : Barrier → Barrier) : (s.modBarrier b f).pending = s.pending := rfl
@[simp] theorem State.modBarrier_ident (b : Nat) (f : Barrier → Barrier) : (s.modBarrier b f).ident = s.ident := rfl
@[simp] theorem State.modBarrier_cap (b : Nat) (f : Barrier → Barrier) : (s.modBarrier b f).cap = s.cap := rfl
@[simp] theorem State.modBarrier_startUp (b : Nat) (f : Barrier → Barrier) : (s.modBarrier b f).startUp = s.startUp := rfl
@[simp] theorem State.modBarrier_dict (b : Nat) (f : Barrier → Barrier) : (s.modBarrier b f).dict = s.dict := rfl
@[simp] theorem State.modBarrier_mgmt (b : Nat) (f : Barrier → Barrier) : (s.modBarrier b f).mgmt = s.mgmt := rfl
@[simp] theorem State.modBarrier_t2 (b : Nat) (f : Barrier → Barrier) : (s.modBarrier b f).t2 = s.t2 := rfl
@[simp] theorem State.modBarrier_link (b : Nat) (f : Barrier → Barrier) : (s.modBarrier b f).link = s.link := rfl
@[simp] theorem State.modBarrier_layers (b : Nat) (f : Barrier → Barrier) : (s.modBarrier b f).layers = s.layers := rfl
@[simp] theorem State.modBarrier_ports (b : Nat) (f : Barrier → Barrier) : (s.modBarrier b f).ports = s.ports := rfl
@[simp] theorem State.modBarrier_inbox (b : Nat) (f : Barrier → Barrier) : (s.modBarrier b f).inbox = s.inbox := rfl
@[simp] theorem State.modBarrier_sent (b : Nat) (f : Barrier → Barrier) : (s.modBarrier b f).sent = s.sent := rfl
@[simp] theorem State.modBarrier_cmdRings (b : Nat) (f : Barrier → Barrier) : (s.modBarrier b f).cmdRings = s.cmdRings := rfl
@[simp] theorem State.modBarrier_cqRings (b : Nat) (f : Barrier → Barrier) : (s.modBarrier b f).cqRings = s.cqRings := rfl
@[simp] theorem State.modBarrier_running (b : Nat) (f : Barrier → Barrier) : (s.modBarrier b f).running = s.running := rfl
@[simp] theorem State.modBarrier_job (b : Nat) (f : Barrier → Barrier) : (s.modBarrier b f).job = s.job := rfl
@[simp] theorem State.modBarrier_tenants (b : Nat) (f : Barrier → Barrier) : (s.modBarrier b f).tenants = s.tenants := rfl
@[simp] theorem State.modBarrier_areas (b : Nat) (f : Barrier → Barrier) : (s.modBarrier b f).areas = s.areas := rfl
@[simp] theorem State.modBarrier_slots (b : Nat) (f : Barrier → Barrier) : (s.modBarrier b f).slots = s.slots := rfl
@[simp] theorem State.modBarrier_partitions (b : Nat) (f : Barrier → Barrier) : (s.modBarrier b f).partitions = s.partitions := rfl
@[simp] theorem State.modBarrier_images (b : Nat) (f : Barrier → Barrier) : (s.modBarrier b f).images = s.images := rfl
@[simp] theorem State.modBarrier_sheaf (b : Nat) (f : Barrier → Barrier) : (s.modBarrier b f).sheaf = s.sheaf := rfl
@[simp] theorem State.modBarrier_grammars (b : Nat) (f : Barrier → Barrier) : (s.modBarrier b f).grammars = s.grammars := rfl
@[simp] theorem State.modBarrier_grammarSerial (b : Nat) (f : Barrier → Barrier) : (s.modBarrier b f).grammarSerial = s.grammarSerial := rfl
@[simp] theorem State.modBarrier_templates (b : Nat) (f : Barrier → Barrier) : (s.modBarrier b f).templates = s.templates := rfl
@[simp] theorem State.modBarrier_stores (b : Nat) (f : Barrier → Barrier) : (s.modBarrier b f).stores = s.stores := rfl
@[simp] theorem State.modBarrier_models (b : Nat) (f : Barrier → Barrier) : (s.modBarrier b f).models = s.models := rfl
@[simp] theorem State.modBarrier_granary (b : Nat) (f : Barrier → Barrier) : (s.modBarrier b f).granary = s.granary := rfl
@[simp] theorem State.modBarrier_step (b : Nat) (f : Barrier → Barrier) : (s.modBarrier b f).step = s.step := rfl
@[simp] theorem State.modBarrier_front (b : Nat) (f : Barrier → Barrier) : (s.modBarrier b f).front = s.front := rfl
@[simp] theorem State.modBarrier_epochs (b : Nat) (f : Barrier → Barrier) : (s.modBarrier b f).epochs = s.epochs := rfl
@[simp] theorem State.modBarrier_tiers (b : Nat) (f : Barrier → Barrier) : (s.modBarrier b f).tiers = s.tiers := rfl
@[simp] theorem State.modBarrier_cores (b : Nat) (f : Barrier → Barrier) : (s.modBarrier b f).cores = s.cores := rfl
@[simp] theorem State.modBarrier_part (b : Nat) (f : Barrier → Barrier) : (s.modBarrier b f).part = s.part := rfl
@[simp] theorem State.modBarrier_faults (b : Nat) (f : Barrier → Barrier) : (s.modBarrier b f).faults = s.faults := rfl
@[simp] theorem State.modBarrier_causes (b : Nat) (f : Barrier → Barrier) : (s.modBarrier b f).causes = s.causes := rfl
@[simp] theorem State.modBarrier_power (b : Nat) (f : Barrier → Barrier) : (s.modBarrier b f).power = s.power := rfl
@[simp] theorem State.modBarrier_channels (b : Nat) (f : Barrier → Barrier) : (s.modBarrier b f).channels = s.channels := rfl
@[simp] theorem State.modBarrier_deadlineFirst (b : Nat) (f : Barrier → Barrier) : (s.modBarrier b f).deadlineFirst = s.deadlineFirst := rfl
@[simp] theorem State.modBarrier_pairing (b : Nat) (f : Barrier → Barrier) : (s.modBarrier b f).pairing = s.pairing := rfl
@[simp] theorem State.modBarrier_timestamp (b : Nat) (f : Barrier → Barrier) : (s.modBarrier b f).timestamp = s.timestamp := rfl
@[simp] theorem State.modBarrier_draws (b : Nat) (f : Barrier → Barrier) : (s.modBarrier b f).draws = s.draws := rfl

/-! ### `State.putTally` -/

@[simp] theorem State.putTally_pending (t : Tally) : (s.putTally t).pending = s.pending := rfl
@[simp] theorem State.putTally_ident (t : Tally) : (s.putTally t).ident = s.ident := rfl
@[simp] theorem State.putTally_cap (t : Tally) : (s.putTally t).cap = s.cap := rfl
@[simp] theorem State.putTally_startUp (t : Tally) : (s.putTally t).startUp = s.startUp := rfl
@[simp] theorem State.putTally_dict (t : Tally) : (s.putTally t).dict = s.dict := rfl
@[simp] theorem State.putTally_mgmt (t : Tally) : (s.putTally t).mgmt = s.mgmt := rfl
@[simp] theorem State.putTally_t2 (t : Tally) : (s.putTally t).t2 = s.t2 := rfl
@[simp] theorem State.putTally_link (t : Tally) : (s.putTally t).link = s.link := rfl
@[simp] theorem State.putTally_layers (t : Tally) : (s.putTally t).layers = s.layers := rfl
@[simp] theorem State.putTally_ports (t : Tally) : (s.putTally t).ports = s.ports := rfl
@[simp] theorem State.putTally_inbox (t : Tally) : (s.putTally t).inbox = s.inbox := rfl
@[simp] theorem State.putTally_sent (t : Tally) : (s.putTally t).sent = s.sent := rfl
@[simp] theorem State.putTally_cmdRings (t : Tally) : (s.putTally t).cmdRings = s.cmdRings := rfl
@[simp] theorem State.putTally_cqRings (t : Tally) : (s.putTally t).cqRings = s.cqRings := rfl
@[simp] theorem State.putTally_running (t : Tally) : (s.putTally t).running = s.running := rfl
@[simp] theorem State.putTally_job (t : Tally) : (s.putTally t).job = s.job := rfl
@[simp] theorem State.putTally_tenants (t : Tally) : (s.putTally t).tenants = s.tenants := rfl
@[simp] theorem State.putTally_areas (t : Tally) : (s.putTally t).areas = s.areas := rfl
@[simp] theorem State.putTally_slots (t : Tally) : (s.putTally t).slots = s.slots := rfl
@[simp] theorem State.putTally_partitions (t : Tally) : (s.putTally t).partitions = s.partitions := rfl
@[simp] theorem State.putTally_images (t : Tally) : (s.putTally t).images = s.images := rfl
@[simp] theorem State.putTally_sheaf (t : Tally) : (s.putTally t).sheaf = s.sheaf := rfl
@[simp] theorem State.putTally_grammars (t : Tally) : (s.putTally t).grammars = s.grammars := rfl
@[simp] theorem State.putTally_grammarSerial (t : Tally) : (s.putTally t).grammarSerial = s.grammarSerial := rfl
@[simp] theorem State.putTally_templates (t : Tally) : (s.putTally t).templates = s.templates := rfl
@[simp] theorem State.putTally_stores (t : Tally) : (s.putTally t).stores = s.stores := rfl
@[simp] theorem State.putTally_models (t : Tally) : (s.putTally t).models = s.models := rfl
@[simp] theorem State.putTally_granary (t : Tally) : (s.putTally t).granary = s.granary := rfl
@[simp] theorem State.putTally_step (t : Tally) : (s.putTally t).step = s.step := rfl
@[simp] theorem State.putTally_front (t : Tally) : (s.putTally t).front = s.front := rfl
@[simp] theorem State.putTally_epochs (t : Tally) : (s.putTally t).epochs = s.epochs := rfl
@[simp] theorem State.putTally_tiers (t : Tally) : (s.putTally t).tiers = s.tiers := rfl
@[simp] theorem State.putTally_cores (t : Tally) : (s.putTally t).cores = s.cores := rfl
@[simp] theorem State.putTally_part (t : Tally) : (s.putTally t).part = s.part := rfl
@[simp] theorem State.putTally_faults (t : Tally) : (s.putTally t).faults = s.faults := rfl
@[simp] theorem State.putTally_causes (t : Tally) : (s.putTally t).causes = s.causes := rfl
@[simp] theorem State.putTally_power (t : Tally) : (s.putTally t).power = s.power := rfl
@[simp] theorem State.putTally_channels (t : Tally) : (s.putTally t).channels = s.channels := rfl
@[simp] theorem State.putTally_deadlineFirst (t : Tally) : (s.putTally t).deadlineFirst = s.deadlineFirst := rfl
@[simp] theorem State.putTally_pairing (t : Tally) : (s.putTally t).pairing = s.pairing := rfl
@[simp] theorem State.putTally_timestamp (t : Tally) : (s.putTally t).timestamp = s.timestamp := rfl
@[simp] theorem State.putTally_draws (t : Tally) : (s.putTally t).draws = s.draws := rfl

/-! ### `State.countTallyOp` -/

@[simp] theorem State.countTallyOp_pending : (s.countTallyOp).pending = s.pending := rfl
@[simp] theorem State.countTallyOp_ident : (s.countTallyOp).ident = s.ident := rfl
@[simp] theorem State.countTallyOp_cap : (s.countTallyOp).cap = s.cap := rfl
@[simp] theorem State.countTallyOp_startUp : (s.countTallyOp).startUp = s.startUp := rfl
@[simp] theorem State.countTallyOp_dict : (s.countTallyOp).dict = s.dict := rfl
@[simp] theorem State.countTallyOp_mgmt : (s.countTallyOp).mgmt = s.mgmt := rfl
@[simp] theorem State.countTallyOp_t2 : (s.countTallyOp).t2 = s.t2 := rfl
@[simp] theorem State.countTallyOp_link : (s.countTallyOp).link = s.link := rfl
@[simp] theorem State.countTallyOp_layers : (s.countTallyOp).layers = s.layers := rfl
@[simp] theorem State.countTallyOp_ports : (s.countTallyOp).ports = s.ports := rfl
@[simp] theorem State.countTallyOp_inbox : (s.countTallyOp).inbox = s.inbox := rfl
@[simp] theorem State.countTallyOp_sent : (s.countTallyOp).sent = s.sent := rfl
@[simp] theorem State.countTallyOp_cmdRings : (s.countTallyOp).cmdRings = s.cmdRings := rfl
@[simp] theorem State.countTallyOp_cqRings : (s.countTallyOp).cqRings = s.cqRings := rfl
@[simp] theorem State.countTallyOp_running : (s.countTallyOp).running = s.running := rfl
@[simp] theorem State.countTallyOp_job : (s.countTallyOp).job = s.job := rfl
@[simp] theorem State.countTallyOp_tenants : (s.countTallyOp).tenants = s.tenants := rfl
@[simp] theorem State.countTallyOp_areas : (s.countTallyOp).areas = s.areas := rfl
@[simp] theorem State.countTallyOp_slots : (s.countTallyOp).slots = s.slots := rfl
@[simp] theorem State.countTallyOp_partitions : (s.countTallyOp).partitions = s.partitions := rfl
@[simp] theorem State.countTallyOp_images : (s.countTallyOp).images = s.images := rfl
@[simp] theorem State.countTallyOp_sheaf : (s.countTallyOp).sheaf = s.sheaf := rfl
@[simp] theorem State.countTallyOp_grammars : (s.countTallyOp).grammars = s.grammars := rfl
@[simp] theorem State.countTallyOp_grammarSerial : (s.countTallyOp).grammarSerial = s.grammarSerial := rfl
@[simp] theorem State.countTallyOp_templates : (s.countTallyOp).templates = s.templates := rfl
@[simp] theorem State.countTallyOp_stores : (s.countTallyOp).stores = s.stores := rfl
@[simp] theorem State.countTallyOp_models : (s.countTallyOp).models = s.models := rfl
@[simp] theorem State.countTallyOp_granary : (s.countTallyOp).granary = s.granary := rfl
@[simp] theorem State.countTallyOp_step : (s.countTallyOp).step = s.step := rfl
@[simp] theorem State.countTallyOp_front : (s.countTallyOp).front = s.front := rfl
@[simp] theorem State.countTallyOp_epochs : (s.countTallyOp).epochs = s.epochs := rfl
@[simp] theorem State.countTallyOp_tiers : (s.countTallyOp).tiers = s.tiers := rfl
@[simp] theorem State.countTallyOp_cores : (s.countTallyOp).cores = s.cores := rfl
@[simp] theorem State.countTallyOp_part : (s.countTallyOp).part = s.part := rfl
@[simp] theorem State.countTallyOp_faults : (s.countTallyOp).faults = s.faults := rfl
@[simp] theorem State.countTallyOp_causes : (s.countTallyOp).causes = s.causes := rfl
@[simp] theorem State.countTallyOp_power : (s.countTallyOp).power = s.power := rfl
@[simp] theorem State.countTallyOp_channels : (s.countTallyOp).channels = s.channels := rfl
@[simp] theorem State.countTallyOp_deadlineFirst : (s.countTallyOp).deadlineFirst = s.deadlineFirst := rfl
@[simp] theorem State.countTallyOp_pairing : (s.countTallyOp).pairing = s.pairing := rfl
@[simp] theorem State.countTallyOp_timestamp : (s.countTallyOp).timestamp = s.timestamp := rfl
@[simp] theorem State.countTallyOp_draws : (s.countTallyOp).draws = s.draws := rfl

/-! ### `State.putVcore` -/

@[simp] theorem State.putVcore_pending (vc : Nat) (c : VCore) : (s.putVcore vc c).pending = s.pending := rfl
@[simp] theorem State.putVcore_ident (vc : Nat) (c : VCore) : (s.putVcore vc c).ident = s.ident := rfl
@[simp] theorem State.putVcore_cap (vc : Nat) (c : VCore) : (s.putVcore vc c).cap = s.cap := rfl
@[simp] theorem State.putVcore_startUp (vc : Nat) (c : VCore) : (s.putVcore vc c).startUp = s.startUp := rfl
@[simp] theorem State.putVcore_dict (vc : Nat) (c : VCore) : (s.putVcore vc c).dict = s.dict := rfl
@[simp] theorem State.putVcore_mgmt (vc : Nat) (c : VCore) : (s.putVcore vc c).mgmt = s.mgmt := rfl
@[simp] theorem State.putVcore_t2 (vc : Nat) (c : VCore) : (s.putVcore vc c).t2 = s.t2 := rfl
@[simp] theorem State.putVcore_link (vc : Nat) (c : VCore) : (s.putVcore vc c).link = s.link := rfl
@[simp] theorem State.putVcore_layers (vc : Nat) (c : VCore) : (s.putVcore vc c).layers = s.layers := rfl
@[simp] theorem State.putVcore_ports (vc : Nat) (c : VCore) : (s.putVcore vc c).ports = s.ports := rfl
@[simp] theorem State.putVcore_inbox (vc : Nat) (c : VCore) : (s.putVcore vc c).inbox = s.inbox := rfl
@[simp] theorem State.putVcore_sent (vc : Nat) (c : VCore) : (s.putVcore vc c).sent = s.sent := rfl
@[simp] theorem State.putVcore_cmdRings (vc : Nat) (c : VCore) : (s.putVcore vc c).cmdRings = s.cmdRings := rfl
@[simp] theorem State.putVcore_cqRings (vc : Nat) (c : VCore) : (s.putVcore vc c).cqRings = s.cqRings := rfl
@[simp] theorem State.putVcore_running (vc : Nat) (c : VCore) : (s.putVcore vc c).running = s.running := rfl
@[simp] theorem State.putVcore_job (vc : Nat) (c : VCore) : (s.putVcore vc c).job = s.job := rfl
@[simp] theorem State.putVcore_tenants (vc : Nat) (c : VCore) : (s.putVcore vc c).tenants = s.tenants := rfl
@[simp] theorem State.putVcore_areas (vc : Nat) (c : VCore) : (s.putVcore vc c).areas = s.areas := rfl
@[simp] theorem State.putVcore_slots (vc : Nat) (c : VCore) : (s.putVcore vc c).slots = s.slots := rfl
@[simp] theorem State.putVcore_partitions (vc : Nat) (c : VCore) : (s.putVcore vc c).partitions = s.partitions := rfl
@[simp] theorem State.putVcore_images (vc : Nat) (c : VCore) : (s.putVcore vc c).images = s.images := rfl
@[simp] theorem State.putVcore_sheaf (vc : Nat) (c : VCore) : (s.putVcore vc c).sheaf = s.sheaf := rfl
@[simp] theorem State.putVcore_grammars (vc : Nat) (c : VCore) : (s.putVcore vc c).grammars = s.grammars := rfl
@[simp] theorem State.putVcore_grammarSerial (vc : Nat) (c : VCore) : (s.putVcore vc c).grammarSerial = s.grammarSerial := rfl
@[simp] theorem State.putVcore_templates (vc : Nat) (c : VCore) : (s.putVcore vc c).templates = s.templates := rfl
@[simp] theorem State.putVcore_stores (vc : Nat) (c : VCore) : (s.putVcore vc c).stores = s.stores := rfl
@[simp] theorem State.putVcore_models (vc : Nat) (c : VCore) : (s.putVcore vc c).models = s.models := rfl
@[simp] theorem State.putVcore_granary (vc : Nat) (c : VCore) : (s.putVcore vc c).granary = s.granary := rfl
@[simp] theorem State.putVcore_step (vc : Nat) (c : VCore) : (s.putVcore vc c).step = s.step := rfl
@[simp] theorem State.putVcore_front (vc : Nat) (c : VCore) : (s.putVcore vc c).front = s.front := rfl
@[simp] theorem State.putVcore_epochs (vc : Nat) (c : VCore) : (s.putVcore vc c).epochs = s.epochs := rfl
@[simp] theorem State.putVcore_tiers (vc : Nat) (c : VCore) : (s.putVcore vc c).tiers = s.tiers := rfl
@[simp] theorem State.putVcore_sync (vc : Nat) (c : VCore) : (s.putVcore vc c).sync = s.sync := rfl
@[simp] theorem State.putVcore_part (vc : Nat) (c : VCore) : (s.putVcore vc c).part = s.part := rfl
@[simp] theorem State.putVcore_faults (vc : Nat) (c : VCore) : (s.putVcore vc c).faults = s.faults := rfl
@[simp] theorem State.putVcore_causes (vc : Nat) (c : VCore) : (s.putVcore vc c).causes = s.causes := rfl
@[simp] theorem State.putVcore_power (vc : Nat) (c : VCore) : (s.putVcore vc c).power = s.power := rfl
@[simp] theorem State.putVcore_channels (vc : Nat) (c : VCore) : (s.putVcore vc c).channels = s.channels := rfl
@[simp] theorem State.putVcore_deadlineFirst (vc : Nat) (c : VCore) : (s.putVcore vc c).deadlineFirst = s.deadlineFirst := rfl
@[simp] theorem State.putVcore_pairing (vc : Nat) (c : VCore) : (s.putVcore vc c).pairing = s.pairing := rfl
@[simp] theorem State.putVcore_timestamp (vc : Nat) (c : VCore) : (s.putVcore vc c).timestamp = s.timestamp := rfl
@[simp] theorem State.putVcore_draws (vc : Nat) (c : VCore) : (s.putVcore vc c).draws = s.draws := rfl

/-! ### `State.modVcore` -/

@[simp] theorem State.modVcore_pending (vc : Nat) (f : VCore → VCore) : (s.modVcore vc f).pending = s.pending := rfl
@[simp] theorem State.modVcore_ident (vc : Nat) (f : VCore → VCore) : (s.modVcore vc f).ident = s.ident := rfl
@[simp] theorem State.modVcore_cap (vc : Nat) (f : VCore → VCore) : (s.modVcore vc f).cap = s.cap := rfl
@[simp] theorem State.modVcore_startUp (vc : Nat) (f : VCore → VCore) : (s.modVcore vc f).startUp = s.startUp := rfl
@[simp] theorem State.modVcore_dict (vc : Nat) (f : VCore → VCore) : (s.modVcore vc f).dict = s.dict := rfl
@[simp] theorem State.modVcore_mgmt (vc : Nat) (f : VCore → VCore) : (s.modVcore vc f).mgmt = s.mgmt := rfl
@[simp] theorem State.modVcore_t2 (vc : Nat) (f : VCore → VCore) : (s.modVcore vc f).t2 = s.t2 := rfl
@[simp] theorem State.modVcore_link (vc : Nat) (f : VCore → VCore) : (s.modVcore vc f).link = s.link := rfl
@[simp] theorem State.modVcore_layers (vc : Nat) (f : VCore → VCore) : (s.modVcore vc f).layers = s.layers := rfl
@[simp] theorem State.modVcore_ports (vc : Nat) (f : VCore → VCore) : (s.modVcore vc f).ports = s.ports := rfl
@[simp] theorem State.modVcore_inbox (vc : Nat) (f : VCore → VCore) : (s.modVcore vc f).inbox = s.inbox := rfl
@[simp] theorem State.modVcore_sent (vc : Nat) (f : VCore → VCore) : (s.modVcore vc f).sent = s.sent := rfl
@[simp] theorem State.modVcore_cmdRings (vc : Nat) (f : VCore → VCore) : (s.modVcore vc f).cmdRings = s.cmdRings := rfl
@[simp] theorem State.modVcore_cqRings (vc : Nat) (f : VCore → VCore) : (s.modVcore vc f).cqRings = s.cqRings := rfl
@[simp] theorem State.modVcore_running (vc : Nat) (f : VCore → VCore) : (s.modVcore vc f).running = s.running := rfl
@[simp] theorem State.modVcore_job (vc : Nat) (f : VCore → VCore) : (s.modVcore vc f).job = s.job := rfl
@[simp] theorem State.modVcore_tenants (vc : Nat) (f : VCore → VCore) : (s.modVcore vc f).tenants = s.tenants := rfl
@[simp] theorem State.modVcore_areas (vc : Nat) (f : VCore → VCore) : (s.modVcore vc f).areas = s.areas := rfl
@[simp] theorem State.modVcore_slots (vc : Nat) (f : VCore → VCore) : (s.modVcore vc f).slots = s.slots := rfl
@[simp] theorem State.modVcore_partitions (vc : Nat) (f : VCore → VCore) : (s.modVcore vc f).partitions = s.partitions := rfl
@[simp] theorem State.modVcore_images (vc : Nat) (f : VCore → VCore) : (s.modVcore vc f).images = s.images := rfl
@[simp] theorem State.modVcore_sheaf (vc : Nat) (f : VCore → VCore) : (s.modVcore vc f).sheaf = s.sheaf := rfl
@[simp] theorem State.modVcore_grammars (vc : Nat) (f : VCore → VCore) : (s.modVcore vc f).grammars = s.grammars := rfl
@[simp] theorem State.modVcore_grammarSerial (vc : Nat) (f : VCore → VCore) : (s.modVcore vc f).grammarSerial = s.grammarSerial := rfl
@[simp] theorem State.modVcore_templates (vc : Nat) (f : VCore → VCore) : (s.modVcore vc f).templates = s.templates := rfl
@[simp] theorem State.modVcore_stores (vc : Nat) (f : VCore → VCore) : (s.modVcore vc f).stores = s.stores := rfl
@[simp] theorem State.modVcore_models (vc : Nat) (f : VCore → VCore) : (s.modVcore vc f).models = s.models := rfl
@[simp] theorem State.modVcore_granary (vc : Nat) (f : VCore → VCore) : (s.modVcore vc f).granary = s.granary := rfl
@[simp] theorem State.modVcore_step (vc : Nat) (f : VCore → VCore) : (s.modVcore vc f).step = s.step := rfl
@[simp] theorem State.modVcore_front (vc : Nat) (f : VCore → VCore) : (s.modVcore vc f).front = s.front := rfl
@[simp] theorem State.modVcore_epochs (vc : Nat) (f : VCore → VCore) : (s.modVcore vc f).epochs = s.epochs := rfl
@[simp] theorem State.modVcore_tiers (vc : Nat) (f : VCore → VCore) : (s.modVcore vc f).tiers = s.tiers := rfl
@[simp] theorem State.modVcore_sync (vc : Nat) (f : VCore → VCore) : (s.modVcore vc f).sync = s.sync := rfl
@[simp] theorem State.modVcore_part (vc : Nat) (f : VCore → VCore) : (s.modVcore vc f).part = s.part := rfl
@[simp] theorem State.modVcore_faults (vc : Nat) (f : VCore → VCore) : (s.modVcore vc f).faults = s.faults := rfl
@[simp] theorem State.modVcore_causes (vc : Nat) (f : VCore → VCore) : (s.modVcore vc f).causes = s.causes := rfl
@[simp] theorem State.modVcore_power (vc : Nat) (f : VCore → VCore) : (s.modVcore vc f).power = s.power := rfl
@[simp] theorem State.modVcore_channels (vc : Nat) (f : VCore → VCore) : (s.modVcore vc f).channels = s.channels := rfl
@[simp] theorem State.modVcore_deadlineFirst (vc : Nat) (f : VCore → VCore) : (s.modVcore vc f).deadlineFirst = s.deadlineFirst := rfl
@[simp] theorem State.modVcore_pairing (vc : Nat) (f : VCore → VCore) : (s.modVcore vc f).pairing = s.pairing := rfl
@[simp] theorem State.modVcore_timestamp (vc : Nat) (f : VCore → VCore) : (s.modVcore vc f).timestamp = s.timestamp := rfl
@[simp] theorem State.modVcore_draws (vc : Nat) (f : VCore → VCore) : (s.modVcore vc f).draws = s.draws := rfl

end Sys2Proof.Machine
end

