-- ==== Sys2Proof/Laws/Vcore.lean ====
section
/-!
SUPPORT. Virtual cores by number: what a read gives after a write, and the scalar registers (R203, R206). Proofs
about the core instructions cite these lemmas and unfold no sort.
-/

-- Each worker thread reserves stack of its own: proofs run one after another, to bound memory.
set_option Elab.async false

namespace Sys2Proof.Machine

/-- The order in which virtual cores are kept. -/
abbrev coreLe (a b : Nat × VCore) : Bool := decide (a.1 ≤ b.1)

theorem find_insertBy (x : Nat × VCore) (l : List (Nat × VCore)) (n : Nat) :
    (insertBy coreLe x l).find? (fun c => c.1 == n) =
      if x.1 = n then some x else l.find? (fun c => c.1 == n) := by
  induction l with
  | nil => by_cases hx : x.1 = n <;> simp [insertBy, hx]
  | cons y ys ih =>
    unfold insertBy
    split
    · by_cases hx : x.1 = n
      · rw [List.find?_cons_of_pos (by simp [hx]), if_pos hx]
      · rw [List.find?_cons_of_neg (by simp [hx]), if_neg hx]
    · rename_i hle
      by_cases hx : x.1 = n
      · have hy : y.1 ≠ n := fun e => hle (by simp [coreLe, hx, e])
        rw [List.find?_cons_of_neg (by simp [hy]), ih, if_pos hx, if_pos hx]
      · by_cases hy : y.1 = n
        · rw [List.find?_cons_of_pos (by simp [hy]), if_neg hx, List.find?_cons_of_pos (by simp [hy])]
        · rw [List.find?_cons_of_neg (by simp [hy]), ih, if_neg hx, if_neg hx,
            List.find?_cons_of_neg (by simp [hy])]

/-- Sorting changes no lookup. -/
theorem find_sortBy (l : List (Nat × VCore)) (n : Nat) :
    (sortBy coreLe l).find? (fun c => c.1 == n) = l.find? (fun c => c.1 == n) := by
  induction l with
  | nil => rfl
  | cons x xs ih =>
    have hs : sortBy coreLe (x :: xs) = insertBy coreLe x (sortBy coreLe xs) := rfl
    rw [hs, find_insertBy, ih]
    by_cases hx : x.1 = n
    · rw [if_pos hx, List.find?_cons_of_pos (by simp [hx])]
    · rw [if_neg hx, List.find?_cons_of_neg (by simp [hx])]

variable (s : State) (vc n : Nat) (c : VCore)

theorem vcore?_putVcore : (s.putVcore vc c).vcore? n = if n = vc then some c else s.vcore? n := by
  have h : (s.putVcore vc c).vcore? n =
      ((sortBy coreLe ((vc, c) :: s.cores.vcores.filter (fun e => e.1 != vc))).find?
        (fun e => e.1 == n)).map (·.2) := rfl
  rw [h, find_sortBy]
  by_cases hn : n = vc
  · subst hn
    rw [List.find?_cons_of_pos (by simp), if_pos rfl]; rfl
  · rw [List.find?_cons_of_neg (by simp [Ne.symm hn]), if_neg hn]
    unfold State.vcore?
    congr 1
    induction s.cores.vcores with
    | nil => rfl
    | cons y ys ih =>
      by_cases hy : y.1 = n
      · rw [List.filter_cons_of_pos (by simp [hy, hn]), List.find?_cons_of_pos (by simp [hy]),
          List.find?_cons_of_pos (by simp [hy])]
      · rw [List.find?_cons_of_neg (by simp [hy])]
        by_cases hv : y.1 = vc
        · rw [List.filter_cons_of_neg (by simp [hv]), ih]
        · rw [List.filter_cons_of_pos (by simp [hv]), List.find?_cons_of_neg (by simp [hy]), ih]

@[simp] theorem vcore?_putVcore_same : (s.putVcore vc c).vcore? vc = some c := by simp [vcore?_putVcore]

@[simp] theorem vcore_putVcore_same : (s.putVcore vc c).vcore vc = c := by simp [State.vcore]

theorem vcore?_putVcore_other (h : n ≠ vc) : (s.putVcore vc c).vcore? n = s.vcore? n := by
  simp [vcore?_putVcore, h]

/-- A second write to a virtual core shows at once. -/
@[simp] theorem vcore_modVcore_same (f : VCore → VCore) : (s.modVcore vc f).vcore vc = f (s.vcore vc) := by
  simp [State.modVcore]

theorem vcore?_modVcore_other (f : VCore → VCore) (h : n ≠ vc) :
    (s.modVcore vc f).vcore? n = s.vcore? n := vcore?_putVcore_other s vc n _ h

/-! ### Scalar registers -/

/-- s0 reads zero; a register written reads its new value, and the others keep theirs. -/
theorem reg_putReg (i : Nat) (v : U64) (h : n < 32) :
    (c.putReg i v).reg n = if n = 0 then 0 else if n = i then v else c.reg n := by
  unfold VCore.reg VCore.putReg
  by_cases hn : n = 0
  · simp [hn]
  · by_cases hi : i = 0
    · have : ¬ n = i := fun e => hn (e.trans hi)
      rw [if_neg hn, if_neg hn, if_neg this, if_neg hn, if_pos hi]
    · rw [if_neg hn, if_neg hn, if_neg hi, if_neg hn, vGet_vMod]
      by_cases he : n = i
      · subst he; simp [h]
      · rw [if_neg (fun e => he e.1.symm), if_neg he]

/-! ### Issue -/

/-- A word that may issue does what its instruction does, past the program counter. -/
theorem issue_eq {w : CoreWord} {is : Bool} {f : VCore → State → State} {s : State} {vc : Nat} {c : VCore}
    (h : s.vcore? vc = some c) (hr : s.coresRun = true) (hi : is = true) (hw : c.wait = .none)
    (hc : c.code[c.pc]? = some w) (ht : s.hasCore vc = true) (hf : s.interlocked vc c w = false) :
    s.issue vc w is f = f c (s.passed vc c) := by
  simp [State.issue, h, hr, hi, hw, hc, ht, hf]

/-- Past an instruction, the virtual core's entry is its program counter's advance alone. -/
@[simp] theorem vcore?_passed_same : (s.passed vc c).vcore? vc = some { c with pc := c.pc + 1 } :=
  vcore?_putVcore_same s vc { c with pc := c.pc + 1 }

theorem vcore?_passed_other (h : n ≠ vc) : (s.passed vc c).vcore? n = s.vcore? n :=
  vcore?_putVcore_other s vc n { c with pc := c.pc + 1 } h

/-- While the cores do not run, nothing issues. -/
theorem issue_stopped {w : CoreWord} {is : Bool} {f : VCore → State → State} {s : State} {vc : Nat}
    (h : s.coresRun = false) : s.issue vc w is f = s := by
  unfold State.issue
  split <;> simp [h]

end Sys2Proof.Machine
end

