-- ==== Sys2Proof/Tests/Slice0.lean ====
section
/-!
SUPPORT. Tests: ill-formed commands are refused by `Instr.wf`; each statement's hypotheses can be met; single
steps checked against the spec's own figures.
-/

-- Each worker thread reserves stack of its own: proofs run one after another, to bound memory.
set_option Elab.async false

namespace Sys2Proof.Tests

open Sys2Proof Sys2Proof.Machine

/-! ### Ill-formed commands -/

/-- A record of ring `n`, all zero but for its ring. -/
def zeroRecord (n : Nat) : Record := ⟨n, 0⟩

theorem test_wf_snpInv : (Instr.snpInv 0 1).wf = false := by decide
theorem test_wf_winRd : (Instr.winRd 0 32).wf = false := by decide
theorem test_wf_winWr : (Instr.winWr 0 1 0).wf = false := by decide
theorem test_wf_recordStart : (Instr.recordStart 64).wf = false := by decide
theorem test_wf_record : (Instr.search (zeroRecord 64)).wf = false := by decide
theorem test_wf_generationSwitch_slot : (Instr.generationSwitch 16 0).wf = false := by decide
theorem test_wf_generationSwitch_tenant : (Instr.generationSwitch 0 4096).wf = false := by decide
theorem test_wf_windowFill : (Instr.windowFill 16 0 none).wf = false := by decide
theorem test_wf_windowFill_offset : (Instr.windowFill 0 0 (some (65536, 0))).wf = false := by decide
theorem test_wf_tallyTimeout_tally : (Instr.tallyTimeout 65536 0 0).wf = false := by decide
theorem test_wf_tallyTimeout_ring : (Instr.tallyTimeout 0 64 0).wf = false := by decide
theorem test_wf_core : (Instr.mma 64 0).wf = false := by decide
theorem test_wf_mark : (Instr.writtenThroughMark 64).wf = false := by decide
theorem test_wf_route : (Instr.factoryReset 2).wf = false := by decide
theorem test_wf_ringEnable : (Instr.commandRingEnable 0 64 1).wf = false := by decide
theorem test_wf_objectIndex : (Instr.dictionaryWrite 0 65536 1 0).wf = false := by decide
theorem test_wf_objectSub : (Instr.dictionaryCommit 0x1100 256).wf = false := by decide
theorem test_wf_frame : (Instr.dictionaryFrame ⟨0, 0, 0, false, true, List.replicate 1501 0⟩).wf = false := by
  decide +kernel
theorem test_wf_stickyClear : (Instr.stickyClear 0 3 0).wf = false := by decide
theorem test_wf_peerPortEnable : (Instr.peerPortEnable 0 8 1).wf = false := by decide
theorem test_wf_faultSource : (Instr.faultSourceAssert 94 .quiet).wf = false := by decide
theorem test_wf_flit_link : (Instr.flit 9 ⟨List.replicate 272 0, true, 0⟩).wf = false := by decide +kernel
theorem test_wf_flit_length : (Instr.flit 0 ⟨[], true, 0⟩).wf = false := by decide
theorem test_wf_ackInterval : (Instr.acknowledgeInterval 9).wf = false := by decide
theorem test_wf_laneFailure : (Instr.laneFailure 9 0).wf = false := by decide
theorem test_wf_port : (Instr.peerPortDown 8).wf = false := by decide
theorem test_wf_rank : (Instr.barrierArrival 0 4096 ⟨0, 0, 0, false, 0, []⟩).wf = false := by decide
theorem test_wf_barrierTimeout : (Instr.barrierTimeout 64).wf = false := by decide
theorem test_wf_quadrant : (Instr.droopDetection 4).wf = false := by decide
theorem test_wf_package : (Instr.lpddr6Hot 24).wf = false := by decide
theorem test_wf_channel : (Instr.refresh 192).wf = false := by decide
theorem test_wf_debugSram : (Instr.debugPortAccess ⟨true, .write (.sram 0 8388608) 0⟩).wf = false := by decide
theorem test_wf_debugReg : (Instr.debugPortAccess ⟨true, .read (.reg 0 32)⟩).wf = false := by decide
theorem test_wf_debugLoft : (Instr.debugPortAccess ⟨true, .read (.loft 4 0)⟩).wf = false := by decide

/-- What a start-up of a whole board finds. -/
def wholeBoard : Found :=
  { romOk := true, spBoot := 0, mainBoot := 0, bypass := Vector.replicate 64 0,
    badArrays := Vector.replicate 64 0, failed := [], mismatch := [], pattern := [], crossbars := 15,
    engines := 0xFFFF, threshers := 3, peerPorts := 255, ms := 100, seed := 1 }

theorem test_wf_found : (Instr.startUpStage { wholeBoard with failed := [192] }).wf = false := by decide
theorem test_wf_found_slot : (Instr.startUpStage { wholeBoard with mainBoot := 3 }).wf = false := by decide
theorem test_wf_whole : (Instr.startUpStage wholeBoard).wf = true := by decide

/-! ### A module that serves -/

/-- A record of ring 0: opcode, tenant, handle, and operand fields (offset, bytes, value). -/
def rec (op tenant : Nat) (handle : Nat) (fields : List (Nat × Nat × Nat)) : Record :=
  ⟨0, ([(0, 2, op), (2, 2, tenant), (4, 4, 1), (8, 8, handle)] ++ fields).foldl
    (fun (x : Line) (f : Nat × Nat × Nat) => setField x f.1 f.2.1 f.2.2) 0⟩

/-- A handle of tenant 1. -/
def own (n : Nat) : Nat := 0x1000000000 + n

def tenantOne : Tenant := Tenant.fresh 1 4 false 0xFFFFFFFF 1000 (1048576, 1048576, 1048576)

/-- A vocabulary of one token. -/
def vocabOne : Vocab :=
  { byteLevel := true, size := 4, byteBase := 0, eos := 3, tokens := List.replicate 4 ([65], false), merges := [],
    chars := [], splitter := List.replicate 256 (0, false), digest := 0 }

/-- Model `n`, version 1, of tenant 1 and current, with a role. -/
def versionOne (n role : Nat) : Version :=
  { model := n, version := 1, owner := 1, shared := false, state := 3, role := role, draftMax := 0, maxLen := 4096,
    outDim := 64, outTokens := 4, bales := 1, params := 0, safeguard := 0, layers := [], tensors := [],
    weights := [], attention := [], bias := [], programs := [], staging := [], vocab := some vocabOne,
    embedTable := none, pinned := false, digest := 0 }

/-- A session of tenant 1 on model 1. -/
def sessionIn (n state : Nat) : Session :=
  { Session.blank (BitVec.ofNat 64 (own n)) with
    state := state, model := 1, version := 1, maxLen := 4096, length := 2, pending := some 0 }

def slotReady : IndexSlot :=
  { IndexSlot.empty with
    state := 2, owner := 1, dim := 64, format := 1, metric := 0, homeBits := 12, probes := 8, k := 10,
    exactBelow := 1000, bucketTarget := 256, deltaMax := 65536 }

def tableOne : Table :=
  { Table.blank with number := 1, owner := 1, rows := 16, width := 32, format := 3, flags := 1 }

def grammarOne : Grammar :=
  { number := 1, serial := 1, owner := 1, shared := false, states := [([], true)], start := 0, digest := 0,
    bales := 1, dropped := false }

def templateOne : Template :=
  { number := 1, owner := 1, shared := false, vocab := 4, items := [⟨0, 0, 0, 0, 0, 0, [1, 2], 0⟩], digest := 0,
    bales := 1 }

/-- Capability of a whole board. -/
def wholeCap : Capability :=
  { Capability.reset with
    quadrants := 15, engines := 0xFFFF, threshers := 3, linkLanes := 0xFFFF, peerPorts := 255, t1Gib := 768,
    rate := 100, base := true }

/-- The default job, the coherent link up, ring 0 of the module, tenant 1 and one object of every kind. -/
def served : State :=
  { State.reset with
    cap := wholeCap, startUp := { StartUp.reset with stage := 7 }, tiers := { Tiers.reset with mode := 3 },
    link := { CohLink.reset with state := 2, width := 16, lanesOk := 0xFFFF, t2Size := 0x40000000 },
    dict := { Dict.reset with settings := [((0x1140, 6), 0xFFFF)] },
    cmdRings := (Vector.replicate 64 CmdRing.reset).set 0 { CmdRing.reset with enabled := true },
    cqRings := (Vector.replicate 64 CqRing.reset).set 0 { CqRing.reset with enabled := true },
    job := { Job.reset with state := 1, ranks := 2 }, tenants := [tenantOne],
    slots := (Vector.replicate 16 IndexSlot.empty).set 2 slotReady,
    sheaf := { Sheaf.reset with tables := [tableOne] },
    grammars := [grammarOne], templates := [templateOne], stores := [⟨2, 1, [], 0, 1⟩],
    models := { Models.reset with versions := [versionOne 1 0, versionOne 2 1] },
    granary := { Granary.reset with
                 directory := [sessionIn 1 1, sessionIn 2 2, sessionIn 3 3, sessionIn 4 4, sessionIn 7 7] } }

/-- Images and operands in companion memory. -/
def imagesAt : Mem :=
  -- a parameter block at 0x100040: one token, top_p 1.0
  let m := writeBytes (writeBytes (writeBytes [] 0x100040 [1]) 0x100048 [0, 0, 0x80, 0x3F]) 0x10006C
    [0xFF, 0xFF, 0xFF, 0xFF]
  -- a model image of one bale with the three required sections, all of no bytes
  let m := writeBytes m 0x200000 [0x10, 0, 0, 0, 0, 16, 0, 0, 0, 0, 3, 0, 1]
  let m := writeBytes (writeBytes m 0x200040 [0x11]) 0x200048 [192]
  let m := writeBytes (writeBytes m 0x200060 [0x12]) 0x200068 [0, 0, 1]
  let m := writeBytes (writeBytes m 0x200080 [0x15]) 0x200088 [192]
  -- a grammar of one state, a template of one literal item, a store of no passages, a manifest of one tenant
  let m := writeBytes m 0x300000 [0x60, 0, 0, 0, 1]
  let m := writeBytes m 0x301000 [0x40, 0, 1]
  let m := writeBytes m 0x302000 [0x50]
  let m := writeBytes m 0x303000 [0x90, 0, 1, 0, 0, 0, 1, 0]
  let m := writeBytes m 0x303040 [1, 0, 0, 0, 0, 0, 0, 0, 1]
  -- a REQUEST descriptor at 0x304000: index slot 2, embedder model 2, template 1
  let m := writeBytes m 0x304000 [2, 0, 0, 0, 0x10, 0, 0, 0, 0, 0, 2, 0, 0x10, 0, 0, 0]
  let m := writeBytes m 0x304018 [1, 0, 0, 0, 0x10]
  let m := writeBytes m 0x304028 [1, 0, 0, 0, 1, 0, 0, 0, 1]
  let m := writeBytes m 0x304054 [64]
  let m := writeBytes m 0x30405E [64]
  let m := writeBytes m 0x304080 [1]
  let m := writeBytes m 0x304088 [0, 0, 0x80, 0x3F]
  writeBytes (writeBytes m 0x3040AC [0xFF, 0xFF, 0xFF, 0xFF]) 0x180000 [0x38]

/-- `served` with companion memory. -/
def supplied : State := { served with t2 := imagesAt }

def model1 : Nat := own 0x10000
def model2 : Nat := own 0x20000

def withTally (v : U64) (o : Option Nat) : State :=
  { supplied with sync := { Sync.reset with tallies := [⟨4096, o, v, []⟩] } }

def withWindow : State :=
  { supplied with tiers := { supplied.tiers with windows := [⟨3, 1, 0x2000000, 0, 4, 2, [], 0, 0⟩] } }

def pageOne : Page :=
  { tenant := 1, va := 0, big := false, quadrant := 0, window := none, since := 0, left := none, old := [] }

def withPage : State := { supplied with tiers := { supplied.tiers with pages := [pageOne] } }

def withVersion (n : Nat) (f : Version → Version) : State :=
  { supplied with models := { supplied.models with
                              versions := supplied.models.versions.map (fun (v : Version) => if v.model == n then f v else v) } }

def withSession (n : Nat) (f : Session → Session) : State :=
  { supplied with granary := { supplied.granary with
                               directory := supplied.granary.directory.map
                                 (fun (x : Session) => if x.handle == BitVec.ofNat 64 (own n) then f x else x) } }

def withDelta : State :=
  { supplied with partitions := [{ Partition.empty 2 1 with delta := [.delete 5] }] }

def areaOne : SealArea :=
  { tenant := 1, base := 0x8000000, bales := 16, cursor := 0, floor := 0, sealMs := 0, implicitRevive := true,
    retain := false }

def kept : Run :=
  { id := none, cq := 0, params := setField (setField (setField 0 0 4 10) 8 4 0x3F800000) 44 4 0xFFFFFFFF,
    emitted := 1, released := 0, lastAcc := 0, first := false, implicit := false, front := none, pins := [] }

/-! ### A virtual core about to issue -/

/-- A core word: class, operation, and fields (lowest bit, value). -/
def word (cls op : Nat) (fields : List (Nat × Nat)) : CoreWord :=
  BitVec.ofNat 128 (cls <<< 124 + op <<< 120 + (fields.map (fun (f : Nat × Nat) => f.2 <<< f.1)).foldl (· + ·) 0)

/-- The layer's one tensor, 32 by 8 in MXFP4, and its attention descriptor. -/
def versionRun : Version :=
  { versionOne 1 0 with
    tensors := [⟨1, 0, 1, 32, 8, 0, false, []⟩], attention := [⟨0, 1, 1, 2, 64, 0, 0, 0, 1⟩],
    layers := [⟨1, 0, 0, 0, 0, false, false, false, []⟩], staging := [((0, 1), 0, 64), ((1, 0), 0, 64)] }

/-- Registers: s1 = 5, s2 = 7, s3 = 0x10000 (the work area's end), s4 = 1, s5 = 64 bytes in 1 part,
s6 = 63 in 1, s7 a loft offset of quadrant 1, s8 = 2^64 - 1. -/
def coreOne : VCore :=
  { VCore.idle with
    model := 1, version := 1, wait := .none, workBytes := 65536, consts := List.replicate 64 1,
    regs := (Vector.replicate 32 0 : Vector U64 32).set 1 5 |>.set 2 7 |>.set 3 0x10000 |>.set 4 1
      |>.set 5 0x4000000001 |>.set 6 0x3F00000001 |>.set 7 0x4000000000000000 |>.set 8 0xFFFFFFFFFFFFFFFF,
    sram := writeBytes (writeBytes [] 0x1000 [0xE1, 0, 1]) 0x2000 [0xE4],
    tags := [(0, ⟨BitVec.ofNat 64 (own 1), 2, [], 1, 0⟩), (1, ⟨BitVec.ofNat 64 (own 1), 5, [], 1, 0⟩)] }

/-- A module with one virtual core whose next word is `w`. -/
def issuing (c : VCore) (w : CoreWord) : State :=
  { supplied with
    models := { supplied.models with versions := [versionRun] },
    granary := { supplied.granary with
                 directory := [{ sessionIn 1 2 with kv := [⟨0, 0, 0, false⟩, ⟨1, 0, 1, false⟩] }] },
    sheaf := { supplied.sheaf with view := some [tableOne] },
    epochs := { Epochs.reset with epoch := 1 },
    tiers := { supplied.tiers with pages := [pageOne] },
    cores := { Cores.reset with vcores := [(0, { c with code := [w] })] } }

/-- `coreOne` with the program that holds `w`. -/
def ready (w : CoreWord) : VCore := { coreOne with code := [w] }

/-- `coreOne` with an unfinished walk of `w`. -/
def walking (w : CoreWord) : VCore := { coreOne with walks := [w] }

theorem issues_ready (w : CoreWord) : Issues (issuing coreOne w) 0 w (ready w) :=
  ⟨rfl, rfl, rfl, rfl, by simp [State.hasCore, State.sharing, issuing], by
    have h : (issuing coreOne w).unfinished 0 = 0 := by
      simp [State.unfinished, State.sharing, issuing, coreOne, VCore.idle, sumOf]
    rw [State.interlocked, h]
    simp [ready, coreOne, VCore.idle]⟩

/-- A serving step in which session 1 appends `n` positions. -/
def stepOf (n : Nat) : OpenStep :=
  { number := 1, decode := [⟨BitVec.ofNat 64 (own 1), some 0, List.replicate (n - 1) 0, 0, 0⟩], prefill := none,
    front := [], epoch := some 1, spanWait := false, quarWait := false, modelled := [], specials := [],
    eosEmpty := [] }

/-! ### Witnesses: the machine as a whole -/

theorem test_front_command : ({ State.reset with pending := [.helloTimer] }).pending = .helloTimer :: [] := rfl

/-- Hypotheses of EmptyQueueTicks, with a tenant below its `burst` and one at it. -/
theorem test_empty_queue : served.pending = [] ∧
    ({ served with tenants := [{ tenantOne with level := 0 }, { tenantOne with number := 2 }] }).tenants[0]?.isSome ∧
    ((0 : Int) < tenantOne.burst.toNat) ∧ tenantOne.level = tenantOne.burst.toNat := by decide

/-- `served` has the invariant, and a step of it gives a next state. -/
theorem test_served_inv : served.Inv := by
  refine ⟨rfl, rfl, rfl, rfl, by decide, by decide, by decide, by decide, fun n => ?_, fun n => ?_, by decide⟩
  · by_cases h : n < 64
    · have : ∀ k : Fin 64, (served.cmdRing k).taken.length ≤ 64 := by decide +kernel
      exact this ⟨n, h⟩
    · simp [State.cmdRing, vGet, h, CmdRing.reset]
  · by_cases h : n < 64
    · have : ∀ k : Fin 64, (served.cqRing k).held.length ≤ 256 := by decide +kernel
      exact this ⟨n, h⟩
    · simp [State.cqRing, vGet, h, CqRing.reset]

theorem test_step_of_served : ∃ t, step served = .next t := ⟨_, rfl⟩

/-! ### Witnesses: core instructions -/

/-- Words of the scalar operations and of LOADI, LD, ST and control flow have their encodings. -/
theorem test_scalar_encodes :
    (∀ x ∈ scalarRows, Encodes (word 1 x.2.1 [(115, 9), (110, 1), (105, 2)]) 1 x.2.1) ∧
    (∀ n ∈ [8, 9, 10], Encodes (word 1 n [(115, 9)]) 1 n) ∧ (∀ n ∈ [0, 1, 2, 3, 4], Encodes (word 0 n [(99, 1)]) 0 n) := by
  unfold Encodes; decide +kernel

/-- An LD of the last doubleword of the work area reaches; one past it, and one off alignment, do not. -/
theorem test_scalar_reaches :
    Reaches coreOne (word 1 9 [(110, 3), (72, 0xFFFFFFF8)]) ∧ ¬ Reaches coreOne (word 1 9 [(110, 3)]) ∧
    ¬ Reaches coreOne (word 1 10 [(110, 1)]) := by unfold Reaches; decide +kernel

/-- LOOP on s1, and on s0. -/
theorem test_loop_registers : fieldOf (word 0 2 [(99, 1)]) 103 99 ≠ 0 ∧ fieldOf (word 0 2 []) 103 99 = 0 := by
  decide +kernel

/-- At a HALT, no program waits for the virtual core; one does, behind another's. -/
theorem test_halt_queue : (∀ e ∈ (issuing coreOne 0).cores.queued, e.1 ≠ 0) ∧
    (let s := { issuing coreOne 0 with cores := { (issuing coreOne 0).cores with queued := [(1, coreOne), (0, coreOne)] } }
     s.cores.queued = [(1, coreOne)] ++ (0, coreOne) :: [] ∧ ∀ e ∈ [(1, coreOne)], e.1 ≠ 0) := by decide +kernel

/-- The reasons for which no core instruction issues, each in a state of its own. -/
theorem test_issues_nothing (w : CoreWord) :
    ({ issuing coreOne w with power := { Power.reset with pstate := 2, holdWhy := 1 } } : State).coresRun = false ∧
    ({ issuing coreOne w with cores := { Cores.reset with vcores := [(0, coreOne), (64, ready w)] } } : State).coresRun =
      true ∧
    (issuing coreOne w).vcore? 1 = none ∧
    (issuing { coreOne with wait := .halted } w).vcore? 0 = some { ready w with wait := .halted } ∧
    (issuing { coreOne with pc := 1 } w).vcore? 0 = some { ready w with pc := 1 } ∧
    (some w : Option CoreWord) ≠ ({ ready w with pc := 1 } : VCore).code[1]? := ⟨rfl, rfl, rfl, rfl, rfl, nofun⟩

/-- One core in service, shared by virtual cores 0 and 64, whose turn it is. -/
def sharedCore : State :=
  { issuing coreOne 0 with
    cap := { wholeCap with widthLo := 1, widthHi := 0 },
    cores := { Cores.reset with
      vcores := [(0, { coreOne with code := [0] }), (64, { coreOne with code := [0] })],
      turns := Vector.replicate 64 64 } }

theorem test_turns : sharedCore.hasCore 0 = false ∧ sharedCore.hasCore 64 = true := by
  have h : sharedCore.coresInService.length = 1 := by decide +kernel
  have hc (n : Nat) : sharedCore.coreOf n = (sharedCore.coresInService[0]?).getD n := by
    rw [State.coreOf, h, Nat.mod_one, List.getD_eq_getElem?_getD]
  have h0 : sharedCore.coresInService[0]? = some 0 := by decide +kernel
  simp only [State.hasCore, State.sharing, State.turnPlace, hc, h0]
  decide +kernel

/-- A HALT behind an unfinished walk is held back. -/
theorem test_interlocked : (let w := word 0 3 []
    (issuing (walking 0) w).interlocked 0 { ready w with walks := [0] } w = true) ∧
    (4 ≤ ({ coreOne with walks := [0, 0, 0, 0] } : VCore).walks.length ∧ Encodes (word 6 0 []) 6 0) := by
  have h (a b c : Bool) : (a || b || c || true) = true := by simp
  refine ⟨?_, ?_⟩
  · have hw : (!([0] : List CoreWord).isEmpty && wClass (word 0 3 []) == 0 && (wOp (word 0 3 []) == 3 ||
        wOp (word 0 3 []) == 4 || wOp (word 0 3 []) == 5)) = true := by decide +kernel
    simp only [State.interlocked, hw, Bool.true_or]
  · unfold Encodes; decide +kernel

/-- A module whose tally 5 has a value, with `w` about to issue. -/
def withTally5 (v : U64) (w : CoreWord) : State :=
  { issuing coreOne w with sync := { Sync.reset with tallies := [⟨5, none, v, []⟩] } }

/-- TALLY_ADD of nothing; one that fills the tally exactly; one past it; TALLY_WAIT on 1 and on 0. -/
theorem test_tally_clauses :
    (let w := word 0 5 [(104, 5)]
     Encodes w 0 5 ∧ (coreOne.reg (fieldOf w 103 99)).toNat + fieldOf w 98 67 = 0) ∧
    (let w := word 0 5 [(104, 5), (99, 8)]
     let t := (withTally5 0 w).tally 5
     let n := (coreOne.reg (fieldOf w 103 99)).toNat + fieldOf w 98 67
     n ≠ 0 ∧ t.value.toNat + (n - min n t.waiters.length) = 2 ^ 64 - 1) ∧
    (let w := word 0 5 [(104, 5), (99, 8), (67, 1)]
     let t := (withTally5 0 w).tally 5
     let n := (coreOne.reg (fieldOf w 103 99)).toNat + fieldOf w 98 67
     n ≠ 0 ∧ t.value.toNat + (n - min n t.waiters.length) = 2 ^ 64) ∧
    (let w := word 0 6 [(104, 5)]
     Encodes w 0 6 ∧ ((withTally5 1 w).tally 5).value ≠ 0 ∧ ((withTally5 0 w).tally 5).value = 0) := by
  unfold Encodes; decide +kernel

/-- Barriers and collectives whose masks hold the issuer, and ones that do not, or whose parts are no multiple
of 64 bytes. -/
theorem test_barrier_clauses :
    (let w := word 0 7 [(114, 5), (107, 4)]
     Encodes w 0 7 ∧ (issuing coreOne w).barrierOk 0 (ready w) w = true) ∧
    (let w := word 0 7 [(114, 5)]
     Encodes w 0 7 ∧ (issuing coreOne w).barrierOk 0 (ready w) w = false) ∧
    (let w := word 0 8 [(114, 5), (74, 5)]
     Encodes w 0 8 ∧ (issuing coreOne w).collectOk 0 (ready w) w = true) ∧
    (let w := word 0 8 [(114, 5), (74, 6)]
     Encodes w 0 8 ∧ (issuing coreOne w).collectOk 0 (ready w) w = false) := by
  unfold Encodes; decide +kernel

/-- The state in which the own parts of the COLLECT above have been taken is not faulted. -/
theorem test_collect_goes_on :
    let w := word 0 8 [(114, 5), (74, 5)]
    let s := issuing coreOne w
    let c := ready w
    let g := s.collectGroup 0 w
    let data := readBytes c.sram (64 * fieldOf w 112 96) (c.partTotal w)
    let e := (s.barrierAt 5).epoch
    (((g.2.filter (· != s.job.rank)).foldl (fun (u : State) d => u.sendTo d (fun p =>
      .bulk p d (.collective 5 e s.job.rank (c.partBytes w) (c.partCount w) data))) (s.past 0 c)).takeParts 5
        ⟨e, s.job.rank, c.partBytes w, c.partCount w, data⟩).faulted = false := by decide +kernel

/-- Barrier 5 of core 0 on rank 0, with its arrivals. -/
def withBarrier (x : Barrier) : State :=
  { supplied with sync := { Sync.reset with barriers := Sync.reset.barriers.set 5 x } }

/-- Eight other collectives are in progress, and seven. -/
theorem test_collects_full :
    (let s (n : Nat) := { issuing coreOne 0 with sync := { Sync.reset with
        barriers := (List.range n).foldl (fun (b : Vector Barrier 64) i =>
          vMod b (8 + i) (fun x => { x with parts := [⟨0, 0, 64, 1, []⟩] })) Sync.reset.barriers } }
     (s 8).collectsFull 5 = true ∧ (s 7).collectsFull 5 = false) := by decide +kernel

theorem test_barrier_state :
    ((withBarrier { Barrier.reset with group := some (1, [0]) }).barrierAt 5).agrees 2 [0] = false ∧
    (withBarrier { Barrier.reset with group := some (1, [0]), cores := [0], ranks := [0] }).barrierDone 5 = true := by
  decide +kernel

/-- An MMA on the layer's tensor; one on a tensor that is not there. -/
theorem test_mma_clauses :
    (let w := word 2 0 [(118, 3), (45, 1), (11, 1)]
     let u := (issuing coreOne w).past 0 (ready w)
     Encodes w 2 0 ∧ (u.mmaCtx (ready w) w).isSome ∧ u.mmaOk (ready w) w = true) ∧
    (let w := word 2 0 [(45, 2)]
     Encodes w 2 0 ∧ ((issuing coreOne w).past 0 (ready w)).mmaOk (ready w) w = false) := by
  unfold Encodes; decide +kernel

/-- MOVE out to a loft, in from the host region, and to a range that is not declared; HANDOFF of kinds 0 and 3,
and of a header of another kind. -/
theorem test_move_handoff_clauses :
    (let w := word 4 0 [(119, 1), (116, 1), (94, 7)]
     Encodes w 4 0 ∧ w.getLsbD 119 = true ∧ ((issuing coreOne w).past 0 (ready w)).moveOk (ready w) w = true) ∧
    (let w := word 4 0 []
     w.getLsbD 119 = false ∧ ((issuing coreOne w).past 0 (ready w)).moveOk (ready w) w = true) ∧
    (let w := word 4 0 [(116, 1)]
     ((issuing coreOne w).past 0 (ready w)).moveOk (ready w) w = false) ∧
    (let w := word 7 0 [(103, 64), (87, 1)]
     ((issuing coreOne w).past 0 (ready w)).handoffOk (ready w) w = true) ∧
    (let w := word 7 3 [(103, 128), (87, 1)]
     fieldOf w 127 124 = 7 ∧ fieldOf w 123 120 = 3 ∧
       ((issuing coreOne w).past 0 (ready w)).handoffOk (ready w) w = true) ∧
    (let w := word 7 1 [(103, 64), (87, 1)]
     ((issuing coreOne w).past 0 (ready w)).handoffOk (ready w) w = false) := by
  unfold Encodes; decide +kernel

/-- ROWGET, ROWPOOL and ROWPUT on table 1, and on a table that is not there. -/
theorem test_row_port_clauses :
    (∀ op ∈ [0, 1, 2], let w := word 5 op [(108, 1), (74, 0x100)]
     let u := (issuing coreOne w).past 0 (ready w)
     Encodes w 5 op ∧ ((ready w).tag? (rTag w)).isSome ∧ (u.tableForRead 1 (rTable w)).isSome ∧
       (u.tableForWrite 1 (rTable w)).isSome ∧ (ready w).inArea (rIdx w) (8 * rCount w) = true ∧
       (ready w).inArea (rOffs w) (4 * rBags w) = true ∧ (ready w).inArea (rData w) (rCount w * 128) = true) ∧
    (let w := word 5 0 [(108, 2)]
     ((issuing coreOne w).past 0 (ready w)).tableForRead 1 (rTable w) = none) ∧
    (ready 0).tag? 2 = none ∧ (issuing coreOne 0).requestStopped (BitVec.ofNat 64 (own 1)) = false ∧
    (let s := { issuing coreOne 0 with step := some { stepOf 1 with
        decode := [StepSeq.stopped (BitVec.ofNat 64 (own 1)) 1 0] } }
     s.requestStopped (BitVec.ofNat 64 (own 1)) = true) := by
  unfold Encodes; decide +kernel

/-- ATTEND that appends; that walks keys which are there; whose keys are not there; and out of bounds. -/
theorem test_attend_clauses :
    (let w := word 6 0 [(119, 1), (32, 4)]
     let u := (issuing coreOne w).past 0 (ready w)
     Encodes w 6 0 ∧ w.getLsbD 118 = false ∧ (u.attCtx (ready w) w).isSome ∧ u.attendOk (ready w) w = true) ∧
    (let w := word 6 0 [(118, 1), (32, 4)]
     let u := (issuing coreOne w).past 0 (ready w)
     u.attendOk (ready w) w = true ∧ (u.attCtx (ready w) w).any (fun a =>
       (u.attRows (ready w) a w).all (u.rowReady a w)) = true) ∧
    (let w := word 6 0 [(118, 1), (66, 1023)]
     ((issuing coreOne w).past 0 (ready w)).attendOk (ready w) w = false) := by
  unfold Encodes; decide +kernel

/-- A walk that must wait; one that waits and may go on; one that waits; and an append, of the position that a walk
reads, that is held back, and one that no walk reads. -/
theorem test_walk_waits :
    (let w := word 6 0 [(118, 1), (32, 4)]
     let u := ({ issuing coreOne w with step := some (stepOf 1) }).past 0 (ready w)
     u.attendOk (ready w) w = true ∧ (u.attCtx (ready w) w).any (fun a =>
       (u.attRows (ready w) a w).all (u.rowReady a w)) = false ∧ (u.attCtx (ready w) w).isSome) ∧
    (let w := word 6 0 [(118, 1), (32, 4)]
     let c := { ready w with walks := [w] }
     let s := issuing (walking w) w
     s.vcore? 0 = some c ∧ c.walks = [w] ∧ s.coresRun = true ∧ (s.attCtx c w).any (fun a =>
       (s.attRows c a w).all (s.rowReady a w)) = true) ∧
    (let w := word 6 0 [(118, 1), (32, 4)]
     let c := { ready w with walks := [w] }
     let s := { issuing (walking w) w with step := some (stepOf 1) }
     s.vcore? 0 = some c ∧ (s.attCtx c w).any (fun a => (s.attRows c a w).all (s.rowReady a w)) = false) ∧
    (let w := word 6 0 [(118, 1), (32, 4)]
     let n := word 6 0 [(119, 1), (32, 4)]
     ({ issuing (walking w) n with step := some (stepOf 1) }).appendHeld 0 n = true ∧
       ({ issuing coreOne n with step := some (stepOf 1) }).appendHeld 0 n = false) := by
  decide +kernel

/-- Every vector instruction with one row of two elements, and with a destination at the work area's end. -/
theorem test_vector_clauses : ∀ x ∈ vectorRows,
    (let w := word 3 0 [(118, x.2.1.op), (98, 1), (20, 0xFFFF)]
     fieldOf w 127 124 = 3 ∧ fieldOf w 123 118 = x.2.1.op ∧
       ((issuing coreOne w).past 0 (ready w)).vecOk x.2.1 (ready w) w = true) ∧
    (let w := word 3 0 [(118, x.2.1.op), (98, 1), (36, 1024)]
     fieldOf w 123 118 = x.2.1.op ∧ ((issuing coreOne w).past 0 (ready w)).vecOk x.2.1 (ready w) w = false) := by
  decide +kernel

/-- The conditions of `Accepted`, as one test. -/
def accepts (s : State) (q : Record) : Bool :=
  s.fetches q.ring && (s.cmdRing q.ring).taken.isEmpty && s.canStart q && (s.turnedAway q).isNone && s.seqOk q &&
    firstFailure (s.checksOf q) == stOk

theorem accepts_iff {s : State} {q : Record} : accepts s q = true ↔ Accepted s q := by
  simp only [accepts, Bool.and_eq_true, beq_iff_eq, List.isEmpty_iff, Option.isNone_iff_eq_none]
  exact ⟨fun h => ⟨⟨h.1.1.1.1.1, h.1.1.1.1.2, h.1.1.1.2, h.1.1.2⟩, h.1.2, h.2⟩,
    fun h => ⟨⟨⟨⟨⟨h.starts.fetched, h.starts.oldest⟩, h.starts.may⟩, h.starts.here⟩, h.seq⟩, h.checks⟩⟩

/-- An opcode, a state, a record accepted in it, and what a statement asks further of the started state. -/
structure Case where
  op : Nat
  s : State
  r : Record
  more : Record → State → Bool

def Case.q (c : Case) : Record := withOpcode c.r c.op

def Case.holds (c : Case) : Bool := accepts c.s c.q && c.more c.q (c.s.started c.q)

theorem case_holds {l : List Case} (h : l.all Case.holds = true) :
    ∀ c ∈ l, Accepted c.s c.q ∧ c.more c.q (c.s.started c.q) = true := by
  intro c hc
  have := List.all_eq_true.1 h c hc
  simp only [Case.holds, Bool.and_eq_true] at this
  exact ⟨accepts_iff.1 this.1, this.2⟩

/-- The checks of `passes`, as a test. -/
def pass (l : List (Bool × Nat)) : Bool := firstFailure l == stOk

def none' (_ : Record) (_ : State) : Bool := true

/-- What PACK makes of its parts. -/
def packed (q : Record) (u : State) : Option (List Filled × PackCounts) :=
  let a := packArgs q
  packPrompt (u.templateOf q.handle).items ((List.range a.nparts).map (readPart u.t2 a.parts))
    ((List.range a.npass).map (fun e => readLe u.t2 (a.plist + 8 * e) 4)) (u.passagesOf a.pslot q.tenant) a.maxTokens

def generates (q : Record) (u : State) : Bool :=
  pass [(generateState u q, stWrongState), (u.sessionLoaded (u.sessionOf q), stVersionGone),
    (u.budgetOk q.tenant 8, stBudget)]

def revives (q : Record) (u : State) : Bool :=
  pass [(reviveState u q, stWrongState),
    ((u.sessionOf q).state != 4 || reviveMirror q || q.fieldN 16 4 != 0xFFFFFFFF ||
      u.sessionLoaded (u.sessionOf q), stVersionGone)]

def forks (q : Record) (u : State) : Bool :=
  pass [(stateIn u q [1, 3, 4], stWrongState),
    (u.sessionState (forkChildHandle q) == 0 || u.sessionState (forkChildHandle q) == 7, stWrongState),
    (u.hasRoom (forkChildHandle q), stDirFull)]

def requests (q : Record) (u : State) : Bool :=
  let a := reqArgs q u.t2
  pass [(!a.gen || generateState u q, stWrongState), (reqLoaded u q a, stVersionGone),
    (u.budgetOk q.tenant 8, stBudget)]

/-- Accepted records of GleanerAndWinnowRecords (and of DestinationsOnly, UpdatesWaitForBoundary beside the next). -/
def cases_gleaner_winnow : List Case :=
  [⟨0x0100, supplied, rec 0x0100 1 (own 3) [(16, 2, 64), (18, 1, 1), (20, 1, 12), (38, 2, 8), (40, 4, 10), (52, 4, 65536)],
    none'⟩,
   ⟨0x0102, supplied, rec 0x0102 1 (own 2) [],
    none'⟩,
   ⟨0x0110, supplied, rec 0x0110 1 (own 2) [(16, 6, 0x180000), (24, 6, 0x110000), (30, 2, 64), (32, 4, 1)],
    none'⟩,
   ⟨0x0111, supplied, rec 0x0111 1 (own 2) [(16, 6, 0x100000), (24, 4, 1)],
    none'⟩,
   ⟨0x0112, withDelta, rec 0x0112 1 (own 2) [],
    fun q u => (u.partition (indexSlotOf q.handle) q.tenant).delta != []⟩,
   ⟨0x0112, supplied, rec 0x0112 1 (own 2) [],
    fun q u => (u.partition (indexSlotOf q.handle) q.tenant).delta == []⟩,
   ⟨0x0103, supplied, rec 0x0103 1 (own 2) [(16, 6, 0x500000), (24, 4, 16)],
    fun q u => decide ((indexImage (u.slot (indexSlotOf q.handle))
    (u.partition (indexSlotOf q.handle) q.tenant)).length ≤ q.fieldN 24 4)⟩,
   ⟨0x0120, supplied, rec 0x0120 1 (own 2) [(16, 6, 0x100000), (32, 4, 62), (56, 4, 0), (60, 4, 9)],
    none'⟩,
   ⟨0x0140, supplied, rec 0x0140 1 0 [(16, 6, 0x100000), (22, 1, 1), (24, 6, 0x600000), (32, 4, 4), (36, 4, 1), (40, 4, 2), (48, 8, 64)],
    none'⟩,
   ⟨0x0141, supplied, rec 0x0141 1 0 [(16, 6, 0x100000), (22, 1, 1), (24, 6, 0x600000), (32, 4, 1), (40, 4, 2), (48, 8, 64)],
    none'⟩]

theorem test_gleaner_winnow : ∀ c ∈ cases_gleaner_winnow, Accepted c.s c.q ∧ c.more c.q (c.s.started c.q) = true :=
  case_holds (by decide +kernel)

/-- Accepted records of SheafAndTextRecords. -/
def cases_sheaf_text : List Case :=
  [⟨0x0300, supplied, rec 0x0300 1 (own 2) [(16, 4, 16), (20, 2, 32), (22, 1, 3)],
    none'⟩,
   ⟨0x0301, supplied, rec 0x0301 1 (own 1) [],
    none'⟩,
   ⟨0x0302, supplied, rec 0x0302 1 (own 1) [(16, 6, 0x110000), (32, 4, 1)],
    none'⟩,
   ⟨0x0303, supplied, rec 0x0303 1 (own 1) [(16, 6, 0x600000), (32, 4, 16)],
    none'⟩,
   ⟨0x0310, supplied, rec 0x0310 1 (own 1) [(16, 6, 0x110000), (24, 6, 0x600000), (32, 4, 1)],
    none'⟩,
   ⟨0x0311, supplied, rec 0x0311 1 (own 1) [(16, 6, 0x110000), (22, 1, 1), (24, 6, 0x600000), (32, 4, 1), (36, 4, 1), (40, 6, 0x110000)],
    none'⟩,
   ⟨0x0320, supplied, rec 0x0320 1 (own 1) [(16, 6, 0x110000), (24, 6, 0x120000), (32, 4, 1)],
    none'⟩,
   ⟨0x0200, supplied, rec 0x0200 1 model1 [(24, 6, 0x600000), (36, 4, 4099)],
    none'⟩,
   ⟨0x0201, supplied, rec 0x0201 1 model1 [(16, 6, 0x110000), (24, 6, 0x600000), (32, 4, 1), (36, 4, 259)],
    none'⟩,
   ⟨0x0210, supplied, rec 0x0210 1 (own 2) [(16, 6, 0x300000), (24, 8, 80), (32, 8, model1)],
    none'⟩,
   ⟨0x0211, supplied, rec 0x0211 1 (own 1) [],
    none'⟩,
   ⟨0x0220, supplied, rec 0x0220 1 (own 2) [(16, 6, 0x301000), (24, 8, 80), (32, 8, model1)],
    none'⟩,
   ⟨0x0221, supplied, rec 0x0221 1 (own 1) [],
    none'⟩,
   ⟨0x0230, supplied, rec 0x0230 1 (own 2) [(16, 6, 0x302000), (24, 8, 64)],
    none'⟩,
   ⟨0x0231, supplied, rec 0x0231 1 (own 2) [],
    none'⟩,
   ⟨0x0240, supplied, rec 0x0240 1 (own 1) [(16, 6, 0x600000), (22, 1, 2), (24, 4, 2)],
    fun q u => (packed q u).isSome⟩,
   ⟨0x0240, supplied, rec 0x0240 1 (own 1) [(16, 6, 0x600000), (22, 1, 2), (24, 4, 1)],
    fun q u => (packed q u).isNone⟩]

theorem test_sheaf_text : ∀ c ∈ cases_sheaf_text, Accepted c.s c.q ∧ c.more c.q (c.s.started c.q) = true :=
  case_holds (by decide +kernel)

/-- Accepted records of JobAndModelRecords. -/
def cases_job_model : List Case :=
  [⟨0x0400, supplied, rec 0x0400 0 0 [(16, 6, 0x303000), (24, 4, 128)],
    none'⟩,
   ⟨0x0401, supplied, rec 0x0401 0 0 [],
    fun q _ => q.fieldN 16 2 == 0⟩,
   ⟨0x0401, supplied, rec 0x0401 0 0 [(16, 2, 60000)],
    fun q _ => q.fieldN 16 2 != 0⟩,
   ⟨0x0640, supplied, rec 0x0640 1 (own 0x30001) [(16, 6, 0x200000), (24, 4, 1)],
    fun q u => (readImage u.t2 (loadModelArgs q).image).isSome⟩,
   ⟨0x0641, supplied, rec 0x0641 1 (own 0x10001) [],
    fun q u => (named u q).isSome⟩,
   ⟨0x0642, withVersion 1 (fun v => { v with state := 2 }), rec 0x0642 1 (own 0x10001) [],
    fun q u => (named u q).isSome⟩,
   ⟨0x0643, supplied, rec 0x0643 1 (own 0x10001) [],
    fun q u => (named u q).isSome⟩]

theorem test_job_model : ∀ c ∈ cases_job_model, Accepted c.s c.q ∧ c.more c.q (c.s.started c.q) = true :=
  case_holds (by decide +kernel)

/-- Accepted records of the sessions. -/
def cases_sessions : List Case :=
  [⟨0x0500, supplied, rec 0x0500 1 (own 9) [(16, 8, model1)],
    fun q u => pass
    [(stateIn u q [0, 7], stWrongState), ((openVersion u q).isSome, stVersionGone),
     (((openVersion u q).bind (fun v => u.kvPlace q.tenant (v.kvBytes (openMaxLen u q v)))).isSome, stNoSpace),
     (u.hasRoom q.handle, stDirFull)]⟩,
   ⟨0x0501, supplied, rec 0x0501 1 (own 1) [(16, 6, 0x110000), (24, 4, 2)],
    fun q u => pass [(stateIn u q [1], stWrongState),
    (u.sessionLoaded (u.sessionOf q), stVersionGone), (u.budgetOk q.tenant 8, stBudget)]⟩,
   ⟨0x0502, supplied, rec 0x0502 1 (own 1) [(16, 6, 0x100040)],
    fun q u => generates q u && u.sessionState q.handle != 4 && !u.unborn q.handle⟩,
   ⟨0x0502, { withSession 4 (fun x => { x with parkedFrom := 1 }) with areas := [areaOne] }, rec 0x0502 1 (own 4) [(16, 6, 0x100040)],
    fun q u => generates q u && u.sessionState q.handle == 4 && !u.parking q.handle⟩,
   ⟨0x0503, withSession 3 (fun x => { x with run := some kept }), rec 0x0503 1 (own 3) [],
    fun q u => pass
    [(resumeState u q, stWrongState), (u.sessionLoaded (u.sessionOf q), stVersionGone),
     (q.fieldN 32 6 != 0 || (u.sessionOf q).run.isSome, stBadParam), (u.budgetOk q.tenant 8, stBudget)]⟩,
   ⟨0x0504, supplied, rec 0x0504 1 (own 1) [(16, 1, 1)],
    fun q u => pass [(stateIn u q [1, 2, 3], stWrongState)] && !u.unborn q.handle⟩,
   ⟨0x0505, supplied, rec 0x0505 1 (own 4) [(16, 4, 0xFFFFFFFF)],
    fun q u => revives q u && !u.parking q.handle && !reviveMirror q⟩,
   ⟨0x0505, { supplied with granary := { supplied.granary with mirror := [⟨BitVec.ofNat 64 (own 7), 0, 1, [], []⟩] } }, rec 0x0505 1 (own 7) [(16, 4, 0xFFFFFFFF), (20, 1, 1)],
    fun q u => revives q u && !u.parking q.handle && reviveMirror q && (u.mirrorEntry q.handle).isSome⟩,
   ⟨0x0506, supplied, rec 0x0506 1 (own 3) [(16, 2, 1)],
    fun q u => pass [(stateIn u q [1, 3, 4], stWrongState)] && !u.unborn q.handle⟩,
   ⟨0x0507, supplied, rec 0x0507 1 (own 1) [(16, 8, own 9)],
    fun q u => forks q u && (u.sessionOf q).state != 4 && !u.unborn q.handle⟩,
   ⟨0x0507, { supplied with areas := [areaOne] }, rec 0x0507 1 (own 4) [(16, 8, own 7)],
    fun q u => forks q u && (u.sessionOf q).state == 4 && !u.parking q.handle &&
    decide (u.sealsStarted < 64) && decide (u.epochs.walks.length < 65536) && (u.area q.tenant).takes (ceilDiv (((u.sessionOf q).latest.map (fun i => i.entries.length)).getD 0) 818) &&
    u.ivsOk (ceilDiv (((u.sessionOf q).latest.map (fun i => i.entries.length)).getD 0) 818)⟩,
   ⟨0x0508, supplied, rec 0x0508 1 (own 1) [],
    fun q u => pass [(stateIn u q [1, 2, 3, 4], stWrongState)] && !u.unborn q.handle⟩,
   ⟨0x0509, supplied, rec 0x0509 1 (own 1) [],
    fun q u => pass [(stateIn u q [1, 2, 3], stWrongState)] && !u.unborn q.handle⟩,
   ⟨0x0509, supplied, rec 0x0509 1 (own 4) [],
    fun q u => !stateIn u q [1, 2, 3] && !u.unborn q.handle⟩]

/-- Session 1 is a FORK's child whose seal has not completed: records for it wait. -/
def unbornOne : State := withSession 1 (fun x => { x with sealing := [Sealing.new .born] })

def cases_unborn : List Case :=
  [⟨0x0501, unbornOne, rec 0x0501 1 (own 1) [(16, 6, 0x110000), (24, 4, 2)], fun q u => u.unborn q.handle⟩,
   ⟨0x0502, unbornOne, rec 0x0502 1 (own 1) [(16, 6, 0x100040)], fun q u => u.unborn q.handle⟩,
   ⟨0x0503, unbornOne, rec 0x0503 1 (own 1) [], fun q u => u.unborn q.handle⟩,
   ⟨0x0504, unbornOne, rec 0x0504 1 (own 1) [(16, 1, 1)], fun q u => u.unborn q.handle⟩,
   ⟨0x0505, unbornOne, rec 0x0505 1 (own 1) [(16, 4, 0xFFFFFFFF)], fun q u => u.unborn q.handle⟩,
   ⟨0x0506, unbornOne, rec 0x0506 1 (own 1) [(16, 2, 1)], fun q u => u.unborn q.handle⟩,
   ⟨0x0507, unbornOne, rec 0x0507 1 (own 1) [(16, 8, own 9)], fun q u => u.unborn q.handle⟩,
   ⟨0x0508, unbornOne, rec 0x0508 1 (own 1) [], fun q u => u.unborn q.handle⟩,
   ⟨0x0509, unbornOne, rec 0x0509 1 (own 1) [], fun q u => u.unborn q.handle⟩]

theorem test_unborn : ∀ c ∈ cases_unborn, Accepted c.s c.q ∧ c.more c.q (c.s.started c.q) = true :=
  case_holds (by decide +kernel)

theorem test_sessions : ∀ c ∈ cases_sessions, Accepted c.s c.q ∧ c.more c.q (c.s.started c.q) = true :=
  case_holds (by decide +kernel)

/-- Accepted REQUEST, EMBED and SAFEGUARD_READ. -/
def cases_serving : List Case :=
  [⟨0x0410, supplied, rec 0x0410 1 0 [(16, 6, 0x304000)],
    fun q u => requests q u && !(reqArgs q u.t2).gen⟩,
   ⟨0x0410, supplied, rec 0x0410 1 (own 1) [(16, 6, 0x304000), (22, 1, 1)],
    fun q u => requests q u && (reqArgs q u.t2).gen && u.sessionState q.handle != 4 && !u.unborn q.handle⟩,
   ⟨0x0420, supplied, rec 0x0420 1 model2 [(16, 6, 0x110000), (24, 6, 0x600000), (32, 4, 1), (36, 4, 4)],
    fun q u => (u.resolve q.handle).isSome⟩,
   ⟨0x0480, withVersion 1 (fun v => { v with layers := [⟨1, 0, 0, 0, 0, false, false, false, []⟩] }), rec 0x0480 1 (own 1) [(16, 8, 0x600000), (26, 2, 1)],
    fun q u => (u.versionOf (u.sessionOf q)).isSome⟩]

theorem test_serving : ∀ c ∈ cases_serving, Accepted c.s c.q ∧ c.more c.q (c.s.started c.q) = true :=
  case_holds (by decide +kernel)

/-- Accepted records of the tiers. -/
def cases_tiers : List Case :=
  [⟨0x0600, supplied, rec 0x0600 1 0 [(16, 6, 0), (23, 1, 0xFF), (24, 4, 2)],
    none'⟩,
   ⟨0x0601, withPage, rec 0x0601 1 0 [(24, 4, 1)],
    none'⟩,
   ⟨0x0602, withPage, rec 0x0602 1 0 [(16, 6, 0x100000), (32, 8, 65536)],
    none'⟩,
   ⟨0x0603, withPage, rec 0x0603 1 0 [(24, 6, 0x600000), (32, 8, 64)],
    none'⟩,
   ⟨0x0610, supplied, rec 0x0610 0 0 [(16, 1, 4)],
    fun q _ => q.fieldN 16 1 != 0⟩,
   ⟨0x0610, supplied, rec 0x0610 0 0 [],
    fun q _ => q.fieldN 16 1 == 0⟩,
   ⟨0x0611, supplied, rec 0x0611 1 0 [(16, 1, 3), (24, 6, 0x2000000), (40, 4, 4), (44, 4, 2)],
    none'⟩,
   ⟨0x0612, withWindow, rec 0x0612 1 0 [(16, 1, 3)],
    fun q u => (windowOf u q).isSome⟩,
   ⟨0x0613, withWindow, rec 0x0613 1 0 [(16, 1, 3)],
    fun q u => (windowOf u q).isSome⟩]

theorem test_tiers : ∀ c ∈ cases_tiers, Accepted c.s c.q ∧ c.more c.q (c.s.started c.q) = true :=
  case_holds (by decide +kernel)

/-- Accepted tally and diagnostic records. -/
def cases_tally_diag : List Case :=
  [⟨0x0700, supplied, rec 0x0700 1 (own 4096) [(16, 8, 7)],
    none'⟩,
   ⟨0x0701, withTally 1 (some 1), rec 0x0701 1 (own 4096) [],
    none'⟩,
   ⟨0x0702, withTally 1 (some 1), rec 0x0702 1 (own 4096) [(16, 8, 1)],
    none'⟩,
   ⟨0x0703, withTally 1 (some 1), rec 0x0703 1 (own 4096) [],
    fun q u => (u.tally (tallyNumber q.handle)).value != 0⟩,
   ⟨0x0703, withTally 0 (some 1), rec 0x0703 1 (own 4096) [(16, 4, 86400000)],
    fun q u => (u.tally (tallyNumber q.handle)).value == 0⟩,
   ⟨0x0704, withTally 0 (some 1), rec 0x0704 1 (own 4096) [],
    none'⟩,
   ⟨0x0F00, supplied, rec 0x0F00 0 0 [],
    none'⟩,
   ⟨0x0F01, { supplied with dict := { supplied.dict with settings := ((0xF000, 1), 1) :: supplied.dict.settings } }, rec 0x0F01 0 0 [(16, 1, 93)],
    fun q _ => !q.quiet⟩,
   ⟨0x0F01, { supplied with dict := { supplied.dict with settings := ((0xF000, 1), 1) :: supplied.dict.settings } }, rec 0x0F01 0 0 [(16, 1, 0), (0, 4, 0x20000F01)],
    fun q _ => q.quiet⟩,
   ⟨0x0F02, supplied, rec 0x0F02 0 0 [],
    none'⟩]

theorem test_tally_diag : ∀ c ∈ cases_tally_diag, Accepted c.s c.q ∧ c.more c.q (c.s.started c.q) = true :=
  case_holds (by decide +kernel)

/-- Bytes 0 to 0x2F of the image of an empty partition of slot 2, written out from Table 3-6. -/
def imageHead : List Byte :=
  [0x20, 0, 0, 0, 0, 0, 0, 0, 0, 0, 0, 0, 0, 0, 1, 0, 0, 0, 0, 0, 0, 0, 0, 0, 0x40, 0, 1, 0, 0, 0, 0, 0, 0, 0, 0, 0, 0, 0,
   0, 0, 0, 0, 0, 0, 1, 0, 0, 0]

/-- The image's first 80 bytes: the projection's digest follows. -/
def imageStart : List Byte := imageHead ++ lineBytes (projectionDigest slotReady) 32

def imaged : State := { served with t2 := writeBytes [] 0x400000 imageStart }

def loadRecord : Record := rec 0x0101 1 (own 2) [(16, 6, 0x400000), (24, 4, 1)]

theorem read_padded (a n : Nat) (l : List Byte) (h : l.length ≤ n) :
    readBytes (writeBytes [] a l) a n = padTo n l := by
  apply List.ext_getElem
  · simp [readBytes, padTo]; omega
  · intro i h1 h2
    simp only [readBytes, List.getElem_map, List.getElem_range, padTo]
    by_cases hi : i < l.length
    · rw [memGet_writeBytes_in _ _ _ _ hi, List.getElem_append_left hi]
    · rw [memGet_writeBytes_out _ _ _ _ (by omega), List.getElem_append_right (by omega)]
      simp [memGet]

theorem read_head (o k : Nat) (h : o + k ≤ 48) :
    readBytes imaged.t2 (0x400000 + o) k = (imageHead.drop o).take k := by
  apply List.ext_getElem
  · simp [readBytes, imageHead]; omega
  · intro i h1 h2
    have hk : i < k := by simpa [readBytes] using h1
    have hl : imageHead.length = 48 := rfl
    simp only [readBytes, List.getElem_map, List.getElem_range, Nat.add_assoc, imaged]
    rw [memGet_writeBytes_in _ _ _ _ (by simp [imageStart, hl]; omega)]
    simp only [imageStart, List.getElem_take, List.getElem_drop]
    rw [List.getElem_append_left (by omega)]

theorem image_ok (s : State) (q : Record) (ht : s.t2 = imaged.t2) (hs : s.slots = imaged.slots)
    (hq : q = withOpcode loadRecord 0x0101) : imageOk s q = true := by
  have ha : q.fieldN 16 6 = 0x400000 := by rw [hq]; decide +kernel
  have hn : q.fieldN 24 4 = 1 := by rw [hq]; decide +kernel
  have ht1 : q.tenant = 1 := by rw [hq]; decide +kernel
  have hi : indexSlotOf q.handle = 2 := by rw [hq]; decide +kernel
  have hd : readLe imaged.t2 (0x400000 + 0x18) 2 = 64 := by rw [readLe, read_head _ _ (by decide)]; decide
  have hb : readLe imaged.t2 (0x400000 + 0x1C) 1 = 0 := by rw [readLe, read_head _ _ (by decide)]; decide
  have hg : readLe imaged.t2 (0x400000 + 0x20) 8 = 0 := by rw [readLe, read_head _ _ (by decide)]; decide
  have hslot : s.slot 2 = slotReady := by rw [State.slot, hs]; decide +kernel
  have h1 : imageSlot imaged.t2 slotReady 0x400000 = slotReady := by
    rw [imageSlot, hd]; decide +kernel
  have h2 : imagePartition imaged.t2 slotReady 2 1 0x400000 1 = Partition.empty 2 1 := by
    simp only [imagePartition, hb, hg]; rfl
  have h3 : indexImage slotReady (Partition.empty 2 1) = [padTo 65536 imageStart] := rfl
  have h4 : readBytes imaged.t2 0x400000 65536 = padTo 65536 imageStart := by
    have hl : imageStart.length = 80 := by
      rw [imageStart, List.length_append, lineBytes, List.length_map, List.length_range]; rfl
    have hp := read_padded 0x400000 65536 imageStart (by rw [hl]; omega)
    simpa only [imaged] using hp
  simp only [imageOk, ha, hn, ht1, hi, ht, hslot, h1, h2, h3, h4, hd]
  generalize padTo 65536 imageStart = l
  simp [dimOk, slotReady, Partition.empty, IndexSlot.empty]

theorem test_index_load : ∃ q, q = withOpcode loadRecord 0x0101 ∧ Accepted imaged q := by
  obtain ⟨q, hq⟩ : ∃ q, q = withOpcode loadRecord 0x0101 := ⟨_, rfl⟩
  refine ⟨q, hq, ⟨?_, ?_, ?_, ?_⟩, ?_, ?_⟩
  · rw [hq]; decide +kernel
  · rw [hq]; decide +kernel
  · rw [hq]; decide +kernel
  · rw [hq]; decide +kernel
  · rw [hq]; decide +kernel
  have h := image_ok (imaged.started q) q (by simp only [State.started, State.leaveIdle, State.modPower, State.modCmd])
    (by simp only [State.started, State.leaveIdle, State.modPower, State.modCmd]) hq
  have hc : imaged.checksOf q = planChecks (imaged.started q) q (planIndexLoad q (imaged.started q)) := by
    rw [State.checksOf, planOf, show q.opcode = 0x0101 from by rw [hq]; decide +kernel]; rfl
  rw [hc, planChecks]
  simp only [planIndexLoad, h, List.cons_append, List.nil_append, firstFailure]
  rw [hq]
  decide +kernel

/-- A module whose ring 0 last accepted `seq` k. -/
def afterSeq (k : U32) : State :=
  { supplied with cmdRings := supplied.cmdRings.set 0 { CmdRing.reset with enabled := true, lastSeq := some k } }

def echo : Record := withOpcode (rec 0x0F00 0 0 []) 0x0F00

/-- A record that starts and fails one check: with DENIED as the third, and with NO_SPACE, which is counted. -/
theorem test_first_failure :
    (let q := withOpcode (rec 0x0F00 1 0 []) 0x0F00
     supplied.fetches q.ring = true ∧ (supplied.cmdRing q.ring).taken = [] ∧ supplied.canStart q = true ∧
       supplied.turnedAway q = none ∧ supplied.seqOk q = true ∧
       supplied.checksOf q = [(true, stBadParam), (true, stNotSupported)] ++ (false, stDenied) :: []) ∧
    (let q := withOpcode (rec 0x0600 1 0 [(23, 1, 0xFF), (24, 4, 1)]) 0x0600
     let s := { supplied with tenants := [{ tenantOne with qT1 := 0 }] }
     s.turnedAway q = none ∧ firstFailure (s.checksOf q) = stNoSpace) := by decide +kernel

/-- `seq` 1 after k: no step, one step, 2^31 − 1 steps and 2^31 steps. -/
theorem test_sequence_clauses :
    (∀ n ∈ [0, 1, 0x80000001, 0x80000002], let s := afterSeq (BitVec.ofNat 32 n)
     s.fetches 0 = true ∧ (s.cmdRing 0).taken = [] ∧ s.canStart echo = true ∧ s.turnedAway echo = none ∧
       (s.cmdRing 0).lastSeq = some (BitVec.ofNat 32 n)) ∧
    (afterSeq 0).seqOk echo = true ∧ (afterSeq 1).seqOk echo = false ∧ (afterSeq 0x80000002).seqOk echo = true ∧
    (afterSeq 0x80000001).seqOk echo = false ∧ (echo.seq - 0x80000002).toNat = 2 ^ 31 - 1 ∧
    (supplied.cmdRing 0).lastSeq = none := by decide +kernel

def faulty : State := { supplied with faults := { Faults.reset with sticky := 1 } }

def ending : State := { supplied with job := { supplied.job with state := 3 } }

def held : State := { supplied with power := { Power.reset with pstate := 2, holdWhy := 1 } }

def read7 : Record := withOpcode (rec 0x0508 1 (own 1) []) 0x0508

/-- A record that is turned away; one that waits because an older one does, because of Hold, or because of its
fence; and a ring that gives none. -/
theorem test_wait_clauses :
    (faulty.faulted = true ∧ faulty.fetches 0 = true ∧ faulty.canStart read7 = true ∧
      faulty.turnedAway read7 = some stJobRestarted) ∧
    (ending.faulted = false ∧ ending.fetches 0 = true ∧ ending.canStart read7 = true ∧
      ending.turnedAway read7 = some stJobEnded) ∧
    (let s := supplied.modCmd 0 (fun c => { c with taken := [read7] })
     s.fetches 0 = true ∧ (s.cmdRing 0).taken = read7 :: [] ∧ s.canStart read7 = true) ∧
    (let s := supplied.modCmd 0 (fun c => { c with taken := [read7], former := [(1, none)] })
     (s.cmdRing 0).taken = read7 :: [] ∧ s.canStart read7 = true ∧ (s.cmdRing 0).former = (1, none) :: []) ∧
    (supplied.cmdRing 0).former = [] ∧ read7.opcode ≠ 0x0400 ∧
    (let s := held.modCmd 0 (fun c => { c with taken := [read7] })
     s.fetches 0 = true ∧ (s.cmdRing 0).taken = read7 :: [] ∧ s.canStart read7 = false) ∧
    (let q := withOpcode (rec 0x0508 1 (own 1) [(2, 2, 0x4001)]) 0x0508
     let s := { supplied with running := [Running.mk 1 read7 0 [] 0] }
     q.fence = true ∧ (s.running.any (fun x => x.record.ring == q.ring)) = true) ∧
    State.reset.fetches 0 = false := by decide +kernel

/-- A publish under way that a record asked for, one that none did, and a delta that AUTO_PUBLISH takes. -/
theorem test_publish_clauses :
    (∀ run ∈ [none, some 3], let s := { supplied with
        partitions := [{ Partition.empty 2 1 with merge := some ⟨[.delete 5], run, 0⟩ }] }
     s.power.pstate < 2 ∧ (s.partition 2 1).merge = some ⟨[.delete 5], run, 0⟩) ∧
    (let s := { withDelta with slots := withDelta.slots.set 2 { slotReady with publishMs := 1 } }
     s.power.pstate < 2 ∧ (s.slot 2).state ≠ 0 ∧ (s.slot 2).publishMs ≠ 0 ∧ (s.partition 2 1).delta ≠ [] ∧
       (s.partition 2 1).merge = none ∧
       s.t1Fits 1 (mergeBales (s.slot 2) (s.partition 2 1) (s.partition 2 1).delta) = true) := by decide +kernel

/-- The tag space of the served module is not full, and an accepted TOPK and TABLE_SAVE answer a next state. -/
theorem test_destinations : supplied.link.reads.length + supplied.link.writes.length < 65536 ∧
    (∃ t, exec (.topk (rec 0x0140 1 0 [])) supplied = .next t) ∧
    (∃ t, exec (.tableSave (rec 0x0303 1 (own 1) [])) supplied = .next t) :=
  ⟨by decide, ⟨_, by unfold exec execTopk; rfl⟩, ⟨_, by unfold exec execTableSave; rfl⟩⟩

/-- GRACE_EXPIRY: JOB_END runs; it does not; the module is faulted. -/
theorem test_grace : ending.job.state = 3 ∧ ending.faulted = false ∧ supplied.job.state ≠ 3 ∧ faulty.faulted = true := by
  decide

/-- A CLOSE of session `n`. -/
def closeOf (n : Nat) : Record := withOpcode (rec 0x0508 1 (own n) []) 0x0508

/-- Sessions that CloseLeavesHandle names: WAITING; RUNNING, with a PARK pending and without; PARKED, with the park's
seal in progress and without. -/
theorem test_close :
    (Accepted supplied (closeOf 3) ∧ supplied.unborn (closeOf 3).handle = false ∧
      stateIn supplied (closeOf 3) [1, 3] = true) ∧
    (∀ l ∈ ([[], [(4, true)]] : List (List (Nat × Bool))), let s := withSession 2 (fun x => { x with parkAtEnd := l })
      accepts s (closeOf 2) = true ∧ s.unborn (closeOf 2).handle = false ∧
        (s.session? (closeOf 2).handle).any (fun y => y.state == 2 && y.parkAtEnd == l) = true) ∧
    (∀ l ∈ ([[], [Sealing.new (.park [4] true 1)]] : List (List Sealing)),
      let s := withSession 4 (fun x => { x with sealing := l })
      accepts s (closeOf 4) = true ∧ s.unborn (closeOf 4).handle = false ∧ stateIn s (closeOf 4) [4] = true ∧
        s.parking (closeOf 4).handle = !l.isEmpty) :=
  ⟨⟨accepts_iff.1 (by decide +kernel), by decide +kernel, by decide +kernel⟩, by decide +kernel, by decide +kernel⟩

/-- A tally whose value is above zero and one that is not, and a signal that overflows. -/
theorem test_tally_unit : (⟨5, none, 1, []⟩ : Tally).value ≠ 0 ∧ (⟨5, none, 0, [.core 1]⟩ : Tally).value = 0 ∧
    (⟨5, none, 0, [.core 1]⟩ : Tally).overflows 1 = false := by decide

/-! ### Single steps against the spec's own figures -/

/-- A completion: 32 bytes, phase 1 on the first pass, status in bytes 2 and 3 (Table 1-8). -/
theorem test_completion_record : let x := withPhase (completionSlot echo stOk [7]) 0
    field x 0 2 = 0x0F00 ∧ field x 2 2 = 0 ∧ field x 4 4 = 1 ∧ bitAt x 79 = true ∧ field x 12 1 = 7 := by decide +kernel

/-- A record of two slots where one is left gets a filler before it. -/
theorem test_filler : (placeRecord 16 15 [0, 0]).length = 3 ∧ (placeRecord 16 14 [0, 0]).length = 2 := by
  decide +kernel

/-- DIAG_ECHO, carried out, leaves its completion in the ring. -/
theorem test_echo_completes : (match exec (.diagEcho (rec 0x0F00 0 0 [])) supplied with
    | .next t => t.running.isEmpty && (t.cqRing 0).producer == 1
    | _ => false) = true := by decide +kernel

/-- TALLY_CLAIM sets the value; a second claim is refused and leaves it. -/
theorem test_claim : (match exec (.tallyClaim (rec 0x0700 1 (own 4096) [(16, 8, 7)])) supplied with
    | .next t => (t.tally 4096).value == 7 && (t.tally 4096).owner == some 1
    | _ => false) = true := by decide +kernel

/-! ### Witnesses: the coherent link -/

/-- A read outstanding with tag 7, of the line at 0x20000. -/
def reading (u : ReadUse) (stale : Bool) : State :=
  { supplied with link := { supplied.link with reads := [⟨7, 0x20000, u, stale⟩], writes := [9], shared := [0x20080] } }

/-- A read of each use is found by its tag and no other tag is; line 0x20080 is shared and not being read. -/
theorem test_link_clauses :
    ((reading (.producer 0) false).link.reads.find? (fun x => x.tag == 7) = some ⟨7, 0x20000, .producer 0, false⟩) ∧
    ((reading (.consumer 0) true).link.reads.find? (fun x => x.tag == 7) = some ⟨7, 0x20000, .consumer 0, true⟩) ∧
    ((reading .source false).link.reads.find? (fun x => x.tag == 7) = some ⟨7, 0x20000, .source, false⟩) ∧
    ((reading (.record 0 1) true).link.reads.find? (fun x => x.tag == 7) = some ⟨7, 0x20000, .record 0 1, true⟩) ∧
    ((reading (.record 0 1) false).link.reads.find? (fun x => x.tag == 7) = some ⟨7, 0x20000, .record 0 1, false⟩) ∧
    (let s := reading (.producer 0) false
     s.traffic = true ∧ 0x20080 ∈ s.link.shared ∧ (∀ x ∈ s.link.reads, x.addr ≠ 0x20080) ∧ 0x30000 ∉ s.link.shared ∧
       (∀ x ∈ s.link.reads, x.addr ≠ 0x30000) ∧ (∀ x ∈ s.link.reads, x.tag ≠ 8) ∧ 9 ∈ s.link.writes ∧
       8 ∉ s.link.writes ∧ s.link.t2Base = 0) := by decide +kernel

/-- A producer line of ring 0 that already waits for a slot line's acknowledgement. -/
theorem test_producer_waits : let s := { supplied with link := { supplied.link with
      writes := [9], deferred := [⟨[9], .producer 0 1⟩] } }
    ∃ e ∈ s.link.deferred, e.write = .producer 0 1 ∧ (9 : U16) ∈ e.needs := ⟨_, .head _, rfl, by decide⟩

/-- Route 0 is served, and it is not while the link is down. -/
theorem test_window_clauses : supplied.serves 0 = true ∧ (State.reset.wake.send (.winDone 1)).serves 0 = false ∧
    (supplied.wake.send (.winDone 1)).serves 0 = true ∧
    (∀ b ∈ [true, false], let s := supplied.putSlotLine 31 (fun x => { x with unread := b })
     let v := (s.wake.send (.winDone 1)).putSlotLine 31 (fun x => { x with request := 5 })
     v.serves 0 = true ∧ (v.link.slots[31]).unread = b) := by decide +kernel

/-- All lanes; the lower half; the upper; one group; none. -/
theorem test_lane_clauses : Works (0xFFFF : U16) 0 16 ∧ Works (0x00FF : U16) 0 8 ∧ Works (0xFF00 : U16) 8 8 ∧
    ¬ Works (0xFF00 : U16) 0 8 ∧ cohLanes 16 0xF000 = some (4, 0xF000) ∧ cohLanes 16 0x7777 = none := by
  unfold Works; decide +kernel

/-- A link that trains, one that is down in a module that has reset, and a lane that fails. -/
theorem test_link_states : supplied.linksRun = true ∧ supplied.link.maxWidth = 16 ∧
    cohLanes 16 0xFFFF = some (16, 0xFFFF) ∧ (65536 : U64).toNat % 65536 = 0 ∧
    ({ supplied with link := CohLink.reset }).link.state = 0 ∧ ({ supplied with link := CohLink.reset }).linksRun = true ∧
    (supplied.putSetting 0x1110 5 1).setting 0x1110 5 ≠ 0 ∧ supplied.traffic = true ∧ supplied.link.state = 2 ∧ supplied.link.lanesOk &&& 0xFF ≠ supplied.link.lanesOk ∧
    cohLanes supplied.link.maxWidth 0xFF = some (8, 0xFF) ∧ cohLanes supplied.link.maxWidth 0 = none := by
  decide +kernel

/-- An all-zero flit, whose CRC is zero and whose `seq` is 0. -/
def flit0 : Flit := ⟨List.replicate 272 0, true, 0⟩

def layered (rx : BitVec 12) (n : Nat) : State :=
  { faulty with layers := Vector.replicate 9 { FlitLayer.reset with rxSeq := rx, sinceAck := n } }

theorem crc_zeros (n : Nat) : crc64 (List.replicate n 0) = 0 := by
  induction n with
  | zero => rfl
  | succ n ih => rw [List.replicate_succ, crc64, List.foldl_cons, show crcByte 0 0 = 0 from by decide]; exact ih

theorem test_flit_good : flitGood flit0 = true := by
  have h : (flit0.bytes.take 264) = List.replicate 264 0 := by
    rw [flit0, List.take_replicate, show min 264 272 = 264 from rfl]
  rw [flitGood, h, crc_zeros]
  decide +kernel

/-- A flit whose cell 0 is a message of channel 0, with its CRC. -/
def flitMsg : Flit := ⟨[16] ++ List.replicate 263 0 ++ toLe 8 13104873271292543, true, 0⟩

/-- The CRC of the flit, 33 bytes at a time. -/
theorem crc_msg : crc64 ([16] ++ List.replicate 263 0) = 13104873271292543 := by
  have h : ([16] ++ List.replicate 263 0 : List Byte) = ([16] ++ List.replicate 32 0) ++ List.replicate 33 0 ++
      List.replicate 33 0 ++ List.replicate 33 0 ++ List.replicate 33 0 ++ List.replicate 33 0 ++
      List.replicate 33 0 ++ List.replicate 33 0 := by decide +kernel
  rw [h, crc64, List.foldl_append, List.foldl_append, List.foldl_append, List.foldl_append, List.foldl_append,
    List.foldl_append, List.foldl_append,
    show ([16] ++ List.replicate 32 0 : List Byte).foldl crcByte 0 = 206123679981038623 from by decide +kernel,
    show (List.replicate 33 0 : List Byte).foldl crcByte 206123679981038623 = 17939247013228618454 from by decide +kernel,
    show (List.replicate 33 0 : List Byte).foldl crcByte 17939247013228618454 = 3189628484511023411 from by decide +kernel,
    show (List.replicate 33 0 : List Byte).foldl crcByte 3189628484511023411 = 9154330991950722589 from by decide +kernel,
    show (List.replicate 33 0 : List Byte).foldl crcByte 9154330991950722589 = 3304791888781022076 from by decide +kernel,
    show (List.replicate 33 0 : List Byte).foldl crcByte 3304791888781022076 = 3589759711740611482 from by decide +kernel,
    show (List.replicate 33 0 : List Byte).foldl crcByte 3589759711740611482 = 17914564340493075461 from by decide +kernel]
  decide +kernel

/-- A good flit with a cell of channel 0, which port 1 carries while it is up and not while it is foreign. -/
theorem test_flit_channel : flitGood flitMsg = true ∧ cellKind (flitCell flitMsg 0) = 1 ∧
    (∀ c, c < 4 → cellKind (flitCell flitMsg c) ≠ 0 → cellChannel (flitCell flitMsg c) ∈ peerChannels 1 2) ∧
    cellChannel (flitCell flitMsg 0) ∉ peerChannels 1 3 := by
  refine ⟨?_, by decide +kernel⟩
  have h : flitMsg.bytes.take 264 = [16] ++ List.replicate 263 0 := by decide +kernel
  rw [flitGood, h, crc_msg]
  decide +kernel

/-- The flit is the next in order, a repetition, 2,047 ahead and 2,048 ahead. -/
theorem test_flit_clauses : flitGood { flit0 with fecGood := false } = false ∧
    (flitSeq flit0 - 4095).toNat = 1 ∧ (flitSeq flit0 - 0).toNat = 0 ∧ (flitSeq flit0 - 2049).toNat = 2047 ∧
    (flitSeq flit0 - 2048).toNat = 2048 ∧ (layered 4095 31).faulted = true ∧
    (vGet (layered 4095 31).layers 1 FlitLayer.reset).sinceAck = 31 ∧
    (vGet (layered 4095 0).layers 1 FlitLayer.reset).sinceAck = 0 := by decide +kernel

/-! ### Witnesses: serving steps, boundaries and timers -/

/-- A module with an open step whose epoch is `e`. -/
def stepping (e : Option U32) : State :=
  { supplied with step := some { stepOf 1 with epoch := e, decode := [] } }

theorem test_step_clauses :
    (supplied.step = none ∧ supplied.job.state ≠ 0 ∧ supplied.faulted = false ∧ supplied.power.pstate < 2 ∧
      supplied.outputHeld = false ∧ supplied.sheaf.due = false) ∧
    (supplied.modSheaf (fun x => { x with due := true })).sheaf.due = true ∧
    (stepping none).step ≠ none ∧ State.reset.job.state = 0 ∧ 2 ≤ held.power.pstate ∧
    (stepping none).step = some { stepOf 1 with epoch := none, decode := [] } ∧
    (let s := stepping (some 1)
     s.step = some { stepOf 1 with decode := [] } ∧ (stepOf 1).epoch ≠ none ∧ s.walksRetired = true) ∧
    ({ supplied with cores := { Cores.reset with vcores := [(0, coreOne)] } }).walksRetired = false ∧
    ({ supplied with cores := { Cores.reset with queued := [(0, coreOne)] } }).walksRetired = false := by
  decide +kernel

/-- A step with one work that is written, and one whose chunk owes two positions. -/
theorem test_step_works :
    (let o := { stepOf 1 with decode := [StepSeq.stopped (BitVec.ofNat 64 (own 9)) 1 0] }
     o.works ≠ [] ∧ ∀ w ∈ o.works, supplied.written o.eosEmpty w = true) ∧
    (let s := issuing coreOne 0
     let o := { stepOf 1 with
       decode := [], prefill := some ⟨BitVec.ofNat 64 (own 1), 2, false, none, 1, 0⟩ }
     ∃ w, o.works = [] ++ w :: [] ∧ s.written o.eosEmpty w = false) := by
  refine ⟨by decide +kernel, _, rfl, by decide +kernel⟩

/-- The epoch may open; a walk 2^30 epochs old is unretired; the quarantine is full. -/
theorem test_epoch_clauses :
    (let s := stepping none
     s.faulted = false ∧ s.epochs.walks = [] ∧ s.quarantined < 4194304) ∧
    (let s := { stepping none with epochs := { Epochs.reset with epoch := 0x3FFFFFFF, walks := [0] } }
     s.epochs.walks = [0] ∧ (s.epochs.epoch + 1 - 0).toNat = 2 ^ 30) ∧
    (let s := { stepping none with epochs := { Epochs.reset with epoch := 0x3FFFFFFE, walks := [0] } }
     s.epochs.walks = [0] ∧ (s.epochs.epoch + 1 - 0).toNat = 2 ^ 30 - 1) ∧
    (let s := { stepping none with epochs := { Epochs.reset with quarantine := [⟨1, 4194304, 0, false⟩] } }
     s.quarantined = 4194304) := by
  decide +kernel

/-- A seal that is written and waits for nothing, and one not taken yet. -/
def sealingOne (cause : SealCause) (done : Bool) : Sealing :=
  { Sealing.new cause with taken := if done then some ⟨1, 0, false, [], []⟩ else none }

/-- `served` with a table that is mirrored over two ranks. -/
def mirroredOne : State :=
  { supplied with sheaf := { supplied.sheaf with tables := [{ tableOne with flags := 5 }] } }

theorem test_boundary_clauses :
    supplied.job.state ≠ 0 ∧ supplied.job.state ≠ 3 ∧ supplied.faulted = false ∧ supplied.mirrored = false ∧
    2 ≤ held.power.pstate ∧ held.job.state ≠ 0 ∧ held.job.state ≠ 3 ∧ held.faulted = false ∧
    (mirroredOne.mirrored = true ∧ mirroredOne.power.pstate < 2 ∧ mirroredOne.sheaf.closing = none ∧
      mirroredOne.job.rank ∉ (mirroredOne.barrierAt 63).ranks ∧ (mirroredOne.barrierAt 63).group = none) ∧
    (let s := supplied.modSheaf (fun x => { x with due := true })
     s.sheaf.due = true ∧ s.boundaryReady = true ∧ s.sheaf.again = false) ∧
    (let s := supplied.modSheaf (fun x => { x with due := true, again := true })
     s.sheaf.due = true ∧ s.boundaryReady = true ∧ s.sheaf.again = true) ∧ supplied.sheaf.again = false ∧
    (let s := supplied.modSheaf (fun x => { x with due := true, closing := some Batch.empty })
     s.sheaf.due = true ∧ s.boundaryReady = false) ∧ supplied.sheaf.due = false ∧ supplied.rowsHeld = false ∧
    (∀ x ∈ supplied.granary.directory, x.sealing = [] ∧ x.after = []) := by decide +kernel

theorem test_seal_clauses :
    faulty.faulted = true ∧
    (∀ b ∈ [true, false], let s := withSession 1 (fun x => { x with sealing := [sealingOne .automatic b] })
     (s.session? (BitVec.ofNat 64 (own 1))).map (·.sealing) = some (sealingOne .automatic b :: []) ∧
       s.sealDone (sealingOne .automatic b) = b ∧ s.job.state ≠ 3) ∧
    (let s := { withSession 1 (fun x => { x with changed := true }) with areas := [{ areaOne with sealMs := 1 }] }
     let x := s.sessionOf (rec 0 1 (own 1) [])
     s.session? (BitVec.ofNat 64 (own 1)) = some x ∧ x.resident = true ∧ x.changed = true ∧ x.sealing = [] ∧
       (s.area (handleTenant (BitVec.ofNat 64 (own 1)))).sealMs ≠ 0) ∧
    (supplied.sessionOf (rec 0 1 (own 1) [])).changed = false := by decide +kernel

/-- Seals of an automatic interval and of SEAL that SEAL_COMPLETE ends. -/
theorem test_seal_ends : ∀ cause ∈ [.automatic, .seal 1 true, .seal 1 false],
    let q := sealingOne cause true
    let s := withSession 1 (fun x => { x with sealing := [q] })
    let x := s.sessionOf (rec 0 1 (own 1) [])
    s.session? (BitVec.ofNat 64 (own 1)) = some x ∧ x.state ≠ 7 ∧ x.after = [] ∧ x.sealing = q :: [] ∧
      q.taken = some ⟨1, 0, false, [], []⟩ ∧ q.sent = false ∧ q.awaits = [] ∧ q.writes = [] := by decide +kernel

/-- The slowdown window is full, and one step short. -/
theorem test_slow_clauses : ∀ n ∈ [63, 64],
    let s := { supplied with job := { supplied.job with slowSteps := n, slowWindow := 64 } }
    s.job.state ≠ 0 ∧ s.faulted = false ∧ (s.job.slowWindow ≤ s.job.slowSteps ↔ n = 64) ∧
      (s.job.slowSteps < s.job.slowWindow ↔ n = 63) := by decide +kernel

/-- A quarantined frame with no walk; a wait with a limit; an open window with a bale held and one not. -/
theorem test_release_clauses :
    (let s := { withTally 0 (some 1) with
        sync := { Sync.reset with tallies := [⟨4096, some 1, 0, [.core 2, .record 1 5]⟩] },
        running := [Running.mk 1 read7 0 [] 0] }
     (s.tally 4096).waiters = [.core 2] ++ .record 1 5 :: [] ∧ s.timesOut 0 1 (.core 2) = false ∧
       (s.running? 1).any (fun r => r.record.ring == 0 && r.record.seq == 1) = true) ∧
    (supplied.tally 4096).waiters = [] ∧
    (withWindow.window? 3).isSome ∧ withWindow.faulted = false ∧
    (withWindow.window? 3).map (·.bales) = some 4 ∧ (withWindow.window? 3).map (·.held) = some [] ∧
    (withWindow.window? 3).map (·.frames) = some 2 ∧
    (let s := { supplied with tiers := { supplied.tiers with
        windows := [⟨3, 1, 0x2000000, 0, 4, 2, [⟨1, false, 0⟩], 0, 0⟩] } }
     (s.window? 3).map (·.held) = some [⟨1, false, 0⟩]) ∧
    (∀ d ∈ [true, false], let w : Window := ⟨3, 1, 0x2000000, 0, 4, 2, [⟨1, false, 7⟩, ⟨0, d, 6⟩], 7, 0⟩
     let s := { supplied with tiers := { supplied.tiers with windows := [w] } }
     s.window? 3 = some w ∧ s.faulted = false ∧ 3 < w.bales ∧ (∀ x ∈ w.held, x.bale ≠ 3) ∧
       w.frames ≤ w.held.length ∧ w.victim = some ⟨0, d, 6⟩) := by decide +kernel

/-! ### Witnesses: the dictionary -/

/-- The checks of `Allows` on the management port's route. -/
def allows (s : State) (index sub : Nat) (v : U64) : Bool :=
  s.serves 1 && s.power.pstate != 3 && s.writeStatus 1 index sub v.toNat == stOk

theorem allows_iff {s : State} {index sub : Nat} {v : U64} : allows s index sub v = true ↔ Allows s 1 index sub v := by
  simp only [allows, Bool.and_eq_true, bne_iff_ne, beq_iff_eq]
  exact ⟨fun h => ⟨h.1.1, h.1.2, h.2⟩, fun h => ⟨⟨h.1, h.2.1⟩, h.2.2⟩⟩

def withPart (f : Partn → Partn) : State := { supplied with part := f supplied.part }

/-- The presence jumper is fitted. -/
def present : State := withPart (fun p => { p with jumper := true })

/-- The partition takes staged bytes. -/
def stagingState : State := withPart (fun p => { p with spState := 1, stageOff := 8, staged := 8 })

def paired : State := { supplied with pairing := { Pairing.reset with state := 2 } }

/-- Nothing runs and no job holds the cores. -/
def idle : State :=
  { State.reset with
    startUp := { StartUp.reset with stage := 7 }, link := supplied.link, tiers := { Tiers.reset with mode := 0 } }

def tenantOf1 : State := { supplied with dict := { supplied.dict with selectors := [((1, 0x3000, 1), 1)] } }

/-- Objects, subindices, values and states of the writes that AcceptedWrites names. -/
def allowedWrites : List (State × Nat × Nat × U64) :=
  [(supplied, cmdObj 63, 1, 1), (supplied, cqObj 63, 1, 1), (supplied, cmdObj 63, 1, 0), (supplied, cqObj 63, 1, 0),
   (supplied, 0x1127, 1, 0), (present, 0x8010, 3, 0), (supplied, 0x1020, 6, 1), (present, 0x8100, 1, 1),
   (present, 0x8100, 1, 2), (present, 0x8100, 1, 3), (present, 0x8100, 1, 4), (present, 0x8100, 1, 5),
   (stagingState, 0x8110, 1, 0), (stagingState, 0x8110, 2, 0x0102030405060708), (supplied, 0x7100, 1, 1),
   (supplied, 0x7100, 2, 1), (supplied, 0x7010, 1, 1), (supplied, 0x7014, 1, 1), (idle, 0x2000, 9, 1),
   (supplied, 0x11C0, 3, 1), (supplied, 0x1127, 1, 1), (supplied, 0x11C8, 1, 1), (paired, 0x11C8, 5, 1),
   (tenantOf1, 0x3000, 1, 1), (supplied, 0x2400, 5, 1), (supplied, 0x5000, 3, 1), (supplied, 0x7000, 2, 1),
   (tenantOf1, 0x3010, 4, 1), (tenantOf1, 0x3010, 5, 1)]

theorem test_allowed_writes : ∀ x ∈ allowedWrites, Allows x.1 1 x.2.1 x.2.2.1 x.2.2.2 := by
  have h : allowedWrites.all (fun x => allows x.1 x.2.1 x.2.2.1 x.2.2.2) = true := by decide +kernel
  exact fun x hx => allows_iff.1 (List.all_eq_true.1 h x hx)

theorem test_tenant_selected : (tenantOf1.tenant? (tenantOf1.selectedTenant 1)).isSome ∧
    supplied.setting (cmdObj 63) 1 ≠ 1 ∧ supplied.setting (cqObj 63) 1 ≠ 1 ∧ idle.power.holdWhy = 0 ∧
    routeSub 0x3000 1 = true ∧ (cmdObj 63 < 0x1180 ∧ 0x7010 ≤ 0x7014) := by decide +kernel

/-- Writes that are refused with each status of Table 16-3, and a route that is not served. -/
theorem test_refused_writes :
    supplied.writeStatus 1 0x7100 200 1 = stNotSupported ∧
    ({ supplied with startUp := { supplied.startUp with stage := 0xFF } }).writeStatus 1 (cmdObj 1) 1 1 = stNotSupported ∧
    supplied.writeStatus 1 0x7100 3 1 = stDenied ∧ supplied.writeStatus 1 0x11C0 1 1 = stDenied ∧ supplied.writeStatus 1 0x8100 1 1 = stPresence ∧
    present.writeStatus 1 0x8100 1 6 = stBadParam ∧ supplied.writeStatus 1 (cmdObj 1) 1 2 = stBadParam ∧
    supplied.writeStatus 1 0x8110 1 0 = stWrongState ∧ supplied.serves 1 = true ∧ supplied.power.pstate ≠ 3 ∧
    State.reset.serves 1 = false := by decide +kernel

/-- The staging area: the last doubleword, the end, an odd offset, a partition that runs, and 62 V. -/
theorem test_staging_clauses :
    stagingState.writeStatus 1 0x8110 1 (stageSize - 8) = stOk ∧ stagingState.writeStatus 1 0x8110 1 stageSize = stBadParam ∧
    stagingState.writeStatus 1 0x8110 1 4 = stBadParam ∧ supplied.part.spState ≠ 1 ∧
    supplied.part.stageOff < stageSize ∧
    ({ stagingState with power := { Power.reset with nvInhibit := true } }).power.nvInhibit = true := by decide +kernel

/-- Keys: debug unlocked; a blob's bytes in reach, and out of it; a tenant with sessions, and one without. -/
theorem test_key_clauses :
    (let s := { tenantOf1 with part := { Partn.reset with debug := true } }
     allows s 0x3010 4 1 = true ∧ s.part.debug = true) ∧
    (tenantOf1.part.debug = false ∧ tenantOf1.part.spState ≠ 1 ∧ tenantOf1.t2Ok tenantOne.keySrc.toNat 1664 = true ∧
      tenantOf1.inWindow tenantOne.keySrc.toNat 1664 = false) ∧
    ({ tenantOf1 with link := { tenantOf1.link with t2Size := 0 } }).t2Ok 0 1664 = false ∧
    (allows idle 0x3010 4 1 = true ∧ allows idle 0x3010 5 1 = true ∧ idle.tenant? (idle.selectedTenant 1) = none) ∧
    tenantOf1.keyBusy 1 = true ∧
    (let s := { tenantOf1 with granary := Granary.reset }
     s.keyBusy 1 = false ∧ allows s 0x3010 5 1 = true) := by decide +kernel

/-- A frame for the module with one entry that reads object 0x1000. -/
def frameOne : MgmtFrame :=
  ⟨supplied.ident.mac, 5, BitVec.ofNat 16 (supplied.setting 0x1100 3), false, true,
    [1, 0, 1, 0, 9, 0, 0, 0, 1, 0, 0, 0x10, 1, 0, 0, 0] ++ List.replicate 8 0⟩

theorem test_frame_clauses :
    supplied.serves 1 = true ∧ supplied.takesFrame frameOne = true ∧ frameOk frameOne = true ∧
    supplied.takesFrame { frameOne with vlan := true } = false ∧ frameOk { frameOne with fcsGood := false } = false ∧
    supplied.mgmt.kept = [] ∧ supplied.bufferFull = false ∧
    4 ≤ ({ supplied with mgmt := { Mgmt.reset with rxFrames := 4 } }).mgmt.rxFrames.toNat ∧
    (let s := { supplied with mgmt := { Mgmt.reset with kept := [⟨5, 9, 0, []⟩] } }
     s.mgmt.kept.find? (fun (x : KeptFrame) => x.src == frameOne.src &&
       x.xid == BitVec.ofNat 32 (bytesLe frameOne.payload 4 4)) = some ⟨5, 9, 0, []⟩) ∧
    (let s := { supplied with dict := { supplied.dict with queue := [((0x1100, 2), 1)] } }
     s.power.nvInhibit = false ∧ s.held = false ∧
       s.dict.queue.find? (fun e => e.1 == (0x1100, 2)) = some ((0x1100, 2), 1)) ∧ supplied.dict.queue = [] := by
  decide +kernel

/-- Quotes that can be written and not, each trust operation under way, below 62 V, and Sleep. -/
theorem test_operation_clauses :
    supplied.part.qstate ≠ 1 ∧ supplied.part.result ≠ 1 ∧
    (let s := withPart (fun p => { p with qstate := 1, quoteDest := 0x10000 })
     s.part.qstate = 1 ∧ s.part.spState ≠ 1 ∧ s.linkUp = true ∧ s.part.quoteDest % 64 = 0 ∧
       s.t2Ok s.part.quoteDest 18944 = true) ∧
    (withPart (fun p => { p with qstate := 1, quoteDest := 1 })).part.quoteDest % 64 ≠ 0 ∧
    (∀ n ∈ [1, 2, 3, 4, 5], ∀ o ∈ [true, false], let s := withPart (fun p => { p with result := 1, op := n, opened := o })
     s.part.result = 1 ∧ s.part.op = n ∧ s.part.opened = o ∧ s.power.nvInhibit = false ∧
       s.t2Ok s.part.opDest 17216 = true) ∧
    (∀ n ∈ [1, 2, 3, 5], let s := { withPart (fun p => { p with result := 1, op := n }) with
        power := { Power.reset with nvInhibit := true } }
     s.part.result = 1 ∧ s.part.op = n ∧ s.power.nvInhibit = true) ∧
    (∀ b ∈ [true, false], let s := { supplied with power := { Power.reset with pstate := 3, waking := b } }
     s.power.pstate = 3 ∧ s.power.waking = b) := by decide +kernel

/-! ### Witnesses: faults, peer ports, pairing, power and start-up -/

/-- Sources 93 and 94; a module that is faulted; a bit that stays set while its source asserts; a restart owed. -/
theorem test_fault_clauses : (94 : Nat) ≤ 94 ∧ (93 : Nat) < 94 ∧ supplied.faulted = false ∧ faulty.faulted = true ∧
    (let s := { supplied with faults := { Faults.reset with sticky := 3, live := 1 } }
     (s.faults.sticky &&& ~~~((3 : BitVec 96) &&& ~~~s.faults.live)) ≠ 0) ∧
    (let s := { supplied with faults := { Faults.reset with sticky := 3, live := 0 } }
     s.faulted = true ∧ (s.faults.sticky &&& ~~~((3 : BitVec 96) &&& ~~~s.faults.live)) = 0 ∧ s.job.state ≠ 3) ∧
    supplied.faults.owed = false ∧ ({ State.reset with faults := { Faults.reset with owed := true } }).linkUp = false ∧
    (let s := { supplied with faults := { Faults.reset with owed := true } }
     s.faults.owed = true ∧ s.faulted = false ∧ s.linkUp = true) := by decide +kernel

/-- Port `p` in a state. -/
def ported (s : State) (p n : Nat) : State :=
  s.modPort p (fun x => { x with state := n, lanesOk := 0xFF, nbrRank := 1, nbrJob := s.job.jobId })

/-- Channel 191 is trained: a controller may assert for a line of it. -/
theorem test_line_fault : (191 : Nat) < 192 ∧
    (({ supplied with channels := supplied.channels.set 191 { Channel.reset with trained := true } } : State).channel
      191).trained = true := by decide +kernel

theorem test_port_clauses :
    (ported supplied 3 4).portTrains 3 = false ∧
    supplied.portTrains 3 = true ∧ peerLanes (supplied.port 3).maxWidth 0 = none ∧
    (faulty.portTrains 3 = true ∧ faulty.faulted = true ∧ (peerLanes (faulty.port 3).maxWidth 0xFF).isSome) ∧
    ((ported supplied 3 4).port 3).state = 4 ∧ ((ported supplied 3 2).port 3).state = 2 ∧
    ((ported supplied 7 3).port 7).state = 3 ∧ (supplied.port 3).waiting = [] ∧
    (((ported supplied 0 2).port 0).state = 2 ∧ ((ported supplied 0 3).port 0).state = 3) ∧
    ({ supplied with power := { Power.reset with pstate := 2 } } : State).power.pstate = 2 ∧
    (let s := ported { supplied with job := { supplied.job with jobId := 7, ranks := 2, dims := (2, 1, 1) } } 1 2
     let u := s.modPort 1 (fun x => { x with nbrJob := 9, nbrRank := 1, state := 2 })
     let v := s.modPort 1 (fun x => { x with nbrJob := 7, nbrRank := 1, state := 2 })
     u.portForeign 1 = true ∧ u.onRoute 1 = true ∧ v.portForeign 1 = false ∧ s.job.state ≠ 0) ∧
    ((supplied.modPort 3 (fun x => { x with waiting := [.jtag 0] })).port 3).waiting ≠ [] ∧
    (supplied.port 3).state ≠ 2 ∧ (supplied.port 3).state ≠ 3 ∧
    ((ported faulty 3 2).modPort 3 (fun x => { x with nbrJob := 9, nbrRank := 1 })).portForeign 3 = true ∧
    ((ported faulty 7 2).modPort 7 (fun x => { x with nbrJob := 0, nbrRank := 1 })).portForeign 7 = false ∧
    ((ported supplied 3 2).port 3).lanesOk &&& (0x000F : U16).setWidth 8 ≠ ((ported supplied 3 2).port 3).lanesOk ∧
    (peerLanes ((ported supplied 3 2).port 3).maxWidth ((0x000F : U16).setWidth 8)).isSome ∧
    peerLanes ((ported supplied 3 2).port 3).maxWidth ((0 : U16).setWidth 8) = none := by decide +kernel

/-- Traffic to another rank and to this one, a port that is foreign, slack, and barriers with and without arrivals. -/
theorem test_traffic_clauses :
    ((ported supplied 7 3).port 7).state = 3 ∧
    (let s := ported supplied 7 2
     (s.port 7).state = 2 ∧ s.faulted = false ∧ s.job.state ≠ 0 ∧ 1 ≠ s.job.rank ∧ 0 = s.job.rank ∧ 7 ∈ s.slackPorts) ∧
    ((ported faulty 7 2).port 7).state = 2 ∧ Takes (ported supplied 7 2) 7 1 ∧
    (let s := ported { supplied with power := { Power.reset with pstate := 2 } } 7 2
     (s.port 7).state = 2 ∧ 2 ≤ s.power.pstate) ∧ (supplied.barrierAt 5).cores = [] ∧ (supplied.barrierAt 5).ranks = [] ∧
    ((withBarrier { Barrier.reset with cores := [0] }).barrierAt 5).cores ≠ [] := by decide +kernel

/-- An arrival of rank 1 at barrier 5, in epoch `e`. -/
def arrival (e : U64) : SyncMsg := ⟨5, e, 1, false, 0, [0, 1]⟩

/-- The job's traffic: arrivals of an earlier, a later and the barrier's own epoch, a part of a collective, and a
mirrored seal and its receipt while the module is PAIRED and while it is not. -/
theorem test_arrival_clauses :
    (let s := ported { supplied with sync := { Sync.reset with
        barriers := Sync.reset.barriers.set 5 { Barrier.reset with epoch := 4 } } } 7 2
     (s.port 7).state = 2 ∧ s.faulted = false ∧ s.job.state ≠ 0 ∧ s.job.state ≠ 3 ∧ s.sheaf.due = false ∧
       s.sheaf.again = false ∧ Takes s 7 0 ∧ (arrival 3).epoch.toNat < (s.barrierAt 5).epoch.toNat ∧ (s.barrierAt 5).epoch.toNat < (arrival 5).epoch.toNat ∧
       (arrival 4).epoch = (s.barrierAt 5).epoch ∧ (arrival 4).release = false ∧ s.job.rank ∈ (arrival 4).ranks ∧
       (arrival 4).src ≠ s.job.rank ∧ s.job.rank ∉ (s.barrierAt 5).ranks ∧ (arrival 4).src ∉ (s.barrierAt 5).ranks ∧
       (s.barrierAt 5).group = none ∧ (s.barrierAt 5).parts = []) ∧
    (∀ n ∈ [1, 2], let s := { ported supplied 0 2 with pairing := { Pairing.reset with state := n } }
     (s.port 0).state = 2 ∧ s.faulted = false ∧ (s.pairing.state = 2 ↔ n = 2) ∧ Takes s 0 1 ∧
       ∀ more ∈ [true, false], s.waitsIv ⟨0, 0, 1, 0, 0, false, [], [], more⟩ 0 = false) ∧
    supplied.keysAgree ⟨0, 0, 1, 0, 0, false, [], [], false⟩ = false := by decide +kernel

/-- A last mirrored seal that waits: below 62 V, with no invocation reserved and its manifest still to write. -/
theorem test_mirrored_waits :
    let m : MovedSession := ⟨BitVec.ofNat 64 (own 1), 1, 1, 0, keyId 0x1234, true, [], [], false⟩
    let s := { ported supplied 0 2 with
      tenants := [{ tenantOne with key := some ⟨0x1234, true⟩ }], areas := [areaOne],
      pairing := { Pairing.reset with state := 2 }, power := { Power.reset with nvInhibit := true },
      part := { supplied.part with ivNext := 5, ivReserve := 5 } }
    (s.port 0).state = 2 ∧ s.pairing.state = 2 ∧ m.more = false ∧ s.keysAgree m = true ∧
      s.faulted = false ∧ (s.area (handleTenant m.session)).takes (storeNeed m.objects 1) = true ∧
      s.ivsOk (ceilDiv 1 818) = false := by
  refine ⟨by decide +kernel, rfl, rfl, ?_, by decide +kernel, by decide +kernel, by decide +kernel⟩
  have h : handleTenant (BitVec.ofNat 64 (own 1)) = 1 := by decide
  simp [State.keysAgree, State.tenantKey, State.tenant?, h, tenantOne, Tenant.fresh]

/-- A pairing message of an opcode, with the module's own firmware generation. -/
def pairingMessage (op gen : Nat) : Message := setField (setField 0 0 1 op) 4 4 gen

/-- Port 0 up and pairing in a state. -/
def twin (n : Nat) (ready : Bool) : State :=
  { ported supplied 0 2 with pairing := { Pairing.reset with state := n, readySent := ready } }

theorem test_pairing_clauses :
    ((ported supplied 3 2).port 3).state = 2 ∧
    (∀ n ∈ [1, 2, 3], ((twin n true).port 0).state = 2 ∧ (twin n true).pairing.state = n ∧ Takes (twin n true) 0 4) ∧
    (let s := { twin 1 true with power := { Power.reset with pstate := 3 } }
     (s.port 0).state = 2 ∧ 2 ≤ s.power.pstate) ∧
    0x60 ≤ field (pairingMessage 0x60 1) 0 1 ∧ field (pairingMessage 0x64 1) 0 1 ≤ 0x64 ∧
    (twin 1 false).helloFault (pairingMessage 0x60 1) = 0 ∧ (twin 1 false).helloFault (pairingMessage 0x60 2) ≠ 0 ∧
    (twin 1 true).pairing.readySent = true ∧ (twin 1 false).pairing.readySent = false ∧ (twin 1 true).faulted = false ∧
    faulty.pairing.state = 0 ∧ (State.reset.port 0).state = 0 ∧ supplied.linksRun = true := by decide +kernel

/-- Each cause of Hold asserted alone and beside another, and not asserted. -/
theorem test_hold_clauses :
    (∀ c ∈ [0, 1, 2], (let s := { supplied with power := { Power.reset with pstate := 2, holdWhy := BitVec.ofNat _ (2 ^ c) } }
      s.power.holdWhy.getLsbD c = true ∧ putBit s.power.holdWhy c false = 0) ∧
     (let s := { supplied with power := { Power.reset with pstate := 2, holdWhy := BitVec.ofNat _ (2 ^ c + 16) } }
      s.power.holdWhy.getLsbD c = true ∧ putBit s.power.holdWhy c false ≠ 0) ∧
     supplied.power.holdWhy.getLsbD c = false) ∧
    (supplied.putSetting 0x8010 3 1).setting 0x8010 3 = 1 ∧ supplied.power.regulator = false ∧
    ({ supplied with power := { Power.reset with regulator := true } }).power.regulator = true ∧
    ({ supplied with power := { Power.reset with rackLow := true } }).power.rackLow = true ∧
    supplied.power.rackLow = false ∧ 2 ≤ held.power.pstate := by decide +kernel

/-- A package that reads above its rating, 4 °C below it, 5 °C below it as the last hot one, and beside another. -/
theorem test_package_clauses : (85 : Int) < 86 ∧ (81 : Int) ≤ 85 ∧ (85 : Int) < 81 + 5 ∧ (80 : Int) + 5 ≤ 85 ∧
    (let s := { supplied with power := { Power.reset with hotPackages := [23] } }
     (∀ q ∈ s.power.hotPackages, q = 23) ∧ ∃ q ∈ s.power.hotPackages, q ≠ 22) := by decide +kernel

/-- The hypotheses of ThrottleAndEnergy at throttle 0 and 30, with no trip; nothing runs; a job and none. -/
theorem test_power_clauses :
    supplied.power.throttle ≤ 30 ∧ ({ supplied with power := { Power.reset with throttle := 30 } }).power.throttle ≤ 30 ∧
    supplied.power.holdWhy.getLsbD 3 = false ∧ supplied.power.pstate = 0 ∧ supplied.quiet = true ∧
    (stepping none).quiet = false ∧ supplied.job.state ≠ 0 ∧ State.reset.job.state = 0 := by decide +kernel

theorem test_reset_clauses : supplied.startUp.mated = true ∧
    ({ supplied with startUp := { supplied.startUp with mated := false } }).startUp.mated = false ∧ supplied.inbox = [] := by
  decide

/-- A module in each stage of start-up, with the link up. -/
def staged (n : Nat) : State := { supplied with startUp := { StartUp.reset with stage := n } }

/-- Each stage, at boundary values of what start-up finds. -/
theorem test_start_up_clauses :
    (∀ n ∈ [0, 1, 2, 3, 4, 5, 6, 7], (staged n).faulted = false ∧ (staged n).held = false ∧
      (staged n).startUp.halted = false ∧ (staged n).startUp.stage = n) ∧
    (staged 2).linkUp = true ∧ ({ staged 2 with link := CohLink.reset }).linkUp = false ∧
    ({ staged 1 with link := CohLink.reset }).link.state = 0 ∧ wholeBoard.romOk = true ∧
    ({ wholeBoard with romOk := false }).romOk = false ∧ ((staged 0).bootedSlot 1 0).isSome ∧
    ((staged 0).bootedSlot 0 0).isSome ∧ (staged 0).bootedSlot 1 2 = none ∧ (staged 0).bootedSlot 0 2 = none ∧

    ({ staged 0 with startUp := { StartUp.reset with halted := true } }).startUp.halted = true ∧
    ({ staged 0 with startUp := { StartUp.reset with resetLow := true } }).held = true ∧
    faulty.faulted = true := by decide +kernel

/-- Stage 5: no report is asked for, none fits, one fits, and its line is acknowledged or not. -/
theorem test_report_clauses :
    ((staged 5).startUp.report = none ∧ (staged 5).setting 0x11C0 4 = 0 ∧ (staged 5).reportFits 1 = false) ∧
    (let s := (staged 5).putSetting 0x11C0 4 0x10000000
     s.startUp.stage = 5 ∧ s.startUp.report = none ∧ s.setting 0x11C0 4 ≠ 0) ∧
    (staged 5).reportFits 0x10000000 = true := by decide +kernel

/-- The report's lines are awaited: those of `l` are still owed. -/
def awaiting (l : List U16) : State :=
  { staged 5 with
    startUp := { (staged 5).startUp with report := some [3] }, link := { (staged 5).link with writes := l } }

theorem test_report_waits : (∀ l ∈ ([[], [3]] : List (List U16)), (awaiting l).startUp.report = some [3] ∧
    (awaiting l).startUp.stage = 5) ∧ 3 ∈ (awaiting [3]).link.writes ∧ 3 ∉ (awaiting []).link.writes := by decide +kernel

/-- A channel that is trained and scrubbed, one that is not, and one that retrains. -/
def channelled (c : Channel) : State := { supplied with channels := supplied.channels.set 191 c }

theorem test_channel_clauses :
    (let s := (channelled { Channel.reset with trained := true }).putSetting 0x2400 5 1
     (s.channel 191).trained = true ∧ s.power.pstate < 2 ∧ s.setting 0x2400 5 ≠ 0) ∧
    (let s := { channelled { Channel.reset with trained := true } with power := { Power.reset with pstate := 2 } }
     (s.channel 191).trained = true ∧ 2 ≤ s.power.pstate ∧ s.power.pstate ≠ 3) ∧
    (let s := (channelled { Channel.reset with trained := true, recent := 5 }).putSetting 0x2400 6 5
     s.setting 0x2400 6 < (s.channel 191).recent + 1) ∧
    (supplied.channel 191).trained = false ∧ (supplied.channel 191).retraining = false ∧
    ((channelled { Channel.reset with retraining := true }).channel 191).retraining = true := by decide +kernel

theorem test_debug_clauses : supplied.part.debug = false ∧
    (withPart (fun p => { p with debug := true })).part.debug = true := by decide +kernel

/-! ### More single steps -/

/-- ADD wraps: 2^64 − 1 plus 7 is 6 (Table 7-12). -/
theorem test_add_wraps : (match exec (.add 0 (word 1 0 [(115, 9), (110, 8), (105, 2)]))
      (issuing coreOne (word 1 0 [(115, 9), (110, 8), (105, 2)])) with
    | .next t => (t.vcore? 0).map (fun c => (c.reg 9, c.pc)) == some (6, 1)
    | _ => false) = true := by decide +kernel

/-- SHL takes the low 6 bits of its count: by 64 it changes nothing. -/
theorem test_shl_modulo : (match exec (.shl 0 (word 1 6 [(115, 9), (110, 2), (104, 1), (72, 64)]))
      (issuing coreOne (word 1 6 [(115, 9), (110, 2), (104, 1), (72, 64)])) with
    | .next t => (t.vcore? 0).map (fun c => c.reg 9) == some 7
    | _ => false) = true := by decide +kernel

/-- A write to s0 is discarded (R203). -/
theorem test_s0 : (match exec (.loadi 0 (word 1 8 [(40, 5)])) (issuing coreOne (word 1 8 [(40, 5)])) with
    | .next t => (t.vcore? 0).map (fun c => c.reg 0) == some 0
    | _ => false) = true := by decide +kernel

/-- FP32 arithmetic: the larger of 1 and −1 is 1, 1 + 1 = 2 and 3 · 2 = 6. -/
theorem test_formats : max32 0x3F800000 0xBF800000 = 0x3F800000 ∧ add32 0x3F800000 0x3F800000 = 0x40000000 ∧
    mul32 0x40400000 0x40000000 = 0x40C00000 := by decide +kernel

/-- IDCODE (R532). -/
theorem test_idcode : (match exec .idcode supplied with
    | .next t => t.sent.head? == some (.jtag 0x1009C4AF)
    | _ => false) = true := by decide +kernel

/-- Source 0 asserted puts the module in the fault state, which a reader of `sticky` sees. -/
theorem test_fault_state : (match exec (.faultSourceAssert 0 .asserted) supplied with
    | .next t => t.faulted && t.faults.sticky.getLsbD 0 && t.faults.faultStates == 1
    | _ => false) = true := by decide +kernel

end Sys2Proof.Tests
end

section
/-!
What link traffic and posts to completion rings leave alone (01 R18, 11 R384, 13 R387): one frame for each, from
which every other field's is read off.
-/

namespace Sys2Proof.Machine

/-! ### Link traffic -/

/-- `s` without companion memory and the coherent link's traffic: what a write or a read of lines leaves alone. -/
def State.besideLink (s : State) : State :=
  { s with t2 := State.reset.t2, link := State.reset.link, layers := State.reset.layers, sent := State.reset.sent }

theorem sendLineOf_besideLink (s : State) (slot : Bool) (addr : Nat) :
    (State.sendLineOf slot s addr).besideLink = s.besideLink := rfl

theorem foldl_sendLineOf_besideLink (s : State) (slot : Bool) (l : List Nat) :
    (l.foldl (State.sendLineOf slot) s).besideLink = s.besideLink :=
  foldl_keeps (P := fun t => t.besideLink = s.besideLink) rfl (fun _ _ h => h)

theorem sendLines_besideLink (s : State) (a n : Nat) : (s.sendLines a n).besideLink = s.besideLink := by
  induction n generalizing s a with
  | zero => rfl
  | succ n ih => exact ih (s.sendLine a) (a + 64)

theorem writeT2_besideLink (s : State) (addr : Nat) (bs : List Byte) :
    (s.writeT2 addr bs).besideLink = s.besideLink := by
  unfold State.writeT2
  split
  · rfl
  · exact sendLines_besideLink { s with t2 := writeBytes s.t2 addr bs } _ _

theorem writeConsumer_besideLink (s : State) (n : Nat) : (s.writeConsumer n).besideLink = s.besideLink :=
  writeT2_besideLink s _ _

theorem sendRead_besideLink (s : State) (addr : Nat) (use : ReadUse) :
    (s.sendRead addr use).besideLink = s.besideLink := rfl

theorem dropWatch_besideLink (s : State) (addr : Nat) : (s.dropWatch addr).besideLink = s.besideLink := by
  unfold State.dropWatch
  split <;> rfl

/-! ### Fields beside the link -/

section
variable {s t : State} (h : t.besideLink = s.besideLink)
include h

theorem cmdRings_of_besideLink : t.cmdRings = s.cmdRings :=
  (congrArg State.cmdRings h :)

theorem cqRings_of_besideLink : t.cqRings = s.cqRings :=
  (congrArg State.cqRings h :)

theorem dict_of_besideLink : t.dict = s.dict :=
  (congrArg State.dict h :)

theorem part_of_besideLink : t.part = s.part :=
  (congrArg State.part h :)

end

theorem setting_of_besideLink {s t : State} (h : t.besideLink = s.besideLink) (i x : Nat) :
    t.setting i x = s.setting i x := by
  rw [State.setting, dict_of_besideLink h, State.setting]

theorem cmdRing_of_besideLink {s t : State} (h : t.besideLink = s.besideLink) (n : Nat) :
    t.cmdRing n = s.cmdRing n := by
  rw [State.cmdRing, cmdRings_of_besideLink h, State.cmdRing]

theorem cqRing_of_besideLink {s t : State} (h : t.besideLink = s.besideLink) (n : Nat) : t.cqRing n = s.cqRing n := by
  rw [State.cqRing, cqRings_of_besideLink h, State.cqRing]

/-! ### Posts -/

/-- `s` without what a post to a completion ring may change. -/
def State.besidePosts (s : State) : State :=
  { s.besideLink with
    cqRings := State.reset.cqRings, running := State.reset.running, tenants := State.reset.tenants,
    causes := State.reset.causes, faults := { s.faults with due := State.reset.faults.due } }

theorem endRecord_besidePosts (s : State) (done : Option (Nat × Nat)) :
    (s.endRecord done).besidePosts = s.besidePosts := by
  unfold State.endRecord
  split
  · rfl
  · exact foldl_keeps (P := fun t => t.besidePosts = s.besidePosts) rfl (fun t r h => by split <;> exact h)

theorem besidePosts_of_besideLink {s t : State} (h : t.besideLink = s.besideLink) : t.besidePosts = s.besidePosts :=
  congrArg (fun u : State => { u with
    cqRings := State.reset.cqRings, running := State.reset.running, tenants := State.reset.tenants,
    causes := State.reset.causes, faults := { u.faults with due := State.reset.faults.due } }) h

theorem modCq_modLink_besidePosts (s : State) (c : Nat) (f : CqRing → CqRing) (g : CohLink → CohLink) :
    ((s.modCq c f).modLink g).besidePosts = s.besidePosts := rfl

theorem setCq_besidePosts (s : State) (c : Nat) : (s.setCq c).besidePosts = s.besidePosts := rfl

theorem due_besidePosts (s : State) (l : List Nat) :
    State.besidePosts { s with faults := { s.faults with due := l } } = s.besidePosts := rfl

theorem writePost_besidePosts (s : State) (p : Post) : (s.writePost p).besidePosts = s.besidePosts := by
  have hsent (m : Mem) (l : List Nat) :
      (l.foldl (State.sendLineOf true) { s with t2 := m }).besidePosts = s.besidePosts :=
    besidePosts_of_besideLink (foldl_sendLineOf_besideLink { s with t2 := m } true l)
  unfold State.writePost
  dsimp only
  split <;> split <;>
    simp only [due_besidePosts, setCq_besidePosts, modCq_modLink_besidePosts, hsent]

theorem post_besidePosts (s : State) (p : Post) : (s.post p).besidePosts = s.besidePosts := by
  unfold State.post
  dsimp only
  split
  · exact endRecord_besidePosts s _
  · split
    · split
      · exact (writePost_besidePosts _ p).trans (endRecord_besidePosts s _)
      · exact endRecord_besidePosts s p.done
    · rfl

theorem completeAfter_besidePosts (s : State) (needs : List U16) (r : Record) (id status : Nat)
    (results : List Byte) : (s.completeAfter needs r id status results).besidePosts = s.besidePosts := by
  unfold State.completeAfter
  dsimp only
  split
  · exact post_besidePosts s _
  · rfl

theorem postAfter_besidePosts (s : State) (needs : List U16) (p : Post) :
    (s.postAfter needs p).besidePosts = s.besidePosts := by
  unfold State.postAfter
  split
  · exact post_besidePosts s _
  · rfl

/-! ### Fields beside the posts -/

section
variable {s t : State} (h : t.besidePosts = s.besidePosts)
include h

theorem cmdRings_of_besidePosts : t.cmdRings = s.cmdRings :=
  (congrArg State.cmdRings h :)

theorem part_of_besidePosts : t.part = s.part :=
  (congrArg State.part h :)

theorem ports_of_besidePosts : t.ports = s.ports :=
  (congrArg State.ports h :)

end

@[simp] theorem completeAfter_cmdRings (s : State) (needs : List U16) (r : Record) (id status : Nat)
    (results : List Byte) : (s.completeAfter needs r id status results).cmdRings = s.cmdRings :=
  cmdRings_of_besidePosts (completeAfter_besidePosts s needs r id status results)

end Sys2Proof.Machine
end

section
/-!
Records (01 R16 to R27): what a record row offers, and what a ring's record comes to.
-/

namespace Sys2Proof.Machine

/-- `x` is a record row whose command offers the record, as the row's own opcode, with the plan that `planOf`
gives that opcode (Table 1-9). -/
structure RunsOwnPlan (x : (Record → Instr) × Nat) : Prop where
  opcode_lt : x.2 < 65536
  plan : ∃ plan : Record → State → Plan,
    (∀ q : Record, q.opcode = x.2 → planOf q = plan) ∧ ∀ r s, exec (x.1 r) s = .next (s.record r x.2 plan)

/-- Each row's plan is that of its opcode, by the definitions of the row's command and of `planOf`. -/
theorem recordRows_runOwnPlan : ∀ x ∈ recordRows, RunsOwnPlan x := by
  simp only [recordRows, List.forall_mem_cons, List.not_mem_nil, false_implies, implies_true, and_true]
  and_intros
  all_goals exact ⟨by decide, _, fun q hq => by unfold planOf; rw [hq]; rfl, fun r s => rfl⟩

/-- A record row offers its ring's record, as its own opcode, with that opcode's plan. -/
theorem exec_recordRow {x : (Record → Instr) × Nat} (hx : x ∈ recordRows) (r : Record) (s : State) :
    exec (x.1 r) s = .next (s.offer (withOpcode r x.2) (planOf (withOpcode r x.2))) := by
  obtain ⟨hop, plan, hplan, hexec⟩ := recordRows_runOwnPlan x hx
  rw [hexec, State.record, hplan _ (withOpcode_opcode r x.2 hop)]

/-! ### The rings' places -/

theorem cmdRing_of_cmdRings {s t : State} (h : t.cmdRings = s.cmdRings) (n : Nat) : t.cmdRing n = s.cmdRing n := by
  rw [State.cmdRing, h, State.cmdRing]

theorem cmdRing_modCmd_same {s : State} {n : Nat} (hn : n < 64) (f : CmdRing → CmdRing) :
    (s.modCmd n f).cmdRing n = f (s.cmdRing n) := by
  simp [State.cmdRing, vGet_vMod, hn]

theorem cqRing_modCq_same {s : State} {n : Nat} (hn : n < 64) (f : CqRing → CqRing) :
    (s.modCq n f).cqRing n = f (s.cqRing n) := by
  simp [State.cqRing, vGet_vMod, hn]

/-- No ring but the module's 64 is fetched: the ring that a higher number reads is not enabled. -/
theorem ring_lt_of_fetches {s : State} {n : Nat} (h : s.fetches n = true) : n < 64 := by
  refine Decidable.byContradiction fun hn => ?_
  have : s.cmdRing n = CmdRing.reset := by simp [State.cmdRing, vGet, hn]
  simp [State.fetches, this, CmdRing.reset] at h

/-! ### What completions and enables leave of the command rings -/

@[simp] theorem complete_cmdRings (s : State) (r : Record) (id status : Nat) (results : List Byte) :
    (s.complete r id status results).cmdRings = s.cmdRings := completeAfter_cmdRings s [] r id status results

@[simp] theorem countRefusal_cmdRings (s : State) (t status : Nat) :
    (s.countRefusal t status).cmdRings = s.cmdRings := by
  unfold State.countRefusal
  split <;> simp

theorem cmdRing_modCmd_putSetting {s : State} {n : Nat} (hn : n < 64) (f : CmdRing → CmdRing) (i x v : Nat) :
    ((s.modCmd n f).putSetting i x v).cmdRing n = f (s.cmdRing n) := cmdRing_modCmd_same hn f

theorem enableCmd_besideLink (s : State) (n : Nat) :
    (s.enableCmd n).besideLink = ((s.modCmd n CmdRing.enable).putSetting (cmdObj n) 1 1).besideLink := by
  unfold State.enableCmd
  dsimp only
  split
  · exact (sendRead_besideLink _ _ _).trans (writeConsumer_besideLink _ n)
  · rfl

/-! ### What a record that its ring gives comes to -/

/-- A ring from which nothing is taken gives no record. -/
theorem offer_unfetched {s : State} {q : Record} {plan : Record → State → Plan} (h : s.fetches q.ring = false) :
    s.offer q plan = s := by
  simp [State.offer, h]

/-- A record that is not its ring's oldest, or that may not start, waits behind the others. -/
theorem offer_waits {s : State} {q : Record} {plan : Record → State → Plan} (hf : s.fetches q.ring = true)
    (h : (s.cmdRing q.ring).taken ≠ [] ∨ s.canStart q = false) :
    s.offer q plan = s.modCmd q.ring (fun c => { c with taken := c.taken ++ [q] }) := by
  have : ((s.cmdRing q.ring).taken.isEmpty && s.canStart q) = false := by
    rcases h with h | h <;> simp [h]
  simp [State.offer, hf, this]

/-- A ring's only unstarted record starts when it may. -/
theorem offer_startRecord {s : State} {q : Record} {plan : Record → State → Plan} (hf : s.fetches q.ring = true)
    (ht : (s.cmdRing q.ring).taken = []) (hm : s.canStart q = true) : s.offer q plan = s.startRecord q plan := by
  simp [State.offer, hf, ht, hm]

/-- A record that is turned away is completed without having started (R250, R477). -/
theorem startRecord_turnedAway {s : State} {q : Record} {plan : Record → State → Plan} {st : Nat}
    (h : s.turnedAway q = some st) : s.startRecord q plan = s.complete q 0 st (s.refusalResult q st) := by
  simp [State.startRecord, h]

/-- `s` with record `q` started and the ring's sequence number not yet judged (R22). -/
theorem started_cmdRings_kept (s : State) (q : Record) :
    { s.started q with cmdRings := s.cmdRings } =
      { s with
        running := s.running ++ [Running.mk s.newId q (s.admitTo q.opcode) [] 0],
        job := { s.job with started := s.job.started + 1 } }.leaveIdle := rfl

/-- A record whose `seq` is not after the last accepted one starts and is completed with BAD_PARAM (R23). -/
theorem startRecord_seqRefused {s : State} {q : Record} {plan : Record → State → Plan}
    (h : s.turnedAway q = none) (hq : s.seqOk q = false) :
    s.startRecord q plan = { s.started q with cmdRings := s.cmdRings }.complete q s.newId stBadParam
      ({ s.started q with cmdRings := s.cmdRings }.refusalResult q stBadParam) := by
  have hseq : { s.started q with cmdRings := s.cmdRings }.seqOk q = false := hq
  rw [started_cmdRings_kept] at hseq ⊢
  unfold State.startRecord
  rw [h]
  exact if_pos (congrArg Bool.not hseq)

theorem turnedAway_of_faulted {s : State} {q : Record} (hd : diagnostic q.opcode = false) (hf : s.faulted = true) :
    s.turnedAway q = some stJobRestarted := by
  simp [State.turnedAway, hd, hf]

theorem turnedAway_of_jobEnding {s : State} {q : Record} (hd : diagnostic q.opcode = false) (hf : s.faulted = false)
    (hj : s.job.state = 3) (ho : q.opcode ≠ 0x0400) : s.turnedAway q = some stJobEnded := by
  simp [State.turnedAway, hd, hf, hj, ho]

theorem canStart_fenced {s : State} {q : Record} (hq : q.fence = true)
    (h : (s.running.any (fun x => x.record.ring == q.ring)) = true) : s.canStart q = false := by
  have : s.fenceOk q = false := by rw [State.fenceOk, hq, h]; rfl
  simp [State.canStart, this]

/-! ### RECORD_START -/

theorem startHead_idle {s : State} {n : Nat} (h : (s.cmdRing n).taken = []) : s.startHead n = s := by
  simp [State.startHead, h]

theorem startHead_stays {s : State} {n : Nat} {q : Record} {rest : List Record} (h : (s.cmdRing n).taken = q :: rest)
    (hm : s.canStart q = false) : s.startHead n = s := by
  simp [State.startHead, h, hm]

theorem cmdRing_modCmd_former (s : State) (n : Nat) (l : List Record) :
    ((s.modCmd n (fun c => { c with taken := l })).cmdRing n).former = (s.cmdRing n).former := by
  rw [State.cmdRing, State.modCmd_cmdRings, vGet_vMod]
  split <;> rfl

theorem startHead_starts {s : State} {n : Nat} {q : Record} {rest : List Record}
    (h : (s.cmdRing n).taken = q :: rest) (hm : s.canStart q = true) (hold : (s.cmdRing n).former = []) :
    s.startHead n =
      ((s.modCmd n (fun c => { c with taken := rest })).startRecord q (planOf q)).placeFreed n := by
  rw [← cmdRing_modCmd_former s n rest] at hold
  simp [State.startHead, h, hm, hold]

theorem startHead_startsFormer {s : State} {n m : Nat} {q : Record} {rest : List Record} {k : Option U32}
    {old : List (Nat × Option U32)} (h : (s.cmdRing n).taken = q :: rest) (hm : s.canStart q = true)
    (hold : (s.cmdRing n).former = (m, k) :: old) :
    s.startHead n = ((s.modCmd n (fun c => { c with taken := rest })).startFormer q m k old).placeFreed n := by
  rw [← cmdRing_modCmd_former s n rest] at hold
  simp [State.startHead, h, hm, hold]

theorem exec_recordStart (n : Nat) (s : State) : exec (.recordStart n) s = .next (s.startHead n) := rfl

/-! ### The sequence check -/

theorem seqOk_of_none {s : State} {q : Record} (h : (s.cmdRing q.ring).lastSeq = none) : s.seqOk q = true := by
  simp [State.seqOk, h]

theorem seqOk_iff_of_some {s : State} {q : Record} {k : U32} (h : (s.cmdRing q.ring).lastSeq = some k) :
    s.seqOk q = true ↔ 0 < (q.seq - k).toNat ∧ (q.seq - k).toNat < 2 ^ 31 := by
  simp [State.seqOk, h, seqAfter]

theorem started_lastSeq {s : State} {q : Record} (hn : q.ring < 64) :
    ((s.started q).cmdRing q.ring).lastSeq = some q.seq := by
  rw [State.started, cmdRing_modCmd_same hn]

theorem enableCmd_lastSeq {s : State} {n : Nat} (hn : n < 64) : ((s.enableCmd n).cmdRing n).lastSeq = none := by
  rw [cmdRing_of_besideLink (enableCmd_besideLink s n), cmdRing_modCmd_putSetting hn]
  rfl

/-! ### The checks of Table 1-7 -/

theorem firstFailure_of_split {before after : List (Bool × Nat)} {st : Nat} (h : ∀ c ∈ before, c.1 = true) :
    firstFailure (before ++ (false, st) :: after) = st := by
  induction before with
  | nil => rfl
  | cons c before ih =>
    obtain ⟨hc, hrest⟩ := List.forall_mem_cons.1 h
    simp [firstFailure, hc, ih hrest]

end Sys2Proof.Machine
end

section
/-!
Completion rings (01 R18, 13 R387): a post's slots, and the producer line that waits for them.
-/

namespace Sys2Proof.Machine

/-- The slots that a post takes in its ring. -/
def State.postSlots (s : State) (p : Post) : List Slot :=
  placeParts (s.cqSize p.cq) (s.cqRing p.cq).producer.toNat p.parts

/-- `s` with the slots of a post written and their lines sent, the producer line not yet. -/
def State.postSent (s : State) (p : Post) : State :=
  let base := s.setting (cqObj p.cq) 2
  let first := (s.cqRing p.cq).producer.toNat
  (slotLines base (s.cqSize p.cq) first (s.postSlots p).length).foldl (State.sendLineOf true)
    { s with t2 := writeSlots s.t2 base (s.cqSize p.cq) first (s.postSlots p) }

/-- The producer index once the slots of a post are written. -/
def State.postIndex (s : State) (p : Post) : U32 :=
  (s.cqRing p.cq).producer + BitVec.ofNat 32 (s.postSlots p).length

/-- The producer line of a post, as it waits for the slot lines that its index covers (R387). -/
def State.postLine (s : State) (p : Post) : Deferred :=
  Deferred.mk (newWrites s (s.postSent p) ++ s.producerNeeds p.cq) (.producer p.cq (s.postIndex p))

theorem writePost_link (s : State) (p : Post) :
    (s.writePost p).link =
      { (s.postSent p).link with deferred := (s.postSent p).link.deferred ++ [s.postLine p] } := by
  unfold State.writePost
  dsimp only
  split <;> split <;> rfl

theorem writePost_cqRings (s : State) (p : Post) :
    (s.writePost p).cqRings = vMod s.cqRings p.cq (fun q => { q with producer := s.postIndex p }) := by
  have h : (s.postSent p).cqRings = s.cqRings := cqRings_of_besideLink
    (foldl_sendLineOf_besideLink { s with t2 := _ } _ _)
  rw [← h]
  unfold State.writePost
  dsimp only
  split <;> split <;> rfl

theorem mem_newWrites {s t : State} {tag : U16} (ht : tag ∈ t.link.writes) (hs : tag ∉ s.link.writes) :
    tag ∈ newWrites s t := by
  simp [newWrites, ht, hs]

theorem mem_producerNeeds {s : State} {c : Nat} {i : U32} {e : Deferred} {tag : U16} (he : e ∈ s.link.deferred)
    (hw : e.write = .producer c i) (ht : tag ∈ e.needs) : tag ∈ s.producerNeeds c := by
  refine List.mem_flatten.2 ⟨e.needs, List.mem_filterMap.2 ⟨e, he, ?_⟩, ht⟩
  simp [hw]

end Sys2Proof.Machine
end

section
/-!
Serving steps (08 R220; 09 R259, R260): what STEP_OPEN makes and when STEP_END ends a step.
-/

namespace Sys2Proof.Machine

/-! ### What a step takes leaves the power block alone -/

@[simp] theorem reserve_power (s : State) (t u : Nat) : (s.reserve t u).power = s.power := rfl

@[simp] theorem takeRows_power (s : State) (t cap used : Nat) (rs : List Nat) :
    (s.takeRows t cap used rs).1.power = s.power := by
  induction rs generalizing s used with
  | nil => rfl
  | cons r rs ih =>
    unfold State.takeRows
    dsimp only
    split
    · rfl
    · split
      · exact ih (s.reserve t r) _
      · rfl

@[simp] theorem takeFront_power (s : State) (cap used : Nat) (ws : List FrontWork) :
    (s.takeFront cap used ws).1.power = s.power := by
  induction ws generalizing s used with
  | nil => rfl
  | cons w ws ih =>
    unfold State.takeFront
    dsimp only
    split
    · exact takeRows_power s _ _ _ _
    · exact (ih _ _).trans (takeRows_power s _ _ _ _)

@[simp] theorem takeDecode_power (s : State) (n : Nat) (xs : List Session) :
    (s.takeDecode n xs).1.power = s.power := by
  induction xs generalizing s n with
  | nil => cases n <;> rfl
  | cons x xs ih =>
    cases n with
    | zero => rfl
    | succ n =>
      unfold State.takeDecode
      dsimp only
      repeat' split
      · exact ih _ n
      · exact ih _ (n + 1)
      · exact ih s (n + 1)

@[simp] theorem takeChunk_power (s : State) (items : List (Session × Nat)) (encoder : Nat) :
    (s.takeChunk items encoder).1.power = s.power := by
  unfold State.takeChunk
  dsimp only
  repeat' split
  all_goals rfl

/-- At most `n` sequences decode. -/
theorem length_takeDecode_le (s : State) (n : Nat) (xs : List Session) : (s.takeDecode n xs).2.length ≤ n := by
  induction xs generalizing s n with
  | nil => cases n <;> exact Nat.zero_le _
  | cons x xs ih =>
    cases n with
    | zero => exact Nat.zero_le _
    | succ n =>
      unfold State.takeDecode
      dsimp only
      repeat' split
      · exact Nat.succ_le_succ (ih _ n)
      · exact ih _ (n + 1)
      · exact ih s (n + 1)

/-! ### STEP_OPEN -/

theorem stepMayOpen_iff (s : State) : s.stepMayOpen = true ↔ s.step = none ∧ s.job.state ≠ 0 ∧
    s.faulted = false ∧ s.power.pstate < 2 ∧ s.outputHeld = false ∧ s.sheaf.due = false := by
  simp [State.stepMayOpen, and_assoc]

/-- What STEP_OPEN makes of a state in which a step may open (R133, R134, R259). -/
structure Opens (s t : State) (o : OpenStep) : Prop where
  step : t.step = some o
  number : o.number = s.job.steps + 1
  steps : t.job.steps = s.job.steps + 1
  epoch : o.epoch = none
  decode : o.decode.length ≤ s.setting 0x5000 3
  view : t.sheaf.view = some s.sheaf.tables
  power : t.power = { s.power with pstate := if s.power.pstate == 1 then 0 else s.power.pstate }

theorem openStep_opens (s : State) : ∃ o, Opens s s.openStep o := by
  refine ⟨_, rfl, rfl, rfl, rfl, ?_, rfl, ?_⟩
  · rw [List.length_map]
    exact length_takeDecode_le s _ _
  · simp [State.openStep]

theorem keepLate_channels (s : State) :
    ∃ channels draws, s.keepLate = { s with channels := channels, draws := draws } := by
  unfold State.keepLate
  split
  · exact ⟨_, _, rfl⟩
  · exact ⟨_, _, rfl⟩

/-- The arbitration mode that a step takes over is nothing that `Opens` speaks of (R374). -/
theorem takeArbMode_opens {s t : State} {o : OpenStep} (h : Opens s t o) : Opens s t.takeArbMode o := by
  unfold State.takeArbMode
  dsimp only
  split
  · exact h
  · obtain ⟨_, _, hlate⟩ := keepLate_channels t
    rw [hlate]
    exact ⟨h.step, h.number, h.steps, h.epoch, h.decode, h.view, h.power⟩

theorem exec_stepOpen_opens {s : State} (h : s.stepMayOpen = true) :
    ∃ t o, exec .stepOpen s = .next t ∧ Opens s t o := by
  obtain ⟨o, ho⟩ := openStep_opens s
  exact ⟨_, o, congrArg Host.Outcome.next (if_pos h), takeArbMode_opens ho⟩

theorem exec_stepOpen_nothing {s : State} (h : s.stepMayOpen = false) : exec .stepOpen s = .next s :=
  congrArg Host.Outcome.next (if_neg (by simp [h]))

/-! ### STEP_END -/

theorem exec_stepEnd_waits {s : State} {o : OpenStep} (ho : s.step = some o)
    (h : o.epoch = none ∨ s.walksRetired = false) : exec .stepEnd s = .next s := by
  have hwait : (o.epoch.isSome && s.walksRetired) = false := by
    rcases h with h | h <;> simp [h]
  show execStepEnd s = _
  simp [execStepEnd, ho, hwait]

theorem exec_stepEnd_ends {s : State} {o : OpenStep} (ho : s.step = some o) (he : o.epoch ≠ none)
    (hw : s.walksRetired = true) (hp : s.power.pstate < 2) (hf : s.faulted = false) :
    exec .stepEnd s = .next (s.endStep o) := by
  have he : o.epoch.isSome = true := Option.isSome_iff_ne_none.2 he
  show execStepEnd s = _
  simp [execStepEnd, State.unitsRun, ho, he, hw, hp, hf]

/-- The first work that was due and was not written is a fault of the core that owed it. -/
theorem endStep_unwritten {s : State} {o : OpenStep} {before after : List SeqWork} {w : SeqWork}
    (hworks : o.works = before ++ w :: after) (hb : ∀ x ∈ before, s.written o.eosEmpty x = true)
    (hw : s.written o.eosEmpty w = false) :
    s.endStep o = s.raiseFault (srcCore (s.coreOf (s.coreOfVersion w.session))) := by
  have hfind : o.works.find? (fun x => !s.written o.eosEmpty x) = some w :=
    List.find?_eq_some_iff_append.2 ⟨by simp [hw], before, after, hworks, fun x hx => by simp [hb x hx]⟩
  unfold State.endStep
  rw [hfind]

end Sys2Proof.Machine
end

section
/-!
Writes of the object dictionary (16 R450 to R457): an accepted write is one arm of `State.acceptWrite`, and its
answer follows.
-/

namespace Sys2Proof.Machine

/-! ### A write on a served route -/

theorem wake_of_awake {s : State} (h : s.power.pstate ≠ 3) : s.wake = s := by
  have hwaking : (s.power.waking || s.power.pstate == 3) = s.power.waking := by simp [h]
  rw [State.wake, State.modPower, hwaking]

/-- An accepted write's subindex exists, so what it writes is `heldValue`. -/
theorem dictWrite_allowed {s : State} {route index sub : Nat} {v : U64} (h : Allows s route index sub v) :
    s.dictWrite route index sub v.toNat = s.acceptWrite route index sub (heldValue index sub v) := by
  obtain ⟨_, _, hstatus⟩ := h
  unfold State.dictWrite heldValue
  cases hi : subInfo index sub with
  | none => simp [State.writeStatus, hi, stNotSupported, stOk] at hstatus
  | some i => simp [hstatus]

theorem answers_state (s : State) (status : Nat) (v : Option Nat) (b : Bool) :
    (s.answers status v b).state = (s.answers status v false).state := by
  cases v <;> rfl

theorem answers_value (s : State) (status : Nat) (v : Option Nat) (b : Bool) :
    (s.answers status v b).value = (s.answers status v false).value := by
  cases v <;> rfl

theorem answers_status (s : State) (status : Nat) (v : Option Nat) (b : Bool) :
    (s.answers status v b).status = status := by
  cases v <;> rfl

theorem answers_reset (s : State) (status : Nat) (v : Option Nat) (b : Bool) : (s.answers status v b).reset = b := by
  cases v <;> rfl

/-- What an accepted write of a row leaves: the object's own effect, the response, and for the soft reset's
subindex the reset after it. -/
theorem rowWrite_accepted {s w : State} {route index sub : Nat} {v : U64} (h : Allows s route index sub v)
    (hw : s.acceptWrite route index sub (heldValue index sub v) = (w, stOk)) :
    s.rowWrite route index sub v =
      if startsReset index sub stOk then (Answered w route index sub stOk).softReset
      else Answered w route index sub stOk := by
  have hd := (dictWrite_allowed h).trans hw
  obtain ⟨hserves, hawake, _⟩ := h
  have hreq : s.wake.request route 2 index sub v.toNat true =
      w.answers stOk (w.held? route index sub) (startsReset index sub stOk) := by
    rw [wake_of_awake hawake]
    simp [State.request, State.writeRequest, hd]
  simp only [State.rowWrite, hserves, if_true, hreq, Answer.finish, answers_reset, answers_status, Answered,
    ← answers_state (b := startsReset index sub stOk), ← answers_value (b := startsReset index sub stOk)]

/-! ### Which function an accepted write calls -/

/-- Subindex `sub` of object `index` belongs to the module: it is no selector of a route and the object is no
tenant's (R455, R456). -/
structure ModuleSub (index sub : Nat) : Prop where
  noSelector : routeSub index sub = false
  noTenant : tenantObject index = false

/-- A write that neither imports nor erases a key goes by the kind of its subindex. -/
theorem acceptWrite_noKey {s : State} {route index sub v : Nat}
    (hkey : ¬ (index = 0x3010 ∧ (sub = 4 ∨ sub = 5))) :
    s.acceptWrite route index sub v =
      if routeSub index sub then (s.putSelector route index sub v, stOk)
      else if tenantObject index then (s.putTenant (s.selectedTenant route) index sub v, stOk)
      else (s.putModule index sub v, stOk) := by
  have hcond (k : Nat) (hk : k = 4 ∨ k = 5) : ¬ (decide (index = 0x3010) && decide (sub = k)) = true := by
    rw [Bool.and_eq_true, decide_eq_true_eq, decide_eq_true_eq]
    rintro ⟨hi, rfl⟩
    exact hkey ⟨hi, hk⟩
  exact (if_neg (hcond 4 (.inl rfl))).trans (if_neg (hcond 5 (.inr rfl)))

theorem acceptWrite_module {s : State} {route index sub v : Nat} (h : ModuleSub index sub) :
    s.acceptWrite route index sub v = (s.putModule index sub v, stOk) := by
  have hkey : ¬ (index = 0x3010 ∧ (sub = 4 ∨ sub = 5)) := by
    rintro ⟨rfl, _⟩
    exact absurd h.noTenant (by decide)
  rw [acceptWrite_noKey hkey, h.noSelector, h.noTenant]
  rfl

theorem acceptWrite_selector {s : State} {route index sub v : Nat} (h : routeSub index sub = true) :
    s.acceptWrite route index sub v = (s.putSelector route index sub v, stOk) := by
  have hkey : ¬ (index = 0x3010 ∧ (sub = 4 ∨ sub = 5)) := by
    rintro ⟨rfl, rfl | rfl⟩ <;> exact absurd h (by decide)
  rw [acceptWrite_noKey hkey, h]
  rfl

theorem acceptWrite_tenant {s : State} {route index sub v : Nat} (hr : routeSub index sub = false)
    (ht : tenantObject index = true) (hkey : ¬ (index = 0x3010 ∧ (sub = 4 ∨ sub = 5))) :
    s.acceptWrite route index sub v = (s.putTenant (s.selectedTenant route) index sub v, stOk) := by
  rw [acceptWrite_noKey hkey, hr, ht]
  rfl

/-- The soft reset's subindex is no other object's. -/
theorem startsReset_iff (index sub : Nat) : startsReset index sub stOk = true ↔ index = 0x11C0 ∧ sub = 3 := by
  simp [startsReset]

theorem startsReset_of_ne {index sub : Nat} (h : index ≠ 0x11C0) : startsReset index sub stOk = false := by
  rw [← Bool.not_eq_true, startsReset_iff]
  exact fun e => h e.1

/-- An accepted write of an object of the module, the soft reset apart, answers after the object's effect. -/
theorem rowWrite_module {s w : State} {route index sub : Nat} {v : U64} (h : Allows s route index sub v)
    (hm : ModuleSub index sub) (hreset : startsReset index sub stOk = false)
    (hw : s.putModule index sub (heldValue index sub v) = w) :
    s.rowWrite route index sub v = Answered w route index sub stOk := by
  rw [rowWrite_accepted h (acceptWrite_module hm), hreset, hw]
  rfl

theorem rowWrite_softReset {s : State} {route : Nat} {v : U64} (h : Allows s route 0x11C0 3 v) :
    s.rowWrite route 0x11C0 3 v = (Answered s route 0x11C0 3 stOk).softReset :=
  rowWrite_accepted h (acceptWrite_module ⟨rfl, rfl⟩)

theorem rowWrite_selector {s : State} {route index sub : Nat} {v : U64} (h : Allows s route index sub v)
    (hr : routeSub index sub = true) :
    s.rowWrite route index sub v =
      Answered (s.putSelector route index sub (heldValue index sub v)) route index sub stOk := by
  have hreset : startsReset index sub stOk = false := by
    rw [← Bool.not_eq_true, startsReset_iff]
    rintro ⟨rfl, rfl⟩
    exact absurd hr (by decide)
  rw [rowWrite_accepted h (acceptWrite_selector hr), hreset]
  rfl

theorem rowWrite_tenant {s : State} {route index sub : Nat} {v : U64} (h : Allows s route index sub v)
    (hr : routeSub index sub = false) (ht : tenantObject index = true)
    (hkey : ¬ (index = 0x3010 ∧ (sub = 4 ∨ sub = 5))) :
    s.rowWrite route index sub v =
      Answered (s.putTenant (s.selectedTenant route) index sub (heldValue index sub v)) route index sub stOk := by
  have hreset : startsReset index sub stOk = false := by
    refine startsReset_of_ne ?_
    rintro rfl
    exact absurd ht (by decide)
  rw [rowWrite_accepted h (acceptWrite_tenant hr ht hkey), hreset]
  rfl

/-! ### The objects of the module -/

theorem cmdObj_moduleSub : ∀ n < 64, ModuleSub (cmdObj n) 1 :=
  fun n hn => ⟨by decide +revert, by decide +revert⟩

theorem objectKind_cmdObj : ∀ n < 64, objectKind (cmdObj n) = 0x1140 := by decide

theorem objectNumber_cmdObj {n : Nat} (hn : n < 64) : objectNumber (cmdObj n) = n := by
  rw [objectNumber, objectKind_cmdObj n hn, cmdObj, Nat.add_sub_cancel_left]

theorem cqObj_moduleSub : ∀ n < 64, ModuleSub (cqObj n) 1 :=
  fun n hn => ⟨by decide +revert, by decide +revert⟩

theorem objectKind_cqObj : ∀ n < 64, objectKind (cqObj n) = 0x1180 := by decide

theorem objectNumber_cqObj {n : Nat} (hn : n < 64) : objectNumber (cqObj n) = n := by
  rw [objectNumber, objectKind_cqObj n hn, cqObj, Nat.add_sub_cancel_left]

theorem portObj_moduleSub : ∀ n < 8, ModuleSub (0x1120 + n) 1 :=
  fun n hn => ⟨by decide +revert, by decide +revert⟩

theorem objectKind_portObj : ∀ n < 8, objectKind (0x1120 + n) = 0x1120 := by decide

theorem putModule_cmdRing {s : State} {n v : Nat} (hn : n < 64) :
    s.putModule (cmdObj n) 1 v = s.setCmdEnable n v := by
  simp [State.putModule, objectKind_cmdObj n hn, objectNumber_cmdObj hn]

theorem putModule_cq {s : State} {n v : Nat} (hn : n < 64) : s.putModule (cqObj n) 1 v = s.setCqEnable n v := by
  simp [State.putModule, objectKind_cqObj n hn, objectNumber_cqObj hn]

theorem putModule_port {s : State} {n v : Nat} (hn : n < 8) :
    s.putModule (0x1120 + n) 1 v = (s.putSub (0x1120 + n) 1 v).setPortEnable n v := by
  simp [State.putModule, objectNumber, objectKind_portObj n hn]

theorem putModule_slot {s : State} {i n v : Nat} (h : objectKind i = 0x4010) :
    s.putModule i n v = s.modSlot (objectNumber i) (fun x => x.put n v) := by
  simp [State.putModule, h]

theorem putModule_limit {s : State} {i n v : Nat} (h : objectKind i = 0x8010) :
    s.putModule i n v = (s.putSub i n v).limitChanged n := by
  simp [State.putModule, h]

/-- Any subindex that no arm of `putModule` names only holds its value. -/
theorem putModule_plain {s : State} {i n v : Nat}
    (hk : objectKind i ∉ [0x4010, 0x7010, 0x7011, 0x7012, 0x7013, 0x7014, 0x7100, 0x8010])
    (hs : (objectKind i, n) ∉ [(0x1020, 6), (0x1120, 1), (0x1140, 1), (0x1180, 1), (0x11C0, 3), (0x11C8, 1),
      (0x11C8, 5), (0x2000, 9), (0x8100, 1), (0x8110, 1), (0x8110, 2)]) :
    s.putModule i n v = s.putSub i n v := by
  unfold State.putModule
  split <;> simp_all

/-- The five cause objects (R482). -/
theorem causeObject_cases {i : Nat} (hl : 0x7010 ≤ i) (hu : i ≤ 0x7014) :
    i = 0x7010 ∨ i = 0x7011 ∨ i = 0x7012 ∨ i = 0x7013 ∨ i = 0x7014 := by
  omega

theorem cause_moduleSub {i n : Nat} (hl : 0x7010 ≤ i) (hu : i ≤ 0x7014) : ModuleSub i n := by
  rcases causeObject_cases hl hu with rfl | rfl | rfl | rfl | rfl <;> exact ⟨rfl, rfl⟩

theorem putModule_cause {s : State} {i n v : Nat} (hl : 0x7010 ≤ i) (hu : i ≤ 0x7014) :
    s.putModule i n v = s.clearCause i n v := by
  rcases causeObject_cases hl hu with rfl | rfl | rfl | rfl | rfl <;> rfl

theorem heldValue_stageData (v : U64) : heldValue 0x8110 2 v = v.toNat :=
  Nat.mod_eq_of_lt v.isLt

end Sys2Proof.Machine
end

section
/-!
Frames of the longer operations: the end of a job leaves the safety partition's block alone (R448), and a refused
MOVE the ports (R311).
-/

namespace Sys2Proof.Machine

/-! ### The safety partition's block through the end of a job -/

@[simp] theorem modSession_part (s : State) (h : U64) (f : Session → Session) :
    (s.modSession h f).part = s.part := rfl

@[simp] theorem settle_part (s : State) (t reserved used : Nat) : (s.settle t reserved used).part = s.part := by
  unfold State.settle
  dsimp only
  split <;> rfl

@[simp] theorem dropFrames_part (s : State) (t : Nat) : (s.dropFrames t).part = s.part := by
  unfold State.dropFrames State.quarantineFrames
  dsimp only
  split <;> rfl

@[simp] theorem unmapKv_part (s : State) (h : U64) (p : KvBale → Bool) : (s.unmapKv h p).part = s.part :=
  dropFrames_part _ _

@[simp] theorem chargeSeq_part (s : State) (w : SeqWork) (out : Option (Drawn × Nat)) (g : Bool) (n : Nat) :
    (s.chargeSeq w out g n).part = s.part := by
  simp [State.chargeSeq]

@[simp] theorem accountSession_part (s : State) (h : U64) (len : Nat) : (s.accountSession h len).part = s.part := by
  unfold State.accountSession
  repeat' split
  all_goals rfl

@[simp] theorem settleSeq_part (s : State) (x : Session) (w : SeqWork) (out : Option (Drawn × Nat)) :
    (s.settleSeq x w out).part = s.part := by
  unfold State.settleSeq
  dsimp only
  split <;> simp

@[simp] theorem keepMarks_part (s : State) (h : U64) (old : BitVec 2) : (s.keepMarks h old).part = s.part := rfl

@[simp] theorem dropFront_part (s : State) (h : U64) : (s.dropFront h).part = s.part :=
  foldl_keeps (P := fun t => t.part = s.part) rfl (fun _ _ e => e)

@[simp] theorem endRun_part (s : State) (h : U64) (v : Version) (e : RunEnd) (toks : List Nat) :
    (s.endRun h v e toks).part = s.part := by
  unfold State.endRun
  dsimp only
  split <;> simp

@[simp] theorem closeSession_part (s : State) (h : U64) : (s.closeSession h).part = s.part := by
  simp [State.closeSession, State.releaseRetained]

@[simp] theorem endCommands_part (s : State) (h : U64) (kept : Bool) : (s.endCommands h kept).1.part = s.part := by
  unfold State.endCommands
  dsimp only
  repeat' split
  all_goals simp [State.askSeal]

@[simp] theorem writeT2_part (s : State) (addr : Nat) (bs : List Byte) : (s.writeT2 addr bs).part = s.part :=
  part_of_besideLink (writeT2_besideLink s addr bs)

@[simp] theorem writeConsumer_part (s : State) (n : Nat) : (s.writeConsumer n).part = s.part := writeT2_part s _ _

@[simp] theorem endAppend_part (a : Ending) (s : State) (x : Session) (v : Version) (w : SeqWork) :
    (State.endAppend a s x v w).s.part = s.part := by
  unfold State.endAppend
  dsimp only
  split <;> simp

theorem ite_part {c : Prop} [Decidable c] {a b : State} {p : Partn} (ha : a.part = p) (hb : b.part = p) :
    (if c then a else b).part = p := by split <;> assumption

theorem ite_ending_part {c : Prop} [Decidable c] {a b : Ending} {p : Partn} (ha : a.s.part = p) (hb : b.s.part = p) :
    (if c then a else b).s.part = p := by split <;> assumption

@[simp] theorem endRunStep_part (sp : List Nat) (a : Ending) (s : State) (x : Session) (v : Version) (r : Run)
    (w : SeqWork) (out : Option (Drawn × Nat)) : (State.endRunStep sp a s x v r w out).s.part = s.part := by
  have hwritten (n t : Nat) (bs : List Byte) (f : Counts → Counts) (h : U64) (g : Session → Session) :
      (((s.writeT2 n bs).count t f).modSession h g).part = s.part := writeT2_part s n bs
  unfold State.endRunStep
  dsimp only
  apply ite_ending_part
  · exact ite_part (hwritten _ _ _ _ _ _) ((keepMarks_part _ _ _).trans (hwritten _ _ _ _ _ _))
  · rw [endCommands_part, endRun_part]
    exact ite_part (hwritten _ _ _ _ _ _) ((keepMarks_part _ _ _).trans (hwritten _ _ _ _ _ _))

@[simp] theorem endSeq_part (sp eo : List Nat) (a : Ending) (w : SeqWork) :
    (State.endSeq sp eo a w).s.part = a.s.part := by
  unfold State.endSeq
  dsimp only
  repeat' split
  all_goals simp

theorem foldl_endSeq_part (sp eo : List Nat) (f : U64 → SeqWork) (l : List U64) (a : Ending) :
    (l.foldl (fun a h => State.endSeq sp eo a (f h)) a).s.part = a.s.part := by
  induction l generalizing a with
  | nil => rfl
  | cons h l ih => exact (ih _).trans (endSeq_part sp eo a (f h))

@[simp] theorem postOutputs_part (s : State) (step : U64) (es : List OutEntry) :
    (s.postOutputs step es).part = s.part :=
  foldl_keeps (P := fun t => t.part = s.part) rfl
    (fun t _ e => (part_of_besidePosts (postAfter_besidePosts t _ _)).trans e)

@[simp] theorem completeAfter_part (s : State) (needs : List U16) (r : Record) (id status : Nat)
    (results : List Byte) : (s.completeAfter needs r id status results).part = s.part :=
  part_of_besidePosts (completeAfter_besidePosts s needs r id status results)

@[simp] theorem complete_part (s : State) (r : Record) (id status : Nat) (results : List Byte) :
    (s.complete r id status results).part = s.part := completeAfter_part s [] r id status results

@[simp] theorem completeDone_part (s : State) (es : List OutEntry) (d : RunDone) :
    (s.completeDone es d).part = s.part := by
  unfold State.completeDone
  split <;> simp

@[simp] theorem stopRuns_part (s : State) : s.stopRuns.part = s.part :=
  foldl_keeps (P := fun t => t.part = s.part) ((postOutputs_part _ _ _).trans (foldl_endSeq_part _ _ _ _ _))
    (fun t d e => (completeDone_part t _ d).trans e)

@[simp] theorem stopRecords_part (s : State) (keep : Nat) : (s.stopRecords keep).part = s.part :=
  foldl_keeps (P := fun t => t.part = s.part) rfl (fun t _ e => (complete_part t _ _ _ _).trans e)

@[simp] theorem takeArrived_part (s : State) (n k : Nat) : (s.takeArrived n k).part = s.part := by
  induction k generalizing s with
  | zero => rfl
  | succ k ih =>
    unfold State.takeArrived
    dsimp only
    repeat' split
    · exact (ih _).trans (writeConsumer_part _ n)
    all_goals rfl

@[simp] theorem fetchRecords_part (s : State) (n k : Nat) : (s.fetchRecords n k).part = s.part := by
  induction k generalizing s with
  | zero => rfl
  | succ k ih =>
    unfold State.fetchRecords
    dsimp only
    split
    · exact ih _
    · rfl

@[simp] theorem serveAll_part (s : State) : s.serveAll.part = s.part :=
  foldl_keeps (P := fun t => t.part = s.part) rfl
    (fun t n e => ((fetchRecords_part _ n 64).trans (takeArrived_part t n 64)).trans e)

@[simp] theorem stopTaken_part (s : State) : s.stopTaken.part = s.part :=
  (serveAll_part _).trans
    (foldl_keeps (P := fun t => t.part = s.part) rfl (fun t _ e => (complete_part t _ _ _ _).trans e))

@[simp] theorem freeJob_part (s : State) : s.freeJob.part = s.part := rfl

@[simp] theorem movePort_part (s : State) (p : Nat) (f : PeerPort → PeerPort) : (s.movePort p f).part = s.part := by
  unfold State.movePort
  dsimp only
  split <;> rfl

@[simp] theorem judgePort_part (s : State) (p : Nat) : (s.judgePort p).part = s.part := by
  unfold State.judgePort
  dsimp only
  repeat' split
  all_goals simp

@[simp] theorem advertise_part (s : State) (p : Nat) : (s.advertise p).part = s.part := by
  unfold State.advertise
  split <;> rfl

@[simp] theorem reportJob_part (s : State) : s.reportJob.part = s.part :=
  foldl_keeps (P := fun t => t.part = s.part) rfl
    (fun t p e => ((advertise_part _ p).trans (judgePort_part t p)).trans e)

@[simp] theorem completeId_part (s : State) (id status : Nat) (results : List Byte) :
    (s.completeId id status results).part = s.part := by
  unfold State.completeId
  split <;> simp

@[simp] theorem finishJob_part (s : State) : s.finishJob.part = s.part := by
  unfold State.finishJob
  split <;> simp

@[simp] theorem endJobNow_part (s : State) : s.endJobNow.part = s.part := by
  unfold State.endJobNow
  dsimp only
  repeat' split
  all_goals simp

theorem unlockDebug_part (s : State) : s.unlockDebug.part = { s.part with debug := true } := by
  show { s.endJobNow.part with debug := true } = _
  rw [endJobNow_part]

theorem unlockDebug_keys (s : State) : ∀ y ∈ s.unlockDebug.tenants, y.key = none := by
  intro y hy
  obtain ⟨x, _, rfl⟩ := List.mem_map.1 hy
  rfl

/-! ### Ports -/

@[simp] theorem completeAfter_ports (s : State) (needs : List U16) (r : Record) (id status : Nat)
    (results : List Byte) : (s.completeAfter needs r id status results).ports = s.ports :=
  ports_of_besidePosts (completeAfter_besidePosts s needs r id status results)

@[simp] theorem completeCause_ports (s : State) (c : SealCause) (needs : List U16) (status : Nat) (res : List Byte) :
    (s.completeCause c needs status res).ports = s.ports := by
  unfold State.completeCause
  dsimp only
  split
  · refine foldl_keeps (P := fun t => t.ports = s.ports) rfl (fun t id e => ?_)
    split <;> simp [e]
  · rfl
  · split <;> simp
  · split <;> simp
  · split <;> simp
  · rfl

@[simp] theorem dropFrames_ports (s : State) (t : Nat) : (s.dropFrames t).ports = s.ports := by
  unfold State.dropFrames State.quarantineFrames
  dsimp only
  split <;> rfl

@[simp] theorem dropChild_ports (s : State) (child : U64) : (s.dropChild child).ports = s.ports := by
  unfold State.dropChild State.dropNone
  repeat' split
  all_goals simp

theorem dropChild?_ports (s : State) (child : Option U64) : ((child.map s.dropChild).getD s).ports = s.ports := by
  cases child <;> simp

@[simp] theorem countRefusal_ports (s : State) (t status : Nat) : (s.countRefusal t status).ports = s.ports := by
  unfold State.countRefusal
  split <;> rfl

theorem ite_ports {c : Prop} [Decidable c] {a b : State} {p : Vector PeerPort 8} (ha : a.ports = p) (hb : b.ports = p) :
    (if c then a else b).ports = p := by split <;> assumption

@[simp] theorem failSealWith_ports (s : State) (h : U64) (status : Nat) (res : Nat → List Byte) :
    (s.failSealWith h status res).ports = s.ports := by
  unfold State.failSealWith
  dsimp only
  split
  · rfl
  · split
    · rfl
    · rw [completeCause_ports, countRefusal_ports]
      have hback (ks : List (U64 × U64)) {c : Prop} [Decidable c] {a b : State} (ha : a.ports = s.ports)
          (hb : b.ports = s.ports) : ((if c then a else b).dropMirror ks).ports = s.ports := ite_ports ha hb
      apply ite_ports
      · rw [State.count_ports]
        exact hback _ (dropChild?_ports s _) (dropChild?_ports s _)
      · exact hback _ (dropChild?_ports s _) (dropChild?_ports s _)

end Sys2Proof.Machine
end

section
/-!
The effects of the dictionary's own rows: rings (R15), trust operations (R444), Sleep (R496), ports and pairing
(R402, R517).
-/

namespace Sys2Proof.Machine

/-! ### An answer leaves the state behind it alone -/

/-- `s` without what an answer to a request may change. -/
def State.besideAnswers (s : State) : State :=
  { s with layers := State.reset.layers, sent := State.reset.sent, draws := State.reset.draws }

section
variable (w : State) (route index sub status : Nat)

theorem answered_besideAnswers : (Answered w route index sub status).besideAnswers = w.besideAnswers := by
  unfold Answered
  dsimp only
  cases w.held? route index sub <;> rfl

@[simp] theorem answered_cmdRings : (Answered w route index sub status).cmdRings = w.cmdRings :=
  (congrArg State.cmdRings (answered_besideAnswers w route index sub status) :)

@[simp] theorem answered_cqRings : (Answered w route index sub status).cqRings = w.cqRings :=
  (congrArg State.cqRings (answered_besideAnswers w route index sub status) :)

@[simp] theorem answered_dict : (Answered w route index sub status).dict = w.dict :=
  (congrArg State.dict (answered_besideAnswers w route index sub status) :)

@[simp] theorem answered_part : (Answered w route index sub status).part = w.part :=
  (congrArg State.part (answered_besideAnswers w route index sub status) :)

@[simp] theorem answered_tenants : (Answered w route index sub status).tenants = w.tenants :=
  (congrArg State.tenants (answered_besideAnswers w route index sub status) :)

@[simp] theorem answered_power : (Answered w route index sub status).power = w.power :=
  (congrArg State.power (answered_besideAnswers w route index sub status) :)

@[simp] theorem answered_ports : (Answered w route index sub status).ports = w.ports :=
  (congrArg State.ports (answered_besideAnswers w route index sub status) :)

@[simp] theorem answered_pairing : (Answered w route index sub status).pairing = w.pairing :=
  (congrArg State.pairing (answered_besideAnswers w route index sub status) :)

@[simp] theorem answered_cmdRing (n : Nat) : (Answered w route index sub status).cmdRing n = w.cmdRing n := by
  simp [State.cmdRing]

@[simp] theorem answered_cqRing (n : Nat) : (Answered w route index sub status).cqRing n = w.cqRing n := by
  simp [State.cqRing]

@[simp] theorem answered_setting (i x : Nat) : (Answered w route index sub status).setting i x = w.setting i x := by
  simp [State.setting]

@[simp] theorem answered_port (p : Nat) : (Answered w route index sub status).port p = w.port p := by
  simp [State.port]

end

/-! ### Values held -/

theorem heldValue_zero (index sub : Nat) : heldValue index sub 0 = 0 := by
  unfold heldValue
  split
  · unfold writtenValue
    dsimp only
    split <;> simp
  · rfl

/-- A subindex of at least one bit holds the 1 that is written to it, whatever bits of it are reserved. -/
theorem heldValue_one {index sub : Nat} {i : SubInfo} (h : subInfo index sub = some i) (hw : i.width ≠ 0) :
    heldValue index sub 1 = 1 := by
  obtain ⟨k, hk⟩ := Nat.exists_eq_succ_of_ne_zero hw
  have hone : 1 % 2 ^ i.width = 1 := Nat.mod_eq_of_lt (by rw [hk]; exact Nat.one_lt_two_pow (Nat.succ_ne_zero k))
  unfold heldValue
  rw [h]
  show writtenValue index sub i.width 1 = 1
  unfold writtenValue
  dsimp only
  rw [hone]
  split <;> rfl

theorem subInfo_cmdEnable {n : Nat} (hn : n < 64) : subInfo (cmdObj n) 1 = some (rwN 8 0) := by
  rw [subInfo, objectKind_cmdObj n hn]
  rfl

theorem subInfo_cqEnable {n : Nat} (hn : n < 64) : subInfo (cqObj n) 1 = some (rwN 8 0) := by
  rw [subInfo, objectKind_cqObj n hn]
  rfl

/-! ### Ring enables (R15) -/

theorem setting_putSetting_same (s : State) (i x v : Nat) : (s.putSetting i x v).setting i x = v := by
  simp [State.setting, State.putSetting, lookupD, insertKey]

theorem cqRing_modCq_putSetting {s : State} {n : Nat} (hn : n < 64) (f : CqRing → CqRing) (i x v : Nat) :
    ((s.modCq n f).putSetting i x v).cqRing n = f (s.cqRing n) :=
  cqRing_modCq_same hn f

theorem disableCmd_effect {n : Nat} (hn : n < 64) (s : State) :
    ((s.disableCmd n).cmdRing n).enabled = false ∧ (s.disableCmd n).setting (cmdObj n) 1 = 0 := by
  unfold State.disableCmd
  dsimp only
  rw [cmdRing_of_besideLink (dropWatch_besideLink _ _), setting_of_besideLink (dropWatch_besideLink _ _),
    cmdRing_modCmd_putSetting hn, setting_putSetting_same]
  exact ⟨rfl, rfl⟩

theorem disableCq_effect {n : Nat} (hn : n < 64) (s : State) :
    ((s.disableCq n).cqRing n).enabled = false ∧ (s.disableCq n).setting (cqObj n) 1 = 0 := by
  unfold State.disableCq
  dsimp only
  rw [cqRing_of_besideLink (dropWatch_besideLink _ _), setting_of_besideLink (dropWatch_besideLink _ _),
    cqRing_modCq_putSetting hn, setting_putSetting_same]
  exact ⟨rfl, rfl⟩

theorem enableCq_besideLink (s : State) (n : Nat) :
    (s.enableCq n).besideLink =
      ((s.modCq n (fun q => { q with enabled := true, producer := 0, consumer := 0 })).putSetting
        (cqObj n) 1 1).besideLink := by
  unfold State.enableCq
  dsimp only
  split
  · exact (sendRead_besideLink _ _ _).trans (writeT2_besideLink _ _ _)
  · rfl

theorem enableCmd_effect {n : Nat} (hn : n < 64) (s : State) :
    ((s.enableCmd n).cmdRing n).enabled = true ∧ (s.enableCmd n).setting (cmdObj n) 1 = 1 := by
  rw [cmdRing_of_besideLink (enableCmd_besideLink s n), setting_of_besideLink (enableCmd_besideLink s n),
    cmdRing_modCmd_putSetting hn, setting_putSetting_same]
  exact ⟨rfl, rfl⟩

theorem enableCq_effect {n : Nat} (hn : n < 64) (s : State) :
    ((s.enableCq n).cqRing n).enabled = true ∧ ((s.enableCq n).cqRing n).producer = 0 ∧
      ((s.enableCq n).cqRing n).consumer = 0 ∧ (s.enableCq n).setting (cqObj n) 1 = 1 := by
  rw [cqRing_of_besideLink (enableCq_besideLink s n), setting_of_besideLink (enableCq_besideLink s n),
    cqRing_modCq_putSetting hn, setting_putSetting_same]
  exact ⟨rfl, rfl, rfl, rfl⟩

theorem setCmdEnable_one {s : State} {n : Nat} (h : s.setting (cmdObj n) 1 ≠ 1) :
    s.setCmdEnable n 1 = s.enableCmd n := by
  simp [State.setCmdEnable, h]

theorem setCqEnable_one {s : State} {n : Nat} (h : s.setting (cqObj n) 1 ≠ 1) :
    s.setCqEnable n 1 = s.enableCq n := by
  simp [State.setCqEnable, h]

/-! ### Trust operations (R444, R448) -/

theorem startOp_part (s : State) (op : Nat) :
    (s.startOp op).part.result = 1 ∧ (s.startOp op).part.op = op ∧
      (op = 4 → (s.startOp op).part.debug = true) := by
  unfold State.startOp
  dsimp only
  split
  · rw [unlockDebug_part]
    exact ⟨rfl, rfl, fun _ => rfl⟩
  · rename_i h
    exact ⟨rfl, rfl, fun e => absurd e (by simpa using h)⟩

theorem startOp_unlock_keys (s : State) : ∀ y ∈ (s.startOp 4).tenants, y.key = none :=
  unlockDebug_keys _

/-! ### Sleep (R496) -/

theorem enterSleep_pstate {s : State} (h : s.power.holdWhy = 0) : s.enterSleep.power.pstate = 3 := by
  simp [State.enterSleep, h]

/-! ### Ports and pairing (R402, R517) -/

theorem movePort_ports (s : State) (p : Nat) (f : PeerPort → PeerPort) :
    (s.movePort p f).ports = vMod s.ports p f := by
  unfold State.movePort
  dsimp only
  split <;> rfl

theorem port_movePort_same {s : State} {p : Nat} (hp : p < 8) (f : PeerPort → PeerPort) :
    (s.movePort p f).port p = f (s.port p) := by
  simp [State.port, movePort_ports, vGet_vMod, hp]

@[simp] theorem endPair_ports (s : State) : s.endPair.ports = s.ports := by
  unfold State.endPair
  dsimp only
  repeat' split
  all_goals rfl

@[simp] theorem refuseMove_ports (s : State) (h : U64) (status : Nat) : (s.refuseMove h status).ports = s.ports := by
  unfold State.refuseMove
  split <;> simp

theorem foldl_refuseMove_ports (s : State) (status : Nat) (l : List U64) :
    (l.foldl (fun s h => s.refuseMove h status) s).ports = s.ports :=
  foldl_keeps (P := fun t => t.ports = s.ports) rfl (fun t h e => (refuseMove_ports t h status).trans e)

/-- A port that lies on no route takes the state it goes down to. -/
theorem portDown_state {s : State} {p : Nat} (hp : p < 8) (hr : s.onRoute p = false) (state : Nat) :
    ((s.portDown p state).port p).state = state := by
  unfold State.portDown
  dsimp only
  split
  · rw [port_movePort_same hp]
  · rw [hr, Bool.false_and]
    show (State.port (List.foldl _ _ _) p).state = state
    rw [State.port, foldl_refuseMove_ports]
    split
    · rw [endPair_ports]
      exact congrArg PeerPort.state (port_movePort_same hp _)
    · exact congrArg PeerPort.state (port_movePort_same hp _)

theorem putSub_onRoute (s : State) (i x v p : Nat) : (s.putSub i x v).onRoute p = s.onRoute p := by
  unfold State.putSub
  split <;> rfl

/-- A write that passes the checks finds its object in a state that allows it (step 6 of Table 16-3). -/
theorem stateOk_of_allows {s : State} {route index sub : Nat} {v : U64} (h : Allows s route index sub v) :
    s.stateOk route index sub (heldValue index sub v) = true := by
  obtain ⟨_, _, hstatus⟩ := h
  unfold State.writeStatus at hstatus
  unfold heldValue
  cases hi : subInfo index sub with
  | none =>
    rw [hi] at hstatus
    exact absurd (show stNotSupported = stOk from hstatus) (by decide)
  | some i =>
    rw [hi] at hstatus
    dsimp only at hstatus ⊢
    split at hstatus
    · exact absurd hstatus (by decide)
    · split at hstatus
      · exact absurd hstatus (by decide)
      · exact absurd hstatus (by decide)
      · split at hstatus
        · exact absurd hstatus (by decide)
        · split at hstatus
          · exact absurd hstatus (by decide)
          · split at hstatus
            · exact absurd hstatus (by decide)
            · rename_i hstate
              rwa [Bool.not_eq_true', Bool.not_eq_false] at hstate

/-- A port that is disabled lies on no route of the job (R402). -/
theorem offRoute_of_allows {s : State} {route n : Nat} (hn : n < 8) (h : Allows s route (0x1120 + n) 1 0) :
    s.onRoute n = false := by
  have hstate := stateOk_of_allows h
  rw [heldValue_zero] at hstate
  simp [State.stateOk, (portObj_moduleSub n hn).noTenant, objectKind_portObj n hn, objectNumber] at hstate
  exact hstate.1

theorem setPortEnable_zero (s : State) (n : Nat) : s.setPortEnable n 0 = s.portDown n 4 := rfl

theorem detachNow_pairing (s : State) : s.detachNow.pairing.state = 3 := rfl

end Sys2Proof.Machine
end

section
/-!
The rows that are one write of a subindex, with their effects.
-/

namespace Sys2Proof.Machine

/-! ### The rows of the dictionary that have one effect of their own -/

section
variable {s : State} {route n : Nat} {v : U64}

theorem exec_commandRingEnable (hn : n < 64) (h : Allows s route (cmdObj n) 1 v) :
    exec (.commandRingEnable route n v) s =
      .next (Answered (s.setCmdEnable n (heldValue (cmdObj n) 1 v)) route (cmdObj n) 1 stOk) :=
  congrArg Host.Outcome.next
    (rowWrite_module h (cmdObj_moduleSub n hn) (by simp [startsReset]) (putModule_cmdRing hn))

theorem exec_completionRingEnable (hn : n < 64) (h : Allows s route (cqObj n) 1 v) :
    exec (.completionRingEnable route n v) s =
      .next (Answered (s.setCqEnable n (heldValue (cqObj n) 1 v)) route (cqObj n) 1 stOk) :=
  congrArg Host.Outcome.next
    (rowWrite_module h (cqObj_moduleSub n hn) (by simp [startsReset]) (putModule_cq hn))

theorem exec_quote (h : Allows s route 0x1020 6 v) :
    exec (.quote route v) s = .next (Answered s.startQuote route 0x1020 6 stOk) :=
  congrArg Host.Outcome.next (rowWrite_module h ⟨rfl, rfl⟩ rfl rfl)

/-- The commands of the trust operations and their numbers (R444). -/
def trustRows (route : Nat) : List (Instr × Nat) :=
  [(.installMainFirmware route, 1), (.installPartitionFirmware route, 2), (.rotateIdentity route, 3),
    (.debugUnlock route, 4), (.factoryReset route, 5)]

theorem exec_trustRow : ∀ x ∈ trustRows route, Allows s route 0x8100 1 (BitVec.ofNat 64 x.2) →
    exec x.1 s = .next (Answered ((s.putSub 0x8100 1 x.2).startOp x.2) route 0x8100 1 stOk) := by
  simp only [trustRows, List.forall_mem_cons, List.not_mem_nil, false_implies, implies_true, and_true]
  and_intros
  all_goals exact fun h => congrArg Host.Outcome.next (rowWrite_module h ⟨rfl, rfl⟩ rfl rfl)

theorem exec_stageOff (h : Allows s route 0x8110 1 v) : exec (.stageOff route v) s =
    .next (Answered (s.setStageOff (heldValue 0x8110 1 v)) route 0x8110 1 stOk) :=
  congrArg Host.Outcome.next (rowWrite_module h ⟨rfl, rfl⟩ rfl rfl)

theorem exec_stageData (h : Allows s route 0x8110 2 v) :
    exec (.stageData route v) s = .next (Answered (s.stageWord v.toNat) route 0x8110 2 stOk) :=
  congrArg Host.Outcome.next
    (rowWrite_module h ⟨rfl, rfl⟩ rfl (congrArg s.stageWord (heldValue_stageData v)))

theorem exec_stickyClear (h : Allows s route 0x7100 n v) : exec (.stickyClear route n v) s =
    .next (Answered (s.clearStickyWord n (heldValue 0x7100 n v)) route 0x7100 n stOk) :=
  congrArg Host.Outcome.next (rowWrite_module h ⟨rfl, rfl⟩ rfl rfl)

theorem exec_causeClear {i : Nat} (hl : 0x7010 ≤ i) (hu : i ≤ 0x7014) (h : Allows s route i n v) :
    exec (.causeClear route i n v) s = .next (Answered (s.clearCause i n (heldValue i n v)) route i n stOk) :=
  congrArg Host.Outcome.next
    (rowWrite_module h (cause_moduleSub hl hu) (startsReset_of_ne (by omega)) (putModule_cause hl hu))

theorem exec_sleep (h : Allows s route 0x2000 9 v) :
    exec (.sleep route v) s = .next (Answered s.enterSleep route 0x2000 9 stOk) :=
  congrArg Host.Outcome.next (rowWrite_module h ⟨rfl, rfl⟩ rfl rfl)

theorem exec_softReset (h : Allows s route 0x11C0 3 v) :
    exec (.softReset route v) s = .next (Answered s route 0x11C0 3 stOk).softReset :=
  congrArg Host.Outcome.next (rowWrite_softReset h)

theorem exec_peerPortEnable (hn : n < 8) (h : Allows s route (0x1120 + n) 1 v) : exec (.peerPortEnable route n v) s =
    .next (Answered ((s.putSub (0x1120 + n) 1 (heldValue (0x1120 + n) 1 v)).setPortEnable n
      (heldValue (0x1120 + n) 1 v)) route (0x1120 + n) 1 stOk) :=
  congrArg Host.Outcome.next
    (rowWrite_module h (portObj_moduleSub n hn) (by simp [startsReset]) (putModule_port hn))

theorem exec_pairEn (h : Allows s route 0x11C8 1 v) : exec (.pairEn route v) s =
    .next (Answered ((s.putSub 0x11C8 1 (heldValue 0x11C8 1 v)).setPairEn (heldValue 0x11C8 1 v)) route
      0x11C8 1 stOk) :=
  congrArg Host.Outcome.next (rowWrite_module h ⟨rfl, rfl⟩ rfl rfl)

theorem exec_detachPair (h : Allows s route 0x11C8 5 v) :
    exec (.detachPair route v) s = .next (Answered s.detachNow route 0x11C8 5 stOk) :=
  congrArg Host.Outcome.next (rowWrite_module h ⟨rfl, rfl⟩ rfl rfl)

/-! ### DICTIONARY_WRITE -/

theorem exec_dictionaryWrite_selector {i : Nat} (h : Allows s route i n v) (hr : routeSub i n = true) :
    exec (.dictionaryWrite route i n v) s =
      .next (Answered (s.putSelector route i n (heldValue i n v)) route i n stOk) :=
  congrArg Host.Outcome.next (rowWrite_selector h hr)

theorem exec_dictionaryWrite_tenant {i : Nat} (h : Allows s route i n v) (hr : routeSub i n = false)
    (ht : tenantObject i = true) (hkey : ¬ (i = 0x3010 ∧ (n = 4 ∨ n = 5))) :
    exec (.dictionaryWrite route i n v) s =
      .next (Answered (s.putTenant (s.selectedTenant route) i n (heldValue i n v)) route i n stOk) :=
  congrArg Host.Outcome.next (rowWrite_tenant h hr ht hkey)

/-- A write of an object of the module that is not of the resets' object: its arm of `putModule` is what it does. -/
theorem exec_dictionaryWrite_module {w : State} {i : Nat} (h : Allows s route i n v) (hm : ModuleSub i n)
    (hreset : startsReset i n stOk = false) (hw : s.putModule i n (heldValue i n v) = w) :
    exec (.dictionaryWrite route i n v) s = .next (Answered w route i n stOk) :=
  congrArg Host.Outcome.next (rowWrite_module h hm hreset hw)

/-- An object of another kind than the resets' own starts no soft reset. -/
theorem startsReset_of_kind {i k : Nat} (hi : objectKind i = k) (hk : k ≠ 0x11C0) : startsReset i n stOk = false := by
  refine startsReset_of_ne ?_
  rintro rfl
  exact hk hi.symm

theorem exec_dictionaryWrite_plain {i : Nat} (h : Allows s route i n v) (hm : ModuleSub i n)
    (hk : objectKind i ∉ [0x4010, 0x7010, 0x7011, 0x7012, 0x7013, 0x7014, 0x7100, 0x8010])
    (hs : (objectKind i, n) ∉ [(0x1020, 6), (0x1120, 1), (0x1140, 1), (0x1180, 1), (0x11C0, 3), (0x11C8, 1),
      (0x11C8, 5), (0x2000, 9), (0x8100, 1), (0x8110, 1), (0x8110, 2)]) :
    exec (.dictionaryWrite route i n v) s = .next (Answered (s.putSub i n (heldValue i n v)) route i n stOk) := by
  refine exec_dictionaryWrite_module h hm ?_ (putModule_plain hk hs)
  rw [← Bool.not_eq_true, startsReset_iff]
  rintro ⟨rfl, rfl⟩
  exact absurd hs (by decide)

/-! ### What the rows' effects come to -/

theorem commandRingEnable_off (hn : n < 64) (h : Allows s route (cmdObj n) 1 0) :
    ∃ t, exec (.commandRingEnable route n 0) s = .next t ∧ (t.cmdRing n).enabled = false ∧
      t.setting (cmdObj n) 1 = 0 := by
  refine ⟨_, exec_commandRingEnable hn h, ?_⟩
  rw [answered_cmdRing, answered_setting, heldValue_zero]
  exact disableCmd_effect hn s

theorem commandRingEnable_on (hn : n < 64) (h : Allows s route (cmdObj n) 1 1) (hoff : s.setting (cmdObj n) 1 ≠ 1) :
    ∃ t, exec (.commandRingEnable route n 1) s = .next t ∧ (t.cmdRing n).enabled = true ∧
      t.setting (cmdObj n) 1 = 1 := by
  refine ⟨_, exec_commandRingEnable hn h, ?_⟩
  rw [answered_cmdRing, answered_setting, heldValue_one (subInfo_cmdEnable hn) (by decide), setCmdEnable_one hoff]
  exact enableCmd_effect hn s

theorem completionRingEnable_off (hn : n < 64) (h : Allows s route (cqObj n) 1 0) :
    ∃ t, exec (.completionRingEnable route n 0) s = .next t ∧ (t.cqRing n).enabled = false ∧
      t.setting (cqObj n) 1 = 0 := by
  refine ⟨_, exec_completionRingEnable hn h, ?_⟩
  rw [answered_cqRing, answered_setting, heldValue_zero]
  exact disableCq_effect hn s

theorem completionRingEnable_on (hn : n < 64) (h : Allows s route (cqObj n) 1 1)
    (hoff : s.setting (cqObj n) 1 ≠ 1) :
    ∃ t, exec (.completionRingEnable route n 1) s = .next t ∧ (t.cqRing n).enabled = true ∧
      (t.cqRing n).producer = 0 ∧ (t.cqRing n).consumer = 0 ∧ t.setting (cqObj n) 1 = 1 := by
  refine ⟨_, exec_completionRingEnable hn h, ?_⟩
  rw [answered_cqRing, answered_setting, heldValue_one (subInfo_cqEnable hn) (by decide), setCqEnable_one hoff]
  exact enableCq_effect hn s

theorem quote_starts (h : Allows s route 0x1020 6 1) :
    ∃ t, exec (.quote route 1) s = .next t ∧ t.part.qstate = 1 ∧ t.part.quoteDest = s.setting 0x1020 5 := by
  refine ⟨_, exec_quote h, ?_⟩
  rw [answered_part]
  exact ⟨rfl, rfl⟩

theorem trustRow_starts : ∀ x ∈ trustRows route, Allows s route 0x8100 1 (BitVec.ofNat 64 x.2) →
    ∃ t, exec x.1 s = .next t ∧ t.part.result = 1 ∧ t.part.op = x.2 ∧
      (x.2 = 4 → t.part.debug = true ∧ ∀ y ∈ t.tenants, y.key = none) := by
  intro x hx h
  refine ⟨_, exec_trustRow x hx h, ?_⟩
  rw [answered_part, answered_tenants]
  obtain ⟨hresult, hop, hdebug⟩ := startOp_part (s.putSub 0x8100 1 x.2) x.2
  refine ⟨hresult, hop, fun h4 => ⟨hdebug h4, ?_⟩⟩
  rw [h4]
  exact startOp_unlock_keys _

theorem sleep_enters (hhold : s.power.holdWhy = 0) (h : Allows s route 0x2000 9 1) :
    ∃ t, exec (.sleep route 1) s = .next t ∧ t.power.pstate = 3 := by
  refine ⟨_, exec_sleep h, ?_⟩
  rw [answered_power]
  exact enterSleep_pstate hhold

theorem peerPortEnable_off (hn : n < 8) (h : Allows s route (0x1120 + n) 1 0) :
    ∃ t, exec (.peerPortEnable route n 0) s = .next t ∧ (t.port n).state = 4 := by
  refine ⟨_, exec_peerPortEnable hn h, ?_⟩
  rw [answered_port, heldValue_zero, setPortEnable_zero]
  exact portDown_state hn ((putSub_onRoute _ _ _ _ _).trans (offRoute_of_allows hn h)) 4

theorem detachPair_detaches (h : Allows s route 0x11C8 5 1) :
    ∃ t, exec (.detachPair route 1) s = .next t ∧ t.pairing.state = 3 := by
  refine ⟨_, exec_detachPair h, ?_⟩
  rw [answered_pairing]
  exact detachNow_pairing s

end

end Sys2Proof.Machine
end

section
/-!
The statements of this family, each from the rules above.
-/

namespace Sys2Proof.Machine

/-- Settles O20: a record row offers its opcode's plan, and an accepted record runs the plan it is offered with. -/
theorem acceptedRecordsRun : Obligations.AcceptedRecordsRun := by
  intro x hx r s q h
  rw [exec_recordRow hx]
  exact congrArg _ (offer_accepted h)

/-- Settles O17: the status is that of the first failing check, and a refused record does nothing else. -/
theorem firstFailingCheckDecides : Obligations.FirstFailingCheckDecides := by
  intro x hx r s q h hq before after st hc hb hst
  have hfirst : firstFailure (s.checksOf q) = st := by rw [hc, firstFailure_of_split hb]
  rw [exec_recordRow hx, offer_refused h hq (by rwa [hfirst]), hfirst]

/-- Settles O18: a completion leaves the command rings alone, so the kept value is what the start left. -/
theorem sequenceCheck : Obligations.SequenceCheck := by
  refine ⟨?_, ?_, ?_, ?_, ?_, ?_⟩
  · intro x hx r s k q h hk hseq
    have hbad : s.seqOk q = false := by
      rw [← Bool.not_eq_true, seqOk_iff_of_some hk]; exact hseq
    refine ⟨_, exec_recordRow hx r s, ?_⟩
    rw [offer_startRecord h.fetched h.oldest h.may, startRecord_seqRefused h.here hbad,
      cmdRing_of_cmdRings (complete_cmdRings _ _ _ _ _)]
    exact ⟨⟨[], _, rfl⟩, hk⟩
  · intro x hx r s q h hq
    have hlast := started_lastSeq (s := s) (ring_lt_of_fetches h.fetched)
    refine ⟨hlast, fun hc => ⟨_, exec_recordRow hx r s, ?_⟩⟩
    rw [offer_refused h hq hc, cmdRing_of_cmdRings (s := s.started q) (by simp)]
    exact hlast
  · intro x hx r s st q hf ht hm haway
    refine ⟨_, exec_recordRow hx r s, ?_⟩
    rw [offer_startRecord hf ht hm, startRecord_turnedAway haway,
      cmdRing_of_cmdRings (complete_cmdRings _ _ _ _ _)]
  · exact fun s q k hk => seqOk_iff_of_some hk
  · exact fun s q h => seqOk_of_none h
  · exact fun s n hn => enableCmd_lastSeq hn

/-- Settles O19, case by case of `State.offer`, `State.startRecord` and `State.startHead`. -/
theorem recordsWaitOrTurnAway : Obligations.RecordsWaitOrTurnAway := by
  refine ⟨?_, ?_, ?_, ?_, ?_⟩
  · intro x hx r s q hf ht hm hd
    have hop : q.opcode = x.2 := withOpcode_opcode r x.2 (recordRows_runOwnPlan x hx).opcode_lt
    rw [exec_recordRow hx, offer_startRecord hf ht hm]
    rw [← hop] at hd ⊢
    exact ⟨fun hfault => congrArg _ (startRecord_turnedAway (turnedAway_of_faulted hd hfault)),
      fun hfault hj ho => congrArg _ (startRecord_turnedAway (turnedAway_of_jobEnding hd hfault hj ho))⟩
  · intro x hx r s q
    rw [exec_recordRow hx]
    exact ⟨fun hf => congrArg _ (offer_unfetched hf), fun hf h => congrArg _ (offer_waits hf h)⟩
  · intro s n q rest h
    simp only [exec_recordStart]
    exact ⟨fun hm hold => congrArg _ (startHead_starts h hm hold),
      fun hm m k old hold => congrArg _ (startHead_startsFormer h hm hold),
      fun hm => congrArg _ (startHead_stays h hm)⟩
  · exact fun s n h => congrArg _ (startHead_idle h)
  · exact fun s q hq h => canStart_fenced hq h

/-- Settles O34: the producer line needs the writes of its own slots and what the ring's earlier producer lines need. -/
theorem producerWaitsForSlots : Obligations.ProducerWaitsForSlots := by
  intro s p hcq t
  have hlink : t.link = _ := writePost_link s p
  have hring : (t.cqRing p.cq).producer = s.postIndex p := by
    simp [t, State.cqRing, writePost_cqRings, vGet_vMod, hcq]
  refine ⟨s.postLine p, by simp [hlink], by rw [hring]; rfl, fun tag ht hs => ?_, fun e he i hw tag htag => ?_⟩
  · rw [hlink] at ht
    exact List.mem_append_left _ (mem_newWrites ht hs)
  · exact List.mem_append_right _ (mem_producerNeeds he hw htag)

/-- Settles O39: what opens a step and what it then is, and when it ends. -/
theorem servingSteps : Obligations.ServingSteps := by
  refine ⟨?_, ?_, ?_, ?_⟩
  · intro s hstep hjob hfault hpower hheld hdue
    obtain ⟨t, o, ht, h⟩ :=
      exec_stepOpen_opens ((stepMayOpen_iff s).2 ⟨hstep, hjob, hfault, hpower, hheld, hdue⟩)
    refine ⟨t, o, ht, h.step, h.number, h.steps, h.epoch, h.decode, ?_, h.view⟩
    rw [h.power]
    dsimp only
    split
    · rfl
    · rename_i hidle
      simp at hidle
      omega
  · intro s h
    refine exec_stepOpen_nothing ?_
    rw [← Bool.not_eq_true, stepMayOpen_iff]
    rintro ⟨hstep, hjob, hfault, hpower, hheld, hdue⟩
    simp [hstep, hjob, hfault, hheld, hdue, Nat.not_le.2 hpower] at h
  · exact fun s o ho h => exec_stepEnd_waits ho h
  · intro s o ho he hw hp hf
    have hend := exec_stepEnd_ends ho he hw hp hf
    exact ⟨fun _ => hend, fun before w after hworks hb hun => by rw [hend, endStep_unwritten hworks hb hun]⟩

/-- Settles O45: each row's write is its arm of `acceptWrite`, and each arm does what its object says. -/
theorem acceptedWrites : Obligations.AcceptedWrites := by
  refine ⟨fun s route n v => ?_, fun s route n => ?_⟩
  · exact ⟨exec_commandRingEnable, exec_completionRingEnable, exec_quote,
      exec_trustRow (.installMainFirmware route, 1) (by simp [trustRows]),
      exec_trustRow (.installPartitionFirmware route, 2) (by simp [trustRows]),
      exec_trustRow (.rotateIdentity route, 3) (by simp [trustRows]),
      exec_trustRow (.debugUnlock route, 4) (by simp [trustRows]),
      exec_trustRow (.factoryReset route, 5) (by simp [trustRows]),
      exec_stageOff, exec_stageData, exec_stickyClear, fun i hl hu => exec_causeClear hl hu, exec_sleep,
      exec_softReset, exec_peerPortEnable, exec_pairEn, exec_detachPair,
      fun i h hr => exec_dictionaryWrite_selector h hr,
      fun i h hr ht hkey => exec_dictionaryWrite_tenant h hr ht hkey,
      fun i h hr ht hk =>
        exec_dictionaryWrite_module h ⟨hr, ht⟩ (startsReset_of_kind hk (by decide)) (putModule_slot hk),
      fun i h hr ht hk =>
        exec_dictionaryWrite_module h ⟨hr, ht⟩ (startsReset_of_kind hk (by decide)) (putModule_limit hk),
      fun i h hr ht hk hs => exec_dictionaryWrite_plain h ⟨hr, ht⟩ hk hs⟩
  · exact ⟨commandRingEnable_off, commandRingEnable_on, completionRingEnable_off, completionRingEnable_on,
      quote_starts, trustRow_starts, sleep_enters, peerPortEnable_off, detachPair_detaches⟩

end Sys2Proof.Machine
end

section
/-!
Index partitions (03 R68, R86 to R90): what a read finds after a write, what a merge puts in force, and what a
publish leaves until then.
-/

namespace Sys2Proof.Machine

/-! ### Reading a partition after a write -/

theorem partition_of_partitions {s t : State} (h : t.partitions = s.partitions) (i n : Nat) :
    t.partition i n = s.partition i n := by
  rw [State.partition, h, State.partition]

theorem partition_names (s : State) (i n : Nat) : (s.partition i n).slot = i ∧ (s.partition i n).tenant = n := by
  unfold State.partition
  cases hfind : s.partitions.find? (fun p => p.slot == i && p.tenant == n) with
  | none => exact ⟨rfl, rfl⟩
  | some p => simpa using List.find?_some hfind

@[simp] theorem partition_slot (s : State) (i n : Nat) : (s.partition i n).slot = i := (partition_names s i n).1

@[simp] theorem partition_tenant (s : State) (i n : Nat) : (s.partition i n).tenant = n := (partition_names s i n).2

theorem find?_replaced_same {α : Type} {p : α → Bool} {a : α} (l : List α) (h : p a = true) :
    (l.filter (fun x => !p x) ++ [a]).find? p = some a := by
  have hgone : (l.filter (fun x => !p x)).find? p = none := by simp
  simp [List.find?_append, hgone, h]

theorem find?_replaced_other {α : Type} {p q : α → Bool} {a : α} (l : List α) (h : ∀ x, p x = true → q x = false)
    (ha : q a = false) : (l.filter (fun x => !p x) ++ [a]).find? q = l.find? q := by
  have hkept : (fun x => decide ((!p x) = true ∧ q x = true)) = q := by
    funext x
    cases hp : p x with
    | false => simp
    | true => simp [h x hp]
  rw [List.find?_append, List.find?_filter, hkept]
  simp [ha]

theorem putPartition_partition_same (s : State) (p : Partition) :
    (s.putPartition p).partition p.slot p.tenant = p :=
  congrArg (·.getD (Partition.empty p.slot p.tenant)) (find?_replaced_same
    (p := fun x : Partition => x.slot == p.slot && x.tenant == p.tenant) s.partitions (by simp))

theorem putPartition_partition_other {s : State} {p : Partition} {i n : Nat} (h : ¬ (p.slot = i ∧ p.tenant = n)) :
    (s.putPartition p).partition i n = s.partition i n := by
  refine congrArg (·.getD (Partition.empty i n)) (find?_replaced_other
    (p := fun x : Partition => x.slot == p.slot && x.tenant == p.tenant)
    (q := fun x => x.slot == i && x.tenant == n) s.partitions (fun x hx => ?_) ?_)
  · obtain ⟨hslot, htenant⟩ : x.slot = p.slot ∧ x.tenant = p.tenant := by simpa using hx
    simpa [hslot, htenant] using h
  · simpa using h

/-! ### What leaves the partitions alone -/

@[simp] theorem leaveIdle_partitions (s : State) : s.leaveIdle.partitions = s.partitions := rfl

@[simp] theorem toQuarantine_partitions (s : State) (t n : Nat) : (s.toQuarantine t n).partitions = s.partitions := by
  unfold State.toQuarantine State.quarantineFrames
  split <;> rfl

@[simp] theorem trimRetained_partitions (s : State) (t k : Nat) :
    (s.trimRetained t k).partitions = s.partitions := by
  induction k generalizing s with
  | zero => rfl
  | succ k ih =>
    unfold State.trimRetained
    split
    · split
      · rfl
      · exact ih _
    · rfl

@[simp] theorem notePeaks_partitions (s : State) (t : Nat) : (s.notePeaks t).partitions = s.partitions :=
  trimRetained_partitions s t _

/-! ### A merge -/

/-- The partition once merge `m` is in force (R72, R73, R88). -/
def Partition.merged (p : Partition) (sl : IndexSlot) (m : Merge) : Partition :=
  let r := mergeLive p.live m.delta
  { p with
    live := r.live, mode := modeFor sl r.live.length, homeBits := homeBitsFor sl r.live.length, merge := none,
    stamps := mergeStamps sl p m.delta,
    generation := p.generation + 1, absentDel := p.absentDel + BitVec.ofNat 64 r.absent }

/-- `s` once merge `m` of a partition is in force, the record that asked for it not yet completed. -/
def State.switched (s : State) (slot tenant : Nat) (m : Merge) : State :=
  let p := s.partition slot tenant
  let p' := p.merged (s.slot slot) m
  (s.toQuarantine tenant (p.bales (s.slot slot) - p'.bales (s.slot slot))).putPartition p'

section
variable {s : State} {slot tenant : Nat} {m : Merge}

theorem switchGeneration_unasked (hm : (s.partition slot tenant).merge = some m) (hr : m.run = none) :
    s.switchGeneration slot tenant = s.switched slot tenant m := by
  simp only [State.switchGeneration, hm, hr]
  rfl

theorem switchGeneration_asked {id : Nat} (hm : (s.partition slot tenant).merge = some m) (hr : m.run = some id) :
    s.switchGeneration slot tenant = (s.switched slot tenant m).completeId id stOk
      (publishResults (mergeLive (s.partition slot tenant).live m.delta)
        ((s.partition slot tenant).generation + 1)) := by
  simp only [State.switchGeneration, hm, hr]
  rfl

theorem switched_partition_same : (s.switched slot tenant m).partition slot tenant =
    (s.partition slot tenant).merged (s.slot slot) m := by
  have h := putPartition_partition_same
    (s.toQuarantine tenant ((s.partition slot tenant).bales (s.slot slot) -
      ((s.partition slot tenant).merged (s.slot slot) m).bales (s.slot slot)))
    ((s.partition slot tenant).merged (s.slot slot) m)
  simpa [Partition.merged, State.switched] using h

theorem switched_partition_other {i n : Nat} (h : ¬ (i = slot ∧ n = tenant)) :
    (s.switched slot tenant m).partition i n = s.partition i n := by
  have hne : ¬ (((s.partition slot tenant).merged (s.slot slot) m).slot = i ∧
      ((s.partition slot tenant).merged (s.slot slot) m).tenant = n) := by
    rintro ⟨rfl, rfl⟩
    exact h ⟨partition_slot s slot tenant, partition_tenant s slot tenant⟩
  exact (putPartition_partition_other hne).trans (partition_of_partitions (toQuarantine_partitions s _ _) i n)

end

/-! ### Publishes -/

/-- What a partition is while the merge of its delta is in progress (R86). -/
theorem startMerge_partition (s : State) (p : Partition) (run : Option Nat) :
    (s.startMerge p run).partition p.slot p.tenant =
      { p with delta := [], merge := some ⟨p.delta, run, mergeBales (s.slot p.slot) p p.delta⟩ } := by
  unfold State.startMerge
  rw [partition_of_partitions (notePeaks_partitions _ _), partition_of_partitions (leaveIdle_partitions _)]
  exact putPartition_partition_same s _

theorem autoPublish_starts {s : State} {slot tenant : Nat} (hslot : (s.slot slot).state ≠ 0)
    (hms : (s.slot slot).publishMs ≠ 0) (hdelta : (s.partition slot tenant).delta ≠ [])
    (hmerge : (s.partition slot tenant).merge = none)
    (hfits : s.t1Fits tenant (mergeBales (s.slot slot) (s.partition slot tenant)
      (s.partition slot tenant).delta) = true) :
    s.autoPublish slot tenant = s.startMerge (s.partition slot tenant) none := by
  simp [State.autoPublish, hslot, hms, hdelta, hmerge, hfits]

theorem runIndexPublish_pending {r : Record} {id : Nat} {s : State}
    (h : (s.partition (indexSlotOf r.handle) r.tenant).delta ≠ []) :
    runIndexPublish r id s = s.startMerge (s.partition (indexSlotOf r.handle) r.tenant) (some id) :=
  if_neg (by simpa using h)

theorem runIndexPublish_empty {r : Record} {id : Nat} {s : State}
    (h : (s.partition (indexSlotOf r.handle) r.tenant).delta = []) :
    runIndexPublish r id s = s.complete r id stOk
      (publishResults ⟨[], 0, 0, 0⟩ (s.partition (indexSlotOf r.handle) r.tenant).generation) :=
  if_pos (by simp [h])

/-! ### Units at work -/

theorem exec_generationSwitch {s : State} (h : s.power.pstate < 2) (slot tenant : Nat) :
    exec (.generationSwitch slot tenant) s = .next (s.switchGeneration slot tenant) :=
  congrArg Host.Outcome.next (if_pos (decide_eq_true h))

theorem exec_autoPublish {s : State} (h : s.power.pstate < 2) (slot tenant : Nat) :
    exec (.autoPublish slot tenant) s = .next (s.autoPublish slot tenant) :=
  congrArg Host.Outcome.next (if_pos (decide_eq_true h))

end Sys2Proof.Machine
end

section
/-!
The statements of the Gleaner and the Winnow, from the rules above.
-/

namespace Sys2Proof.Machine

/-- A row offered with its opcode's plan runs that plan's effect, from the started state with the plan's sources asked
for. -/
theorem runs_of_plan {c : Record → Instr} {op : Nat} {plan : Record → State → Plan} {when : Record → State → Prop}
    {f : Record → Nat → State → State}
    (hrun : ∀ q s id, when q s → (plan q s).run id (s.readSources (plan q s).sources) =
      f q id (s.readSources (plan q s).sources))
    (hop : op < 65536 := by decide)
    (hplan : ∀ q : Record, q.opcode = op → planOf q = plan := by intro q hq; simp only [planOf, hq])
    (hrow : ∀ r s, exec (c r) s = .next (s.record r op plan) := by intros; rfl) : Runs c op when f := by
  intro r s q h hwhen
  have hq : planOf q = plan := hplan q (withOpcode_opcode r op hop)
  rw [hrow, record_accepted hop hplan h, State.begun, hq]
  exact congrArg _ (hrun q (s.started q) s.newId hwhen)

/-- Settles O21: a switch is a write of the merged partition, and an automatic publish starts the merge. -/
theorem generationSwitches : Obligations.GenerationSwitches := by
  unfold Obligations.GenerationSwitches
  intro Switched
  have hswitched (s : State) (slot tenant : Nat) (m : Merge) :
      Switched s slot tenant m (s.switched slot tenant m) := by
    simp only [Switched, switched_partition_same]
    exact ⟨rfl, rfl, rfl, rfl, fun i t h => switched_partition_other h⟩
  refine ⟨?_, ?_, ?_⟩
  · intro s slot tenant m hp hm hr
    exact ⟨_, exec_generationSwitch hp slot tenant, by
      rw [switchGeneration_unasked hm hr]; exact hswitched s slot tenant m⟩
  · intro s slot tenant id m hp hm hr
    exact ⟨_, hswitched s slot tenant m, by rw [exec_generationSwitch hp, switchGeneration_asked hm hr]⟩
  · intro s slot tenant hp hslot hms hdelta hmerge hfits
    refine ⟨_, exec_autoPublish hp slot tenant, ?_⟩
    have hstarted := startMerge_partition s (s.partition slot tenant) none
    rw [partition_slot, partition_tenant] at hstarted
    rw [autoPublish_starts hslot hms hdelta hmerge hfits, hstarted]
    exact ⟨rfl, rfl, rfl, rfl⟩

/-- Settles O22: each opcode's plan runs the effect named; an INDEX_PUBLISH reads no source, so that the delta it meets
is the started state's. -/
theorem gleanerAndWinnowRecords : Obligations.GleanerAndWinnowRecords :=
  ⟨⟨runs_of_plan (plan := planIndexCreate) fun _ _ _ _ => rfl,
    runs_of_plan (plan := planIndexDrop) fun _ _ _ _ => rfl,
    runs_of_plan (plan := planVecInsert) fun _ _ _ _ => rfl,
    runs_of_plan (plan := planVecDelete) fun _ _ _ _ => rfl,
    runs_of_plan (plan := planIndexPublish) fun _ _ _ h => runIndexPublish_pending h,
    runs_of_plan (plan := planIndexPublish) fun _ _ _ h => runIndexPublish_empty h,
    runs_of_plan (plan := planIndexSave) fun _ _ _ _ => by dsimp only [planIndexSave, runIndexSave],
    runs_of_plan (plan := planIndexLoad) fun _ _ _ _ => rfl,
    runs_of_plan (plan := planSearch) fun _ _ _ _ => rfl⟩,
   runs_of_plan (plan := planTopk) fun _ _ _ _ => rfl,
   runs_of_plan (plan := planTopkMerge) fun _ _ _ _ => rfl⟩

end Sys2Proof.Machine
end

section
/-!
Selection (04 R109, R110): the order in which entries rank, and the sort that puts them in it.
-/

namespace Sys2Proof.Machine

/-! ### The sort -/

theorem insertBy_of_le {α : Type} {le : α → α → Bool} {x y : α} (h : le x y = true) (l : List α) :
    insertBy le x (y :: l) = x :: y :: l :=
  if_pos h

theorem insertBy_of_not_le {α : Type} {le : α → α → Bool} {x y : α} (h : ¬ le x y = true) (l : List α) :
    insertBy le x (y :: l) = y :: insertBy le x l :=
  if_neg h

theorem insertBy_perm {α : Type} (le : α → α → Bool) (x : α) (l : List α) : (insertBy le x l).Perm (x :: l) := by
  induction l with
  | nil => exact .refl _
  | cons y ys ih =>
    by_cases h : le x y = true
    · rw [insertBy_of_le h]
    · rw [insertBy_of_not_le h]
      exact (ih.cons y).trans (.swap x y ys)

theorem sortBy_perm {α : Type} (le : α → α → Bool) (l : List α) : (sortBy le l).Perm l := by
  induction l with
  | nil => exact .refl _
  | cons x xs ih => exact (insertBy_perm le x _).trans (ih.cons x)

section
variable {α : Type} {le : α → α → Bool} (htotal : ∀ a b, le a b = true ∨ le b a = true)
  (htrans : ∀ a b c, le a b = true → le b c = true → le a c = true)
include htotal htrans

theorem insertBy_pairwise (x : α) {l : List α} (hl : l.Pairwise (fun a b => le a b = true)) :
    (insertBy le x l).Pairwise (fun a b => le a b = true) := by
  induction l with
  | nil => exact List.pairwise_singleton _ x
  | cons y ys ih =>
    obtain ⟨hy, hys⟩ := List.pairwise_cons.1 hl
    by_cases h : le x y = true
    · rw [insertBy_of_le h]
      refine List.pairwise_cons.2 ⟨fun z hz => ?_, hl⟩
      rcases List.mem_cons.1 hz with rfl | hz
      · exact h
      · exact htrans x y z h (hy z hz)
    · rw [insertBy_of_not_le h]
      refine List.pairwise_cons.2 ⟨fun z hz => ?_, ih hys⟩
      rcases List.mem_cons.1 ((insertBy_perm le x ys).mem_iff.1 hz) with rfl | hz
      · exact (htotal z y).resolve_left h
      · exact hy z hz

theorem sortBy_pairwise (l : List α) : (sortBy le l).Pairwise (fun a b => le a b = true) := by
  induction l with
  | nil => exact .nil
  | cons x xs ih => exact insertBy_pairwise htotal htrans x ih

end

/-! ### The ranks -/

theorem ranksFirst_iff (a b : WEntry) : ranksFirst a b = true ↔ RanksBefore a b := by
  simp [ranksFirst, RanksBefore]

theorem RanksBefore.total (a b : WEntry) : RanksBefore a b ∨ RanksBefore b a := by
  unfold RanksBefore
  omega

theorem RanksBefore.trans {a b c : WEntry} (hab : RanksBefore a b) (hbc : RanksBefore b c) : RanksBefore a c := by
  unfold RanksBefore at *
  omega

theorem ranked_pairwise (l : List WEntry) : (sortBy ranksFirst l).Pairwise RanksBefore := by
  have h := sortBy_pairwise (le := ranksFirst)
    (fun a b => by simpa only [ranksFirst_iff] using RanksBefore.total a b)
    (fun a b c => by simpa only [ranksFirst_iff] using RanksBefore.trans) l
  simpa only [ranksFirst_iff] using h

/-- Settles O23: the selection is the front of the ranked list, and what is left out is its rest. -/
theorem selectionIsBest : Obligations.SelectionIsBest := by
  unfold Obligations.SelectionIsBest
  intro k l
  have hperm := sortBy_perm ranksFirst l
  have hranked := ranked_pairwise l
  rw [← List.take_append_drop k (sortBy ranksFirst l)] at hranked
  obtain ⟨hfront, -, hrest⟩ := List.pairwise_append.1 hranked
  refine ⟨?_, ?_, hfront, ?_⟩
  · rw [selectBest, List.length_take, hperm.length_eq]
  · intro x hx
    exact hperm.mem_iff.1 (List.mem_of_mem_take hx)
  · intro x hx hout y hy
    have hx' := hperm.mem_iff.2 hx
    rw [← List.take_append_drop k (sortBy ranksFirst l)] at hx'
    exact hrest y hy x ((List.mem_append.1 hx').resolve_left hout)

end Sys2Proof.Machine
end

section
/-!
Where results go in companion memory (04 R119, 05 R148, 13 R387): what a write of T2 leaves alone, that it has tags of
its own to wait for while the tag space is not full, and which bytes a TOPK and a TABLE_SAVE can change.
-/

namespace Sys2Proof.Machine

/-! ### Tags -/

theorem freeTagFrom_fresh_or_all {used : List U16} (k : Nat) (t : U16) :
    freeTagFrom used k t ∉ used ∨ ∀ i ≤ k, t + BitVec.ofNat 16 i ∈ used := by
  induction k generalizing t with
  | zero =>
    by_cases h : t ∈ used
    · exact .inr fun i hi => by simpa [Nat.le_zero.1 hi] using h
    · exact .inl h
  | succ k ih =>
    by_cases h : t ∈ used
    · have hnext : freeTagFrom used (k + 1) t = freeTagFrom used k (t + 1) := if_pos (by simpa using h)
      rw [hnext]
      refine (ih (t + 1)).imp_right fun hall i hi => ?_
      cases i with
      | zero => simpa using h
      | succ i =>
        have hi' := hall i (by omega)
        rwa [show t + 1 + BitVec.ofNat 16 i = t + BitVec.ofNat 16 (i + 1) by bv_omega] at hi'
    · have hhere : freeTagFrom used (k + 1) t = t := if_neg (by simpa using h)
      exact .inl (by rwa [hhere])

/-- As many tags as are outstanding, and one more, are not all outstanding. -/
theorem not_all_used {used : List U16} (hroom : used.length < 65536) (t : U16) :
    ¬ ∀ i ≤ used.length, t + BitVec.ofNat 16 i ∈ used := by
  intro hall
  have hnodup : ((List.range (used.length + 1)).map (fun i => t + BitVec.ofNat 16 i)).Nodup := by
    refine List.pairwise_map.2 (List.nodup_range.imp_of_mem fun {i j} hi hj hne heq => hne ?_)
    have hi := List.mem_range.1 hi
    have hj := List.mem_range.1 hj
    bv_omega
  have hsub : (List.range (used.length + 1)).map (fun i => t + BitVec.ofNat 16 i) ⊆ used := by
    intro x hx
    obtain ⟨i, hi, rfl⟩ := List.mem_map.1 hx
    exact hall i (by simpa [Nat.lt_succ_iff] using hi)
  have hle := hnodup.length_le_of_subset hsub
  simp only [List.length_map, List.length_range] at hle
  omega

/-- Tags that outstanding requests of the coherent link hold. -/
def State.tagsHeld (s : State) : Nat := s.link.reads.length + s.link.writes.length

theorem freeTag_fresh {s : State} (h : s.tagsHeld < 65536) : s.freeTag ∉ s.link.writes := by
  have hroom : (s.link.reads.map (·.tag) ++ s.link.writes).length < 65536 := by
    simpa [State.tagsHeld] using h
  have hfresh := (freeTagFrom_fresh_or_all _ s.link.nextTag).resolve_right (not_all_used hroom s.link.nextTag)
  exact fun hmem => hfresh (List.mem_append_right _ hmem)

/-! ### A write of companion memory -/

theorem sendLines_t2 (s : State) (a n : Nat) : (s.sendLines a n).t2 = s.t2 := by
  induction n generalizing s a with
  | zero => rfl
  | succ n ih => exact ih (s.sendLine a) (a + 64)

theorem sendLines_writes_mono (s : State) (a n : Nat) : s.link.writes ⊆ (s.sendLines a n).link.writes := by
  induction n generalizing s a with
  | zero => exact List.Subset.refl _
  | succ n ih => exact List.Subset.trans (List.subset_append_left _ [s.freeTag]) (ih (s.sendLine a) (a + 64))

theorem freeTag_mem_sendLines (s : State) (a n : Nat) : s.freeTag ∈ (s.sendLines a (n + 1)).link.writes :=
  sendLines_writes_mono (s.sendLine a) (a + 64) n (List.mem_append_right _ (List.mem_singleton.2 rfl))

theorem writeT2_nil (s : State) (a : Nat) : s.writeT2 a [] = s := rfl

theorem writeT2_t2 (s : State) (a : Nat) (bs : List Byte) : (s.writeT2 a bs).t2 = writeBytes s.t2 a bs := by
  cases bs with
  | nil => rfl
  | cons b bs => exact sendLines_t2 { s with t2 := writeBytes s.t2 a (b :: bs) } _ _

/-- A write of at least one byte has a WR_ACK to wait for (R387). -/
theorem newWrites_writeT2_ne_nil {s : State} {bs : List Byte} (hroom : s.tagsHeld < 65536) (hbs : bs ≠ [])
    (a : Nat) : newWrites s (s.writeT2 a bs) ≠ [] := by
  obtain ⟨b, bs, rfl⟩ := List.exists_cons_of_ne_nil hbs
  obtain ⟨n, hn⟩ : ∃ n, (a + (b :: bs).length - 1) / 64 + 1 - a / 64 = n + 1 :=
    Nat.exists_eq_add_one.2 (by simp only [List.length_cons]; omega)
  have hsent : s.freeTag ∈ (s.writeT2 a (b :: bs)).link.writes := by
    have h := freeTag_mem_sendLines { s with t2 := writeBytes s.t2 a (b :: bs) } (64 * (a / 64)) n
    rw [← hn] at h
    exact h
  exact List.ne_nil_of_mem (mem_newWrites hsent (freeTag_fresh hroom))

/-! ### Completions -/

theorem completeAfter_t2 {s : State} {needs : List U16} (h : needs ≠ []) (r : Record) (id status : Nat)
    (results : List Byte) : (s.completeAfter needs r id status results).t2 = s.t2 := by
  unfold State.completeAfter
  rw [if_neg (by simpa using h)]
  rfl

/-- A record that writes bytes and then completes changes companion memory where it writes only: its completion waits,
so that it writes no completion slot yet. -/
theorem t2Outside_completeAfter {s u : State} {a : Nat} {bs : List Byte} (hroom : s.tagsHeld < 65536)
    (hbs : bs ≠ []) (hu : u.t2 = (s.writeT2 a bs).t2) (r : Record) (id status : Nat) (results : List Byte) :
    T2Outside s (u.completeAfter (newWrites s (s.writeT2 a bs)) r id status results) a bs.length := by
  intro b hb
  rw [completeAfter_t2 (newWrites_writeT2_ne_nil hroom hbs a), hu, writeT2_t2]
  exact memGet_writeBytes_out s.t2 a bs b hb

theorem t2Outside_of_t2 {s u t : State} {a n : Nat} (hu : u.t2 = s.t2) (h : T2Outside u t a n) :
    T2Outside s t a n := by
  unfold T2Outside at *
  rwa [← hu]

/-! ### The state in which an accepted record runs -/

theorem readSource_cases (s : State) : s.readSource = s ∨
    ∃ a l, s.readSource = (s.sendRead a .source).modLink (fun k => { k with sources := l }) := by
  unfold State.readSource
  split
  · split
    · exact .inr ⟨_, _, rfl⟩
    · exact .inl rfl
  · exact .inl rfl

theorem readSources_frame (s : State) (l : List (Nat × Nat)) : (s.readSources l).t2 = s.t2 ∧
    (s.readSources l).sheaf = s.sheaf ∧ (s.readSources l).tagsHeld ≤ s.tagsHeld + 1 := by
  unfold State.readSources
  dsimp only
  split
  · exact ⟨rfl, rfl, Nat.le_succ _⟩
  · rcases readSource_cases (s.modLink fun k => { k with sources := k.sources ++ _ }) with h | ⟨a, n, h⟩
    · rw [h]
      exact ⟨rfl, rfl, Nat.le_succ _⟩
    · rw [h]
      refine ⟨rfl, rfl, Nat.le_of_eq ?_⟩
      simp only [State.tagsHeld, State.sendRead, State.modLink_link, State.send_link, List.length_append,
        List.length_singleton]
      omega

theorem begun_frame (s : State) (q : Record) : (s.begun q).t2 = s.t2 ∧ (s.begun q).sheaf = s.sheaf ∧
    (s.begun q).tagsHeld ≤ s.tagsHeld + 1 :=
  readSources_frame (s.started q) _

/-- Every check of an accepted record's own plan passes. -/
theorem accepted_check {s : State} {q : Record} {plan : Record → State → Plan} (h : Accepted s q)
    (hplan : planOf q = plan) (hfails : ∀ c ∈ (plan q (s.started q)).checks, c.2 ≠ stOk) :
    ∀ c ∈ (plan q (s.started q)).checks, c.1 = true := by
  have hall : s.checksOf q = planChecks (s.started q) q (plan q (s.started q)) := by rw [State.checksOf, hplan]
  intro c hc
  refine firstFailure_ok (hall ▸ h.checks) (fun d hd => ?_) c (List.mem_append_right _ hc)
  rcases List.mem_append.1 hd with hd | hd
  · simp only [List.mem_cons, List.not_mem_nil, or_false] at hd
    rcases hd with rfl | rfl | rfl
    · exact (by decide : stBadParam ≠ stOk)
    · exact (by decide : stNotSupported ≠ stOk)
    · exact (by decide : stDenied ≠ stOk)
  · exact hfails d hd

/-! ### TOPK -/

/-- An output row begins with the number of its entries (R120). -/
theorem outputRow_ne_nil (fmt : Nat) (smallest : Bool) (k nan : Nat) (best : List WEntry) :
    outputRow fmt smallest k nan best ≠ [] := by
  simp [outputRow, toLe]

theorem topkOperandsOk_rows {s : State} {a : TopkArgs} (h : topkOperandsOk s a = true) : 1 ≤ a.rows := by
  simp only [topkOperandsOk, Bool.and_eq_true, decide_eq_true_eq] at h
  omega

/-- The output rows of a TOPK. -/
def topkRows (m : Mem) (a : TopkArgs) : List (List Byte) :=
  ((List.range a.rows).map (topkResult m a)).map (fun x => outputRow a.fmt a.smallest a.k x.2 x.1)

theorem length_topkRows (m : Mem) (a : TopkArgs) : (topkRows m a).flatten.length =
    ((List.range a.rows).map (fun i =>
      (outputRow a.fmt a.smallest a.k (topkResult m a i).2 (topkResult m a i).1).length)).sum := by
  simp [topkRows, List.length_flatten, Function.comp_def]

theorem topkRows_ne_nil (m : Mem) {a : TopkArgs} (h : 1 ≤ a.rows) : (topkRows m a).flatten ≠ [] := by
  have hfirst : outputRow a.fmt a.smallest a.k (topkResult m a 0).2 (topkResult m a 0).1 ∈ topkRows m a :=
    List.mem_map_of_mem (List.mem_map_of_mem (List.mem_range.2 h))
  exact fun hnil => outputRow_ne_nil _ _ _ _ _ (List.flatten_eq_nil_iff.1 hnil _ hfirst)

theorem runTopk_eq (q : Record) (id : Nat) (u : State) :
    ∃ (f : Counts → Counts) (status : Nat) (results : List Byte),
      let w := u.writeT2 (topkArgs q).dest (topkRows u.t2 (topkArgs q)).flatten
      runTopk q id u = (w.count q.tenant f).completeAfter (newWrites u w) q id status results :=
  ⟨_, _, _, rfl⟩

theorem exec_topk {r : Record} {s : State} (h : Accepted s (withOpcode r 0x0140)) :
    exec (.topk r) s = .next (runTopk (withOpcode r 0x0140) s.newId (s.begun (withOpcode r 0x0140))) :=
  (runs_of_plan (op := 0x0140) (plan := planTopk) (when := always) fun _ _ _ _ => rfl) r s h trivial

theorem accepted_topk_rows {s : State} {q : Record} (hq : q.opcode = 0x0140) (h : Accepted s q) :
    1 ≤ (topkArgs q).rows :=
  topkOperandsOk_rows (accepted_check h (plan := planTopk) (by simp only [planOf, hq])
    (by simp [planTopk, stBadParam, stOk]) _ (List.mem_singleton.2 rfl))

/-- TOPK writes companion memory in its destination only: an accepted one has a row, and no row is without bytes. -/
theorem topk_t2Outside {r : Record} {s t : State} (hroom : s.tagsHeld < 65535)
    (h : Accepted s (withOpcode r 0x0140)) (ht : exec (.topk r) s = .next t) :
    let a := topkArgs (withOpcode r 0x0140)
    T2Outside s t a.dest (((List.range a.rows).map (fun i =>
      (outputRow a.fmt a.smallest a.k (topkResult s.t2 a i).2 (topkResult s.t2 a i).1).length)).sum) := by
  have hrows := accepted_topk_rows (withOpcode_opcode r 0x0140 (by decide)) h
  obtain ⟨ht2, -, htags⟩ := begun_frame s (withOpcode r 0x0140)
  obtain rfl := Host.Outcome.next.inj ((exec_topk h).symm.trans ht)
  obtain ⟨f, status, results, hrun⟩ := runTopk_eq (withOpcode r 0x0140) s.newId (s.begun (withOpcode r 0x0140))
  have hroom' : (s.begun (withOpcode r 0x0140)).tagsHeld < 65536 := by omega
  dsimp only
  rw [← length_topkRows, hrun, ← ht2]
  exact t2Outside_of_t2 ht2
    (t2Outside_completeAfter hroom' (topkRows_ne_nil _ hrows) (State.count_t2 _ _ f) _ _ _ _)

/-! ### TABLE_SAVE -/

/-- The bytes of the rows that a TABLE_SAVE writes. -/
def savedRows (x : Table) (a : RowArgs) : List Byte :=
  (List.range a.count).flatMap (fun i => rowImage a.fmt x.width (gatherRow x a.fmt (a.first + i)).1)

theorem length_savedRows (x : Table) (a : RowArgs) : (savedRows x a).length =
    ((List.range a.count).map (fun i =>
      (rowImage a.fmt x.width (gatherRow x a.fmt (a.first + i)).1).length)).sum := by
  simp [savedRows, List.length_flatMap]

theorem rowImage_ne_nil {fmt width : Nat} (h : 1 ≤ width) (bits : List U32) : rowImage fmt width bits ≠ [] := by
  have hsize : 1 ≤ elemSize fmt := by
    unfold elemSize
    split <;> omega
  have hstride : 64 ≤ rowStride width fmt := by
    have : 1 ≤ width * elemSize fmt := Nat.mul_pos h hsize
    unfold rowStride ceilDiv
    omega
  refine List.ne_nil_of_length_pos ?_
  simp only [rowImage, List.length_append, List.length_replicate]
  omega

theorem savedRows_ne_nil {x : Table} {a : RowArgs} (hcount : 1 ≤ a.count) (hwidth : 1 ≤ x.width) :
    savedRows x a ≠ [] :=
  fun hnil => rowImage_ne_nil hwidth _ (List.flatMap_eq_nil_iff.1 hnil 0 (List.mem_range.2 hcount))

/-- The result bytes of a TABLE_SAVE (Table 5-5). -/
def savedResults (u : State) (a : RowArgs) : List Byte :=
  toLe 4 a.count ++ List.replicate 8 0 ++ toLe 8 u.sheaf.tstep.toNat

theorem runTableSave_eq (q : Record) (id : Nat) (u : State) :
    let x := u.tableOf q.handle
    let a := rowArgs q x
    runTableSave q id u = (u.writeT2 a.a (savedRows x a)).completeAfter
      (newWrites u (u.writeT2 a.a (savedRows x a))) q id stOk (savedResults u a) := rfl

theorem exec_tableSave {r : Record} {s : State} (h : Accepted s (withOpcode r 0x0303)) :
    exec (.tableSave r) s = .next (runTableSave (withOpcode r 0x0303) s.newId (s.begun (withOpcode r 0x0303))) :=
  (runs_of_plan (op := 0x0303) (plan := planTableSave) (when := always) fun _ _ _ _ => rfl) r s h trivial

theorem begun_tableOf (s : State) (q : Record) (handle : U64) : (s.begun q).tableOf handle = s.tableOf handle := by
  obtain ⟨-, hsheaf, -⟩ := begun_frame s q
  simp only [State.tableOf, State.table?, hsheaf]

theorem accepted_tableSave_count {s : State} {q : Record} (hq : q.opcode = 0x0303) (h : Accepted s q) :
    1 ≤ (rowArgs q (s.tableOf q.handle)).count := by
  have hok := accepted_check h (plan := planTableSave) (by simp only [planOf, hq])
    (by simp [planTableSave, stBadParam, stDenied, stRowRange, stOk]) _ (List.mem_cons_of_mem _ (List.mem_cons_self ..))
  simp only [rangeOperandsOk, Bool.and_eq_true, decide_eq_true_eq] at hok
  obtain ⟨⟨-, hcount, -⟩, -⟩ := hok
  exact hcount

/-- TABLE_SAVE writes companion memory in its destination only, of a table whose rows have elements, as TABLE_CREATE
asks of every table (R146). -/
theorem tableSave_t2Outside {r : Record} {s t : State} (hroom : s.tagsHeld < 65535)
    (h : Accepted s (withOpcode r 0x0303)) (hwidth : 1 ≤ (s.tableOf (withOpcode r 0x0303).handle).width)
    (ht : exec (.tableSave r) s = .next t) :
    let x := s.tableOf (withOpcode r 0x0303).handle
    let a := rowArgs (withOpcode r 0x0303) x
    T2Outside s t a.a (((List.range a.count).map (fun i =>
      (rowImage a.fmt x.width (gatherRow x a.fmt (a.first + i)).1).length)).sum) := by
  have hcount := accepted_tableSave_count (withOpcode_opcode r 0x0303 (by decide)) h
  obtain ⟨ht2, -, htags⟩ := begun_frame s (withOpcode r 0x0303)
  obtain rfl := Host.Outcome.next.inj ((exec_tableSave h).symm.trans ht)
  have hroom' : (s.begun (withOpcode r 0x0303)).tagsHeld < 65536 := by omega
  dsimp only
  rw [← length_savedRows, runTableSave_eq, begun_tableOf]
  exact t2Outside_of_t2 ht2 (t2Outside_completeAfter hroom' (savedRows_ne_nil hcount hwidth) rfl _ _ _ _)

/-! ### A table whose rows have no elements -/

theorem newWrites_self (s : State) : newWrites s s = [] := by
  simp [newWrites]

/-- Rows without bytes leave no WR_ACK to wait for: the record completes at once. -/
theorem runTableSave_of_no_bytes {q : Record} {u : State}
    (h : savedRows (u.tableOf q.handle) (rowArgs q (u.tableOf q.handle)) = []) (id : Nat) :
    runTableSave q id u = u.complete q id stOk (savedResults u (rowArgs q (u.tableOf q.handle))) := by
  rw [runTableSave_eq, h, writeT2_nil, newWrites_self, State.complete]

/-- A TABLE_SAVE of one row of table 0, from ring 0, to address 0. -/
def saveOneRow : Record := ⟨0, 1 <<< 256⟩

/-- A module that serves ring 0, with a table 0 of one row of no elements. -/
def withEmptyRow : State :=
  { State.reset with
    cap := { Capability.reset with quadrants := 15, engines := 0xFFFF, base := true },
    tiers := { Tiers.reset with mode := 3 }, link := { CohLink.reset with state := 2 },
    cmdRings := Vector.replicate 64 { CmdRing.reset with enabled := true },
    cqRings := Vector.replicate 64 { CqRing.reset with enabled := true },
    job := { Job.reset with state := 1 }, tenants := [Tenant.fresh 0 4 false 0 0 (0, 0, 0)],
    sheaf := { Sheaf.reset with tables := [{ Table.blank with rows := 1 }] } }

theorem withEmptyRow_accepts : Accepted withEmptyRow (withOpcode saveOneRow 0x0303) where
  starts := ⟨by decide +kernel, by decide +kernel, by decide +kernel, by decide +kernel⟩
  seq := by decide +kernel
  checks := by decide +kernel

theorem withEmptyRow_saves_no_bytes :
    savedRows (withEmptyRow.tableOf (withOpcode saveOneRow 0x0303).handle)
      (rowArgs (withOpcode saveOneRow 0x0303) (withEmptyRow.tableOf (withOpcode saveOneRow 0x0303).handle)) = [] := by
  decide +kernel

/-- The completion slot stands where the ring's base is by default, 0x10000, and begins with the opcode. -/
theorem withEmptyRow_completes :
    memGet (runTableSave (withOpcode saveOneRow 0x0303) withEmptyRow.newId
      (withEmptyRow.begun (withOpcode saveOneRow 0x0303))).t2 0x10000 = 3 := by
  rw [runTableSave_of_no_bytes (by rw [begun_tableOf, withEmptyRow_saves_no_bytes])]
  decide +kernel

/-- Refutes O25: the rows of a table of width 0 take no bytes, so that its TABLE_SAVE has no WR_ACK to wait for and
writes its completion slot at once, outside the empty destination. The state is one that TABLE_CREATE does not make;
`topk_t2Outside` and `tableSave_t2Outside` are what holds. -/
theorem not_destinationsOnly : ¬ Obligations.DestinationsOnly := by
  unfold Obligations.DestinationsOnly
  intro hall
  have hkept := (hall saveOneRow withEmptyRow _ (by decide +kernel)).2 withEmptyRow_accepts
    (exec_tableSave withEmptyRow_accepts) 0x10000 (.inr (by decide +kernel))
  rw [withEmptyRow_completes] at hkept
  exact absurd hkept (by decide)

end Sys2Proof.Machine
end

section
/-!
Table updates (05 R134, R136): what an accepted SCATTER or ROW_LOAD leaves of the state until a boundary.
-/

namespace Sys2Proof.Machine

/-! ### Lists with some entries updated -/

/-- An update of some entries that a search cannot tell from the old ones changes the entry found and not which. -/
theorem find?_updWhere {α : Type} {p q : α → Bool} {f : α → α} (hq : ∀ x, q (f x) = q x) (l : List α) :
    (updWhere p f l).find? q = (l.find? q).map (fun x => if p x then f x else x) := by
  have hsame : (q ∘ fun x => if p x then f x else x) = q := by
    funext x
    simp only [Function.comp_apply]
    split
    · exact hq x
    · rfl
  rw [updWhere, List.find?_map, hsame]

/-! ### Tables -/

theorem table?_modTable (s : State) (k n : Nat) {f : Table → Table} (hf : ∀ t, (f t).number = t.number) :
    (s.modTable k f).table? n = (s.table? n).map (fun t => if t.number == k then f t else t) :=
  find?_updWhere (fun t => by rw [hf]) s.sheaf.tables

/-- A change of a table beside its rows leaves every row of every table. -/
theorem modTable_rows (s : State) (k n : Nat) {f : Table → Table} (hn : ∀ t, (f t).number = t.number)
    (hd : ∀ t, (f t).data = t.data) : ((s.modTable k f).table? n).map (·.data) = (s.table? n).map (·.data) := by
  rw [table?_modTable s k n hn, Option.map_map]
  congr 1
  funext t
  simp only [Function.comp_apply]
  split
  · exact hd t
  · rfl

/-! ### What updates leave -/

/-- `t` has the rows of every table, the companion memory, the completion rings and the running records of `s`. -/
structure RowsKept (s t : State) : Prop where
  rows : ∀ n, (t.table? n).map (·.data) = (s.table? n).map (·.data)
  t2 : t.t2 = s.t2
  cqRings : t.cqRings = s.cqRings
  running : t.running = s.running

theorem RowsKept.trans {s u t : State} (hsu : RowsKept s u) (hut : RowsKept u t) : RowsKept s t where
  rows n := (hut.rows n).trans (hsu.rows n)
  t2 := hut.t2.trans hsu.t2
  cqRings := hut.cqRings.trans hsu.cqRings
  running := hut.running.trans hsu.running

theorem readSources_besideLink (s : State) (l : List (Nat × Nat)) : (s.readSources l).besideLink = s.besideLink := by
  unfold State.readSources
  dsimp only
  split
  · rfl
  · rcases readSource_cases (s.modLink fun k => { k with sources := k.sources ++ _ }) with h | ⟨a, n, h⟩
    · rw [h]
      rfl
    · rw [h]
      exact sendRead_besideLink _ a .source

/-- Asking for a record's sources changes the coherent link alone. -/
theorem begun_rowsKept (s : State) (q : Record) : RowsKept (s.started q) (s.begun q) where
  rows n := by
    obtain ⟨-, hsheaf, -⟩ := begun_frame s q
    rw [State.table?, hsheaf]
    rfl
  t2 := (readSources_frame (s.started q) _).1
  cqRings := cqRings_of_besideLink (readSources_besideLink _ _)
  running := (congrArg State.running (readSources_besideLink (s.started q) (planOf q q (s.started q)).sources) :)

/-- A SCATTER counts the entries that it skips and joins the others to a batch. -/
theorem runScatter_rowsKept (q : Record) (id : Nat) (u : State) : RowsKept u (runScatter q id u) where
  rows n := modTable_rows u (u.tableOf q.handle).number n (fun _ => rfl) (fun _ => rfl)
  t2 := rfl
  cqRings := rfl
  running := rfl

/-- A ROW_LOAD joins its rows to a batch. -/
theorem runRowLoad_rowsKept (q : Record) (id : Nat) (u : State) : RowsKept u (runRowLoad q id u) :=
  ⟨fun _ => rfl, rfl, rfl, rfl⟩

theorem exec_scatter {r : Record} {s : State} (h : Accepted s (withOpcode r 0x0320)) :
    exec (.scatter r) s = .next (runScatter (withOpcode r 0x0320) s.newId (s.begun (withOpcode r 0x0320))) :=
  (runs_of_plan (op := 0x0320) (plan := planScatter) (when := always) fun _ _ _ _ => rfl) r s h trivial

theorem exec_rowLoad {r : Record} {s : State} (h : Accepted s (withOpcode r 0x0302)) :
    exec (.rowLoad r) s = .next (runRowLoad (withOpcode r 0x0302) s.newId (s.begun (withOpcode r 0x0302))) :=
  (runs_of_plan (op := 0x0302) (plan := planRowLoad) (when := always) fun _ _ _ _ => rfl) r s h trivial

/-- Settles O24: both records only join a batch, so that rows, memory, completion rings and running records are those of
the record's start. -/
theorem updatesWaitForBoundary : Obligations.UpdatesWaitForBoundary := by
  unfold Obligations.UpdatesWaitForBoundary
  refine fun r s => ⟨fun h => ⟨_, exec_scatter h, ?_⟩, fun h => ⟨_, exec_rowLoad h, ?_⟩⟩
  · obtain ⟨hrows, ht2, hcq, hrunning⟩ :=
      (begun_rowsKept s _).trans (runScatter_rowsKept (withOpcode r 0x0320) s.newId _)
    exact ⟨hrows, ht2, hcq, hrunning⟩
  · obtain ⟨hrows, ht2, hcq, hrunning⟩ :=
      (begun_rowsKept s _).trans (runRowLoad_rowsKept (withOpcode r 0x0302) s.newId _)
    exact ⟨hrows, ht2, hcq, hrunning⟩

end Sys2Proof.Machine
end

section
/-!
The row port (05 R152; 07 R208, R212): what a row port instruction that issues comes to.
-/

namespace Sys2Proof.Machine

/-- The decoder reads the class and the operation of a word where Tables 7-11 and 7-12 put them. -/
theorem isOp_of_encodes {w : CoreWord} {cls op : Nat} (h : Encodes w cls op) : isOp w cls op = true := by
  obtain ⟨hcls, hop⟩ := h
  simp only [isOp, Bool.and_eq_true, beq_iff_eq]
  exact ⟨hcls, hop⟩

theorem issue_past {s : State} {vc : Nat} {w : CoreWord} {c : VCore} {is : Bool} (h : Issues s vc w c) (hi : is = true)
    (f : VCore → State → State) : s.issue vc w is f = f c (s.past vc c) :=
  issue_eq h.there h.runs hi h.ready h.next h.turn h.free

section
variable {s : State} {vc op : Nat} {w : CoreWord} {c : VCore} {find : VCore → RowTag → State → Option Table}
  {ok : VCore → Table → Bool} {f : VCore → RowTag → Table → State → State}

/-- A tag that names no sequence, or one whose request has ended in the step, leaves the rows alone. -/
theorem rowPort_idle (h : Issues s vc w c) (he : Encodes w 5 op)
    (hg : c.tag? (rTag w) = none ∨ ∃ g, c.tag? (rTag w) = some g ∧ s.requestStopped g.session = true) :
    s.rowPort vc w op find ok f = s.past vc c := by
  rw [State.rowPort, issue_past h (isOp_of_encodes he)]
  rcases hg with hg | ⟨g, hg, hs⟩
  · rw [hg]
  · rw [hg]
    exact if_pos hs

/-- What an instruction of a tagged sequence does is up to the table that it finds. -/
theorem rowPort_tagged {g : RowTag} (h : Issues s vc w c) (he : Encodes w 5 op) (hg : c.tag? (rTag w) = some g)
    (hs : s.requestStopped g.session = false) : s.rowPort vc w op find ok f =
      match find c g (s.past vc c) with
      | none => (s.past vc c).endRequest g.session stBadParam
      | some t => if ok c t then f c g t (s.past vc c) else s.violation vc := by
  rw [State.rowPort, issue_past h (isOp_of_encodes he), hg]
  exact if_neg (by rw [Bool.not_eq_true]; exact hs)

/-- Where it finds no table that it may use, the session's request ends. -/
theorem exec_rowPort_refused {i : Instr} {g : RowTag} (h : Issues s vc w c) (he : Encodes w 5 op)
    (hg : c.tag? (rTag w) = some g) (hs : s.requestStopped g.session = false)
    (hi : exec i s = .next (s.rowPort vc w op find ok f)) (hfind : find c g (s.past vc c) = none) :
    exec i s = .next ((s.past vc c).endRequest g.session stBadParam) := by
  rw [hi, rowPort_tagged h he hg hs, hfind]

/-- On the table that it finds, it does its work where its ranges lie in the work area. -/
theorem exec_rowPort_found {i : Instr} {g : RowTag} {t : Table} (h : Issues s vc w c) (he : Encodes w 5 op)
    (hg : c.tag? (rTag w) = some g) (hs : s.requestStopped g.session = false)
    (hi : exec i s = .next (s.rowPort vc w op find ok f)) (hfind : find c g (s.past vc c) = some t)
    (hok : ok c t = true) : exec i s = .next (f c g t (s.past vc c)) := by
  rw [hi, rowPort_tagged h he hg hs, hfind]
  exact congrArg _ (if_pos hok)

end

/-- Settles O13: ROWGET, ROWPOOL and ROWPUT are the row port with their own lookup, ranges and work. -/
theorem rowPort : Obligations.RowPort := by
  unfold Obligations.RowPort
  refine ⟨?_, fun s vc w c h g hg hs => ⟨fun he => ?_, fun he => ?_, fun he => ?_⟩⟩
  · simp only [List.forall_mem_cons, List.not_mem_nil, false_implies, implies_true, and_true]
    exact ⟨fun s vc w c h he hg => congrArg _ (rowPort_idle h he hg),
      fun s vc w c h he hg => congrArg _ (rowPort_idle h he hg),
      fun s vc w c h he hg => congrArg _ (rowPort_idle h he hg)⟩
  · split
    next hfind => exact exec_rowPort_refused h he hg hs rfl hfind
    next t hfind => exact fun hidx hdata => exec_rowPort_found h he hg hs rfl hfind (by rw [hidx, hdata]; rfl)
  · split
    next hfind => exact exec_rowPort_refused h he hg hs rfl hfind
    next t hfind => exact fun hidx hoffs hdata =>
      exec_rowPort_found h he hg hs rfl hfind (by rw [hidx, hoffs, hdata]; rfl)
  · split
    next hfind => exact exec_rowPort_refused h he hg hs rfl hfind
    next t hfind => exact fun hidx hdata => exec_rowPort_found h he hg hs rfl hfind (by rw [hidx, hdata]; rfl)

end Sys2Proof.Machine
end

section
/-!
Records of the Sheaf and the Thresher (Tables 5-3 and 6-8): the effect of each accepted row, and whose retained bales
give way to a shared object (11 R336, 10 R309).
-/

namespace Sys2Proof.Machine

/-- Each record row of the Sheaf and the Thresher with its opcode and its effect. -/
def sheafAndTextEffects : List ((Record → Instr) × Nat × (Record → Nat → State → State)) :=
  [(.tableCreate, 0x0300, runTableCreate),
   (.tableDrop, 0x0301, fun q id u => (u.dropTable (bitsOf q.handle 11 0)).complete q id stOk []),
   (.rowLoad, 0x0302, runRowLoad), (.tableSave, 0x0303, runTableSave), (.gather, 0x0310, runGather),
   (.pool, 0x0311, runPool), (.scatter, 0x0320, runScatter), (.tokenise, 0x0200, runTokenise),
   (.detokenise, 0x0201, runDetokenise), (.grammarLoad, 0x0210, runGrammarLoad),
   (.grammarDrop, 0x0211, fun q id u => (u.dropGrammar (textNumber q.handle)).complete q id stOk []),
   (.templateLoad, 0x0220, runTemplateLoad),
   (.templateDrop, 0x0221, fun q id u =>
     ({ u with templates := u.templates.filter (fun x => x.number != textNumber q.handle) }).complete q id stOk []),
   (.passageLoad, 0x0230, runPassageLoad),
   (.passageDrop, 0x0231, fun q id u => (u.dropStore (indexSlotOf q.handle) q.tenant).complete q id stOk []),
   (.pack, 0x0240, runPack)]

/-- An accepted record of the Sheaf or the Thresher runs its row's effect from the started state. -/
theorem sheafAndTextEffects_run : ∀ x ∈ sheafAndTextEffects, Runs x.1 x.2.1 always x.2.2 := by
  simp only [sheafAndTextEffects, List.forall_mem_cons, List.not_mem_nil, false_implies, implies_true, and_true]
  exact ⟨runs_of_plan (plan := planTableCreate) fun _ _ _ _ => rfl,
    runs_of_plan (plan := planTableDrop) fun _ _ _ _ => rfl,
    runs_of_plan (plan := planRowLoad) fun _ _ _ _ => rfl,
    runs_of_plan (plan := planTableSave) fun _ _ _ _ => rfl,
    runs_of_plan (plan := planGather) fun _ _ _ _ => rfl,
    runs_of_plan (plan := planPool) fun _ _ _ _ => rfl,
    runs_of_plan (plan := planScatter) fun _ _ _ _ => rfl,
    runs_of_plan (plan := planTokenise) fun _ _ _ _ => rfl,
    runs_of_plan (plan := planDetokenise) fun _ _ _ _ => rfl,
    runs_of_plan (plan := planGrammarLoad) fun _ _ _ _ => rfl,
    runs_of_plan (plan := planGrammarDrop) fun _ _ _ _ => rfl,
    runs_of_plan (plan := planTemplateLoad) fun _ _ _ _ => rfl,
    runs_of_plan (plan := planTemplateDrop) fun _ _ _ _ => rfl,
    runs_of_plan (plan := planPassageLoad) fun _ _ _ _ => rfl,
    runs_of_plan (plan := planPassageDrop) fun _ _ _ _ => rfl,
    runs_of_plan (plan := planPack) fun _ _ _ _ => rfl⟩

theorem exec_tableCreate {r : Record} {s : State} (h : Accepted s (withOpcode r 0x0300)) :
    exec (.tableCreate r) s = .next (runTableCreate (withOpcode r 0x0300) s.newId (s.begun (withOpcode r 0x0300))) :=
  sheafAndTextEffects_run (.tableCreate, 0x0300, runTableCreate) (by simp [sheafAndTextEffects]) r s h trivial

/-! ### A shared table -/

theorem granary_of_besidePosts {s t : State} (h : t.besidePosts = s.besidePosts) : t.granary = s.granary :=
  (congrArg State.granary h :)

@[simp] theorem complete_granary (s : State) (r : Record) (id status : Nat) (results : List Byte) :
    (s.complete r id status results).granary = s.granary :=
  granary_of_besidePosts (completeAfter_besidePosts s [] r id status results)

/-- A TABLE_CREATE of a shared, static table 0 of 16 rows of 32 FP32 elements, from ring 0, by tenant 1. -/
def createShared : Record :=
  let fields : List (Nat × Nat × Nat) :=
    [(2, 2, 1), (8, 8, 0x1000000000), (16, 4, 16), (20, 2, 32), (22, 1, 3), (23, 1, 10)]
  ⟨0, fields.foldl (fun (x : Line) f => setField x f.1 f.2.1 f.2.2) 0⟩

/-- A module that serves ring 0 for every tenant, with tenants 0 and 1 of one frame of T1 each; a retained bale takes
the frame of tenant 0. -/
def withRetained : State :=
  { State.reset with
    cap := { Capability.reset with quadrants := 15, engines := 0xFFFF, base := true },
    tiers := { Tiers.reset with mode := 3 }, link := { CohLink.reset with state := 2 },
    dict := { Dict.reset with settings := [((cmdObj 0, 6), 0xFFFF)] },
    cmdRings := Vector.replicate 64 { CmdRing.reset with enabled := true },
    cqRings := Vector.replicate 64 { CqRing.reset with enabled := true },
    job := { Job.reset with state := 1 },
    tenants := [Tenant.fresh 0 4 false 0 0 (0, 1, 0), Tenant.fresh 1 4 false 0 0 (0, 1, 0)],
    granary := { Granary.reset with frames := [⟨0, 0, []⟩], retained := [⟨0, 0, 0, 0, 0, 0, 0⟩] } }

theorem withRetained_accepts : Accepted withRetained (withOpcode createShared 0x0300) where
  starts := ⟨by decide +kernel, by decide +kernel, by decide +kernel, by decide +kernel⟩
  seq := by decide +kernel
  checks := by decide +kernel

/-- The module charges the shared table to tenant 0, whose retained bale gives way. -/
theorem runTableCreate_releases : (runTableCreate (withOpcode createShared 0x0300) withRetained.newId
    (withRetained.begun (withOpcode createShared 0x0300))).granary.retained = [] := by
  dsimp only [runTableCreate]
  rw [complete_granary]
  decide +kernel

/-- Refutes O26: the statement charges every table created to the record's tenant, so that the retained bales of that
tenant would give way; a shared one is charged to tenant 0 (R336), and it is tenant 0's retained bales that give way. A
GRAMMAR_LOAD of a shared grammar is told apart in the same way. `sheafAndTextEffects_run` is what holds. -/
theorem not_sheafAndTextRecords : ¬ Obligations.SheafAndTextRecords := by
  unfold Obligations.SheafAndTextRecords
  intro hall
  obtain ⟨⟨hcreate, -⟩, -⟩ := hall
  have hsame := Host.Outcome.next.inj ((exec_tableCreate withRetained_accepts).symm.trans
    (hcreate createShared withRetained withRetained_accepts trivial))
  have hretained := runTableCreate_releases
  rw [hsame] at hretained
  dsimp only at hretained
  rw [complete_granary] at hretained
  exact absurd hretained (by decide +kernel)

end Sys2Proof.Machine
end

section
/-!
Table boundaries (05 R133 to R135): when one falls due, when it closes, and what a close leaves when no seal waits.
-/

namespace Sys2Proof.Machine

/-! ### Sends to other ranks -/

/-- `s` without what leaves by the peer ports. -/
def State.besidePorts (s : State) : State :=
  { s with layers := State.reset.layers, ports := State.reset.ports, sent := State.reset.sent }

theorem sendTo_besidePorts (s : State) (d : Nat) (mk : Nat → Sent) : (s.sendTo d mk).besidePorts = s.besidePorts := by
  unfold State.sendTo State.sendOnPort
  repeat' split
  all_goals rfl

theorem foldl_sendTo_besidePorts (s : State) (ds : List Nat) (mk : State → Nat → Nat → Sent) :
    (ds.foldl (fun t d => t.sendTo d (mk t d)) s).besidePorts = s.besidePorts :=
  foldl_keeps (P := fun t => t.besidePorts = s.besidePorts) rfl (fun t d h => (sendTo_besidePorts t d _).trans h)

/-! ### Barriers -/

theorem barrierAt_modBarrier_same {s : State} {b : Nat} (hb : b < 64) (f : Barrier → Barrier) :
    (s.modBarrier b f).barrierAt b = f (s.barrierAt b) := by
  simp [State.barrierAt, State.modBarrier, vGet_vMod, hb]

/-- The module's own arrival at a barrier whose group is fixed: it is counted, and the others are told. -/
theorem ownArrival_besidePorts {s : State} {b : Nat} {g : U64 × List Nat} (hg : (s.barrierAt b).group = some g) :
    (s.ownArrival b).besidePorts =
      (s.modBarrier b (fun x => { x with ranks := x.ranks ++ [s.job.rank], since := s.timestamp })).besidePorts := by
  simp only [State.ownArrival, hg]
  exact foldl_sendTo_besidePorts _ _ _

theorem agrees_iff {x : Barrier} {mask : U64} {ranks : List Nat} :
    x.agrees mask ranks = true ↔ ∀ g, x.group = some g → g = (mask, ranks) := by
  unfold Barrier.agrees
  cases x.group with
  | none => simp
  | some g => simp [Prod.ext_iff]

theorem boundaryArrival_arrives {s : State} (hin : s.job.rank ∉ (s.barrierAt 63).ranks)
    (hagree : (s.barrierAt 63).agrees 0 (List.range s.job.ranks) = true) :
    s.job.rank ∈ (s.boundaryArrival.barrierAt 63).ranks ∧ s.boundaryArrival.sheaf = s.sheaf ∧
      s.boundaryArrival.faults = s.faults := by
  have harrives : s.boundaryArrival =
      (s.modBarrier 63 (fun x => x.fixed 0 (List.range s.job.ranks))).ownArrival 63 := by
    rw [State.boundaryArrival, if_neg (by simpa using hin), if_neg (by rw [hagree]; decide)]
  have hfixed : ((s.modBarrier 63 (fun x => x.fixed 0 (List.range s.job.ranks))).barrierAt 63).group =
      some (0, List.range s.job.ranks) := by
    rw [barrierAt_modBarrier_same (by decide)]
    rfl
  have hframe := ownArrival_besidePorts hfixed
  rw [← harrives] at hframe
  refine ⟨?_, (congrArg State.sheaf hframe :), (congrArg State.faults hframe :)⟩
  have hbarrier : s.boundaryArrival.barrierAt 63 = _ := (congrArg (State.barrierAt · 63) hframe :)
  rw [hbarrier]
  change s.job.rank ∈ (State.barrierAt (State.modBarrier _ 63 _) 63).ranks
  rw [barrierAt_modBarrier_same (by decide)]
  simp

/-! ### A boundary falls due -/

/-- `s` with a table boundary due. -/
def State.withDue (s : State) : State := s.modSheaf (fun x => { x with due := true })

theorem withDue_of_due {s : State} (h : s.sheaf.due = true) : s.withDue = s := by
  simp only [State.withDue, State.modSheaf, ← h]

theorem boundaryDue_waits {s : State} (h : 2 ≤ s.power.pstate ∨ s.mirrored = false ∨ s.sheaf.closing ≠ none) :
    s.boundaryDue = s.withDue := by
  refine if_neg fun hfreeze => ?_
  simp only [Bool.and_eq_true, decide_eq_true_eq, Option.isNone_iff_eq_none] at hfreeze
  obtain ⟨⟨hpower, hmirrored⟩, hclosing⟩ := hfreeze
  rcases h with h | h | h
  · exact absurd hpower (Nat.not_lt.2 h)
  · exact Bool.false_ne_true (h.symm.trans hmirrored)
  · exact h hclosing

/-- Where a table is mirrored, the boundary that falls due freezes the open batch and arrives at barrier 63. -/
theorem boundaryDue_freezes {s : State} (hp : s.power.pstate < 2) (hm : s.mirrored = true)
    (hc : s.sheaf.closing = none) : ∃ u : State, s.boundaryDue = u.boundaryArrival ∧ u.besidePorts =
      (s.modSheaf (fun x => { x with
        due := true, closing := some (x.batches.headD Batch.empty), batches := x.batches.tail })).besidePorts := by
  refine ⟨_, if_pos ?_, foldl_sendTo_besidePorts _ _ _⟩
  simp only [Bool.and_eq_true, decide_eq_true_eq, Option.isNone_iff_eq_none]
  exact ⟨⟨hp, hm⟩, hc⟩

theorem exec_quietUsExpiry {s : State} (hj : s.job.state ≠ 0) (hf : s.faulted = false) :
    exec .quietUsExpiry s = .next s.boundaryDue :=
  congrArg _ (if_neg (by simp [hj, hf]))

theorem exec_tableBoundary {s : State} (hj : s.job.state ≠ 0) (hf : s.faulted = false) :
    exec .tableBoundary s = .next s.boundaryDue.closeDue.finishDrained :=
  congrArg _ (if_neg (by simp [hj, hf]))

theorem boundaries_nothing {s : State} (h : s.job.state = 0 ∨ s.faulted = true) :
    exec .tableBoundary s = .next s ∧ exec .quietUsExpiry s = .next s := by
  have hskip : (s.job.state == 0 || s.faulted) = true := by simpa using h
  exact ⟨congrArg _ (if_pos hskip), congrArg _ (if_pos hskip)⟩

/-! ### A boundary closes -/

theorem boundaryReady_iff (s : State) : s.boundaryReady = true ↔ s.power.pstate < 2 ∧ s.rowsHeld = false ∧
    (if s.sheaf.closing.isSome then (s.barrierAt 63).allIn && s.deltasIn else !s.mirrored) = true := by
  simp [State.boundaryReady, and_assoc]

/-- A boundary that can close has its batch frozen already, if it needs to. -/
theorem settled_of_boundaryReady {s : State} (h : s.boundaryReady = true) :
    s.mirrored = false ∨ s.sheaf.closing ≠ none := by
  obtain ⟨-, -, hready⟩ := (boundaryReady_iff s).1 h
  cases hc : s.sheaf.closing with
  | none => exact .inl (by simpa [hc] using hready)
  | some b => exact .inr (by simp)

/-- `s` once the boundary that is due has closed, with the snapshots and commands that waited for it. -/
def State.closed (s : State) : State := s.flip.snapshots.startWaiters

theorem closeOne_ready {s : State} (hd : s.sheaf.due = true) (hr : s.boundaryReady = true) : s.closeOne = s.closed :=
  if_pos (by rw [hd, hr]; rfl)

theorem closeOne_waits {s : State} (hr : s.boundaryReady = false) : s.closeOne = s :=
  if_neg (by rw [hr, Bool.and_false]; decide)

theorem closeDue_waits {s : State} (hd : s.sheaf.due = true) (hr : s.boundaryReady = false) : s.closeDue = s := by
  simp [State.closeDue, closeOne_waits hr, hd]

theorem closeDue_once {s : State} (hd : s.sheaf.due = true) (hr : s.boundaryReady = true) (ha : s.sheaf.again = false) :
    s.closeDue = s.closed := by
  simp [State.closeDue, closeOne_ready hd hr, ha]

/-- The boundary of a step that ended while one was due follows it (R133). -/
theorem closeDue_again {s : State} (hd : s.sheaf.due = true) (hr : s.boundaryReady = true) (ha : s.sheaf.again = true) :
    s.closeDue = if s.closed.sheaf.due = false then
      ((s.closed.modSheaf (fun x => { x with again := false })).boundaryDue).closeOne else s.closed := by
  simp [State.closeDue, closeOne_ready hd hr, ha]

theorem finishDrained_of_state {s : State} (h : s.job.state ≠ 3) : s.finishDrained = s :=
  if_neg (by simp [h])

theorem exec_tableBoundary_held {s : State} (hj : s.job.state ≠ 0) (hj3 : s.job.state ≠ 3) (hf : s.faulted = false)
    (hp : 2 ≤ s.power.pstate) : exec .tableBoundary s = .next s.withDue := by
  have hready : s.withDue.boundaryReady = false := by
    rw [← Bool.not_eq_true, boundaryReady_iff]
    exact fun ⟨hlt, _⟩ => absurd hlt (Nat.not_lt.2 hp)
  rw [exec_tableBoundary hj hf, boundaryDue_waits (.inl hp), closeDue_waits (s := s.withDue) rfl hready,
    finishDrained_of_state (s := s.withDue) hj3]

theorem exec_tableBoundary_waits {s : State} (hj : s.job.state ≠ 0) (hj3 : s.job.state ≠ 3) (hf : s.faulted = false)
    (hd : s.sheaf.due = true) (hr : s.boundaryReady = false)
    (h : 2 ≤ s.power.pstate ∨ s.mirrored = false ∨ s.sheaf.closing ≠ none) :
    exec .tableBoundary s = .next s := by
  rw [exec_tableBoundary hj hf, boundaryDue_waits h, withDue_of_due hd, closeDue_waits hd hr,
    finishDrained_of_state hj3]

theorem exec_tableBoundary_ready {s : State} (hj : s.job.state ≠ 0) (hf : s.faulted = false)
    (hd : s.sheaf.due = true) (hr : s.boundaryReady = true) :
    exec .tableBoundary s = .next s.closeDue.finishDrained := by
  rw [exec_tableBoundary hj hf, boundaryDue_waits (.inr (settled_of_boundaryReady hr)), withDue_of_due hd]

/-! ### What a close leaves -/

theorem sheaf_of_besidePosts {s t : State} (h : t.besidePosts = s.besidePosts) : t.sheaf = s.sheaf :=
  (congrArg State.sheaf h :)

theorem job_of_besidePosts {s t : State} (h : t.besidePosts = s.besidePosts) : t.job = s.job :=
  (congrArg State.job h :)

theorem completeId_besidePosts (s : State) (id status : Nat) (results : List Byte) :
    (s.completeId id status results).besidePosts = s.besidePosts := by
  unfold State.completeId
  split
  · exact completeAfter_besidePosts s [] _ _ _ _
  · rfl

theorem foldl_completeId_besidePosts {α : Type} (s : State) (l : List α) (id : α → Nat) (status : Nat)
    (results : α → List Byte) :
    (l.foldl (fun t r => t.completeId (id r) status (results r)) s).besidePosts = s.besidePosts :=
  foldl_keeps (P := fun t => t.besidePosts = s.besidePosts) rfl
    (fun t r h => (completeId_besidePosts t (id r) status (results r)).trans h)

/-- `t` is `s` after a boundary: it is counted, none is due, and the open batch has been taken. -/
structure Ticks (s t : State) : Prop where
  tstep : t.sheaf.tstep = s.sheaf.tstep + 1
  due : t.sheaf.due = false
  closing : t.sheaf.closing = none
  batches : t.sheaf.batches = s.sheaf.batches.tail
  granary : t.granary = s.granary
  job : t.job = s.job

theorem Ticks.of_besidePosts {s u t : State} (hu : Ticks s u) (h : t.besidePosts = u.besidePosts) : Ticks s t := by
  have hsheaf := sheaf_of_besidePosts h
  exact ⟨by rw [hsheaf, hu.tstep], by rw [hsheaf, hu.due], by rw [hsheaf, hu.closing], by rw [hsheaf, hu.batches],
    (granary_of_besidePosts h).trans hu.granary, (job_of_besidePosts h).trans hu.job⟩

theorem hotRows_granary (s : State) : s.hotRows.granary = s.granary := by
  simp only [State.hotRows, State.modSheaf]

theorem hotRows_job (s : State) : s.hotRows.job = s.job := by
  simp only [State.hotRows, State.modSheaf]

/-- The close of a boundary over no mirrored table takes the open batch (R134). -/
theorem flip_ticks {s : State} (hc : s.sheaf.closing = none) : Ticks s s.flip := by
  unfold State.flip
  simp only [hc, Option.isSome_none, Bool.false_eq_true, if_false]
  refine Ticks.of_besidePosts ?_ (foldl_completeId_besidePosts _ _ _ _ _)
  exact ⟨rfl, rfl, rfl, by simp [State.hotRows, State.modSheaf, hc], hotRows_granary _, hotRows_job _⟩

/-- With no seal in progress a boundary takes no snapshot. -/
theorem snapshots_idle {s : State} (h : ∀ x ∈ s.granary.directory, x.sealing = []) : s.snapshots = s := by
  have hnone (k : U64) (x : Session) (hx : s.session? k = some x) : x.sealing = [] := h x (List.mem_of_find?_eq_some hx)
  refine foldl_keeps (P := fun t => t = s) rfl ?_
  rintro t n rfl
  have hstart : t.startSeal (BitVec.ofNat 64 n) = t := by
    unfold State.startSeal
    cases hx : t.session? (BitVec.ofNat 64 n) with
    | none => rfl
    | some x => simp [hnone _ x hx]
  rw [hstart, State.snapshot]
  cases hx : t.session? (BitVec.ofNat 64 n) with
  | none => rfl
  | some x => simp [hnone _ x hx]

theorem startWaiters_idle {s : State} (h : ∀ x ∈ s.granary.directory, x.after = []) : s.startWaiters = s := by
  have hnone : s.granary.directory.filter (fun x => !x.after.isEmpty) = [] :=
    List.filter_eq_nil_iff.2 fun x hx => by simp [h x hx]
  simp [State.startWaiters, hnone]

/-- TABLE_BOUNDARY over no mirrored table, with no row held and no seal waiting, closes a boundary at once. -/
theorem exec_tableBoundary_closes {s : State} (hj : s.job.state ≠ 0) (hj3 : s.job.state ≠ 3)
    (hf : s.faulted = false) (hp : s.power.pstate < 2) (hm : s.mirrored = false) (hc : s.sheaf.closing = none) (hh : s.rowsHeld = false)
    (ha : s.sheaf.again = false) (hidle : ∀ x ∈ s.granary.directory, x.sealing = [] ∧ x.after = []) :
    exec .tableBoundary s = .next s.withDue.flip := by
  have hready : s.withDue.boundaryReady = true := by
    refine (boundaryReady_iff _).2 ⟨hp, hh, ?_⟩
    change (if s.sheaf.closing.isSome then _ else !s.mirrored) = true
    rw [hc, hm]
    rfl
  have hticks : Ticks s.withDue s.withDue.flip := flip_ticks hc
  rw [show s.granary = _ from hticks.granary.symm] at hidle
  rw [exec_tableBoundary hj hf, boundaryDue_waits (.inr (.inl hm)), closeDue_once (s := s.withDue) rfl hready ha,
    State.closed, snapshots_idle fun x hx => (hidle x hx).1, startWaiters_idle fun x hx => (hidle x hx).2,
    finishDrained_of_state (by rw [hticks.job]; exact hj3)]

end Sys2Proof.Machine
end

section
/-!
The end of a seal (10 R304 to R307): what SEAL_COMPLETE and AUTOMATIC_SEAL make of a session, and what they leave.
-/

namespace Sys2Proof.Machine

/-! ### Sessions by handle -/

theorem session?_modSession_same (s : State) {h : U64} {x : Session} {f : Session → Session}
    (hf : ∀ y, (f y).handle = y.handle) (hx : s.session? h = some x) :
    (s.modSession h f).session? h = some (f x) := by
  have hfound : x.handle = h := by simpa using List.find?_some hx
  refine (find?_updWhere (p := fun y : Session => y.handle == h) (q := fun y => y.handle == h)
    (fun y => by rw [hf]) s.granary.directory).trans ?_
  rw [show s.granary.directory.find? (fun y => y.handle == h) = some x from hx]
  simp [hfound]

theorem session?_modSession_other (s : State) {h k : U64} (hk : k ≠ h) {f : Session → Session}
    (hf : ∀ y, (f y).handle = y.handle) : (s.modSession h f).session? k = s.session? k := by
  refine (find?_updWhere (p := fun y : Session => y.handle == h) (q := fun y => y.handle == k)
    (fun y => by rw [hf]) s.granary.directory).trans ?_
  rw [State.session?]
  cases hx : s.granary.directory.find? (fun y => y.handle == k) with
  | none => rfl
  | some x =>
    have hfound : x.handle = k := by simpa using List.find?_some hx
    simp [hfound, hk]

theorem session?_of_granary {s t : State} (h : t.granary = s.granary) (k : U64) : t.session? k = s.session? k := by
  rw [State.session?, h, State.session?]

/-! ### Lists with some entries taken out -/

theorem find?_filter_of_found {α : Type} {p q : α → Bool} {l : List α} {x : α} (hx : l.find? q = some x)
    (hp : p x = true) : (l.filter p).find? q = some x := by
  obtain ⟨hq, before, after, rfl, hbefore⟩ := List.find?_eq_some_iff_append.1 hx
  refine List.find?_eq_some_iff_append.2 ⟨hq, before.filter p, after.filter p, ?_,
    fun a ha => hbefore a (List.mem_filter.1 ha).1⟩
  rw [List.filter_append, List.filter_cons_of_pos hp]

theorem find?_filter_of_imp {α : Type} {p q : α → Bool} (h : ∀ a, q a = true → p a = true) (l : List α) :
    (l.filter p).find? q = l.find? q := by
  rw [List.find?_filter]
  congr 1
  funext a
  cases hq : q a with
  | false => simp
  | true => simp [h a hq]

/-- A session that is not in state none keeps its place. -/
theorem session?_dropNone_same {s : State} {h : U64} {x : Session} (hx : s.session? h = some x) (h0 : x.state ≠ 0) :
    (s.dropNone h).session? h = some x :=
  find?_filter_of_found hx (by simp [h0])

theorem session?_dropNone_other (s : State) {h k : U64} (hk : k ≠ h) : (s.dropNone h).session? k = s.session? k :=
  find?_filter_of_imp (fun x hx => by simp [show x.handle = k by simpa using hx, hk]) s.granary.directory

/-! ### What the commands that waited for a seal start from -/

/-- `t` has the sessions, the counts of seals, the walks, the records and the messages sent of `s`. -/
structure SealsKept (s t : State) : Prop where
  sessions : ∀ k, t.session? k = s.session? k
  seals : t.granary.seals = s.granary.seals
  sealBales : t.granary.sealBales = s.granary.sealBales
  walks : t.epochs.walks = s.epochs.walks
  job : t.job = s.job
  sent : t.sent = s.sent
  running : t.running = s.running

/-- `s` without what the freeing of a version may change. -/
def State.besideVersions (s : State) : State :=
  { s with
    models := State.reset.models, sheaf := State.reset.sheaf, cores := State.reset.cores,
    epochs := { s.epochs with quarantine := State.reset.epochs.quarantine } }

theorem freeVersion_besideVersions (s : State) (v : Version) : (s.freeVersion v).besideVersions = s.besideVersions := by
  unfold State.freeVersion State.toQuarantine State.quarantineFrames
  dsimp only
  split <;> rfl

theorem freeRetired_besideVersions (s : State) : s.freeRetired.besideVersions = s.besideVersions :=
  foldl_keeps (P := fun t => t.besideVersions = s.besideVersions) rfl
    (fun t v h => (freeVersion_besideVersions t v).trans h)

theorem freeRetired_sealsKept (s : State) : SealsKept s s.freeRetired := by
  have h := freeRetired_besideVersions s
  have hgranary : s.freeRetired.granary = s.granary := (congrArg State.granary h :)
  exact ⟨session?_of_granary hgranary, congrArg Granary.seals hgranary, congrArg Granary.sealBales hgranary,
    (congrArg (fun t : State => t.epochs.walks) h :), (congrArg State.job h :), (congrArg State.sent h :),
    (congrArg State.running h :)⟩

/-- Where no command waits for a seal of the session, none starts. -/
theorem startAfter_sealsKept {s : State} {h : U64} {x : Session} (hx : s.session? h = some x) (h0 : x.state ≠ 0)
    (ha : x.after = []) : SealsKept s (s.startAfter h) := by
  simp only [State.startAfter, hx, ha, List.foldl_nil]
  split
  · exact ⟨fun _ => rfl, rfl, rfl, rfl, rfl, rfl, rfl⟩
  · obtain ⟨hsessions, hseals, hbales, hwalks, hjob, hsent, hrunning⟩ :=
      freeRetired_sealsKept ((s.modSession h (fun y => { y with after := [] })).dropNone h)
    refine ⟨fun k => (hsessions k).trans ?_, hseals, hbales, hwalks, hjob, hsent, hrunning⟩
    by_cases hk : k = h
    · subst hk
      have hkept : (s.modSession k (fun y => { y with after := [] })).session? k = some { x with after := [] } :=
        session?_modSession_same s (fun _ => rfl) hx
      rw [show { x with after := [] } = x by rw [← ha]] at hkept
      exact (session?_dropNone_same hkept h0).trans hx.symm
    · exact (session?_dropNone_other _ hk).trans (session?_modSession_other s hk (fun _ => rfl))

/-! ### The end of a seal -/

/-- A seal that the session goes on after as it was: that of an automatic interval or of SEAL. -/
def SealCause.ordinary (c : SealCause) : Prop := c = .automatic ∨ ∃ id full, c = .seal id full

/-- A session whose seal `q`, of objects `i`, has ended and is its latest. -/
def Session.sealed (x : Session) (q : Sealing) (rest : List Sealing) (i : SealInfo) : Session :=
  { x with latest := some { i with mirrored := q.mirror }, nextSeal := i.number + 1, sealing := rest }

/-- `s` with seal `q` of a session ended and counted, its record not yet completed. -/
def State.sealEnded (s : State) (h : U64) (q : Sealing) (rest : List Sealing) (i : SealInfo) : State :=
  let u := (s.retireWalk q.epoch).modSession h (fun x => x.sealed q rest i)
  { u with granary := { u.granary with
      seals := u.granary.seals + 1, sealBales := u.granary.sealBales + BitVec.ofNat 64 q.written } }

section
variable {s : State} {h : U64} {x : Session} {q : Sealing} {rest : List Sealing} {i : SealInfo}

theorem endSeal_ordinary (hx : s.session? h = some x) (hq : x.sealing = q :: rest) (he : q.ended = false)
    (hc : q.cause.ordinary) (ht : q.taken = some i) : ∃ f res,
    s.endSeal h = ((s.sealEnded h q rest i).count (handleTenant h) f).completeCause q.cause [] stOk res := by
  rcases hc with hc | ⟨id, full, hc⟩ <;>
  · simp only [State.endSeal, hx, hq, State.moveWaits, Sealing.completes, hc, ht, he, Bool.false_eq_true, if_false]
    exact ⟨_, _, rfl⟩

theorem completeCause_automatic (s : State) (needs : List U16) (status : Nat) (res : List Byte) :
    s.completeCause .automatic needs status res = s := rfl

theorem completeCause_besidePosts (hc : q.cause.ordinary) (s : State) (needs : List U16) (status : Nat)
    (res : List Byte) : (s.completeCause q.cause needs status res).besidePosts = s.besidePosts := by
  rcases hc with hc | ⟨id, full, hc⟩ <;> rw [hc]
  · rfl
  · unfold State.completeCause
    dsimp only
    split
    · exact completeAfter_besidePosts s needs _ _ _ _
    · rfl

theorem endSeal_besidePosts (hx : s.session? h = some x) (hq : x.sealing = q :: rest) (he : q.ended = false)
    (hc : q.cause.ordinary) (ht : q.taken = some i) :
    (s.endSeal h).besidePosts = (s.sealEnded h q rest i).besidePosts := by
  obtain ⟨f, res, hend⟩ := endSeal_ordinary hx hq he hc ht
  rw [hend, completeCause_besidePosts hc]
  rfl

theorem sealEnded_session?_same (hx : s.session? h = some x) :
    (s.sealEnded h q rest i).session? h = some (x.sealed q rest i) :=
  session?_modSession_same (s.retireWalk q.epoch) (fun _ => rfl) hx

theorem sealEnded_session?_other {k : U64} (hk : k ≠ h) : (s.sealEnded h q rest i).session? k = s.session? k :=
  session?_modSession_other (s.retireWalk q.epoch) hk (fun _ => rfl)

theorem sealEnded_sent : (s.sealEnded h q rest i).sent = s.sent := rfl

theorem sealEnded_running : (s.sealEnded h q rest i).running = s.running := rfl

theorem sealDone_iff : s.sealDone q = true ↔ q.taken.isSome = true ∧ q.cause ≠ .born ∧ q.sent = false ∧
    q.awaits = [] ∧ ∀ t ∈ q.writes, t ∉ s.link.writes := by
  simp [State.sealDone, and_assoc]

/-! ### SEAL_COMPLETE -/

theorem exec_sealComplete (hf : s.faulted = false) (hp : s.power.pstate < 2) :
    exec (.sealComplete h) s = .next (s.sealComplete h).finishDrained :=
  congrArg _ (if_neg (by simp [hf, Nat.not_le.2 hp]))

theorem sealComplete_done (hx : s.session? h = some x) (hq : x.sealing = q :: rest) (hd : s.sealDone q = true) :
    s.sealComplete h = (s.endSeal h).startAfter h := by
  simp [State.sealComplete, hx, hq, hd]

theorem sealComplete_waits (hx : s.session? h = some x) (hq : x.sealing = q :: rest) (hd : s.sealDone q = false) :
    s.sealComplete h = s := by
  simp [State.sealComplete, hx, hq, hd]

/-- An ordinary seal that is done becomes the session's latest, and is counted. -/
theorem exec_sealComplete_ordinary (hf : s.faulted = false) (hp : s.power.pstate < 2) (hj : s.job.state ≠ 3)
    (hx : s.session? h = some x) (h0 : x.state ≠ 0) (ha : x.after = []) (hq : x.sealing = q :: rest)
    (he : q.ended = false) (hc : q.cause.ordinary) (ht : q.taken = some i) (hd : s.sealDone q = true) :
    ∃ t, exec (.sealComplete h) s = .next t ∧ t.session? h = some (x.sealed q rest i) ∧
      (∀ k, k ≠ h → t.session? k = s.session? k) ∧ t.granary.seals = s.granary.seals + 1 ∧
      t.granary.sealBales = s.granary.sealBales + BitVec.ofNat 64 q.written ∧
      t.epochs.walks = s.epochs.walks.erase q.epoch ∧
      (q.cause = .automatic → t.sent = s.sent ∧ t.running = s.running) := by
  have hend := endSeal_besidePosts hx hq he hc ht
  have hgranary : (s.endSeal h).granary = (s.sealEnded h q rest i).granary := granary_of_besidePosts hend
  have hsession : (s.endSeal h).session? h = some (x.sealed q rest i) :=
    (session?_of_granary hgranary h).trans (sealEnded_session?_same hx)
  obtain ⟨hsessions, hseals, hbales, hwalks, hjob, hsent, hrunning⟩ := startAfter_sealsKept hsession h0 ha
  refine ⟨(s.endSeal h).startAfter h, ?_, (hsessions h).trans hsession, fun k hk => ?_,
    hseals.trans (congrArg Granary.seals hgranary), hbales.trans (congrArg Granary.sealBales hgranary),
    hwalks.trans (congrArg (fun t : State => t.epochs.walks) hend :), fun hauto => ?_⟩
  · rw [exec_sealComplete hf hp, sealComplete_done hx hq hd,
      finishDrained_of_state (by rw [hjob, job_of_besidePosts hend]; exact hj)]
  · rw [hsessions, session?_of_granary hgranary, sealEnded_session?_other hk]
  · obtain ⟨f, res, hordinary⟩ := endSeal_ordinary hx hq he hc ht
    rw [hsent, hrunning, hordinary, hauto, completeCause_automatic, State.count_sent, State.count_running]
    exact ⟨sealEnded_sent, sealEnded_running⟩

/-! ### AUTOMATIC_SEAL -/

theorem exec_automaticSeal (hf : s.faulted = false) : exec (.automaticSeal h) s = .next (s.autoSeal h) :=
  congrArg _ (if_neg (by simp [hf]))

theorem session?_askSeal_same (hx : s.session? h = some x) (hq : x.sealing = []) (c : SealCause) :
    (s.askSeal h c).session? h = some { x with sealing := [Sealing.new c] } := by
  have hasked : (s.askSeal h c).session? h = some { x with sealing := x.sealing ++ [Sealing.new c] } :=
    session?_modSession_same s (fun _ => rfl) hx
  rwa [hq] at hasked

theorem autoSeal_asks (hx : s.session? h = some x) (hr : x.resident = true) (hc : x.changed = true)
    (hq : x.sealing = []) (hms : (s.area (handleTenant h)).sealMs ≠ 0) :
    s.autoSeal h = s.askSeal h .automatic := by
  simp [State.autoSeal, hx, hr, hc, hq, hms]

theorem autoSeal_nothing (hx : s.session? h = some x) (hno : x.resident = false ∨ x.changed = false ∨
    x.sealing ≠ [] ∨ (s.area (handleTenant h)).sealMs = 0) : s.autoSeal h = s := by
  have hskip : (x.resident && x.changed && x.sealing.isEmpty && (s.area (handleTenant h)).sealMs != 0) = false := by
    rcases hno with hno | hno | hno | hno <;> simp [hno]
  simp [State.autoSeal, hx, hskip]

end

theorem seals_nothing {s : State} (h : U64) (hf : s.faulted = true) :
    exec (.sealComplete h) s = .next s ∧ exec (.automaticSeal h) s = .next s :=
  ⟨congrArg _ (if_pos (by rw [hf]; rfl)), congrArg _ (if_pos hf)⟩

theorem exec_sealComplete_held {s : State} (h : U64) (hp : 2 ≤ s.power.pstate) :
    exec (.sealComplete h) s = .next s :=
  congrArg _ (if_pos (by simp [hp]))

end Sys2Proof.Machine
end

section
/-!
The statement about boundaries and seals, from the rules above.
-/

namespace Sys2Proof.Machine

/-- Settles O41: what makes a boundary fall due and close, and what ends or asks for a seal. -/
theorem boundariesAndSeals : Obligations.BoundariesAndSeals := by
  unfold Obligations.BoundariesAndSeals
  refine ⟨⟨fun s h => boundaries_nothing h, ?_, ?_, ?_, ?_⟩, ⟨fun s h hf => seals_nothing h hf,
    fun s h hp => exec_sealComplete_held h hp, ?_, ?_, ?_, ?_⟩⟩
  · refine fun s hj hf => ⟨exec_quietUsExpiry hj hf, fun h => ?_⟩
    rw [exec_quietUsExpiry hj hf, boundaryDue_waits (h.symm.imp_right Or.inl)]
    rfl
  · intro s hj hf hp hm hc hin hgroup
    obtain ⟨u, hdue, hu⟩ := boundaryDue_freezes hp hm hc
    have hjob : u.job = s.job := (congrArg State.job hu :)
    have hbarrier : u.barrierAt 63 = s.barrierAt 63 := (congrArg (State.barrierAt · 63) hu :)
    obtain ⟨harrived, hsheaf, hfaults⟩ := boundaryArrival_arrives (s := u) (by rwa [hjob, hbarrier])
      (agrees_iff.2 (by rwa [hjob, hbarrier]))
    rw [← hdue] at harrived hsheaf hfaults
    rw [hjob] at harrived
    rw [show u.sheaf = _ from (congrArg State.sheaf hu :)] at hsheaf
    refine ⟨_, exec_quietUsExpiry hj hf, ?_⟩
    rw [hsheaf]
    exact ⟨rfl, rfl, rfl, rfl, rfl, harrived, hfaults.trans (congrArg State.faults hu :)⟩
  · intro s hj hj3 hf
    refine ⟨exec_tableBoundary_held hj hj3 hf, fun hd hr ha => ?_, fun hd hr ha => ?_,
      exec_tableBoundary_waits hj hj3 hf, fun _ => exec_tableBoundary hj hf⟩
    · rw [exec_tableBoundary_ready hj hf hd hr, closeDue_once hd hr ha]
      rfl
    · rw [exec_tableBoundary_ready hj hf hd hr, closeDue_again hd hr ha]
      rfl
  · intro s hj hj3 hf hp hm hc hh ha hidle
    obtain ⟨htstep, hdue, hclosing, hbatches, hgranary, -⟩ : Ticks s.withDue s.withDue.flip := flip_ticks hc
    exact ⟨_, exec_tableBoundary_closes hj hj3 hf hp hm hc hh ha hidle, htstep, hdue, hclosing, hbatches, hgranary⟩
  · intro s h x q rest hf hp hx hq
    refine ⟨fun hd => ?_, fun hd hj => ?_⟩
    · rw [exec_sealComplete hf hp, sealComplete_done hx hq hd]
    · rw [exec_sealComplete hf hp, sealComplete_waits hx hq hd, finishDrained_of_state hj]
  · intro s h x q rest i hf hp hj hx h0 _ ha hq he hc ht hsent hawaits hwrites
    refine exec_sealComplete_ordinary hf hp hj hx h0 ha hq he hc ht
      (sealDone_iff.2 ⟨by simp [ht], ?_, hsent, hawaits, hwrites⟩)
    rcases hc with hc | ⟨id, full, hc⟩ <;> simp [hc]
  · intro s h x hf hx hr hc hq hms
    refine ⟨_, exec_automaticSeal hf, ?_⟩
    rw [autoSeal_asks hx hr hc hq hms]
    exact ⟨session?_askSeal_same hx hq _, fun k hk => session?_modSession_other s hk (fun _ => rfl), rfl⟩
  · intro s h x hf hx hno
    rw [exec_automaticSeal hf, autoSeal_nothing hx hno]

end Sys2Proof.Machine
end

section
/-!
Core instructions that issue (07 R203, R206, R212): issue with bounds, the one virtual core that an instruction
changes, and its scalar registers.
-/

namespace Sys2Proof.Machine

section
variable {s t : State} {vc : Nat} {w : CoreWord} {c d : VCore} {is : Bool} {ok : VCore → State → Bool}

/-! ### Issue with bounds -/

/-- An instruction within its bounds does its work, past the program counter. -/
theorem issueIn_past (h : Issues s vc w c) (hi : is = true) (hok : ok c (s.past vc c) = true)
    (f : VCore → State → State) : s.issueIn vc w is ok f = f c (s.past vc c) :=
  (issue_past h hi _).trans (if_pos hok)

/-- One out of its bounds raises the core program fault of its core and does nothing else. -/
theorem issueIn_violation (h : Issues s vc w c) (hi : is = true) (hok : ok c (s.past vc c) = false)
    (f : VCore → State → State) : s.issueIn vc w is ok f = s.raiseFault (srcCore (s.coreOf vc)) :=
  (issue_past h hi _).trans (if_neg (by rw [hok]; exact Bool.false_ne_true))

/-! ### The one virtual core that changes -/

theorem onlyCore_past (s : State) (vc : Nat) (c : VCore) : OnlyCore s vc c.past (s.past vc c) :=
  ⟨vcore?_passed_same s vc c, fun n hn => vcore?_passed_other s vc n c hn, rfl, rfl⟩

theorem vcore_of_there (h : t.vcore? vc = some d) : t.vcore vc = d := by rw [State.vcore, h]; rfl

theorem vcore?_modVcore_same (h : t.vcore? vc = some d) (f : VCore → VCore) :
    (t.modVcore vc f).vcore? vc = some (f d) := by
  rw [State.modVcore, vcore?_putVcore_same, vcore_of_there h]

theorem OnlyCore.modVcore (h : OnlyCore s vc d t) (f : VCore → VCore) : OnlyCore s vc (f d) (t.modVcore vc f) := by
  obtain ⟨hthere, hothers, hturns, hrest⟩ := h
  exact ⟨vcore?_modVcore_same hthere f, fun n hn => (vcore?_modVcore_other t vc n f hn).trans (hothers n hn), hturns,
    hrest⟩

/-! ### Scalar registers -/

theorem registerWritten_putReg (c : VCore) (rd : Nat) (v : U64) : RegisterWritten c rd v (c.past.putReg rd v) := by
  refine ⟨?_, fun n hn => reg_putReg n c.past rd v hn⟩
  unfold VCore.putReg
  split <;> rfl

/-- An instruction that issues and only writes `rd` of its virtual core. -/
theorem registerWritten_of_exec {i : Instr} {rd : Nat} {v : U64}
    (hi : exec i s = .next ((s.past vc c).modVcore vc (fun x => x.putReg rd v))) :
    ∃ t d, exec i s = .next t ∧ OnlyCore s vc d t ∧ RegisterWritten c rd v d :=
  ⟨_, _, hi, (onlyCore_past s vc c).modVcore _, registerWritten_putReg c rd v⟩

/-- The immediate of class 0x1, as the decoder reads it. -/
theorem wImm_eq_scalarImm (w : CoreWord) : wImm w = scalarImm w :=
  congrArg (BitVec.signExtend 64) (BitVec.ofNat_toNat 32 _ |>.trans (BitVec.setWidth_eq _))

theorem operandB_eq_scalarB (c : VCore) (w : CoreWord) : c.operandB w = scalarB c w := by
  unfold VCore.operandB scalarB
  rw [wImm_eq_scalarImm]
  rfl

theorem address_eq_scalarAddress (c : VCore) (w : CoreWord) : c.address w = scalarAddress c w := by
  unfold VCore.address scalarAddress
  rw [wImm_eq_scalarImm]
  rfl

theorem doubleOk_iff_reaches (c : VCore) (w : CoreWord) : c.doubleOk w = true ↔ Reaches c w := by
  simp [VCore.doubleOk, VCore.inArea, Reaches, address_eq_scalarAddress]

/-! ### Doublewords in memory -/

@[simp] theorem length_toLe (k n : Nat) : (toLe k n).length = k := by
  induction k generalizing n with
  | zero => rfl
  | succ k ih => simp [toLe, ih]

theorem getElem_toLe (k n i : Nat) (h : i < (toLe k n).length) : (toLe k n)[i] = BitVec.ofNat 8 (n / 256 ^ i) := by
  induction k generalizing n i with
  | zero => simp [toLe] at h
  | succ k ih =>
    cases i with
    | zero => simp [toLe]
    | succ i => simp [toLe, ih, Nat.div_div_eq_div_mul, Nat.pow_succ']

/-- The bytes that a little-endian write of eight stores. -/
theorem memGet_writeLe_in (m : Mem) (a : Nat) (x : U64) {i : Nat} (hi : i < 8) :
    memGet (writeLe m a 8 x.toNat) (a + i) = x.extractLsb' (8 * i) 8 := by
  rw [writeLe, memGet_writeBytes_in _ _ _ _ (by rwa [length_toLe]), getElem_toLe]
  apply BitVec.eq_of_toNat_eq
  simp [Nat.shiftRight_eq_div_pow, Nat.pow_mul]

theorem memGet_writeLe_out (m : Mem) (a k n b : Nat) (h : b < a ∨ a + k ≤ b) :
    memGet (writeLe m a k n) b = memGet m b :=
  memGet_writeBytes_out _ _ _ _ (by rwa [length_toLe])

end

end Sys2Proof.Machine
end

section
/-!
The statements about scalar arithmetic, loads and stores (07 R206, R212).
-/

namespace Sys2Proof.Machine

/-- `k` is the scalar operation `op` of Table 7-12 with the result `f`. -/
def IsScalar (k : Nat → CoreWord → Instr) (op : Nat) (f : U64 → U64 → U64) : Prop :=
  ∀ vc w s, exec (k vc w) s = .next (s.scalar vc w op f)

/-- Shifts go by the low six bits of the second operand. -/
theorem shiftCount_eq (b : U64) : b.toNat % 64 = (b.extractLsb' 0 6).toNat := by simp

theorem scalarRows_isScalar : ∀ x ∈ scalarRows, IsScalar x.1 x.2.1 x.2.2 := by
  simp only [scalarRows, ← shiftCount_eq, List.forall_mem_cons, List.not_mem_nil, false_implies, implies_true, and_true]
  and_intros
  all_goals exact fun vc w s => rfl

theorem IsScalar.issues {k : Nat → CoreWord → Instr} {op : Nat} {f : U64 → U64 → U64} (hk : IsScalar k op f)
    {s : State} {vc : Nat} {w : CoreWord} {c : VCore} (h : Issues s vc w c) (he : Encodes w 1 op) :
    exec (k vc w) s = .next ((s.past vc c).modVcore vc (fun x =>
      x.putReg (fieldOf w 119 115) (f (c.reg (fieldOf w 114 110)) (scalarB c w)))) := by
  rw [hk, State.scalar, issue_past h (isOp_of_encodes he), operandB_eq_scalarB]
  rfl

/-- Settles O6: each row of Table 7-12 issues as a write of its result to `rd` alone. -/
theorem scalarArithmetic : Obligations.ScalarArithmetic := by
  unfold Obligations.ScalarArithmetic
  exact fun x hx s vc w c h he => registerWritten_of_exec ((scalarRows_isScalar x hx).issues h he)

section
variable {s : State} {vc : Nat} {w : CoreWord} {c : VCore} (h : Issues s vc w c)
include h

theorem exec_loadi (he : Encodes w 1 8) : exec (.loadi vc w) s =
    .next ((s.past vc c).modVcore vc (fun x => x.putReg (fieldOf w 119 115) (w.extractLsb' 40 64))) :=
  congrArg _ (issue_past h (isOp_of_encodes he) _)

theorem exec_ld (he : Encodes w 1 9) (hr : Reaches c w) : exec (.ld vc w) s =
    .next ((s.past vc c).modVcore vc (fun x =>
      x.putReg (fieldOf w 119 115) (BitVec.ofNat 64 (readLe c.sram (scalarAddress c w) 8)))) := by
  rw [← address_eq_scalarAddress]
  exact congrArg _ (issueIn_past h (isOp_of_encodes he) ((doubleOk_iff_reaches c w).2 hr) _)

theorem exec_st (he : Encodes w 1 10) (hr : Reaches c w) : exec (.st vc w) s =
    .next ((s.past vc c).modVcore vc (fun x =>
      { x with sram := writeLe x.sram (scalarAddress c w) 8 (c.reg (fieldOf w 109 105)).toNat })) := by
  rw [← address_eq_scalarAddress]
  exact congrArg _ (issueIn_past h (isOp_of_encodes he) ((doubleOk_iff_reaches c w).2 hr) _)

theorem exec_ld_violation (he : Encodes w 1 9) (hr : ¬ Reaches c w) :
    exec (.ld vc w) s = .next (s.raiseFault (srcCore (s.coreOf vc))) :=
  congrArg _ (issueIn_violation h (isOp_of_encodes he)
    (Bool.eq_false_iff.2 (mt (doubleOk_iff_reaches c w).1 hr)) _)

theorem exec_st_violation (he : Encodes w 1 10) (hr : ¬ Reaches c w) :
    exec (.st vc w) s = .next (s.raiseFault (srcCore (s.coreOf vc))) :=
  congrArg _ (issueIn_violation h (isOp_of_encodes he)
    (Bool.eq_false_iff.2 (mt (doubleOk_iff_reaches c w).1 hr)) _)

end

/-- Settles O7: LOADI and LD write `rd`, ST eight bytes; an address that does not reach is a range violation. -/
theorem scalarLoadsAndStores : Obligations.ScalarLoadsAndStores := by
  unfold Obligations.ScalarLoadsAndStores
  refine ⟨fun s vc w c h => ⟨fun he => registerWritten_of_exec (exec_loadi h he),
    fun he hr => registerWritten_of_exec (exec_ld h he hr), fun he hr => ?_⟩,
    fun s vc w c h hr => ⟨fun he => exec_ld_violation h he hr, fun he => exec_st_violation h he hr⟩⟩
  exact ⟨_, _, exec_st h he hr, (onlyCore_past s vc c).modVcore _, rfl, fun i hi => memGet_writeLe_in _ _ _ hi,
    fun a ha => memGet_writeLe_out _ _ _ _ _ ha⟩

end Sys2Proof.Machine
end

section
/-!
Control flow (07 R202, R205; Table 7-11): where each instruction goes on.
-/

namespace Sys2Proof.Machine

/-- The comparisons of Table 7-11, by condition. -/
def conditionHolds (cond : Nat) (a b : U64) : Bool :=
  match cond with
  | 0 => decide (a = b)
  | 1 => decide (a ≠ b)
  | 2 => decide (a.toNat < b.toNat)
  | 3 => decide (b.toNat ≤ a.toNat)
  | 4 => decide (a.toInt < b.toInt)
  | 5 => decide (b.toInt ≤ a.toInt)
  | _ => false

/-- The decoder's comparison is the table's: not below is at least. -/
theorem branchTaken_eq_conditionHolds (cond : Nat) (a b : U64) : branchTaken cond a b = conditionHolds cond a b :=
  match cond with
  | 0 => rfl
  | 1 => decide_not.symm
  | 2 => rfl
  | 3 => by simp only [branchTaken, conditionHolds, BitVec.ult, ← decide_not, Nat.not_lt]
  | 4 => rfl
  | 5 => by simp only [branchTaken, conditionHolds, BitVec.slt, ← decide_not, Int.not_lt]
  | _ + 6 => rfl

/-- A count comes to zero from 1 alone. -/
theorem countedDown_eq_zero (a : U64) : a - 1 = 0 ↔ a = 1 :=
  BitVec.sub_eq_iff_eq_add

theorem nextProgram_none {s : State} {vc : Nat} (h : ∀ e ∈ s.cores.queued, e.1 ≠ vc) : s.nextProgram vc = s := by
  rw [State.nextProgram, List.find?_eq_none.2 (by simpa using h)]

/-- The first program that waits for the virtual core takes it. -/
theorem nextProgram_some {s : State} {vc : Nat} {before after : List (Nat × VCore)} {d : VCore}
    (hq : s.cores.queued = before ++ (vc, d) :: after) (hb : ∀ e ∈ before, e.1 ≠ vc) :
    s.nextProgram vc = { s.putVcore vc d with cores := { (s.putVcore vc d).cores with queued := before ++ after } } := by
  have hfind : s.cores.queued.find? (fun e => e.1 == vc) = some (vc, d) := by
    rw [hq, List.find?_append, List.find?_eq_none.2 (by simpa using hb), List.find?_cons_of_pos (by simp)]
    rfl
  have herase : s.cores.queued.erase (vc, d) = before ++ after := by
    rw [hq, List.erase_append_right _ (fun hm => hb _ hm rfl), List.erase_cons_head]
  rw [State.nextProgram, hfind]
  simp only [herase]

section
variable {s : State} {vc : Nat} {w : CoreWord} {c : VCore} (h : Issues s vc w c)
include h

theorem jump_goes (he : Encodes w 0 0) : ∃ t, exec (.jump vc w) s = .next t ∧
    OnlyCore s vc { c with pc := fieldOf w 115 104 } t :=
  ⟨_, congrArg Host.Outcome.next (issue_past h (isOp_of_encodes he) _), (onlyCore_past s vc c).modVcore _⟩

theorem exec_branch (he : Encodes w 0 1) : exec (.branch vc w) s = .next (
    if conditionHolds (fieldOf w 119 116) (c.reg (fieldOf w 103 99)) (c.reg (fieldOf w 98 94)) then
      (s.past vc c).setPc vc (fieldOf w 115 104)
    else s.past vc c) := by
  rw [← branchTaken_eq_conditionHolds]
  exact congrArg _ (issue_past h (isOp_of_encodes he) _)

theorem branch_goes (he : Encodes w 0 1) : ∃ t, exec (.branch vc w) s = .next t ∧
    OnlyCore s vc
      { c with pc := if conditionHolds (fieldOf w 119 116) (c.reg (fieldOf w 103 99)) (c.reg (fieldOf w 98 94)) then
          fieldOf w 115 104 else c.pc + 1 } t := by
  refine ⟨_, exec_branch h he, ?_⟩
  split
  · exact (onlyCore_past s vc c).modVcore _
  · exact onlyCore_past s vc c

/-- LOOP counts its register down, and goes on at its target until the count has come to zero. -/
theorem exec_loop (he : Encodes w 0 2) : exec (.loop vc w) s = .next (
    let counted := (s.past vc c).modVcore vc (fun x =>
      x.putReg (fieldOf w 103 99) (c.reg (fieldOf w 103 99) - 1));
    if c.reg (fieldOf w 103 99) = 1 then counted else counted.setPc vc (fieldOf w 115 104)) := by
  simp only [← countedDown_eq_zero]
  exact congrArg _ (issue_past h (isOp_of_encodes he) _)

theorem loop_counts (he : Encodes w 0 2) : ∃ t d, exec (.loop vc w) s = .next t ∧ OnlyCore s vc d t ∧
    (∀ n, n < 32 → d.reg n = if n = 0 then 0 else
      if n = fieldOf w 103 99 then c.reg (fieldOf w 103 99) - 1 else c.reg n) ∧
    { d with regs := c.regs } =
      { c with pc := if c.reg (fieldOf w 103 99) = 1 then c.pc + 1 else fieldOf w 115 104 } := by
  have hcount := (onlyCore_past s vc c).modVcore (fun x => x.putReg (fieldOf w 103 99) (c.reg (fieldOf w 103 99) - 1))
  obtain ⟨hrest, hregs⟩ := registerWritten_putReg c (fieldOf w 103 99) (c.reg (fieldOf w 103 99) - 1)
  by_cases hlast : c.reg (fieldOf w 103 99) = 1
  · exact ⟨_, _, (exec_loop h he).trans (congrArg _ (if_pos hlast)), hcount, hregs, by rw [if_pos hlast]; exact hrest⟩
  · refine ⟨_, _, (exec_loop h he).trans (congrArg _ (if_neg hlast)), hcount.modVcore _, hregs, ?_⟩
    rw [if_neg hlast]
    exact congrArg (fun x : VCore => { x with pc := fieldOf w 115 104 }) hrest

/-- s0 counts nothing, so that a LOOP on it goes on at its target each time. -/
theorem loop_on_zero (he : Encodes w 0 2) (hz : fieldOf w 103 99 = 0) : ∃ t, exec (.loop vc w) s = .next t ∧
    OnlyCore s vc { c with pc := fieldOf w 115 104 } t := by
  have hreg : c.reg (fieldOf w 103 99) ≠ 1 := by rw [hz]; exact (by decide : (0 : U64) ≠ 1)
  refine ⟨_, (exec_loop h he).trans (congrArg _ (if_neg hreg)), ?_⟩
  have hcount := ((onlyCore_past s vc c).modVcore (fun x =>
    x.putReg (fieldOf w 103 99) (c.reg (fieldOf w 103 99) - 1))).modVcore (fun x => { x with pc := fieldOf w 115 104 })
  have hsame : c.past.putReg (fieldOf w 103 99) (c.reg (fieldOf w 103 99) - 1) = c.past := if_pos hz
  rwa [hsame] at hcount

theorem exec_halt (he : Encodes w 0 3) : exec (.halt vc w) s =
    .next (((s.past vc c).modVcore vc (fun x => { x with pc := 0, wait := .halted })).nextProgram vc) :=
  congrArg _ (issue_past h (isOp_of_encodes he) _)

theorem halt_ends (he : Encodes w 0 3) (hq : ∀ e ∈ s.cores.queued, e.1 ≠ vc) : ∃ t, exec (.halt vc w) s = .next t ∧
    OnlyCore s vc { c with pc := 0, wait := .halted } t :=
  ⟨_, (exec_halt h he).trans (congrArg _ (nextProgram_none hq)), (onlyCore_past s vc c).modVcore _⟩

theorem halt_follows (he : Encodes w 0 3) {before after : List (Nat × VCore)} {d : VCore}
    (hq : s.cores.queued = before ++ (vc, d) :: after) (hb : ∀ e ∈ before, e.1 ≠ vc) :
    ∃ t, exec (.halt vc w) s = .next t ∧ t.vcore? vc = some d ∧ (∀ n, n ≠ vc → t.vcore? n = s.vcore? n) ∧
      t.cores.queued = before ++ after := by
  refine ⟨_, (exec_halt h he).trans (congrArg _ (nextProgram_some hq hb)), vcore?_putVcore_same _ vc d, fun n hn => ?_,
    rfl⟩
  calc _ = ((s.past vc c).modVcore vc (fun x => { x with pc := 0, wait := .halted })).vcore? n :=
        vcore?_putVcore_other _ vc n d hn
    _ = (s.past vc c).vcore? n := vcore?_modVcore_other _ vc n _ hn
    _ = s.vcore? n := vcore?_passed_other s vc n c hn

theorem drain_goes (he : Encodes w 0 4) : ∃ t, exec (.drain vc w) s = .next t ∧ OnlyCore s vc c.past t :=
  ⟨_, congrArg Host.Outcome.next (issue_past h (isOp_of_encodes he) _), onlyCore_past s vc c⟩

end

/-- Settles O8: each instruction of Table 7-11 goes on where it says, and LOOP's register counts down. -/
theorem controlFlow : Obligations.ControlFlow := by
  unfold Obligations.ControlFlow
  intro s vc w c h target a b taken
  refine ⟨jump_goes h, fun he => branch_goes h he, fun he hreg => ?_, loop_on_zero h, halt_ends h,
    fun he before after d => halt_follows h he, drain_goes h⟩
  obtain ⟨t, d, hexec, honly, hregs, hrest⟩ := loop_counts h he
  have hlt : fieldOf w 103 99 < 32 := (w.extractLsb' 99 5).isLt
  refine ⟨t, d, hexec, honly, ?_, fun n hn hne => ?_, hrest⟩
  · rw [hregs _ hlt, if_neg hreg, if_pos rfl]
  · rw [hregs n hn, if_neg hne]
    by_cases hz : n = 0
    · rw [if_pos hz, hz]; rfl
    · exact if_neg hz

end Sys2Proof.Machine
end

section
/-!
Vector instructions (07 R212 to R214; Table 7-7): each row of the table is the vector unit with its form and its
operation, and what rows that are written leave alone.
-/

namespace Sys2Proof.Machine

theorem vectorRows_vector : ∀ x ∈ vectorRows, ∀ vc w s, exec (x.1 vc w) s = .next (s.vector vc w x.2.1 x.2.2) := by
  simp only [vectorRows, List.forall_mem_cons, List.not_mem_nil, false_implies, implies_true, and_true]
  and_intros
  all_goals exact fun vc w s => rfl

/-! ### Rows that are written -/

/-- `s` without the sessions' block, which holds the conversions counted for each sequence (R46, R54). -/
def State.besideGranary (s : State) : State := { s with granary := State.reset.granary }

theorem noteNarrow_besideGranary (s : State) (tag : Option RowTag) (layer values clipped : Nat) :
    (s.noteNarrow tag layer values clipped).besideGranary = s.besideGranary := by
  unfold State.noteNarrow
  split
  · rfl
  · split <;> rfl

/-- `s` with the rows' bytes in the core SRAM of a virtual core. -/
def State.rowsStored (s : State) (vc : Nat) (rows : List RowResult) : State :=
  s.modVcore vc (fun c => { c with sram := writeRows c.sram (rows.map (fun r => (r.addr, r.bytes))) })

theorem putRows_besideGranary (s : State) (vc layer : Nat) (rows : List RowResult) :
    (s.putRows vc layer rows).besideGranary = (s.rowsStored vc rows).besideGranary :=
  foldl_keeps (P := fun t => t.besideGranary = (s.rowsStored vc rows).besideGranary) rfl
    (fun t r ht => (noteNarrow_besideGranary t r.tag layer r.values r.clipped).trans ht)

theorem putRows_draws (s : State) (vc layer : Nat) (rows : List RowResult) :
    (s.putRows vc layer rows).draws = s.draws :=
  (congrArg State.draws (putRows_besideGranary s vc layer rows) :)

theorem memGet_writeRows_out {rows : List RowResult} {a : Nat} (h : OutsideRows rows a) (m : Mem) :
    memGet (writeRows m (rows.map (fun r => (r.addr, r.bytes)))) a = memGet m a := by
  induction rows generalizing m with
  | nil => rfl
  | cons r rows ih =>
    obtain ⟨hr, hrows⟩ := List.forall_mem_cons.1 h
    exact (ih hrows (writeBytes m r.addr r.bytes)).trans (memGet_writeBytes_out m r.addr r.bytes a hr)

/-! ### The instructions -/

section
variable {s : State} {vc : Nat} {w : CoreWord} {c : VCore}

/-- The vector unit's instruction, by its class and its six-bit operation (Table 7-6). -/
theorem isVector {f : VecForm} (hcls : fieldOf w 127 124 = 3) (hop : fieldOf w 123 118 = f.op) :
    (wClass w == 3 && vOp w == f.op) = true := by
  simp only [Bool.and_eq_true, beq_iff_eq]
  exact ⟨hcls, hop⟩

/-- The rows that a vector instruction gives. -/
def State.vecResults (s : State) (x : (Nat → CoreWord → Instr) × VecForm × (VecRow → List U32)) (c : VCore)
    (w : CoreWord) : List RowResult :=
  (List.range (fieldOf w 97 92 + 1)).map (s.vecResult x.2.1 x.2.2 c w)

variable {x : (Nat → CoreWord → Instr) × VecForm × (VecRow → List U32)} (hx : x ∈ vectorRows)
  (h : Issues s vc w c) (hcls : fieldOf w 127 124 = 3) (hop : fieldOf w 123 118 = x.2.1.op)
include hx h hcls hop

/-- Within bounds it writes its rows; ROPE may have drawn free positions. -/
theorem exec_vectorRow (hok : (s.past vc c).vecOk x.2.1 c w = true) : exec (x.1 vc w) s = .next (
    let t := (s.past vc c).putRows vc (fieldOf w 35 20) ((s.past vc c).vecResults x c w);
    if x.2.1.op = 0x20 then t.drew (vRows w) else t) := by
  rw [vectorRows_vector x hx]
  exact congrArg Host.Outcome.next (issueIn_past h (isVector hcls hop) hok _)

theorem exec_vectorRow_violation (hok : (s.past vc c).vecOk x.2.1 c w = false) :
    exec (x.1 vc w) s = .next (s.raiseFault (srcCore (s.coreOf vc))) := by
  rw [vectorRows_vector x hx]
  exact congrArg Host.Outcome.next (issueIn_violation h (isVector hcls hop) hok _)

end

/-- Settles O15: within bounds each row of Table 7-7 writes its results, and otherwise it is a range violation. -/
theorem vectorResults : Obligations.VectorResults := by
  unfold Obligations.VectorResults
  intro x hx s vc w c h hcls hop u rows
  refine ⟨fun hok => ⟨_, exec_vectorRow hx h hcls hop hok, ?_⟩, exec_vectorRow_violation hx h hcls hop⟩
  have hdraws : ∀ t : State, t.draws = s.draws → { t with draws := s.draws } = t := by
    rintro t ht
    rw [← ht]
  have hput := hdraws _ (putRows_draws u vc (fieldOf w 35 20) rows)
  dsimp only
  split <;> exact hput

end Sys2Proof.Machine
end

section
/-!
Reasons for which no core instruction issues (07 R203, R204; 08 R244; 14 R410).
-/

namespace Sys2Proof.Machine

/-- `k` does what it does by issuing alone. -/
def OnlyIssues (k : Nat → CoreWord → Instr) : Prop :=
  ∀ vc w s, ∃ is f, exec (k vc w) s = .next (s.issue vc w is f)

/-- The vector instructions stand last in the list of core instructions. -/
theorem coreInstructions_eq : coreInstructions = coreInstructions.take 27 ++ vectorRows.map (·.1) := rfl

theorem vectorRows_onlyIssue : ∀ x ∈ vectorRows, OnlyIssues x.1 := by
  intro x hx vc w s
  rw [vectorRows_vector x hx]
  unfold State.vector
  exact ⟨_, _, rfl⟩

theorem coreInstructions_onlyIssue : ∀ k ∈ coreInstructions, OnlyIssues k := by
  rw [coreInstructions_eq, List.forall_mem_append, List.forall_mem_map]
  refine ⟨?_, vectorRows_onlyIssue⟩
  simp only [coreInstructions, List.take, List.forall_mem_cons, List.not_mem_nil, false_implies, implies_true, and_true]
  and_intros
  all_goals exact fun vc w s => ⟨_, _, rfl⟩

section
variable {s : State} {vc : Nat} {w : CoreWord} {c : VCore}

theorem issue_absent {is : Bool} {f : VCore → State → State} (h : s.vcore? vc = none) : s.issue vc w is f = s := by
  rw [State.issue, h]

/-- What issues is the word at the program counter of a virtual core that waits for nothing, has its core and is not
held back. -/
theorem issue_held {is : Bool} {f : VCore → State → State} (h : s.vcore? vc = some c)
    (hno : s.hasCore vc = false ∨ c.wait ≠ .none ∨ c.code[c.pc]? ≠ some w ∨ s.interlocked vc c w = true) :
    s.issue vc w is f = s := by
  rw [State.issue, h]
  refine if_neg fun hall => ?_
  simp only [Bool.and_eq_true, decide_eq_true_eq, Bool.not_eq_true'] at hall
  obtain ⟨⟨⟨⟨_, hwait⟩, hcode⟩, hturn⟩, hfree⟩ := hall
  rcases hno with hno | hno | hno | hno
  · exact Bool.false_ne_true (hno.symm.trans hturn)
  · exact hno hwait
  · exact hno hcode
  · exact Bool.false_ne_true (hfree.symm.trans hno)

/-- HALT, DRAIN and TALLY_ADD are held back by every walk of the virtual core. -/
theorem interlocked_of_walks (hwalks : c.walks ≠ []) (he : Encodes w 0 3 ∨ Encodes w 0 4 ∨ Encodes w 0 5) :
    s.interlocked vc c w = true := by
  have hcls : wClass w = 0 := by rcases he with ⟨h, _⟩ | ⟨h, _⟩ | ⟨h, _⟩ <;> exact h
  have hop : wOp w = 3 ∨ wOp w = 4 ∨ wOp w = 5 := he.imp And.right (Or.imp And.right And.right)
  have hfirst : (!c.walks.isEmpty && wClass w == 0 && (wOp w == 3 || wOp w == 4 || wOp w == 5)) = true := by
    simp [hwalks, hcls, hop, or_assoc]
  rw [State.interlocked, hfirst]
  rfl

theorem le_sumOf_of_mem {α : Type} {f : α → Nat} {l : List α} {e : α} (h : e ∈ l) : f e ≤ sumOf f l := by
  rw [sumOf, ← List.sum_eq_foldl_nat]
  induction l with
  | nil => exact absurd h List.not_mem_nil
  | cons x l ih =>
    rw [List.map_cons, List.sum_cons]
    rcases List.mem_cons.1 h with rfl | h
    · exact Nat.le_add_right _ _
    · exact Nat.le_trans (ih h) (Nat.le_add_left _ _)

/-- A virtual core's walks are among the unfinished ones of its core. -/
theorem walks_le_unfinished (h : s.vcore? vc = some c) : c.walks.length ≤ s.unfinished vc := by
  obtain ⟨e, hfind, rfl⟩ := Option.map_eq_some_iff.1 h
  have hvc : e.1 = vc := beq_iff_eq.1 (List.find?_some hfind :)
  have hmem : e ∈ s.sharing vc := List.mem_filter.2 ⟨List.mem_of_find?_eq_some hfind, by simp [hvc]⟩
  exact le_sumOf_of_mem (f := fun (e : Nat × VCore) => e.2.walks.length) hmem

/-- An ATTEND is held back by four unfinished walks of its core. -/
theorem interlocked_of_unfinished (hfour : 4 ≤ s.unfinished vc) (he : Encodes w 6 0) :
    s.interlocked vc c w = true := by
  have hcls : wClass w = 6 := he.1
  simp [State.interlocked, hcls, hfour]

end

/-- Settles O9: every core instruction goes through issue, which each of these reasons prevents. -/
theorem coreIssuesNothing : Obligations.CoreIssuesNothing := by
  unfold Obligations.CoreIssuesNothing
  intro k hk s vc w hno
  obtain ⟨is, f, hexec⟩ := coreInstructions_onlyIssue k hk vc w s
  rw [hexec]
  refine congrArg _ ?_
  cases hthere : s.vcore? vc with
  | none => exact issue_absent hthere
  | some c =>
    rcases hno with hstopped | hnone | hturn | ⟨c', hc', hno⟩
    · exact issue_stopped hstopped
    · exact absurd (hthere.symm.trans hnone) (by simp)
    · exact issue_held hthere (.inl hturn)
    · obtain rfl : c = c' := Option.some.inj (hthere.symm.trans hc')
      rcases hno with hwait | hcode | hheld | ⟨hwalks, he⟩ | ⟨hfour, he⟩
      · exact issue_held hthere (.inr (.inl hwait))
      · exact issue_held hthere (.inr (.inr (.inl hcode)))
      · exact issue_held hthere (.inr (.inr (.inr hheld)))
      · exact issue_held hthere (.inr (.inr (.inr (interlocked_of_walks hwalks he))))
      · exact issue_held hthere
          (.inr (.inr (.inr (interlocked_of_unfinished (Nat.le_trans hfour (walks_le_unfinished hthere)) he))))

end Sys2Proof.Machine
end

section
/-!
MMA, MOVE and HANDOFF (07 R194 to R201, R207, R209, R212).
-/

namespace Sys2Proof.Machine

section
variable {s : State} {vc : Nat} {w : CoreWord} {c : VCore} (h : Issues s vc w c)
include h

/-- MMA writes its tagged rows and counts its array steps. -/
theorem exec_mma (he : Encodes w 2 0) {a : MmaCtx} (ha : (s.past vc c).mmaCtx c w = some a)
    (hok : (s.past vc c).mmaOk c w = true) : exec (.mma vc w) s =
      .next (((s.past vc c).putRows vc (mLayer w) ((mmaRows c a.v a.t a.x w).map (a.result c.sram w))).countMma vc w
        (mmaModes (mmaRows c a.v a.t a.x w))) := by
  refine congrArg Host.Outcome.next ((issueIn_past h (isOp_of_encodes he) hok _).trans ?_)
  rw [ha]
  rfl

theorem exec_mma_violation (he : Encodes w 2 0) (hok : (s.past vc c).mmaOk c w = false) :
    exec (.mma vc w) s = .next (s.raiseFault (srcCore (s.coreOf vc))) :=
  congrArg Host.Outcome.next (issueIn_violation h (isOp_of_encodes he) hok _)

theorem exec_move_out (he : Encodes w 4 0) (hok : (s.past vc c).moveOk c w = true) (hd : w.getLsbD 119 = true) :
    exec (.moveInstruction vc w) s = .next ((s.past vc c).writeFar (moveArgs c w)
      (readBytes c.sram (xLocal w) (moveArgs c w).bytes)) :=
  congrArg Host.Outcome.next ((issueIn_past h (isOp_of_encodes he) hok _).trans (if_pos hd))

theorem exec_move_in (he : Encodes w 4 0) (hok : (s.past vc c).moveOk c w = true) (hd : w.getLsbD 119 = false) :
    exec (.moveInstruction vc w) s = .next (((s.past vc c).readFar (moveArgs c w)).1.modVcore vc (fun x =>
      { x with sram := writeBytes x.sram (xLocal w) ((s.past vc c).readFar (moveArgs c w)).2 })) :=
  congrArg Host.Outcome.next
    ((issueIn_past h (isOp_of_encodes he) hok _).trans (if_neg (by rw [xToFar, bitAt, hd]; exact Bool.false_ne_true)))

theorem exec_move_violation (he : Encodes w 4 0) (hok : (s.past vc c).moveOk c w = false) :
    exec (.moveInstruction vc w) s = .next (s.raiseFault (srcCore (s.coreOf vc))) :=
  congrArg Host.Outcome.next (issueIn_violation h (isOp_of_encodes he) hok _)

omit h in
/-- HANDOFF by its class and its four operations (Table 7-15). -/
theorem isHandoff (hcls : fieldOf w 127 124 = 7) (hop : fieldOf w 123 120 ≤ 3) :
    (wClass w == 7 && decide (wOp w ≤ 3)) = true := by
  simp only [Bool.and_eq_true, beq_iff_eq, decide_eq_true_eq]
  exact ⟨hcls, hop⟩

theorem exec_handoff (hcls : fieldOf w 127 124 = 7) (hop : fieldOf w 123 120 ≤ 3)
    (hok : (s.past vc c).handoffOk c w = true) : exec (.handoff vc w) s =
      .next { s.past vc c with cores := { (s.past vc c).cores with
        handoffs := (s.past vc c).cores.handoffs ++
          [(vc, fieldOf w 123 120, readBytes c.sram (hSrc w) (64 * hLines w))] } } :=
  congrArg Host.Outcome.next (issueIn_past h (isHandoff hcls hop) hok _)

theorem exec_handoff_violation (hcls : fieldOf w 127 124 = 7) (hop : fieldOf w 123 120 ≤ 3)
    (hok : (s.past vc c).handoffOk c w = false) :
    exec (.handoff vc w) s = .next (s.raiseFault (srcCore (s.coreOf vc))) :=
  congrArg Host.Outcome.next (issueIn_violation h (isHandoff hcls hop) hok _)

end

/-- Settles O12: MMA, MOVE and HANDOFF within bounds do their work, and otherwise are range violations. -/
theorem matrixMoveHandoff : Obligations.MatrixMoveHandoff := by
  unfold Obligations.MatrixMoveHandoff
  exact fun s vc w c h => ⟨fun he a ha hok => exec_mma h he ha hok, exec_mma_violation h, exec_move_out h,
    exec_move_in h, exec_move_violation h, exec_handoff h, exec_handoff_violation h⟩

/-! ### The frame of rows that are written -/

/-- `t` differs from `s` in nothing of these but the program counter of virtual core `vc` and the bytes of the rows in
its core SRAM. -/
def RowsFrame (s : State) (vc : Nat) (c : VCore) (rows : List RowResult) (t : State) : Prop :=
  ∃ d, t.vcore? vc = some d ∧ { d with sram := c.sram } = c.past ∧
    (∀ a, OutsideRows rows a → memGet d.sram a = memGet c.sram a) ∧
    (∀ n, n ≠ vc → t.vcore? n = s.vcore? n) ∧
    t.t2 = s.t2 ∧ t.sync = s.sync ∧ t.sheaf = s.sheaf ∧ t.cmdRings = s.cmdRings ∧ t.cqRings = s.cqRings ∧
    t.link = s.link ∧ t.faults = s.faults ∧ t.power = s.power ∧ t.cores.lofts = s.cores.lofts

theorem rowsFrame_rowsStored (s : State) (vc : Nat) (c : VCore) (rows : List RowResult) :
    RowsFrame s vc c rows ((s.past vc c).rowsStored vc rows) := by
  obtain ⟨hthere, hothers, -, -⟩ := (onlyCore_past s vc c).modVcore
    (fun c => { c with sram := writeRows c.sram (rows.map (fun r => (r.addr, r.bytes))) })
  exact ⟨_, hthere, rfl, fun a ha => memGet_writeRows_out ha c.sram, hothers, rfl, rfl, rfl, rfl, rfl, rfl, rfl, rfl, rfl⟩

/-- The sessions' block is no part of the frame. -/
theorem RowsFrame.of_besideGranary {s t u : State} {vc : Nat} {c : VCore} {rows : List RowResult}
    (h : RowsFrame s vc c rows u) (ht : t.besideGranary = u.besideGranary) : RowsFrame s vc c rows t := by
  have hframe : RowsFrame s vc c rows t.besideGranary := ht ▸ h
  exact hframe

theorem rowsFrame_putRows (s : State) (vc : Nat) (c : VCore) (layer : Nat) (rows : List RowResult) :
    RowsFrame s vc c rows ((s.past vc c).putRows vc layer rows) :=
  (rowsFrame_rowsStored s vc c rows).of_besideGranary (putRows_besideGranary (s.past vc c) vc layer rows)

theorem RowsFrame.drew {s t : State} {vc : Nat} {c : VCore} {rows : List RowResult} (h : RowsFrame s vc c rows t)
    (n : Nat) : RowsFrame s vc c rows (t.drew n) := h

theorem RowsFrame.countMma {s t : State} {vc : Nat} {c : VCore} {rows : List RowResult} (h : RowsFrame s vc c rows t)
    (w : CoreWord) (modes : List RowMode) : RowsFrame s vc c rows (t.countMma vc w modes) := h

/-- Settles O16: a vector instruction and an MMA write their rows, and beside them only counts and drawn values. -/
theorem rowResultsFrame : Obligations.RowResultsFrame := by
  unfold Obligations.RowResultsFrame
  refine fun s vc w c h => ⟨fun x hx hcls hop hok t ht => ?_, fun he a ha hok t ht => ?_⟩
  · obtain rfl := Host.Outcome.next.inj ((exec_vectorRow hx h hcls hop hok).symm.trans ht)
    have hput := rowsFrame_putRows s vc c (fieldOf w 35 20) ((s.past vc c).vecResults x c w)
    dsimp only
    split
    · exact hput.drew _
    · exact hput
  · obtain rfl := Host.Outcome.next.inj ((exec_mma h he ha hok).symm.trans ht)
    exact (rowsFrame_putRows s vc c (mLayer w) _).countMma w _

end Sys2Proof.Machine
end

section
/-!
When an epoch opens (08 R234, R236): what EPOCH_OPEN waits for, and what it then opens.
-/

namespace Sys2Proof.Machine

theorem epochSpanOk_iff (s : State) :
    s.epochSpanOk = true ↔ ∀ u ∈ s.epochs.walks, (s.epochs.epoch + 1 - u).toNat < 2 ^ 30 := by
  simp [State.epochSpanOk]

/-- `s`, its step `o` waiting for the epoch span. -/
def State.spanWaits (s : State) (o : OpenStep) : State :=
  { s with
    step := some { o with spanWait := true },
    epochs := { s.epochs with
      epochStalls := if o.spanWait = true then s.epochs.epochStalls else s.epochs.epochStalls + 1 } }

/-- `s`, its step `o` waiting for the quarantine. -/
def State.quarWaits (s : State) (o : OpenStep) : State :=
  { s with
    step := some { o with quarWait := true },
    epochs := { s.epochs with
      quarStalls := if o.quarWait = true then s.epochs.quarStalls else s.epochs.quarStalls + 1 } }

/-- EPOCH_OPEN with a step whose epoch has not opened, while units act. -/
theorem exec_epochOpen {s : State} {o : OpenStep} (ho : s.step = some o) (he : o.epoch = none)
    (hf : s.faulted = false) (hp : s.power.pstate < 2) : exec .epochOpen s = .next (
      if s.epochSpanOk = true then if 4194304 ≤ s.quarantined then s.quarWaits o else s.setupStep o
      else s.spanWaits o) := by
  show execEpochOpen s = _
  cases hspan : s.epochSpanOk <;>
    simp [execEpochOpen, State.unitsRun, State.spanWaits, State.quarWaits, ho, he, hf, hp, hspan]

/-- What a step's setup makes of `s` beside the sequences that it sets up. -/
structure EpochOpened (s t : State) (o o' : OpenStep) : Prop where
  epoch : t.epochs.epoch = s.epochs.epoch + 1
  step : t.step = some o'
  opened : o'.epoch = some (s.epochs.epoch + 1)
  number : o'.number = o.number
  handoffs : t.cores.handoffs = []

theorem setupStep_opens (s : State) (o : OpenStep) : ∃ o', EpochOpened s (s.setupStep o) o o' :=
  ⟨_, rfl, rfl, rfl, rfl, rfl⟩

/-- Settles O40: the epoch span is asked for first, then the quarantine, and then the step is set up. -/
theorem epochOpens : Obligations.EpochOpens := by
  unfold Obligations.EpochOpens
  refine fun s o ho he hf hp => ⟨fun ⟨u, hu, hfar⟩ => ?_, fun hspan hfull => ?_, fun hspan hroom => ?_⟩
  · have hspan : ¬ s.epochSpanOk = true := fun h => Nat.not_lt.2 hfar ((epochSpanOk_iff s).1 h u hu)
    rw [exec_epochOpen ho he hf hp, if_neg hspan]
    rfl
  · rw [exec_epochOpen ho he hf hp, if_pos ((epochSpanOk_iff s).2 hspan), if_pos hfull]
    rfl
  · obtain ⟨o', hopens⟩ := setupStep_opens s o
    refine ⟨_, o', ?_, hopens.epoch, hopens.step, hopens.opened, hopens.number, hopens.handoffs⟩
    rw [exec_epochOpen ho he hf hp, if_pos ((epochSpanOk_iff s).2 hspan), if_neg (Nat.not_le.2 hroom)]

end Sys2Proof.Machine
end

section
/-!
Windows (11 R336 to R343): what WINDOW_FILL changes in a window, its tenant's host region and companion memory.
-/

namespace Sys2Proof.Machine

/-! ### Host regions -/

theorem lookupD_insertKey_same {κ α : Type} [DecidableEq κ] (l : List (κ × α)) (k : κ) (v d : α) :
    lookupD (insertKey l k v) k d = v := by
  simp [lookupD, insertKey]

theorem lookupD_insertKey_other {κ α : Type} [DecidableEq κ] (l : List (κ × α)) {k j : κ} (h : j ≠ k) (v d : α) :
    lookupD (insertKey l k v) j d = lookupD l j d := by
  have hfilter : (l.filter fun e => decide (e.1 ≠ k)).find? (fun e => decide (e.1 = j)) =
      l.find? (fun e => decide (e.1 = j)) :=
    find?_filter_of_imp (fun e he => by simpa [show e.1 = j by simpa using he] using h) l
  rw [lookupD, insertKey, List.find?_cons_of_neg (by simpa using h.symm), hfilter, lookupD]

theorem hostMem_putHost_same (s : State) (t : Nat) (m : Mem) : (s.putHost t m).hostMem t = m :=
  lookupD_insertKey_same s.tiers.host t m []

theorem hostMem_putHost_other (s : State) {t y : Nat} (h : y ≠ t) (m : Mem) : (s.putHost t m).hostMem y = s.hostMem y :=
  lookupD_insertKey_other s.tiers.host h m []

theorem hostMem_writeHost_same (s : State) (t va : Nat) (bs : List Byte) :
    (s.writeHost t va bs).hostMem t = writeBytes (s.hostMem t) va bs :=
  hostMem_putHost_same s t _

theorem hostMem_writeHost_other (s : State) {t y : Nat} (h : y ≠ t) (va : Nat) (bs : List Byte) :
    (s.writeHost t va bs).hostMem y = s.hostMem y :=
  hostMem_putHost_other s h _

@[simp] theorem length_readBytes (m : Mem) (a n : Nat) : (readBytes m a n).length = n := by
  simp [readBytes]

/-- A range copied from one memory into another reads there as it reads in the first. -/
theorem memGet_copied_in (m src : Mem) (a k n : Nat) {i : Nat} (hi : i < n) :
    memGet (writeBytes m a (readBytes src k n)) (a + i) = memGet src (k + i) := by
  rw [memGet_writeBytes_in _ _ _ _ (by rwa [length_readBytes])]
  simp [readBytes]

theorem memGet_copied_out (m src : Mem) (a k n : Nat) {b : Nat} (h : b < a ∨ a + n ≤ b) :
    memGet (writeBytes m a (readBytes src k n)) b = memGet m b :=
  memGet_writeBytes_out _ _ _ _ (by rwa [length_readBytes])

/-- One byte written over a memory. -/
theorem memGet_writeByte (m : Mem) (a o i : Nat) (v : Byte) :
    memGet (writeBytes m (a + o) [v]) (a + i) = if i = o then v else memGet m (a + i) := by
  by_cases h : i = o
  · subst h
    rw [if_pos rfl]
    exact memGet_writeBytes_in m (a + i) [v] 0 Nat.zero_lt_one
  · rw [if_neg h]
    exact memGet_writeBytes_out m (a + o) [v] (a + i) (by simp only [List.length_singleton]; omega)

/-! ### Windows by number -/

theorem number_of_window? {s : State} {n : Nat} {w : Window} (h : s.window? n = some w) : w.number = n :=
  beq_iff_eq.1 (List.find?_some h :)

theorem window?_modWindow_same {s : State} {n : Nat} {w : Window} (h : s.window? n = some w) {f : Window → Window}
    (hf : ∀ x, (f x).number = x.number) : (s.modWindow n f).window? n = some (f w) := by
  refine (find?_updWhere (p := fun x : Window => x.number == n) (q := fun x => x.number == n)
    (fun x => by rw [hf]) s.tiers.windows).trans ?_
  rw [show s.tiers.windows.find? (fun x => x.number == n) = some w from h]
  simp [number_of_window? h]

/-! ### What leaves host regions and windows alone -/

theorem hostMem_of_tiers {s t : State} (h : t.tiers = s.tiers) (y : Nat) : t.hostMem y = s.hostMem y := by
  rw [State.hostMem, h, State.hostMem]

theorem window?_of_tiers {s t : State} (h : t.tiers = s.tiers) (n : Nat) : t.window? n = s.window? n := by
  rw [State.window?, h, State.window?]

theorem tiers_of_besideLink {s t : State} (h : t.besideLink = s.besideLink) : t.tiers = s.tiers :=
  (congrArg State.tiers h :)

/-- `s` with other pages, and other windows that have left. -/
def State.withPages (s : State) (pages : List Page) (left : List (U32 × Window)) : State :=
  s.modTiers (fun p => { p with pages := pages, leftWindows := left })

theorem hostMem_withPages (s : State) (pages : List Page) (left : List (U32 × Window)) (y : Nat) :
    (s.withPages pages left).hostMem y = s.hostMem y := rfl

theorem mapPages_pages (s : State) (t va n : Nat) (big : Bool) (quad : Nat) (window : Option Nat) :
    ∃ pages left, s.mapPages t va n big quad window = s.withPages pages left := by
  refine foldl_keeps (P := fun u => ∃ pages left, u = s.withPages pages left) ⟨_, _, rfl⟩ ?_
  rintro _ i ⟨pages, left, rfl⟩
  exact ⟨_, left, rfl⟩

/-! ### The bales that a window holds -/

/-- A held bale once an access has used it. -/
def HeldBale.use (h : HeldBale) (time : Nat) (write : Bool) : HeldBale :=
  { h with used := time, dirty := h.dirty || write }

/-- A window once an access has used bale `b`. -/
def Window.use (b : Nat) (write : Bool) (w : Window) : Window :=
  { w with
    clock := w.clock + 1,
    held := updWhere (fun h => h.bale == b) (fun h => h.use (w.clock + 1) write) w.held }

/-- A window that holds bale `b` too. -/
def Window.hold (b : Nat) (w : Window) : Window := { w with held := w.held ++ [HeldBale.mk b false 0] }

theorem updWhere_of_none {α : Type} {p : α → Bool} {l : List α} (h : ∀ x ∈ l, p x = false) (f : α → α) :
    updWhere p f l = l :=
  (List.map_congr_left fun x hx => by rw [h x hx]; rfl).trans (List.map_id l)

/-- A bale that a window did not hold is used last, and the others are as before. -/
theorem held_use_hold {b : Nat} {w : Window} (h : ∀ x ∈ w.held, x.bale ≠ b) (write : Bool) :
    ((w.hold b).use b write).held = w.held ++ [HeldBale.mk b write (w.clock + 1)] := by
  have hothers : updWhere (fun x => x.bale == b) (fun x => x.use (w.clock + 1) write) w.held = w.held :=
    updWhere_of_none (fun x hx => beq_eq_false_iff_ne.2 (h x hx)) _
  have hlast : updWhere (fun x => x.bale == b) (fun x => x.use (w.clock + 1) write) [HeldBale.mk b false 0] =
      [HeldBale.mk b write (w.clock + 1)] := by
    simp [updWhere, HeldBale.use]
  have happend : ((w.hold b).use b write).held =
      updWhere (fun x => x.bale == b) (fun x => x.use (w.clock + 1) write) w.held ++
        updWhere (fun x => x.bale == b) (fun x => x.use (w.clock + 1) write) [HeldBale.mk b false 0] :=
    List.map_append
  rw [happend, hothers, hlast]

/-- An update of held bales that keeps their numbers. -/
theorem map_bale_updWhere {p : HeldBale → Bool} {f : HeldBale → HeldBale} (hf : ∀ x, (f x).bale = x.bale)
    (l : List HeldBale) : (updWhere p f l).map (·.bale) = l.map (·.bale) := by
  rw [updWhere, List.map_map]
  refine List.map_congr_left fun x _ => ?_
  simp only [Function.comp_apply]
  split
  · exact hf x
  · rfl

theorem map_bale_use (b : Nat) (write : Bool) (w : Window) :
    (w.use b write).held.map (·.bale) = w.held.map (·.bale) :=
  map_bale_updWhere (f := fun h => h.use (w.clock + 1) write) (fun _ => rfl) w.held

/-! ### A bale fetched -/

/-- `s` with `bytes` as bale `b` in the tenant's host region, in a frame of its own, and the bale's lines asked for. -/
def State.copyBale (s : State) (w : Window) (b : Nat) (bytes : List Byte) : State :=
  ((s.mapPages w.tenant (w.va + 65536 * b) 1 false 255 (some w.number)).writeHost w.tenant (w.va + 65536 * b)
    bytes).readSources [(w.t2 + 65536 * b, 65536)]

theorem copyBale_tiers (s : State) (w : Window) (b : Nat) (bytes : List Byte) : ∃ pages left,
    (s.copyBale w b bytes).tiers =
      ((s.withPages pages left).writeHost w.tenant (w.va + 65536 * b) bytes).tiers := by
  obtain ⟨pages, left, hpages⟩ := mapPages_pages s w.tenant (w.va + 65536 * b) 1 false 255 (some w.number)
  refine ⟨pages, left, ?_⟩
  rw [State.copyBale, hpages]
  exact tiers_of_besideLink (readSources_besideLink _ _)

theorem copyBale_t2 (s : State) (w : Window) (b : Nat) (bytes : List Byte) : (s.copyBale w b bytes).t2 = s.t2 := by
  obtain ⟨pages, left, hpages⟩ := mapPages_pages s w.tenant (w.va + 65536 * b) 1 false 255 (some w.number)
  rw [State.copyBale, hpages]
  exact (readSources_frame _ _).1

/-- The window holds bale `b` too, and the fill is counted. -/
def State.countFill (s : State) (w : Window) (b : Nat) : State :=
  (s.modWindow w.number (Window.hold b)).modTiers (fun p => { p with fills := s.tiers.fills + 1 })

section
variable (s : State) (w : Window) (b : Nat)

@[simp] theorem countFill_fills : (s.countFill w b).tiers.fills = s.tiers.fills + 1 := rfl
@[simp] theorem countFill_writebacks : (s.countFill w b).tiers.writebacks = s.tiers.writebacks := rfl
@[simp] theorem countFill_t2 : (s.countFill w b).t2 = s.t2 := rfl
@[simp] theorem hostMem_countFill (y : Nat) : (s.countFill w b).hostMem y = s.hostMem y := rfl

end

theorem countFill_window {s : State} {w x : Window} (b : Nat) (hx : s.window? w.number = some x) :
    (s.countFill w b).window? w.number = some (x.hold b) :=
  window?_modWindow_same (f := Window.hold b) hx (fun _ => rfl)

/-- `t` is `s` with bale `b` of window `w`, the bytes `bytes`, fetched. -/
structure Fetched (s : State) (w : Window) (b : Nat) (bytes : List Byte) (t : State) : Prop where
  fills : t.tiers.fills = s.tiers.fills + 1
  writebacks : t.tiers.writebacks = s.tiers.writebacks
  t2 : t.t2 = s.t2
  window : ∀ x, s.window? w.number = some x → t.window? w.number = some (x.hold b)
  host : t.hostMem w.tenant = writeBytes (s.hostMem w.tenant) (w.va + 65536 * b) bytes
  others : ∀ y, y ≠ w.tenant → t.hostMem y = s.hostMem y

theorem countFill_copyBale_fetched (s : State) (w : Window) (b : Nat) (bytes : List Byte) :
    Fetched s w b bytes ((s.copyBale w b bytes).countFill w b) := by
  obtain ⟨pages, left, htiers⟩ := copyBale_tiers s w b bytes
  have hhost := hostMem_of_tiers htiers
  refine ⟨?_, ?_, ?_, fun x hx => ?_, ?_, fun y hy => ?_⟩
  · rw [countFill_fills, htiers]
    rfl
  · rw [countFill_writebacks, htiers]
    rfl
  · rw [countFill_t2, copyBale_t2]
  · exact countFill_window b ((window?_of_tiers htiers w.number).trans hx)
  · rw [hostMem_countFill, hhost, hostMem_writeHost_same, hostMem_withPages]
  · rw [hostMem_countFill, hhost, hostMem_writeHost_other _ hy, hostMem_withPages]

/-! ### A bale evicted -/

/-- The second half of an eviction: bale `b`, of `n` bytes, leaves the host region, the window and the pages. -/
def State.dropBale (s : State) (w : Window) (b n : Nat) : State :=
  let t := (s.putHost w.tenant (clearRange (s.hostMem w.tenant) (w.va + 65536 * b) n)).modWindow w.number
    (fun x => { x with held := x.held.filter (fun y => y.bale != b) })
  t.modTiers (fun p => { p with
    pages := t.tiers.pages.filter (fun p =>
      !(p.window == some w.number && p.va == w.va + 65536 * b && p.left.isNone)) })

theorem evict_eq (s : State) (w : Window) (h : HeldBale) :
    s.evict w h = (if h.dirty = true then s.writeBack w h.bale else s).dropBale w h.bale 65536 := rfl

section
variable (s : State) (w : Window) (b n : Nat)

@[simp] theorem dropBale_fills : (s.dropBale w b n).tiers.fills = s.tiers.fills := rfl
@[simp] theorem dropBale_writebacks : (s.dropBale w b n).tiers.writebacks = s.tiers.writebacks := rfl
@[simp] theorem dropBale_t2 : (s.dropBale w b n).t2 = s.t2 := rfl

end

theorem dropBale_window {s : State} {w x : Window} (b n : Nat) (hx : s.window? w.number = some x) :
    (s.dropBale w b n).window? w.number = some { x with held := x.held.filter (fun y => y.bale != b) } :=
  window?_modWindow_same (f := fun x => { x with held := x.held.filter (fun y => y.bale != b) }) hx (fun _ => rfl)

/-- A window whose held bale `b` is no longer dirty. -/
def Window.clean (b : Nat) (w : Window) : Window :=
  { w with held := updWhere (fun h => h.bale == b) (fun (h : HeldBale) => { h with dirty := false }) w.held }

theorem map_bale_clean (b : Nat) (w : Window) : (w.clean b).held.map (·.bale) = w.held.map (·.bale) :=
  map_bale_updWhere (f := fun h => { h with dirty := false }) (fun _ => rfl) w.held

/-- The held bale is no longer dirty, and the write-back is counted. -/
def State.countBack (s : State) (w : Window) (b : Nat) : State :=
  let t := s.modWindow w.number (Window.clean b)
  t.modTiers (fun p => { p with writebacks := t.tiers.writebacks + 1 })

theorem writeBack_eq (s : State) (w : Window) (b : Nat) : s.writeBack w b =
    (s.writeT2 (w.t2 + 65536 * b) (readBytes (s.hostMem w.tenant) (w.va + 65536 * b) 65536)).countBack w b := rfl

section
variable (s : State) (w : Window) (b : Nat)

@[simp] theorem countBack_fills : (s.countBack w b).tiers.fills = s.tiers.fills := rfl
@[simp] theorem countBack_writebacks : (s.countBack w b).tiers.writebacks = s.tiers.writebacks + 1 := rfl
@[simp] theorem countBack_t2 : (s.countBack w b).t2 = s.t2 := rfl

end

theorem countBack_window {s : State} {w x : Window} (b : Nat) (hx : s.window? w.number = some x) :
    (s.countBack w b).window? w.number = some (x.clean b) :=
  window?_modWindow_same (f := Window.clean b) hx (fun _ => rfl)

theorem writeT2_tiers (s : State) (a : Nat) (bs : List Byte) : (s.writeT2 a bs).tiers = s.tiers :=
  tiers_of_besideLink (writeT2_besideLink s a bs)

theorem map_bale_filter_ne (b : Nat) (l : List HeldBale) :
    (l.filter (fun x => x.bale != b)).map (·.bale) = (l.map (·.bale)).filter (· != b) :=
  (List.filter_map (f := HeldBale.bale) (p := (· != b))).symm

/-- The companion memory once bale `b` is written back: the bytes of the tenant's host region stand in its place. -/
def State.t2WithBale (s : State) (w : Window) (b : Nat) : Mem :=
  writeBytes s.t2 (w.t2 + 65536 * b) (readBytes (s.hostMem w.tenant) (w.va + 65536 * b) 65536)

/-- `t` is `s` with the held bale `h` of window `w` dropped, once it is written back where it is dirty. -/
structure Evicted (s : State) (w : Window) (h : HeldBale) (t : State) : Prop where
  fills : t.tiers.fills = s.tiers.fills
  writebacks : t.tiers.writebacks = if h.dirty = true then s.tiers.writebacks + 1 else s.tiers.writebacks
  t2 : t.t2 = if h.dirty = true then s.t2WithBale w h.bale else s.t2
  window : ∀ x, s.window? w.number = some x → ∃ y, t.window? w.number = some y ∧
    y.held.map (·.bale) = (x.held.filter (fun z => z.bale != h.bale)).map (·.bale)

theorem evict_evicted (s : State) (w : Window) (h : HeldBale) : Evicted s w h (s.evict w h) := by
  rw [evict_eq]
  cases hd : h.dirty with
  | false => exact ⟨rfl, by simp [hd], by simp [hd], fun x hx => ⟨_, dropBale_window _ _ hx, rfl⟩⟩
  | true =>
    rw [if_pos rfl, writeBack_eq]
    refine ⟨?_, ?_, ?_, fun x hx => ⟨_, dropBale_window _ _ (countBack_window (x := x) _ ?_), ?_⟩⟩
    · rw [dropBale_fills, countBack_fills, writeT2_tiers]
    · rw [dropBale_writebacks, countBack_writebacks, writeT2_tiers, if_pos hd]
    · rw [dropBale_t2, countBack_t2, writeT2_t2, if_pos hd, State.t2WithBale]
    · exact (window?_of_tiers (writeT2_tiers _ _ _) _).trans hx
    · rw [map_bale_filter_ne, map_bale_filter_ne]
      exact congrArg _ (map_bale_clean h.bale x)

/-! ### WINDOW_FILL -/

theorem fillBale_room {s : State} {w : Window} (h : w.held.length < w.frames) (b : Nat) : s.fillBale w b =
    (s.copyBale w b (readBytes s.t2 (w.t2 + 65536 * b) 65536)).countFill w b := by
  rw [State.fillBale, if_neg (Nat.not_le.2 h)]
  rfl

theorem fillBale_full {s : State} {w : Window} {h : HeldBale} (hfull : w.frames ≤ w.held.length)
    (hv : w.victim = some h) (b : Nat) : s.fillBale w b =
    ((s.evict w h).copyBale w b (readBytes (s.evict w h).t2 (w.t2 + 65536 * b) 65536)).countFill w b := by
  rw [State.fillBale, if_pos hfull, hv]
  rfl

/-- `s` once a program's access has used a bale that window `w` holds: the bale is marked, and the byte that the access
writes, if any, stands in the host region. -/
def State.access (s : State) (w : Window) (b : Nat) (write : Option (Nat × Byte)) : State :=
  let t := s.modWindow w.number (Window.use b write.isSome)
  match write with
  | none => t
  | some x => t.writeHost w.tenant (w.va + 65536 * b + x.1 % 65536) [x.2]

section
variable (s : State) (w : Window) (b : Nat) (write : Option (Nat × Byte))

@[simp] theorem access_fills : (s.access w b write).tiers.fills = s.tiers.fills := by cases write <;> rfl
@[simp] theorem access_writebacks : (s.access w b write).tiers.writebacks = s.tiers.writebacks := by
  cases write <;> rfl
@[simp] theorem access_t2 : (s.access w b write).t2 = s.t2 := by cases write <;> rfl

theorem access_window {s : State} {w x : Window} (hx : s.window? w.number = some x) :
    (s.access w b write).window? w.number = some (x.use b write.isSome) := by
  have huse : (s.modWindow w.number (Window.use b write.isSome)).window? w.number = _ :=
    window?_modWindow_same hx (fun _ => rfl)
  cases write <;> exact huse

end

section
variable (s : State) (w : Window) (b o : Nat) (v : Byte)

theorem hostMem_access_same : (s.access w b (some (o, v))).hostMem w.tenant =
    writeBytes (s.hostMem w.tenant) (w.va + 65536 * b + o % 65536) [v] :=
  hostMem_writeHost_same (s.modWindow w.number (Window.use b true)) w.tenant _ [v]

theorem hostMem_access_other {y : Nat} (hy : y ≠ w.tenant) :
    (s.access w b (some (o, v))).hostMem y = s.hostMem y :=
  hostMem_writeHost_other (s.modWindow w.number (Window.use b true)) hy _ [v]

end

/-- The byte that a program writes stands over the bytes that the bale came with. -/
theorem memGet_stored (m src : Mem) (a k o i : Nat) (v : Byte) (hi : i < 65536) :
    memGet (writeBytes (writeBytes m a (readBytes src k 65536)) (a + o % 65536) [v]) (a + i) =
      if i = o % 65536 then v else memGet src (k + i) := by
  rw [memGet_writeByte, memGet_copied_in _ _ _ _ _ hi]

section
variable {s : State} {b : Nat} {w : Window} (hw : s.window? w.number = some w)
include hw

theorem exec_windowFill_nothing (h : s.faulted = true ∨ w.bales ≤ b) (write : Option (Nat × Byte)) :
    exec (.windowFill w.number b write) s = .next s := by
  show execWindowFill w.number b write s = _
  rw [execWindowFill, hw]
  exact congrArg _ (if_pos (by simpa using h))

theorem exec_windowFill (hf : s.faulted = false) (hb : b < w.bales) (write : Option (Nat × Byte)) :
    exec (.windowFill w.number b write) s =
      .next ((if ∃ x ∈ w.held, x.bale = b then s else s.fillBale w b).access w b write) := by
  have hany : (w.held.any (fun x => x.bale == b) = true) = ∃ x ∈ w.held, x.bale = b := by simp
  show execWindowFill w.number b write s = _
  rw [execWindowFill, hw]
  refine congrArg _ ((if_neg (by simp [hf, hb])).trans ?_)
  rw [State.touchBale, hw]
  simp only [hany]
  cases write <;> rfl

theorem exec_windowFill_held (hf : s.faulted = false) (hb : b < w.bales) (hheld : ∃ x ∈ w.held, x.bale = b)
    (write : Option (Nat × Byte)) : exec (.windowFill w.number b write) s = .next (s.access w b write) := by
  rw [exec_windowFill hw hf hb, if_pos hheld]

theorem exec_windowFill_missing (hf : s.faulted = false) (hb : b < w.bales) (hmiss : ∀ x ∈ w.held, x.bale ≠ b)
    (write : Option (Nat × Byte)) :
    exec (.windowFill w.number b write) s = .next ((s.fillBale w b).access w b write) := by
  rw [exec_windowFill hw hf hb, if_neg fun ⟨x, hx, hxb⟩ => hmiss x hx hxb]

end

/-- What a fill that finds a frame makes of `s`. -/
theorem fillBale_fetched {s : State} {w : Window} (h : w.held.length < w.frames) (b : Nat) :
    Fetched s w b (readBytes s.t2 (w.t2 + 65536 * b) 65536) (s.fillBale w b) := by
  rw [fillBale_room h]
  exact countFill_copyBale_fetched s w b _

/-- A fill that finds every frame taken evicts the victim first. -/
theorem fillBale_evicts {s : State} {w : Window} {h : HeldBale} (hfull : w.frames ≤ w.held.length)
    (hv : w.victim = some h) (b : Nat) : ∃ u bytes, Evicted s w h u ∧ Fetched u w b bytes (s.fillBale w b) := by
  rw [fillBale_full hfull hv]
  exact ⟨_, _, evict_evicted s w h, countFill_copyBale_fetched _ w b _⟩

end Sys2Proof.Machine
end

section
/-!
Quarantine releases, tally time-outs and window fills (08 R235; 14 R408; 11 R336 to R343).
-/

namespace Sys2Proof.Machine

/-! ### QUARANTINE_RELEASE -/

/-- A bale of quarantine that the end of epoch `e`'s walks frees: it left in that epoch or an older one, of which no walk
that old is unretired (R235). -/
def State.Frees (s : State) (e : U32) (q : Quarantined) : Prop :=
  (e - q.epoch).toNat < 2 ^ 31 ∧ ∀ w ∈ s.epochs.walks, ¬ (q.epoch - w).toNat < 2 ^ 31

theorem mem_releaseQuarantine (s : State) (e : U32) (q : Quarantined) :
    q ∈ (s.releaseQuarantine e).epochs.quarantine ↔ q ∈ s.epochs.quarantine ∧ ¬ s.Frees e q := by
  simp only [State.releaseQuarantine, State.Frees, epochLe, List.mem_filter, Bool.not_eq_true', ← Bool.not_eq_true,
    Bool.and_eq_true, decide_eq_true_eq, List.any_eq_true, not_exists, not_and]

/-! ### TALLY_TIMEOUT -/

theorem timesOut_record {s : State} {ring : Nat} {seq : U32} {id ms : Nat} (hms : ms ≠ 0)
    (hrun : (s.running? id).any (fun r => r.record.ring == ring && r.record.seq == seq) = true) :
    s.timesOut ring seq (.record id ms) = true := by
  simp [State.timesOut, hms, hrun]

/-- The first wait that times out leaves the queue, and its record completes. -/
theorem exec_tallyTimeout {s : State} {n ring : Nat} {seq : U32} {id ms : Nat} {before after : List Waiter}
    (hq : (s.tally n).waiters = before ++ .record id ms :: after)
    (hbefore : ∀ w ∈ before, s.timesOut ring seq w = false) (hout : s.timesOut ring seq (.record id ms) = true) :
    exec (.tallyTimeout n ring seq) s = .next ((s.putTally { s.tally n with waiters := before ++ after }).completeId
      id stTallyTimeout []) := by
  have hfind : (s.tally n).waiters.find? (s.timesOut ring seq) = some (.record id ms) :=
    List.find?_eq_some_iff_append.2 ⟨hout, before, after, hq, fun w hw => by rw [hbefore w hw]; rfl⟩
  have herase : (s.tally n).waiters.erase (.record id ms) = before ++ after := by
    rw [hq, List.erase_append_right _ (fun hm => Bool.false_ne_true ((hbefore _ hm).symm.trans hout)),
      List.erase_cons_head]
  show execTallyTimeout n ring seq s = _
  simp only [execTallyTimeout, hfind, herase]
  rfl

theorem exec_tallyTimeout_nothing {s : State} {n ring : Nat} {seq : U32}
    (h : ∀ w ∈ (s.tally n).waiters, s.timesOut ring seq w = false) :
    exec (.tallyTimeout n ring seq) s = .next s := by
  have hfind : (s.tally n).waiters.find? (s.timesOut ring seq) = none :=
    List.find?_eq_none.2 fun w hw => by simp [h w hw]
  show execTallyTimeout n ring seq s = _
  simp only [execTallyTimeout, hfind]

/-! ### WINDOW_FILL -/

/-- What is held once a bale that is held has been read or written. -/
theorem Window.use_eq (w : Window) (b : Nat) (write : Bool) : w.use b write = { w with
    clock := w.clock + 1,
    held := w.held.map (fun x =>
      if x.bale = b then { x with used := w.clock + 1, dirty := x.dirty || write } else x) } := by
  simp [Window.use, updWhere, HeldBale.use]

/-- An access that fetches its bale into a state `u`. -/
theorem access_fetched {u t : State} {w y : Window} {b : Nat} {bytes : List Byte} (h : Fetched u w b bytes t)
    (hy : u.window? w.number = some y) (write : Option (Nat × Byte)) :
    (t.access w b write).tiers.fills = u.tiers.fills + 1 ∧
    (t.access w b write).tiers.writebacks = u.tiers.writebacks ∧ (t.access w b write).t2 = u.t2 ∧
    (t.access w b write).window? w.number = some ((y.hold b).use b write.isSome) :=
  ⟨by rw [access_fills, h.fills], by rw [access_writebacks, h.writebacks], by rw [access_t2, h.t2],
    access_window b write (h.window y hy)⟩

/-- What a write-back puts into companion memory. -/
theorem Evicted.memGet_dirty {s t : State} {w : Window} {h : HeldBale} (he : Evicted s w h t) (hd : h.dirty = true) :
    (∀ i, i < 65536 →
      memGet t.t2 (w.t2 + 65536 * h.bale + i) = memGet (s.hostMem w.tenant) (w.va + 65536 * h.bale + i)) ∧
    ∀ a, a < w.t2 + 65536 * h.bale ∨ w.t2 + 65536 * h.bale + 65536 ≤ a → memGet t.t2 a = memGet s.t2 a := by
  rw [he.t2, if_pos hd, State.t2WithBale]
  exact ⟨fun i hi => memGet_copied_in _ _ _ _ _ hi, fun a ha => memGet_copied_out _ _ _ _ _ ha⟩

/-- Settles O43: a release filters the quarantine, a time-out takes the first wait that it names, and a fill is a bale
fetched into a frame that is free or that an eviction frees. -/
theorem releasesAndTimeouts : Obligations.ReleasesAndTimeouts := by
  unfold Obligations.ReleasesAndTimeouts
  refine ⟨fun s e => ⟨s.releaseQuarantine e, rfl, rfl, mem_releaseQuarantine s e⟩,
    fun s n ring seq id ms before after hq hbefore hms hrun =>
      exec_tallyTimeout hq hbefore (timesOut_record hms hrun),
    fun s n ring seq h => exec_tallyTimeout_nothing h, ?_, ?_, ?_, ?_, ?_, ?_⟩
  · intro s n b w write hw h
    obtain rfl := number_of_window? hw
    exact exec_windowFill_nothing hw h write
  · intro s n b w h hw hf hb hh hhb
    obtain rfl := number_of_window? hw
    refine ⟨_, exec_windowFill_held hw hf hb ⟨h, hh, hhb⟩ none, ?_, rfl, rfl, rfl⟩
    simp [access_window b none hw, Window.use_eq]
  · intro s n b w hw hf hb hmiss hroom
    obtain rfl := number_of_window? hw
    obtain ⟨hfills, -, ht2, hwindow⟩ := access_fetched (fillBale_fetched hroom b) hw none
    exact ⟨_, _, exec_windowFill_missing hw hf hb hmiss none, hfills, hwindow, held_use_hold hmiss false, ht2⟩
  · intro s n b o v w h hw hf hb hh hhb
    obtain rfl := number_of_window? hw
    refine ⟨_, exec_windowFill_held hw hf hb ⟨h, hh, hhb⟩ (some (o, v)), ?_, hostMem_access_same s w b o v,
      fun y hy => hostMem_access_other s w b o v hy, rfl, rfl⟩
    simp [access_window b (some (o, v)) hw, Window.use_eq]
  · intro s n b o v w hw hf hb hmiss hroom
    obtain rfl := number_of_window? hw
    have hfetched := fillBale_fetched (s := s) hroom b
    obtain ⟨hfills, -, ht2, hwindow⟩ := access_fetched hfetched hw (some (o, v))
    refine ⟨_, _, exec_windowFill_missing hw hf hb hmiss (some (o, v)), hfills, hwindow, held_use_hold hmiss true, ht2,
      fun i hi => ?_, fun y hy => ?_⟩
    · rw [hostMem_access_same, hfetched.host]
      exact memGet_stored _ _ _ _ _ _ _ hi
    · rw [hostMem_access_other _ _ _ _ _ hy, hfetched.others y hy]
  · intro s n b write w h hw hf hb hmiss hfull hv
    obtain rfl := number_of_window? hw
    obtain ⟨u, bytes, hevicted, hfetched⟩ := fillBale_evicts (s := s) hfull hv b
    obtain ⟨y, hy, hheld⟩ := hevicted.window w hw
    obtain ⟨hfills, hwritebacks, ht2, hwindow⟩ := access_fetched hfetched hy write
    refine ⟨_, (y.hold b).use b write.isSome, exec_windowFill_missing hw hf hb hmiss write,
      hfills.trans (congrArg (· + 1) hevicted.fills), hwindow, ?_, hwritebacks.trans hevicted.writebacks, ?_, ?_⟩
    · rw [map_bale_use, Window.hold, List.map_append, hheld]
      rfl
    · rw [ht2]
      exact hevicted.memGet_dirty
    · intro hd
      rw [ht2, hevicted.t2, hd]
      rfl

end Sys2Proof.Machine
end

section
/-!
ATTEND (07 R204; 08 R227 to R230): what it appends, when it walks, and what an unfinished walk waits for.
-/

namespace Sys2Proof.Machine

/-! ### Appending changes the sessions' block alone -/

theorem appendOne_besideGranary (a : AttCtx) (sram : Mem) (w : CoreWord) (r : AttRow) (s : State) (values : Nat) :
    (State.appendOne a sram w r s values).besideGranary = s.besideGranary := by
  unfold State.appendOne
  dsimp only
  split
  · rfl
  · exact noteNarrow_besideGranary _ _ _ _ _

theorem appendRow_besideGranary (a : AttCtx) (sram : Mem) (w : CoreWord) (s : State) (r : AttRow) :
    (State.appendRow a sram w s r).besideGranary = s.besideGranary :=
  foldl_keeps (P := fun t => t.besideGranary = s.besideGranary) rfl
    (fun t values h => (appendOne_besideGranary a sram w r t values).trans h)

/-- `s` once an ATTEND has appended its rows, where it appends. -/
def State.appended (s : State) (c : VCore) (a : AttCtx) (w : CoreWord) : State :=
  if w.getLsbD 119 then (s.attRows c a w).foldl (State.appendRow a c.sram w) s else s

theorem appended_besideGranary (s : State) (c : VCore) (a : AttCtx) (w : CoreWord) :
    (s.appended c a w).besideGranary = s.besideGranary := by
  unfold State.appended
  split
  · exact foldl_keeps (P := fun t => t.besideGranary = s.besideGranary) rfl
      (fun t r h => (appendRow_besideGranary a c.sram w t r).trans h)
  · rfl

theorem vcore?_of_besideGranary {s t : State} (h : t.besideGranary = s.besideGranary) (vc : Nat) :
    t.vcore? vc = s.vcore? vc :=
  (congrArg (·.vcore? vc) h :)

theorem epochs_of_besideGranary {s t : State} (h : t.besideGranary = s.besideGranary) : t.epochs = s.epochs :=
  (congrArg State.epochs h :)

theorem vcore?_appended_past (s : State) (vc : Nat) (c : VCore) (a : AttCtx) (w : CoreWord) :
    ((s.past vc c).appended c a w).vcore? vc = some c.past :=
  (vcore?_of_besideGranary (appended_besideGranary _ c a w) vc).trans (vcore?_passed_same s vc c)

/-! ### Walking -/

/-- Every row's key positions are there. -/
def State.walkReady (s : State) (c : VCore) (a : AttCtx) (w : CoreWord) : Bool :=
  (s.attRows c a w).all (s.rowReady a w)

/-- `s` with the walk of `w` unfinished in virtual core `vc`, for the present epoch. -/
def State.leftWalking (s : State) (vc : Nat) (w : CoreWord) : State :=
  let t := s.modVcore vc (fun c => { c with walks := c.walks ++ [w] })
  { t with epochs := { t.epochs with walks := t.epochs.walks ++ [t.epochs.epoch] } }

/-- `s` with the walk of `w` in virtual core `vc` no longer unfinished. -/
def State.walkEnded (s : State) (vc : Nat) (w : CoreWord) : State :=
  let t := s.modVcore vc (fun c => { c with walks := c.walks.erase w })
  { t with epochs := { t.epochs with walks := t.epochs.walks.erase t.epochs.epoch } }

section
variable {s : State} {vc : Nat} {c : VCore} (hc : s.vcore? vc = some c) (w : CoreWord)
include hc

theorem vcore?_leftWalking : (s.leftWalking vc w).vcore? vc = some { c with walks := c.walks ++ [w] } :=
  vcore?_modVcore_same hc (fun c => { c with walks := c.walks ++ [w] })

theorem vcore?_walkEnded : (s.walkEnded vc w).vcore? vc = some { c with walks := c.walks.erase w } :=
  vcore?_modVcore_same hc (fun c => { c with walks := c.walks.erase w })

end

theorem leftWalking_walks (s : State) (vc : Nat) (w : CoreWord) :
    (s.leftWalking vc w).epochs.walks = s.epochs.walks ++ [s.epochs.epoch] := rfl

theorem walkEnded_rowsWalked (s : State) (vc : Nat) (w : CoreWord) :
    (s.walkEnded vc w).epochs.rowsWalked = s.epochs.rowsWalked := rfl

theorem walkOrWait_ready {s : State} {vc : Nat} {c : VCore} {a : AttCtx} {w : CoreWord}
    (h : s.walkReady c a w = true) : s.walkOrWait vc c a w = s.walkRows vc c a w (s.attRows c a w) :=
  if_pos h

theorem walkOrWait_waits {s : State} {vc : Nat} {c : VCore} {a : AttCtx} {w : CoreWord}
    (h : s.walkReady c a w = false) : s.walkOrWait vc c a w = s.leftWalking vc w :=
  if_neg (Bool.eq_false_iff.1 h)

/-- A walk leaves the unfinished walks of its virtual core as they are, and counts its rows. -/
theorem walkRows_walks {s : State} {vc : Nat} {c d : VCore} (hc : s.vcore? vc = some d) (a : AttCtx) (w : CoreWord)
    (rows : List AttRow) : ∃ x, (s.walkRows vc c a w rows).vcore? vc = some x ∧ x.walks = d.walks ∧
      (s.walkRows vc c a w rows).epochs.rowsWalked = s.epochs.rowsWalked + BitVec.ofNat 64 rows.length := by
  have hput := putRows_besideGranary s vc (aLayer w) (rows.map (s.walkRow a c.sram w))
  refine ⟨_, (vcore?_of_besideGranary hput vc).trans (vcore?_modVcore_same hc _), rfl, ?_⟩
  exact congrArg (·.rowsWalked + BitVec.ofNat 64 rows.length) (epochs_of_besideGranary hput)

/-! ### The instruction -/

section
variable {s : State} {vc : Nat} {w : CoreWord} {c : VCore}

theorem exec_attend_held (h : s.appendHeld vc w = true) : exec (.attend vc w) s = .next s := by
  refine congrArg Host.Outcome.next ?_
  rw [h, Bool.not_true, Bool.and_false, State.issueIn, State.issue]
  split <;> simp

variable (h : Issues s vc w c) (he : Encodes w 6 0) (hheld : s.appendHeld vc w = false)
include he hheld

omit h in
/-- The instruction is an ATTEND that no unfinished walk holds back. -/
theorem attend_issues : (isOp w 6 0 && !s.appendHeld vc w) = true := by
  rw [isOp_of_encodes he, hheld]
  rfl

include h

theorem exec_attend_violation (hok : (s.past vc c).attendOk c w = false) :
    exec (.attend vc w) s = .next (s.raiseFault (srcCore (s.coreOf vc))) :=
  congrArg Host.Outcome.next (issueIn_violation h (attend_issues he hheld) hok _)

/-- Within bounds it appends its rows, and then walks or leaves the walk unfinished. -/
theorem exec_attend {a : AttCtx} (ha : (s.past vc c).attCtx c w = some a) (hok : (s.past vc c).attendOk c w = true) :
    exec (.attend vc w) s = .next (
      let v := (s.past vc c).appended c a w
      if w.getLsbD 118 then v.walkOrWait vc c a w else v) := by
  refine congrArg Host.Outcome.next ((issueIn_past h (attend_issues he hheld) hok _).trans ?_)
  rw [ha]
  rfl

end

/-! ### WRITTEN_THROUGH_MARK and WALK_WAIT_TIMEOUT -/

section
variable {s : State} {vc : Nat} {c : VCore} (hc : s.vcore? vc = some c)
include hc

/-- A walk whose rows' key positions are there goes on, and is then no longer unfinished. -/
theorem resumeWalk_ready {w : CoreWord} {a : AttCtx} (ha : s.attCtx c w = some a) (h : s.walkReady c a w = true) :
    ∃ x, (s.resumeWalk vc w).vcore? vc = some x ∧ x.walks = c.walks.erase w ∧
      (s.resumeWalk vc w).epochs.rowsWalked =
        s.epochs.rowsWalked + BitVec.ofNat 64 (s.attRows c a w).length := by
  obtain ⟨x, hx, hwalks, hcount⟩ := walkRows_walks (c := c) hc a w (s.attRows c a w)
  have hgoes : s.resumeWalk vc w = (s.walkRows vc c a w (s.attRows c a w)).walkEnded vc w := by
    rw [State.resumeWalk, hc]
    simp only [ha]
    exact if_pos h
  rw [hgoes, walkEnded_rowsWalked]
  exact ⟨_, vcore?_walkEnded hx w, by rw [hwalks], hcount⟩

theorem resumeWalk_waits {w : CoreWord} (h : ∀ a, s.attCtx c w = some a → s.walkReady c a w = false) :
    s.resumeWalk vc w = s := by
  rw [State.resumeWalk, hc]
  cases ha : s.attCtx c w with
  | none => simp only [ha]
  | some a =>
    simp only [ha]
    exact if_neg (Bool.eq_false_iff.1 (h a ha))

theorem exec_writtenThroughMark : exec (.writtenThroughMark vc) s =
    .next (if s.coresRun then c.walks.foldl (State.resumeWalk vc) s else s) := by
  show execWrittenThroughMark vc s = _
  rw [execWrittenThroughMark, hc]

theorem exec_writtenThroughMark_waits
    (h : ∀ w ∈ c.walks, ∀ a, s.attCtx c w = some a → s.walkReady c a w = false) :
    exec (.writtenThroughMark vc) s = .next s := by
  have hfold : ∀ l ⊆ c.walks, l.foldl (State.resumeWalk vc) s = s := by
    intro l hl
    induction l with
    | nil => rfl
    | cons w l ih =>
      rw [List.foldl_cons, resumeWalk_waits hc (h w (hl List.mem_cons_self))]
      exact ih (List.subset_of_cons_subset hl)
  rw [exec_writtenThroughMark hc, hfold _ (List.Subset.refl _), ite_self]

theorem exec_walkWaitTimeout_fault (hw : c.walks ≠ []) (hp : s.power.pstate ≠ 2) :
    exec (.walkWaitTimeout vc) s = .next (s.raiseFault (srcCore (s.coreOf vc))) := by
  refine congrArg Host.Outcome.next (if_neg ?_)
  rw [vcore_of_there hc]
  simp [hw, hp]

theorem exec_walkWaitTimeout_nothing (h : c.walks = [] ∨ s.power.pstate = 2) :
    exec (.walkWaitTimeout vc) s = .next s := by
  refine congrArg Host.Outcome.next (if_pos ?_)
  rw [vcore_of_there hc]
  simpa using h

end

/-- Settles O14: an ATTEND that issues appends and then walks or waits, and the marks let a walk that waits go on. -/
theorem attentionWalk : Obligations.AttentionWalk := by
  unfold Obligations.AttentionWalk
  refine fun s vc w c => ⟨fun _ _ hheld => exec_attend_held hheld, fun h he hheld =>
    ⟨exec_attend_violation h he hheld, fun a ha hok => ⟨fun hno => ?_, fun hwalk hready => ?_, fun hwalk hwaits => ?_⟩⟩,
    fun hc hwalks hruns a ha hready => ?_, exec_writtenThroughMark_waits, exec_walkWaitTimeout_fault,
    exec_walkWaitTimeout_nothing⟩
  · rw [exec_attend h he hheld ha hok, hno]
    rfl
  · rw [exec_attend h he hheld ha hok, hwalk]
    exact congrArg _ (walkOrWait_ready hready)
  · refine ⟨((s.past vc c).appended c a w).leftWalking vc w, ?_,
      vcore?_leftWalking (vcore?_appended_past s vc c a w) w, leftWalking_walks _ vc w⟩
    rw [exec_attend h he hheld ha hok, hwalk]
    exact congrArg _ (walkOrWait_waits hwaits)
  · obtain ⟨x, hx, hleft, hcount⟩ := resumeWalk_ready hc ha hready
    refine ⟨_, x, ?_, hx, by rw [hleft, hwalks, List.erase_cons_head], hcount⟩
    rw [exec_writtenThroughMark hc, hruns, hwalks]
    rfl

end Sys2Proof.Machine
end

section
/-!
The slowdown window (09 R277): what its end does to the tenants, the causes and the job.
-/

namespace Sys2Proof.Machine

/-! ### Bits set one after another -/

/-- A bit once set stays, and a further one is the bit named. -/
theorem getLsbD_putBit_true {w : Nat} (x : BitVec w) (i : Nat) {n : Nat} (hn : n < w) :
    (putBit x i true).getLsbD n = true ↔ x.getLsbD n = true ∨ i = n := by
  have hone : (1#w <<< i).getLsbD n = true ↔ i = n := by
    simp only [BitVec.getLsbD_shiftLeft, BitVec.getLsbD_one, Bool.and_eq_true, Bool.not_eq_true', decide_eq_true_eq,
      decide_eq_false_iff_not]
    omega
  rw [putBit, if_pos rfl, BitVec.getLsbD_or, Bool.or_eq_true, hone]

/-- The serving causes with those of some tenants raised. -/
def raiseSlow (x : BitVec 4096) (l : List Tenant) : BitVec 4096 :=
  l.foldl (fun x t => putBit x t.number true) x

theorem getLsbD_raiseSlow (l : List Tenant) (x : BitVec 4096) {n : Nat} (hn : n < 4096) :
    (raiseSlow x l).getLsbD n = true ↔ x.getLsbD n = true ∨ ∃ t ∈ l, t.number = n := by
  induction l generalizing x with
  | nil => simp [raiseSlow]
  | cons t l ih => exact (ih _).trans (by simp [getLsbD_putBit_true x t.number hn, or_assoc])

theorem foldl_setSlow (l : List Tenant) (s : State) :
    l.foldl (fun s t => s.setSlow t.number) s =
      { s with causes := { s.causes with slow := raiseSlow s.causes.slow l } } := by
  induction l generalizing s with
  | nil => rfl
  | cons t l ih => exact ih (s.setSlow t.number)

/-! ### The end of the window -/

/-- The tenant's figure exceeds its alert, which is in use. -/
def Tenant.slowAlerts (t : Tenant) : Bool := t.slowAlert != 0 && decide (t.slowAlert < t.window)

theorem Tenant.slowAlerts_iff (t : Tenant) : t.slowAlerts = true ↔ t.slowAlert ≠ 0 ∧ t.slowAlert < t.window := by
  simp [Tenant.slowAlerts]

/-- The tenant with its window's figure formed and its sums at their start. -/
def Tenant.windowEnded (t : Tenant) : Tenant :=
  { t with
    counts := { t.counts with slowdown := t.window, slowMax := max t.counts.slowMax t.window },
    slowActual := 0, slowModelled := 0 }

variable {s : State}

/-- The end of a window changes tenants, serving causes and the window's count of steps, and nothing else. -/
theorem endWindow_eq (s : State) : s.endWindow =
    { s with
      tenants := s.tenants.map Tenant.windowEnded, job := { s.job with slowSteps := 0 },
      causes := { s.causes with slow := raiseSlow s.causes.slow (s.tenants.filter Tenant.slowAlerts) } } :=
  foldl_setSlow _ _

theorem endWindow_slow (s : State) {n : Nat} (hn : n < 4096) :
    s.endWindow.causes.slow.getLsbD n = true ↔ s.causes.slow.getLsbD n = true ∨
      ∃ x ∈ s.tenants, x.number = n ∧ x.slowAlert ≠ 0 ∧ x.slowAlert < x.window := by
  rw [endWindow_eq, getLsbD_raiseSlow _ _ hn]
  simp only [List.mem_filter, Tenant.slowAlerts_iff, and_comm, and_left_comm]

theorem exec_slowWindowEnd_full (hjob : s.job.state ≠ 0) (hfault : s.faulted = false)
    (hfull : s.job.slowWindow ≤ s.job.slowSteps) : exec .slowWindowEnd s = .next s.endWindow :=
  congrArg Host.Outcome.next (if_neg (by simp [hjob, hfault, State.windowFull, hfull]))

theorem exec_slowWindowEnd_nothing
    (h : s.job.state = 0 ∨ s.faulted = true ∨ s.job.slowSteps < s.job.slowWindow) :
    exec .slowWindowEnd s = .next s :=
  congrArg Host.Outcome.next (if_pos (by simpa [State.windowFull, or_assoc] using h))

/-- Settles O42: the end of a window is `endWindow_eq`, and a cause raised is that of a tenant whose figure exceeds its
alert. -/
theorem slowdownWindow : Obligations.SlowdownWindow := by
  unfold Obligations.SlowdownWindow
  refine ⟨fun s hjob hfault hfull =>
    ⟨s.endWindow, exec_slowWindowEnd_full hjob hfault hfull, ?_, fun n hn => endWindow_slow s hn, ?_⟩,
    fun s h => exec_slowWindowEnd_nothing h⟩
  all_goals rw [endWindow_eq]
  · rfl
  · exact ⟨rfl, rfl, rfl⟩

end Sys2Proof.Machine
end

section
/-!
Records of the job and of models (09 R247 to R257): what each one's plan runs, and the end of the grace time.
-/

namespace Sys2Proof.Machine

variable {s : State} {r : Record} {id : Nat}

/-! ### The end of the job -/

theorem runJobEnd_noGrace (h : r.fieldN 16 2 = 0) : runJobEnd r id s =
    ({ s with job := { s.job with state := 3, ending := some id } }).stopTaken.finishJob :=
  if_pos h

theorem runJobEnd_grace (h : r.fieldN 16 2 ≠ 0) : runJobEnd r id s =
    ({ s with job := { s.job with state := 3, ending := some id } }).stopTaken.finishDrained :=
  if_neg h

theorem exec_graceExpiry_draining (hjob : s.job.state = 3) (hfault : s.faulted = false) :
    exec .graceExpiry s = .next s.finishJob :=
  congrArg Host.Outcome.next (if_pos (by simp [hjob, hfault]))

theorem exec_graceExpiry_nothing (h : s.job.state ≠ 3 ∨ s.faulted = true) : exec .graceExpiry s = .next s := by
  refine congrArg Host.Outcome.next (if_neg ?_)
  rw [Bool.and_eq_true, beq_iff_eq, Bool.not_eq_true']
  rintro ⟨hjob, hfault⟩
  exact h.elim (fun hne => hne hjob) (fun htrue => Bool.noConfusion (hfault.symm.trans htrue))

/-! ### Commands on a version that the handle names -/

theorem readSources_nil (s : State) : s.readSources [] = s := rfl

theorem runModelRetire_named {v : Version} (h : named s r = some v) : runModelRetire r id s =
    ((s.modVersion v.model v.version (fun x => { x with state := 4 })).freeRetired).complete r id stOk [] := by
  simp only [runModelRetire, h]

theorem runModelCurrent_named {v : Version} (h : named s r = some v) :
    runModelCurrent r id s = (s.makeCurrent v.model v.version).complete r id stOk [] := by
  simp only [runModelCurrent, h]

/-- Settles O27: each opcode's plan runs the effect named; MODEL_RETIRE and MODEL_CURRENT read no source, so that the
version they act on is the one the started state names. -/
theorem jobAndModelRecords : Obligations.JobAndModelRecords := by
  unfold Obligations.JobAndModelRecords
  refine ⟨⟨runs_of_plan (plan := planJobLoad) fun _ _ _ _ => by dsimp only [planJobLoad, runJobLoad],
      runs_of_plan (plan := planJobEnd) fun _ _ _ h => runJobEnd_noGrace h,
      runs_of_plan (plan := planJobEnd) fun _ _ _ h => runJobEnd_grace h,
      fun _ => exec_graceExpiry_draining, fun _ => exec_graceExpiry_nothing⟩,
    runs_of_plan (plan := planModelLoad) fun _ _ _ _ => rfl,
    runs_of_plan (plan := planModelRetire) fun q s id h => ?_,
    runs_of_plan (plan := planModelCurrent) fun q s id h => ?_,
    runs_of_plan (plan := planModelPin) fun _ _ _ _ => rfl⟩
  all_goals obtain ⟨v, hv⟩ := Option.isSome_iff_exists.1 h
  · simp only [planModelRetire, readSources_nil, runModelRetire_named hv, hv]
  · simp only [planModelCurrent, readSources_nil, runModelCurrent_named hv, hv]

end Sys2Proof.Machine
end

section
/-!
Session commands (10 R291 to R316): their checks from step 8 on, and the answer of each command whose checks pass. A
command is judged once more when its sources have been asked for, which its checks cannot tell.
-/

namespace Sys2Proof.Machine

/-! ### What asking for a record's sources leaves -/

/-- `s` without the coherent link's traffic: what a read of lines leaves alone. -/
def State.besideReads (s : State) : State := { s.besideLink with t2 := s.t2 }

theorem readSources_besideReads (s : State) (l : List (Nat × Nat)) :
    (s.readSources l).besideReads = s.besideReads := by
  obtain ⟨ht2, -, -⟩ := readSources_frame s l
  rw [State.besideReads, readSources_besideLink, ht2, State.besideReads]

/-- A condition that the reads cannot change holds of an accepted record's state before and after its sources are
asked for. -/
theorem readSources_iff {P : State → Prop} (hP : ∀ t, P t = P t.besideReads) (s : State) (l : List (Nat × Nat)) :
    P (s.readSources l) ↔ P s := by
  rw [hP, readSources_besideReads, ← hP]

/-- A row whose plan's effect is `run` answers `f` when the two agree on every state in which `when` holds, and the
reads cannot change `when`. -/
theorem runs_of_effect {c : Record → Instr} {op : Nat} {when : Record → State → Prop}
    {f : Record → Nat → State → State} (plan : Record → State → Plan)
    (run : Record → Nat → State → State)
    (hrun : ∀ q u id, when q u → run q id u = f q id u)
    (heffect : ∀ q s, (plan q s).run = run q := by intros; rfl)
    (hkept : ∀ q t, when q t = when q t.besideReads := by intros; rfl)
    (hop : op < 65536 := by decide)
    (hplan : ∀ q : Record, q.opcode = op → planOf q = plan := by intro q hq; simp only [planOf, hq])
    (hrow : ∀ r s, exec (c r) s = .next (s.record r op plan) := by intros; rfl) : Runs c op when f := by
  refine runs_of_plan (fun q s id h => ?_) hop hplan hrow
  rw [heffect]
  exact hrun q _ id ((readSources_iff (hkept q) s _).2 h)

/-! ### Checks from step 8 on -/

theorem passes_cons {c : Bool} {st : Nat} {l : List (Bool × Nat)} (hst : st ≠ stOk) :
    passes ((c, st) :: l) ↔ c = true ∧ passes l := by
  cases c <;> simp [passes, firstFailure, hst]

/-- The three checks of a command that runs generation pass for a request that was admitted before, too. -/
theorem passes_admitted {state loaded budget : Bool} (admitted : Bool)
    (h : passes [(state, stWrongState), (loaded, stVersionGone), (budget, stBudget)]) :
    passes [(state, stWrongState), (admitted || loaded, stVersionGone), (admitted || budget, stBudget)] ∧
      passes [(state, stWrongState), (loaded, stVersionGone), (admitted || budget, stBudget)] := by
  rw [passes_cons (by decide), passes_cons (by decide), passes_cons (by decide)] at h
  obtain ⟨rfl, rfl, rfl, -⟩ := h
  cases admitted <;> exact ⟨rfl, rfl⟩

section
variable {s : State} {r : Record} {id : Nat} {checks : List (Bool × Nat)} {k : State → State}

theorem late_unborn (h : s.unborn r.handle = true) : s.late r id checks k = s.waitForPark r.handle id :=
  if_pos h

theorem late_passes (hborn : s.unborn r.handle = false) (h : passes checks) : s.late r id checks k = k s := by
  simp [State.late, hborn, show firstFailure checks = stOk from h]

/-- A command whose first check from step 8 on, that of the session's state, fails. -/
theorem late_wrongState {state : Bool} (hborn : s.unborn r.handle = false) (h : state = false) :
    s.late r id ((state, stWrongState) :: checks) k =
      s.complete r id stWrongState (stateOnly (s.sessionState r.handle)) := by
  rw [State.late, if_neg (by simp [hborn]), h]
  rfl

/-- A session for which no park seal and no birth is in progress is born. -/
theorem unborn_of_not_parking {h : U64} (hpark : s.parking h = false) : s.unborn h = false := by
  unfold State.parking at hpark
  unfold State.unborn
  cases hx : s.session? h with
  | none => rfl
  | some x =>
    rw [hx, Option.any_some, Session.parking, Bool.or_eq_false_iff] at hpark
    exact hpark.1

/-! ### The implicit revive (R295) -/

theorem withRevive_resident {pins : List (Nat × Nat)} {k : Bool → State → State}
    (h : s.sessionState r.handle ≠ 4) : s.withRevive r id pins k = k false s :=
  if_pos (by simpa using h)

theorem withRevive_parked {pins : List (Nat × Nat)} {k : Bool → State → State}
    (h : s.sessionState r.handle = 4) (hpark : s.parking r.handle = false) : s.withRevive r id pins k =
      let w := s.readSources (s.parkedReads r.handle)
      match w.reviveParked r.handle with
      | .done v _ _ _ => k true v
      | .fails st => (w.countRefusal r.tenant st).complete r id st (stateOnly 4) := by
  simp only [State.withRevive, h, hpark, bne_self_eq_false, Bool.false_eq_true, if_false]
  split <;> simp [*]
end

end Sys2Proof.Machine
end

section
/-!
The statement about the session and serving records, from the rules above.
-/

namespace Sys2Proof.Machine

variable {s : State} {r : Record} {id : Nat}

/-! ### GENERATE -/

/-- The checks of a GENERATE from step 8 on, of a request that was not admitted before. -/
def generateChecks (r : Record) (s : State) : List (Bool × Nat) :=
  [(generateState s r, stWrongState), (s.sessionLoaded (s.sessionOf r), stVersionGone),
    (s.budgetOk r.tenant 8, stBudget)]

theorem runGenerate_passes (hchecks : passes (generateChecks r s)) (hborn : s.unborn r.handle = false) :
    runGenerate r id s = s.withRevive r id (s.sessionOf r).pinned (fun implicit t =>
      t.beginRun r.handle (paramBlock t.t2 (r.fieldN 16 6)) id (t.cqOf r.ring) implicit none []) :=
  late_passes hborn (passes_admitted (s.admitted id) hchecks).2

theorem runGenerate_resident (hchecks : passes (generateChecks r s)) (hstate : s.sessionState r.handle ≠ 4)
    (hborn : s.unborn r.handle = false) : runGenerate r id s =
      s.beginRun r.handle (paramBlock s.t2 (r.fieldN 16 6)) id (s.cqOf r.ring) false none [] :=
  (runGenerate_passes hchecks hborn).trans (withRevive_resident hstate)

theorem runGenerate_parked (hchecks : passes (generateChecks r s)) (hstate : s.sessionState r.handle = 4)
    (hpark : s.parking r.handle = false) : runGenerate r id s =
      let w := s.readSources (s.parkedReads r.handle)
      match w.reviveParked r.handle with
      | .done v _ _ _ => v.beginRun r.handle (paramBlock v.t2 (r.fieldN 16 6)) id (v.cqOf r.ring) true none []
      | .fails st => (w.countRefusal r.tenant st).complete r id st (stateOnly 4) :=
  (runGenerate_passes hchecks (unborn_of_not_parking hpark)).trans (withRevive_parked hstate hpark)

theorem exec_generate (h : Accepted s (withOpcode r 0x0502)) :
    exec (.generate r) s = .next (runGenerate (withOpcode r 0x0502) s.newId (s.begun (withOpcode r 0x0502))) :=
  (runs_of_effect (op := 0x0502) (when := always) planGenerate runGenerate fun _ _ _ _ => rfl) r s h trivial

/-! ### REQUEST -/

/-- The checks of a REQUEST from step 8 on, of a request that was not admitted before. -/
def requestChecks (r : Record) (s : State) : List (Bool × Nat) :=
  let a := reqArgs r s.t2
  [(!a.gen || generateState s r, stWrongState), (reqLoaded s r a, stVersionGone), (s.budgetOk r.tenant 8, stBudget)]

theorem runRequest_passes (hchecks : passes (requestChecks r s))
    (hborn : ((reqArgs r s.t2).gen && s.unborn r.handle) = false) : runRequest r id s =
      if (reqArgs r s.t2).gen then s.withRevive r id (reqPins s id r (reqArgs r s.t2))
        (fun implicit t => t.startFront r id (reqArgs r s.t2) implicit)
      else s.startFront r id (reqArgs r s.t2) false := by
  have hst : firstFailure _ = stOk := (passes_admitted (s.admitted id) hchecks).1
  simp only [runRequest, hborn, hst, bne_self_eq_false, Bool.false_eq_true, if_false]

theorem runRequest_noRun (hchecks : passes (requestChecks r s)) (hgen : (reqArgs r s.t2).gen = false) :
    runRequest r id s = s.startFront r id (reqArgs r s.t2) false := by
  rw [runRequest_passes hchecks (by rw [hgen, Bool.false_and]), if_neg (by simp [hgen])]

theorem runRequest_resident (hchecks : passes (requestChecks r s)) (hgen : (reqArgs r s.t2).gen = true)
    (hstate : s.sessionState r.handle ≠ 4) (hborn : s.unborn r.handle = false) :
    runRequest r id s = s.startFront r id (reqArgs r s.t2) false := by
  rw [runRequest_passes hchecks (by rw [hborn, Bool.and_false]), if_pos hgen, withRevive_resident hstate]

/-! ### FORK -/

/-- The checks of a FORK from step 8 on. -/
def forkChecks (r : Record) (s : State) : List (Bool × Nat) :=
  [(stateIn s r [1, 3, 4], stWrongState),
    (s.sessionState (forkChildHandle r) == 0 || s.sessionState (forkChildHandle r) == 7, stWrongState),
    (s.hasRoom (forkChildHandle r), stDirFull)]

/-- The manifest parts that a FORK's child takes (R310). -/
def forkNeed (r : Record) (s : State) : Nat :=
  ceilDiv (((s.sessionOf r).latest.map (fun i => i.entries.length)).getD 0) 818

theorem runFork_passes (hchecks : passes (forkChecks r s)) (hborn : s.unborn r.handle = false) : runFork r id s =
    if (s.sessionOf r).state == 4 then
      if s.parking r.handle || decide (64 ≤ s.sealsStarted) || decide (65536 ≤ s.epochs.walks.length) ||
          !s.ivsOk (forkNeed r s) then
        s.waitForPark r.handle id
      else if !(s.area r.tenant).takes (forkNeed r s) then
        (s.countRefusal r.tenant stNoSpace).complete r id stNoSpace (stateOnly 4)
      else s.forkParked r.handle (forkChildHandle r) id
    else s.askSeal r.handle (.fork id (forkChildHandle r)) := by
  unfold forkChecks at hchecks
  simp only [runFork, late_passes hborn hchecks]
  rfl

theorem runFork_resident (hchecks : passes (forkChecks r s)) (hstate : (s.sessionOf r).state ≠ 4)
    (hborn : s.unborn r.handle = false) :
    runFork r id s = s.askSeal r.handle (.fork id (forkChildHandle r)) := by
  rw [runFork_passes hchecks hborn, if_neg (by simpa using hstate)]

/-- A FORK of a parked session that nothing holds back makes the child. -/
theorem runFork_parked (hchecks : passes (forkChecks r s)) (hstate : (s.sessionOf r).state = 4)
    (hpark : s.parking r.handle = false) (hseals : s.sealsStarted < 64) (hwalks : s.epochs.walks.length < 65536)
    (harea : (s.area r.tenant).takes (forkNeed r s) = true) (hivs : s.ivsOk (forkNeed r s) = true) :
    runFork r id s = s.forkParked r.handle (forkChildHandle r) id := by
  rw [runFork_passes hchecks (unborn_of_not_parking hpark)]
  simp [hstate, hpark, Nat.not_le.2 hseals, Nat.not_le.2 hwalks, harea, hivs]

/-! ### SEAL in a wrong state -/

theorem runSeal_wrongState (hstate : stateIn s r [1, 2, 3] = false) (hborn : s.unborn r.handle = false) :
    runSeal r id s = s.complete r id stWrongState (stateOnly (s.sessionState r.handle)) := by
  rw [runSeal, late_wrongState hborn hstate]

/-! ### REVIVE -/

/-- The checks of a REVIVE from step 8 on. -/
def reviveChecks (r : Record) (s : State) : List (Bool × Nat) :=
  [(reviveState s r, stWrongState),
    ((s.sessionOf r).state != 4 || reviveMirror r || r.fieldN 16 4 != 0xFFFFFFFF || s.sessionLoaded (s.sessionOf r),
      stVersionGone)]

/-- `s` with the manifest that a REVIVE names, and the bales that it names, asked for. -/
def State.reviveAsked (s : State) (r : Record) : State :=
  let named := if reviveMirror r then (s.mirrorEntry r.handle).map (·.root)
    else if r.fieldN 16 4 == 0xFFFFFFFF then (s.sessionOf r).latest.map (·.root) else some (r.fieldN 16 4)
  s.readSources ((named.map (s.reviveReads r.handle)).getD [])

/-- A REVIVE that fails from `w` on is completed with the session's state before it. -/
def State.reviveRefused (s w : State) (r : Record) (id st : Nat) : State :=
  (w.countRefusal r.tenant st).complete r id st (stateOnly (s.sessionOf r).state)

theorem runRevive_passes (hchecks : passes (reviveChecks r s)) (hpark : s.parking r.handle = false) :
    runRevive r id s =
      let w := s.reviveAsked r
      match (if reviveMirror r then (match w.mirrorEntry r.handle with
            | some e => w.reviveFrom r.handle e.root false
            | none => .fails stBadParam)
          else if r.fieldN 16 4 == 0xFFFFFFFF then w.reviveParked r.handle
          else w.reviveFrom r.handle (r.fieldN 16 4)
            ((s.sessionOf r).latest.any (fun i => i.root == r.fieldN 16 4 && i.mirrored))) with
      | .fails st => s.reviveRefused w r id st
      | .done v root reads no =>
        let v := if reviveMirror r then v.useMirror r.handle else v
        v.complete r id stOk (sessionResult (v.sessionState r.handle) 0 root reads no.toNat) := by
  unfold reviveChecks at hchecks
  simp only [runRevive, late_passes (unborn_of_not_parking hpark) hchecks, hpark, Bool.false_eq_true, if_false]
  rfl

theorem runRevive_ofSeal (hchecks : passes (reviveChecks r s)) (hpark : s.parking r.handle = false)
    (hmirror : reviveMirror r = false) : runRevive r id s =
      let w := s.reviveAsked r
      match (if r.fieldN 16 4 = 0xFFFFFFFF then w.reviveParked r.handle
        else w.reviveFrom r.handle (r.fieldN 16 4)
          ((s.sessionOf r).latest.any (fun i => i.root == r.fieldN 16 4 && i.mirrored))) with
      | .done v root reads no =>
        v.complete r id stOk (sessionResult (v.sessionState r.handle) 0 root reads no.toNat)
      | .fails st => s.reviveRefused w r id st := by
  simp only [runRevive_passes hchecks hpark, hmirror, Bool.false_eq_true, if_false, beq_iff_eq]
  split <;> simp only [*]

theorem mirrorEntry_reviveAsked (s : State) (r : Record) (h : U64) :
    (s.reviveAsked r).mirrorEntry h = s.mirrorEntry h :=
  (congrArg (fun t : State => t.mirrorEntry h) (readSources_besideLink s _) :)

theorem runRevive_ofMirror {e : MirrorEntry} (hchecks : passes (reviveChecks r s))
    (hpark : s.parking r.handle = false) (hmirror : reviveMirror r = true)
    (he : s.mirrorEntry r.handle = some e) : runRevive r id s =
      let w := s.reviveAsked r
      match w.reviveFrom r.handle e.root false with
      | .done v root reads no => (v.useMirror r.handle).complete r id stOk
          (sessionResult ((v.useMirror r.handle).sessionState r.handle) 0 root reads no.toNat)
      | .fails st => s.reviveRefused w r id st := by
  simp only [runRevive_passes hchecks hpark, hmirror, mirrorEntry_reviveAsked, he, if_true]
  split <;> simp only [*]

theorem exec_revive (h : Accepted s (withOpcode r 0x0505)) :
    exec (.revive r) s = .next (runRevive (withOpcode r 0x0505) s.newId (s.begun (withOpcode r 0x0505))) :=
  (runs_of_effect (op := 0x0505) (when := always) planRevive runRevive fun _ _ _ _ => rfl) r s h trivial

/-- Settles O28: with its checks passed, each command's effect is the branch that its state and its operands choose; the
conditions are the same once the command's sources are asked for. -/
theorem sessionAndServingRecords : Obligations.SessionAndServingRecords := by
  unfold Obligations.SessionAndServingRecords
  refine ⟨⟨runs_of_effect planOpen runOpen fun _ _ _ _ => rfl,
      runs_of_effect planAppend runAppend fun _ _ _ _ => rfl,
      runs_of_effect planGenerate runGenerate fun _ _ _ ⟨hchecks, hstate, hborn⟩ =>
        runGenerate_resident hchecks hstate hborn,
      ?generateParked,
      runs_of_effect planResume runResume fun _ _ _ _ => rfl,
      runs_of_effect planPark runPark fun _ _ _ ⟨hchecks, hborn⟩ => by
        simp only [runPark, late_passes hborn hchecks],
      ?revive,
      runs_of_effect planMove runMove fun _ _ _ ⟨hchecks, hborn⟩ => by
        simp only [runMove, late_passes hborn hchecks],
      runs_of_effect planFork runFork fun _ _ _ ⟨hchecks, hstate, hborn⟩ => runFork_resident hchecks hstate hborn,
      runs_of_effect planFork runFork fun _ _ _ ⟨hchecks, hstate, hpark, hseals, hwalks, harea, hivs⟩ =>
        runFork_parked hchecks hstate hpark hseals hwalks harea hivs,
      runs_of_effect planClose runClose fun _ _ _ ⟨hchecks, hborn⟩ => by
        simp only [runClose, late_passes hborn hchecks],
      runs_of_effect planSeal runSeal fun _ _ _ ⟨hchecks, hborn⟩ => by
        simp only [runSeal, late_passes hborn hchecks],
      runs_of_effect planSeal runSeal fun _ _ _ ⟨hstate, hborn⟩ => runSeal_wrongState hstate hborn,
      ?child⟩,
    runs_of_effect planRequest runRequest fun _ _ _ ⟨hchecks, hgen⟩ => runRequest_noRun hchecks hgen,
    runs_of_effect planRequest runRequest fun _ _ _ ⟨hchecks, hgen, hstate, hborn⟩ =>
      runRequest_resident hchecks hgen hstate hborn,
    runs_of_effect planEmbed runEmbed fun _ _ _ _ => rfl,
    runs_of_effect planSafeguardRead runSafeguardRead fun _ _ _ _ => rfl⟩
  case generateParked =>
    intro r s q u w h hchecks hstate hpark
    exact (exec_generate h).trans (congrArg _ (runGenerate_parked hchecks hstate hpark))
  case revive =>
    intro r s q u named w refused h hchecks hpark
    exact ⟨fun hmirror => (exec_revive h).trans (congrArg _ (runRevive_ofSeal hchecks hpark hmirror)),
      fun e hmirror he => (exec_revive h).trans (congrArg _ (runRevive_ofMirror hchecks hpark hmirror he))⟩
  case child =>
    simp only [List.forall_mem_cons, List.not_mem_nil, false_implies, implies_true, and_true]
    exact ⟨runs_of_effect planAppend runAppend fun _ _ _ h => by simp only [runAppend, late_unborn h],
      runs_of_effect planGenerate runGenerate fun _ _ _ h => by simp only [runGenerate, late_unborn h],
      runs_of_effect planResume runResume fun _ _ _ h => by simp only [runResume, late_unborn h],
      runs_of_effect planPark runPark fun _ _ _ h => by simp only [runPark, late_unborn h],
      runs_of_effect planRevive runRevive fun _ _ _ h => by simp only [runRevive, late_unborn h],
      runs_of_effect planMove runMove fun _ _ _ h => by simp only [runMove, late_unborn h],
      runs_of_effect planFork runFork fun _ _ _ h => by simp only [runFork, late_unborn h],
      runs_of_effect planClose runClose fun _ _ _ h => by simp only [runClose, late_unborn h],
      runs_of_effect planSeal runSeal fun _ _ _ h => by simp only [runSeal, late_unborn h]⟩

end Sys2Proof.Machine
end

section
/-!
CLOSE (10 R287, R291, R294, R296): what it makes of its session, and that it leaves the others alone.
-/

namespace Sys2Proof.Machine

/-! ### One session of the directory -/

theorem session?_handle {s : State} {h : U64} {x : Session} (hx : s.session? h = some x) : x.handle = h := by
  simpa using List.find?_some hx

/-- An update that leaves the session its handle changes that session and no other. -/
theorem session?_modSession (s : State) (h k : U64) (f : Session → Session)
    (hf : ∀ y, y.handle = h → (f y).handle = h := by intro y hy; exact hy) :
    (s.modSession h f).session? k = (s.session? k).map (fun y => if k = h then f y else y) := by
  have hkept (y : Session) : (if y.handle == h then f y else y).handle = y.handle := by
    by_cases hy : y.handle = h
    · rw [if_pos (beq_iff_eq.2 hy), hf y hy, hy]
    · rw [if_neg (by simpa using hy)]
  refine (List.find?_map ..).trans ?_
  simp only [Function.comp_def, hkept]
  cases hx : s.session? k with
  | none => exact congrArg _ hx
  | some x =>
    refine (congrArg _ hx).trans ?_
    simp [session?_handle hx]

theorem unborn_of_granary {s t : State} (h : t.granary = s.granary) (k : U64) : t.unborn k = s.unborn k := by
  rw [State.unborn, session?_of_granary h, State.unborn]

theorem parking_of_granary {s t : State} (h : t.granary = s.granary) (k : U64) : t.parking k = s.parking k := by
  rw [State.parking, session?_of_granary h, State.parking]

/-- The start of a record leaves the sessions alone. -/
theorem begun_granary (s : State) (q : Record) : (s.begun q).granary = s.granary :=
  (congrArg State.granary (readSources_besideLink (s.started q) (planOf q q (s.started q)).sources) :)

/-! ### A session that is closed -/

/-- What a CLOSE leaves of a session: its handle, the seals that have not ended and the commands that wait. -/
def Session.closed (x : Session) (h : U64) (closes : Nat) : Session :=
  { Session.blank h with
    state := 7, closedAt := closes, sealing := x.sealing.map (fun q => { q with ended := true }), after := x.after }

/-- Frames that go leave the directory and the count of closes alone. -/
theorem dropFrames_directory (s : State) (t : Nat) : (s.dropFrames t).granary.directory = s.granary.directory ∧
    (s.dropFrames t).granary.closes = s.granary.closes := by
  unfold State.dropFrames State.quarantineFrames
  dsimp only
  split <;> exact ⟨rfl, rfl⟩

theorem session?_of_directory {s t : State} (h : t.granary.directory = s.granary.directory) (k : U64) :
    t.session? k = s.session? k := by
  rw [State.session?, h, State.session?]

theorem unmapKv_session? (s : State) (h k : U64) (p : KvBale → Bool) : (s.unmapKv h p).session? k =
    (s.session? k).map (fun y => if k = h then { y with kv := y.kv.filter (fun b => !p b) } else y) :=
  (session?_of_directory (dropFrames_directory _ _).1 k).trans (session?_modSession ..)

theorem releaseRetained_session? (s : State) (h k : U64) : (s.releaseRetained h).session? k = s.session? k :=
  session?_of_directory (dropFrames_directory _ _).1 k

theorem closeSession_session? (s : State) (h k : U64) : (s.closeSession h).session? k =
    (s.session? k).map (fun y => if k = h then y.closed h s.granary.closes else y) := by
  have hcloses : (s.unmapKv h (fun _ => true)).granary.closes = s.granary.closes := (dropFrames_directory _ _).2
  unfold State.closeSession
  dsimp only
  rw [releaseRetained_session?, hcloses]
  refine (session?_modSession (s.unmapKv h (fun _ => true)) h k (fun y => y.closed h s.granary.closes)
    (fun _ _ => rfl)).trans ?_
  rw [unmapKv_session?, Option.map_map]
  congr 1
  funext y
  by_cases hk : k = h <;> simp [hk, Session.closed]

/-! ### CLOSE -/

section
variable {s : State} {r : Record} {id : Nat}

/-- What CLOSE does once its checks have passed. -/
def State.closeOrWait (s : State) (r : Record) (id : Nat) : State :=
  if (s.sessionOf r).state == 2 then
    (if (s.sessionOf r).parkAtEnd.isEmpty then
      s.modSession r.handle (fun x => { x with closeAtEnd := x.closeAtEnd ++ [id] })
    else s.waitForPark r.handle id)
  else if (s.sessionOf r).state == 4 && s.parking r.handle then s.waitForPark r.handle id
  else (s.closeSession r.handle).complete r id stOk (sessionResult 7 0 0 0 0)

theorem runClose_passes (hstate : stateIn s r [1, 2, 3, 4] = true) (hborn : s.unborn r.handle = false) :
    runClose r id s = s.closeOrWait r id := by
  have hchecks : passes [(stateIn s r [1, 2, 3, 4], stWrongState)] := by rw [hstate]; rfl
  simp only [runClose, late_passes hborn hchecks]
  rfl

theorem runClose_wrongState (hstate : stateIn s r [1, 2, 3, 4] = false) (hborn : s.unborn r.handle = false) :
    runClose r id s = s.complete r id stWrongState (stateOnly (s.sessionState r.handle)) := by
  rw [runClose, late_wrongState hborn hstate]

theorem waitForPark_session? (s : State) (h k : U64) (id : Nat) : (s.waitForPark h id).session? k =
    (s.session? k).map (fun y => if k = h then { y with after := y.after ++ [id] } else y) :=
  session?_modSession ..

theorem complete_session? (s : State) (r : Record) (id status : Nat) (results : List Byte) (k : U64) :
    (s.complete r id status results).session? k = s.session? k :=
  session?_of_granary (complete_granary s r id status results) k

theorem closeOrWait_session?_other {k : U64} (hk : k ≠ r.handle) :
    (s.closeOrWait r id).session? k = s.session? k := by
  unfold State.closeOrWait
  split
  · split
    · exact session?_modSession_other s hk (fun _ => rfl)
    · rw [waitForPark_session?]; simp [hk]
  · split
    · rw [waitForPark_session?]; simp [hk]
    · rw [complete_session?, closeSession_session?]; simp [hk]

theorem runClose_session?_other {k : U64} (hborn : s.unborn r.handle = false) (hk : k ≠ r.handle) :
    (runClose r id s).session? k = s.session? k := by
  cases hstate : stateIn s r [1, 2, 3, 4] with
  | false => rw [runClose_wrongState hstate hborn, complete_session?]
  | true => rw [runClose_passes hstate hborn, closeOrWait_session?_other hk]

/-- A session whose state is in a list of states other than none stands in the directory. -/
theorem exists_of_stateIn {l : List Nat} (h0 : 0 ∉ l) (h : stateIn s r l = true) :
    ∃ y, s.session? r.handle = some y ∧ y.state ∈ l := by
  unfold stateIn State.sessionState at h
  cases hy : s.session? r.handle with
  | none => simp [hy, h0] at h
  | some y => exact ⟨y, rfl, by simpa [hy] using h⟩

variable {y : Session} (hy : s.session? r.handle = some y)
include hy

theorem stateIn_of_session {l : List Nat} (h : y.state ∈ l) : stateIn s r l = true := by
  simpa [stateIn, State.sessionState, hy] using h

theorem sessionOf_of_session : s.sessionOf r = y := by
  simp [State.sessionOf, hy]

theorem runClose_ends (hborn : s.unborn r.handle = false)
    (h : y.state ∈ [1, 3] ∨ (y.state = 4 ∧ s.parking r.handle = false)) :
    (runClose r id s).session? r.handle = some (y.closed r.handle s.granary.closes) := by
  have hrun : s.closeOrWait r id = (s.closeSession r.handle).complete r id stOk (sessionResult 7 0 0 0 0) := by
    have h2 : y.state ≠ 2 := by rcases h with h | ⟨h, -⟩ <;> rintro h2 <;> simp [h2] at h
    have h4 : ¬ (y.state = 4 ∧ s.parking r.handle = true) := by
      rintro ⟨h4, hpark⟩
      simp [h4, hpark] at h
    rw [State.closeOrWait, sessionOf_of_session hy, if_neg (by simpa using h2), if_neg (by simpa using h4)]
  have hstate : y.state ∈ [1, 2, 3, 4] := by
    simp only [List.mem_cons, List.not_mem_nil, or_false] at h ⊢
    omega
  rw [runClose_passes (stateIn_of_session hy hstate) hborn, hrun, complete_session?, closeSession_session?, hy]
  simp

theorem runClose_atStepEnd (hborn : s.unborn r.handle = false) (hstate : y.state = 2) (hpark : y.parkAtEnd = []) :
    (runClose r id s).session? r.handle = some { y with closeAtEnd := y.closeAtEnd ++ [id] } := by
  rw [runClose_passes (stateIn_of_session hy (by simp [hstate])) hborn, State.closeOrWait, sessionOf_of_session hy,
    if_pos (by simp [hstate]), if_pos (by simp [hpark])]
  exact session?_modSession_same s (fun _ => rfl) hy

theorem runClose_waits (hborn : s.unborn r.handle = false)
    (h : (y.state = 2 ∧ y.parkAtEnd ≠ []) ∨ (y.state = 4 ∧ s.parking r.handle = true)) :
    (runClose r id s).session? r.handle = some { y with after := y.after ++ [id] } := by
  have hrun : s.closeOrWait r id = s.waitForPark r.handle id := by
    rw [State.closeOrWait, sessionOf_of_session hy]
    rcases h with ⟨hstate, hpark⟩ | ⟨hstate, hpark⟩ <;> simp [hstate, hpark]
  have hstate : y.state ∈ [1, 2, 3, 4] := by
    rcases h with ⟨hstate, -⟩ | ⟨hstate, -⟩ <;> simp [hstate]
  rw [runClose_passes (stateIn_of_session hy hstate) hborn, hrun]
  exact session?_modSession_same s (fun _ => rfl) hy

end

theorem exec_close {r : Record} {s : State} (h : Accepted s (withOpcode r 0x0508)) :
    exec (.close r) s = .next (runClose (withOpcode r 0x0508) s.newId (s.begun (withOpcode r 0x0508))) :=
  (runs_of_effect (op := 0x0508) (when := always) planClose runClose fun _ _ _ _ => rfl) r s h trivial

/-- Settles O29: the start of the CLOSE leaves the sessions alone, so that its effect meets the session as it was. -/
theorem closeLeavesHandle : Obligations.CloseLeavesHandle := by
  unfold Obligations.CloseLeavesHandle
  intro r s q h hborn
  have hgranary : (s.begun q).granary = s.granary := begun_granary s q
  have hsession (k : U64) : (s.begun q).session? k = s.session? k := session?_of_granary hgranary k
  rw [← unborn_of_granary hgranary] at hborn
  rw [← parking_of_granary hgranary]
  refine ⟨_, exec_close h, fun k hk => (runClose_session?_other hborn hk).trans (hsession k), fun hends => ?_,
    fun y hy hstate hpark => runClose_atStepEnd ((hsession _).trans hy) hborn hstate hpark,
    fun y hy hwaits => runClose_waits ((hsession _).trans hy) hborn hwaits⟩
  obtain ⟨y, hy, hstate⟩ : ∃ y, s.session? q.handle = some y ∧
      (y.state ∈ [1, 3] ∨ (y.state = 4 ∧ (s.begun q).parking q.handle = false)) := by
    rcases hends with hends | ⟨hends, hpark⟩
    · obtain ⟨y, hy, hstate⟩ := exists_of_stateIn (by decide) hends
      exact ⟨y, hy, .inl hstate⟩
    · obtain ⟨y, hy, hstate⟩ := exists_of_stateIn (by decide) hends
      exact ⟨y, hy, .inr ⟨List.mem_singleton.1 hstate, hpark⟩⟩
  exact ⟨_, runClose_ends ((hsession _).trans hy) hborn hstate, rfl, rfl, rfl, rfl, rfl, rfl⟩

end Sys2Proof.Machine
end

section
/-!
Records of the memory tiers, the tallies and the diagnostics (Tables 11-7 and 14-1, 17 R485): what each one's plan runs.
-/

namespace Sys2Proof.Machine

variable {s : State} {r : Record} {id : Nat}

/-! ### TIER_MODE (11 R346) -/

/-- What leaves the coherent link alone has written nothing that a completion would wait for. -/
theorem newWrites_of_link {t : State} (h : t.link = s.link) : newWrites s t = [] := by
  simp [newWrites, h]

/-- Every open window closed, in the order of the list. -/
def State.closeWindows (s : State) : State :=
  s.tiers.windows.foldl (fun s w => s.closeWindow ((s.window? w.number).getD w)) s

/-- A mode other than 0 closes no window, so that its completion waits for no write. -/
theorem runTierMode_keepsWindows (h : r.fieldN 16 1 ≠ 0) : runTierMode r id s =
    (s.modTiers (fun p => { p with mode := r.fieldN 16 1 })).complete r id stOk (toLe 1 (r.fieldN 16 1)) := by
  rw [runTierMode, if_neg h, newWrites_of_link (s.modTiers_link _), State.complete]

theorem runTierMode_closesWindows (h : r.fieldN 16 1 = 0) : runTierMode r id s =
    let z := s.closeWindows.modTiers (fun p => { p with mode := 0 })
    z.completeAfter (newWrites s z) r id stOk (toLe 1 0) := by
  rw [runTierMode, h, if_pos rfl, State.closeWindows]

/-! ### TALLY_WAIT (14 R404) -/

theorem Tally.wait_takes {t : Tally} (w : Waiter) (h : t.value ≠ 0) :
    t.wait w = (true, { t with value := t.value - 1 }) :=
  if_pos (bne_iff_ne.2 h)

theorem Tally.wait_queues {t : Tally} (w : Waiter) (h : t.value = 0) :
    t.wait w = (false, { t with waiters := t.waiters ++ [w] }) :=
  if_neg (by simp [h])

theorem runTallyWait_takes (h : (s.tally (tallyNumber r.handle)).value ≠ 0) : runTallyWait r id s =
    let t := s.tally (tallyNumber r.handle)
    ((s.putTally { t with value := t.value - 1 }).countTallyOp).completeId id stOk (tallyResult 0 0 (t.value - 1)) := by
  rw [runTallyWait, Tally.wait_takes _ h]
  rfl

theorem runTallyWait_queues (h : (s.tally (tallyNumber r.handle)).value = 0) : runTallyWait r id s =
    let t := s.tally (tallyNumber r.handle)
    (s.putTally { t with waiters := t.waiters ++ [.record id (r.fieldN 16 4)] }).countTallyOp := by
  rw [runTallyWait, Tally.wait_queues _ h]
  rfl

/-! ### FAULT_INJECT (17 R485) -/

theorem runFaultInject_quiet (h : r.quiet = true) : runFaultInject r id s =
    (({ s with faults := { s.faults with injected := s.faults.injected + 1 } }).completeId id stOk []).raiseFault
      (r.fieldN 16 1) :=
  if_pos h

theorem runFaultInject_answers (h : r.quiet = false) : runFaultInject r id s =
    let v := { s with faults := { s.faults with injected := s.faults.injected + 1 } }
    (v.post { v.completionPost r id stOk [] with inject := some (r.fieldN 16 1) }).injectDue :=
  if_neg (by simp [h])

/-- Settles O30: each opcode's plan runs the effect named. The rows whose effect splits on the mode, the tally's value,
the window or `quiet` read no source, so that they split on the started state; COPY_IN alone asks for a source first. -/
theorem tierTallyAndDiagnosticRecords : Obligations.TierTallyAndDiagnosticRecords := by
  unfold Obligations.TierTallyAndDiagnosticRecords
  exact ⟨⟨runs_of_plan (plan := planPageMap) fun _ _ _ _ => rfl,
      runs_of_plan (plan := planPageUnmap) fun _ _ _ _ => rfl,
      runs_of_plan (plan := planCopyIn) fun _ _ _ _ => rfl,
      runs_of_plan (plan := planCopyOut) fun _ _ _ _ => rfl,
      runs_of_plan (plan := planTierMode) fun _ _ _ h => runTierMode_keepsWindows h,
      runs_of_plan (plan := planTierMode) fun _ _ _ h => runTierMode_closesWindows h,
      runs_of_plan (plan := planWindowOpen) fun _ _ _ _ => rfl,
      runs_of_plan (plan := planWindowFlush) fun _ _ _ _ => rfl,
      runs_of_plan (plan := planWindowClose) fun _ _ _ _ => rfl⟩,
    runs_of_plan (plan := planTallyClaim) fun _ _ _ _ => rfl,
    runs_of_plan (plan := planTallyRelease) fun _ _ _ _ => rfl,
    runs_of_plan (plan := planTallySignal) fun _ _ _ _ => rfl,
    runs_of_plan (plan := planTallyWait) fun _ _ _ h => runTallyWait_takes h,
    runs_of_plan (plan := planTallyWait) fun _ _ _ h => runTallyWait_queues h,
    runs_of_plan (plan := planTallyRead) fun _ _ _ _ => rfl,
    runs_of_plan (plan := planDiagEcho) fun _ _ _ _ => rfl,
    runs_of_plan (plan := planFaultInject) fun _ _ _ h => runFaultInject_quiet h,
    runs_of_plan (plan := planFaultInject) fun _ _ _ h => runFaultInject_answers h,
    runs_of_plan (plan := planFaultRead) fun _ _ _ _ => rfl⟩

end Sys2Proof.Machine
end

section
/-!
What entering the fault state leaves alone (17 R475, R476): the channels, the sticky bits and the causes of `sys`.
-/

namespace Sys2Proof.Machine

/-- What each step of a fold leaves as it was, the fold leaves as it was. -/
theorem foldl_view {α β : Type} {f : State → α → State} (view : State → β) (hf : ∀ s a, view (f s a) = view s)
    (l : List α) (s : State) : view (l.foldl f s) = view s :=
  foldl_keeps (P := fun t => view t = view s) rfl (fun t a h => (hf t a).trans h)

/-- The channels, the sticky bits and the causes of `sys`: none of the completions, restarted ring reads and messages
that a fault brings about changes them. -/
def State.dramView (s : State) : Vector Channel 192 × BitVec 96 × U16 := (s.channels, s.faults.sticky, s.causes.sys)

theorem dramView_of_besideLink {s t : State} (h : t.besideLink = s.besideLink) : t.dramView = s.dramView :=
  (congrArg State.dramView h :)

section
variable {s t : State} (h : t.dramView = s.dramView)
include h

theorem channels_of_dramView : t.channels = s.channels := congrArg Prod.fst h

theorem sticky_of_dramView : t.faults.sticky = s.faults.sticky := congrArg (fun v => v.2.1) h

theorem sys_of_dramView : t.causes.sys = s.causes.sys := congrArg (fun v => v.2.2) h

end

/-! ### Posts -/

theorem modCq_modLink_dramView (s : State) (c : Nat) (f : CqRing → CqRing) (g : CohLink → CohLink) :
    ((s.modCq c f).modLink g).dramView = s.dramView := rfl

theorem setCq_dramView (s : State) (c : Nat) : (s.setCq c).dramView = s.dramView := rfl

theorem due_dramView (s : State) (l : List Nat) :
    State.dramView { s with faults := { s.faults with due := l } } = s.dramView := rfl

theorem endRecord_dramView (s : State) (done : Option (Nat × Nat)) : (s.endRecord done).dramView = s.dramView := by
  unfold State.endRecord
  split
  · rfl
  · exact foldl_view State.dramView (fun t r => by split <;> rfl) _ _

theorem writePost_dramView (s : State) (p : Post) : (s.writePost p).dramView = s.dramView := by
  have hsent (m : Mem) (l : List Nat) :
      (l.foldl (State.sendLineOf true) { s with t2 := m }).dramView = s.dramView :=
    dramView_of_besideLink (foldl_sendLineOf_besideLink { s with t2 := m } true l)
  unfold State.writePost
  dsimp only
  split <;> split <;> simp only [due_dramView, setCq_dramView, modCq_modLink_dramView, hsent]

theorem post_dramView (s : State) (p : Post) : (s.post p).dramView = s.dramView := by
  unfold State.post
  dsimp only
  split
  · exact endRecord_dramView s _
  · split
    · split
      · exact (writePost_dramView _ p).trans (endRecord_dramView s _)
      · exact endRecord_dramView s p.done
    · rfl

theorem completeAll_dramView (s : State) (status : Nat) (l : List (Nat × Record)) :
    (s.completeAll status l).dramView = s.dramView :=
  foldl_view State.dramView (fun t _ => post_dramView t _) l s

/-! ### Command rings -/

theorem writeConsumer_dramView (s : State) (n : Nat) : (s.writeConsumer n).dramView = s.dramView :=
  dramView_of_besideLink (writeConsumer_besideLink s n)

theorem takeArrived_dramView (s : State) (n k : Nat) : (s.takeArrived n k).dramView = s.dramView := by
  induction k generalizing s with
  | zero => rfl
  | succ k ih =>
    unfold State.takeArrived
    dsimp only
    split
    · split
      · exact (ih _).trans ((writeConsumer_dramView _ n).trans rfl)
      · rfl
    · rfl

theorem fetchRecords_dramView (s : State) (n k : Nat) : (s.fetchRecords n k).dramView = s.dramView := by
  induction k generalizing s with
  | zero => rfl
  | succ k ih =>
    unfold State.fetchRecords
    dsimp only
    split
    · exact ih _
    · rfl

theorem serveAll_dramView (s : State) : s.serveAll.dramView = s.dramView :=
  foldl_view State.dramView (fun t n => (fetchRecords_dramView _ n 64).trans (takeArrived_dramView t n 64)) _ s

/-! ### The fault state -/

theorem undoLine_dramView (s : State) (e : U16 × Nat × Line) : (s.undoLine e).dramView = s.dramView := by
  unfold State.undoLine
  split <;> rfl

theorem unsettle_dramView (s : State) : s.unsettle.dramView = s.dramView :=
  foldl_view State.dramView undoLine_dramView _ s

theorem sendPeer_dramView (s : State) (p : Nat) (m : Sent) : (s.sendPeer p m).dramView = s.dramView := rfl

theorem enterFault_dramView (s : State) : s.enterFault.dramView = s.dramView := by
  have hserved (t : State) (l : List (Nat × Record)) (h : t.dramView = s.dramView) :
      (t.completeAll stJobRestarted l).serveAll.dramView = s.dramView :=
    (serveAll_dramView _).trans ((completeAll_dramView t _ l).trans h)
  have hunsettled := unsettle_dramView s
  unfold State.enterFault
  generalize s.unsettle = u at hunsettled ⊢
  dsimp only
  split
  · rw [sendPeer_dramView]
    refine hserved _ _ ?_
    exact hunsettled
  · refine hserved _ _ ?_
    exact hunsettled

/-- A cause of `sys` that is set stays set when another one is. -/
theorem setSys_sys_mono {s : State} (c : Nat) {b : Nat} (h : s.causes.sys.getLsbD b = true) :
    (s.setSys c).causes.sys.getLsbD b = true :=
  (getLsbD_putBit_true _ c (BitVec.lt_of_getLsbD h)).2 (.inl h)

/-- What a raised fault source comes to, as far as channels and their reports see it. -/
structure RaisesFault (s t : State) (source : Nat) : Prop where
  channels : t.channels = s.channels
  sticky : t.faults.sticky = putBit s.faults.sticky source true
  sys : ∀ b, s.causes.sys.getLsbD b = true → t.causes.sys.getLsbD b = true

theorem pairFaulted_raises {s t : State} {source : Nat} (h : RaisesFault s t source) :
    RaisesFault s t.pairFaulted source := by
  obtain ⟨hchannels, hsticky, hsys⟩ := h
  unfold State.pairFaulted
  split
  · exact ⟨hchannels, hsticky, fun b hb => setSys_sys_mono _ (hsys b hb)⟩
  · exact ⟨hchannels, hsticky, hsys⟩

/-- The sticky bit of a source set, and nothing else yet. -/
def State.withSticky (s : State) (source : Nat) : State :=
  { s with faults := { s.faults with sticky := putBit s.faults.sticky source true } }

theorem withSticky_raises (s : State) (source : Nat) : RaisesFault s (s.withSticky source) source :=
  ⟨rfl, rfl, fun _ h => h⟩

/-- A source that is raised sets its sticky bit; the first one enters the fault state besides (R475). -/
theorem raiseFault_cases (s : State) (source : Nat) : s.raiseFault source = s.withSticky source ∨
    s.raiseFault source = (s.withSticky source).enterFault.pairFaulted := by
  unfold State.raiseFault
  dsimp only
  split
  · exact .inl rfl
  · exact .inr rfl

theorem enterFault_raises {s t : State} {source : Nat} (h : RaisesFault s t source) :
    RaisesFault s t.enterFault source where
  channels := (channels_of_dramView (enterFault_dramView t)).trans h.channels
  sticky := (sticky_of_dramView (enterFault_dramView t)).trans h.sticky
  sys b hb := by
    rw [sys_of_dramView (enterFault_dramView t)]
    exact h.sys b hb

theorem raiseFault_raises (s : State) (source : Nat) : RaisesFault s (s.raiseFault source) source := by
  rcases raiseFault_cases s source with h | h <;> rw [h]
  · exact withSticky_raises s source
  · exact pairFaulted_raises (enterFault_raises (withSticky_raises s source))

theorem RaisesFault.getLsbD_sticky {s t : State} {source : Nat} (h : RaisesFault s t source) (hn : source < 96) :
    t.faults.sticky.getLsbD source = true := by
  rw [h.sticky]
  exact (getLsbD_putBit_true _ _ hn).2 (.inr rfl)

theorem srcMem_lt (q : Nat) : srcMem q < 96 := by
  unfold srcMem
  omega

end Sys2Proof.Machine
end

section
/-!
LPDDR6 channels (12 R364 to R371): what a correction, a bad line, a refresh, a scrub read and a retrain do to the
channel named, to its report and to the faults.
-/

namespace Sys2Proof.Machine

variable {s : State} {h : Nat}

/-! ### Channels by number -/

theorem channel_of_channels {s t : State} (h : t.channels = s.channels) (g : Nat) : t.channel g = s.channel g := by
  rw [State.channel, h, State.channel]

theorem channel_modChannel_same (hh : h < 192) (f : Channel → Channel) :
    (s.modChannel h f).channel h = f (s.channel h) := by
  simp [State.channel, State.modChannel, vGet_vMod, hh]

theorem channel_modChannel_other {g : Nat} (hg : g ≠ h) (f : Channel → Channel) :
    (s.modChannel h f).channel g = s.channel g := by
  simp [State.channel, State.modChannel, vGet_vMod, hg.symm]

/-! ### A suspect channel (R366, R367) -/

theorem setSuspect_sys : (s.setSuspect h).causes.sys.getLsbD sysSuspect = true :=
  (getLsbD_putBit_true _ _ (by decide)).2 (.inr rfl)

/-- Subindices 11 to 14 of object 0x2400 are the masks of suspect channels. -/
theorem setSuspect_channelBit : (s.setSuspect h).channelBit 11 h = true := by
  have hmask : (s.setSuspect h).setting 0x2400 (11 + channelQuadrant h) =
      s.setting 0x2400 (11 + channelQuadrant h) ||| 2 ^ (h % 48) := lookupD_insertKey_same _ _ _ _
  rw [State.channelBit, hmask, Nat.testBit_or, Nat.testBit_two_pow_self, Bool.or_true]

/-! ### A corrected symbol (R365, R367) -/

/-- The channel once a corrected symbol of a line is counted and its write-back is owed. -/
def Channel.corrects (c : Channel) (line : Nat) : Channel :=
  { c with corrected := c.corrected + 1, recent := c.recent + 1, owed := line :: c.owed.filter (· != line) }

theorem corrected_channels (s : State) (h line : Nat) :
    (s.corrected h line).channels = (s.modChannel h (·.corrects line)).channels := by
  unfold State.corrected
  dsimp only
  split <;> rfl

theorem corrected_channel (hh : h < 192) (line : Nat) :
    (s.corrected h line).channel h = (s.channel h).corrects line :=
  (channel_of_channels (corrected_channels s h line) h).trans (channel_modChannel_same hh _)

theorem corrected_faults (s : State) (h line : Nat) : (s.corrected h line).faults = s.faults := by
  unfold State.corrected
  dsimp only
  split <;> rfl

/-- A count beyond the threshold of the interval makes the channel suspect (R367). -/
theorem corrected_suspect (hh : h < 192) {line : Nat} (hmany : s.setting 0x2400 6 < (s.channel h).recent + 1) :
    (s.corrected h line).causes.sys.getLsbD sysSuspect = true ∧ (s.corrected h line).channelBit 11 h = true := by
  have hrecent : (s.modChannel h (·.corrects line)).setting 0x2400 6 <
      ((s.modChannel h (·.corrects line)).channel h).recent := by
    rw [channel_modChannel_same hh]
    exact hmany
  have hset : s.corrected h line = (s.modChannel h (·.corrects line)).setSuspect h := if_pos hrecent
  rw [hset]
  exact ⟨setSuspect_sys, setSuspect_channelBit⟩

/-! ### A bad line (R366) -/

/-- The channel once a line that no unit may take is counted. -/
def Channel.countsBad (c : Channel) (misdirected : Bool) : Channel :=
  if misdirected then { c with misdirected := c.misdirected + 1 } else { c with uncorrected := c.uncorrected + 1 }

theorem Channel.countsBad_uncorrected (c : Channel) (mis : Bool) :
    (c.countsBad mis).uncorrected = c.uncorrected + (if mis then 0 else 1) := by
  cases mis <;> simp [Channel.countsBad]

theorem Channel.countsBad_misdirected (c : Channel) (mis : Bool) :
    (c.countsBad mis).misdirected = c.misdirected + (if mis then 1 else 0) := by
  cases mis <;> simp [Channel.countsBad]

theorem badLine_raises (s : State) (h : Nat) (mis : Bool) :
    RaisesFault ((s.modChannel h (·.countsBad mis)).setSuspect h) (s.badLine h mis) (srcMem (h / 48)) :=
  raiseFault_raises _ _

theorem badLine_channel (hh : h < 192) (mis : Bool) : (s.badLine h mis).channel h = (s.channel h).countsBad mis :=
  (channel_of_channels (badLine_raises s h mis).channels h).trans (channel_modChannel_same hh _)

theorem badLine_sticky (s : State) (h : Nat) (mis : Bool) :
    (s.badLine h mis).faults.sticky.getLsbD (srcMem (h / 48)) = true :=
  (badLine_raises s h mis).getLsbD_sticky (srcMem_lt _)

theorem badLine_sys (s : State) (h : Nat) (mis : Bool) :
    (s.badLine h mis).causes.sys.getLsbD sysSuspect = true :=
  (badLine_raises s h mis).sys _ setSuspect_sys

/-! ### A miscorrected line (R364) -/

/-- The channels and the faults, in which no data lie that a miscorrection could leave wrong. -/
def State.channelsAndFaults (s : State) : Vector Channel 192 × Faults := (s.channels, s.faults)

theorem drew_wrongObjects_channelsAndFaults (s : State) (x : Nat × Nat) (n : Nat) :
    ((s.wrongObjects x).drew n).channelsAndFaults = s.channelsAndFaults := rfl

theorem miscorrect_channelsAndFaults (s : State) (h line : Nat) :
    (s.miscorrect h line).channelsAndFaults = s.channelsAndFaults := by
  have hpage (p : Page) (l : List Nat) (t : State) : (l.foldl (fun s o =>
      (s.writeHost p.tenant (p.va + o) s.wrongLine).drew 64) t).channelsAndFaults = t.channelsAndFaults :=
    foldl_view State.channelsAndFaults (fun _ _ => by rfl) l t
  have hframe (f : KvFrame) (l : List Nat) (t : State) : (l.foldl (fun s i =>
      (s.putKvData f.frame (writeBytes (s.kvData f.frame) (64 * i) s.wrongLine)).drew 64) t).channelsAndFaults =
        t.channelsAndFaults :=
    foldl_view State.channelsAndFaults (fun _ _ => by rfl) l t
  unfold State.miscorrect
  dsimp only
  rw [drew_wrongObjects_channelsAndFaults, foldl_view State.channelsAndFaults fun t f => hframe f _ t,
    foldl_view State.channelsAndFaults fun t p => hpage p _ t]

theorem miscorrect_channel (s : State) (h line g : Nat) : (s.miscorrect h line).channel g = s.channel g :=
  channel_of_channels (congrArg Prod.fst (miscorrect_channelsAndFaults s h line)) g

theorem miscorrect_faults (s : State) (h line : Nat) : (s.miscorrect h line).faults = s.faults :=
  congrArg Prod.snd (miscorrect_channelsAndFaults s h line)

/-! ### REFRESH (R369) -/

theorem exec_refresh (ht : (s.channel h).trained = true) (hp : s.power.pstate ≠ 3) : exec (.refresh h) s =
    .next ((s.modChannel h (fun c => { c with refreshes := c.refreshes + 1 })).send (.refresh h)) :=
  congrArg Host.Outcome.next (if_pos (by simp [ht, hp]))

theorem exec_refresh_nothing (hn : (s.channel h).trained = false ∨ s.power.pstate = 3) :
    exec (.refresh h) s = .next s :=
  congrArg Host.Outcome.next (if_neg (by rcases hn with hn | hn <;> simp [hn]))

theorem refresh_counts (hh : h < 192) (ht : (s.channel h).trained = true) (hp : s.power.pstate ≠ 3) :
    ∃ t, exec (.refresh h) s = .next t ∧ (t.channel h).refreshes = (s.channel h).refreshes + 1 ∧
      t.sent = .refresh h :: s.sent ∧ ∀ g, g ≠ h → t.channel g = s.channel g :=
  ⟨_, exec_refresh ht hp, congrArg Channel.refreshes (channel_modChannel_same hh _), rfl,
    fun _ hg => channel_modChannel_other hg _⟩

/-! ### RETRAIN_INTERVAL and FULL_RETRAIN_END (R367, R371) -/

/-- The channel as a new interval finds it. -/
def Channel.newInterval (c : Channel) (beyond : Bool) : Channel :=
  { c with
    recent := 0, retrains := if beyond then c.retrains + 1 else c.retrains, retraining := c.retraining || beyond }

theorem exec_retrainInterval (ht : (s.channel h).trained = true) (hp : s.power.pstate ≠ 3) (beyond : Bool) :
    exec (.retrainInterval h beyond) s = .next (s.modChannel h (·.newInterval beyond)) :=
  congrArg Host.Outcome.next (if_pos (by simp [ht, hp]))

theorem exec_retrainInterval_nothing (hn : (s.channel h).trained = false ∨ s.power.pstate = 3) (beyond : Bool) :
    exec (.retrainInterval h beyond) s = .next s :=
  congrArg Host.Outcome.next (if_neg (by rcases hn with hn | hn <;> simp [hn]))

theorem retrainInterval_begins (hh : h < 192) (ht : (s.channel h).trained = true) (hp : s.power.pstate ≠ 3)
    (beyond : Bool) : ∃ t, exec (.retrainInterval h beyond) s = .next t ∧ (t.channel h).recent = 0 ∧
      (t.channel h).retraining = ((s.channel h).retraining || beyond) := by
  refine ⟨_, exec_retrainInterval ht hp beyond, ?_⟩
  rw [channel_modChannel_same hh]
  exact ⟨rfl, rfl⟩

/-- The channel once its full retrain has ended. -/
def Channel.retrained (c : Channel) : Channel := { c with retraining := false }

theorem exec_fullRetrainEnd_nothing (hr : (s.channel h).retraining = false) (ok : Bool) :
    exec (.fullRetrainEnd h ok) s = .next s :=
  congrArg Host.Outcome.next (if_neg (by simp [hr]))

theorem exec_fullRetrainEnd_ok (hr : (s.channel h).retraining = true) :
    exec (.fullRetrainEnd h true) s = .next (s.modChannel h Channel.retrained) :=
  congrArg Host.Outcome.next (if_pos hr)

theorem exec_fullRetrainEnd_fails (hr : (s.channel h).retraining = true) :
    exec (.fullRetrainEnd h false) s = .next ((s.modChannel h Channel.retrained).raiseFault (srcMem (h / 48))) :=
  congrArg Host.Outcome.next (if_pos hr)

theorem fullRetrainEnd_ok (hh : h < 192) (hr : (s.channel h).retraining = true) :
    ∃ t, exec (.fullRetrainEnd h true) s = .next t ∧ (t.channel h).retraining = false ∧ t.faults = s.faults :=
  ⟨_, exec_fullRetrainEnd_ok hr, congrArg Channel.retraining (channel_modChannel_same hh _), rfl⟩

theorem fullRetrainEnd_fails (hh : h < 192) (hr : (s.channel h).retraining = true) :
    ∃ t, exec (.fullRetrainEnd h false) s = .next t ∧ (t.channel h).retraining = false ∧
      t.faults.sticky.getLsbD (srcMem (h / 48)) = true := by
  have hraised := raiseFault_raises (s.modChannel h Channel.retrained) (srcMem (h / 48))
  refine ⟨_, exec_fullRetrainEnd_fails hr, ?_, hraised.getLsbD_sticky (srcMem_lt _)⟩
  rw [channel_of_channels hraised.channels, channel_modChannel_same hh, Channel.retrained]

/-! ### SCRUB_READ (R368) -/

/-- The channel once a scrub read is counted. -/
def Channel.scrubs (c : Channel) : Channel := { c with scrubbed := c.scrubbed + 1 }

/-- Scrub reads of the channel take place: it is trained, scrubbing is on, and the module is in Run or Idle
(Table 18-5). -/
structure Scrubs (s : State) (h : Nat) : Prop where
  trained : (s.channel h).trained = true
  rate : s.setting 0x2400 5 ≠ 0
  power : s.power.pstate < 2

theorem exec_scrubRead (hs : Scrubs s h) (line : Nat) (found : LineRead) :
    exec (.scrubRead h line found) s = .next ((s.modChannel h Channel.scrubs).lineRead h line found) :=
  congrArg Host.Outcome.next (if_pos (by simp [hs.trained, hs.rate, hs.power]))

theorem exec_scrubRead_nothing (hn : (s.channel h).trained = false ∨ 2 ≤ s.power.pstate) (line : Nat)
    (found : LineRead) : exec (.scrubRead h line found) s = .next s :=
  congrArg Host.Outcome.next (if_neg (by rcases hn with hn | hn <;> simp [hn, Nat.not_lt.2]))

theorem scrubRead_clean (hh : h < 192) (hs : Scrubs s h) (line : Nat) :
    ∃ t, exec (.scrubRead h line .clean) s = .next t ∧ (t.channel h).scrubbed = (s.channel h).scrubbed + 1 ∧
      { t with channels := s.channels } = s :=
  ⟨_, exec_scrubRead hs line .clean, congrArg Channel.scrubbed (channel_modChannel_same hh _), rfl⟩

theorem scrubRead_corrected (hh : h < 192) (hs : Scrubs s h) (line : Nat) :
    ∃ t, exec (.scrubRead h line .corrected) s = .next t ∧
      (t.channel h).corrected = (s.channel h).corrected + 1 ∧ line ∈ (t.channel h).owed ∧
      (s.setting 0x2400 6 < (s.channel h).recent + 1 → t.causes.sys.getLsbD sysSuspect = true ∧
        t.channelBit 11 h = true) := by
  have hchannel : ((s.modChannel h Channel.scrubs).corrected h line).channel h =
      (s.channel h).scrubs.corrects line := by
    rw [corrected_channel hh, channel_modChannel_same hh]
  have hexec : exec (.scrubRead h line .corrected) s = .next ((s.modChannel h Channel.scrubs).corrected h line) :=
    exec_scrubRead hs line .corrected
  refine ⟨_, hexec, congrArg Channel.corrected hchannel, ?_, fun hmany => ?_⟩
  · rw [hchannel]
    exact List.mem_cons_self ..
  · refine corrected_suspect hh ?_
    rw [channel_modChannel_same hh]
    exact hmany

theorem exec_scrubRead_bad (hs : Scrubs s h) (line : Nat) (mis : Bool) :
    exec (.scrubRead h line (if mis then .misdirected else .uncorrectable)) s =
      .next ((s.modChannel h Channel.scrubs).badLine h mis) := by
  rw [exec_scrubRead hs]
  cases mis <;> rfl

theorem scrubRead_bad (hh : h < 192) (hs : Scrubs s h) (line : Nat) (mis : Bool) :
    ∃ t, exec (.scrubRead h line (if mis then .misdirected else .uncorrectable)) s = .next t ∧
      t.faults.sticky.getLsbD (srcMem (h / 48)) = true ∧ t.causes.sys.getLsbD sysSuspect = true ∧
      (t.channel h).uncorrected = (s.channel h).uncorrected + (if mis then 0 else 1) ∧
      (t.channel h).misdirected = (s.channel h).misdirected + (if mis then 1 else 0) := by
  refine ⟨_, exec_scrubRead_bad hs line mis, badLine_sticky _ h mis, badLine_sys _ h mis, ?_⟩
  rw [badLine_channel hh, channel_modChannel_same hh]
  exact ⟨Channel.countsBad_uncorrected _ mis, Channel.countsBad_misdirected _ mis⟩

/-- An error over three or more symbols that is detected is a bad line. -/
theorem lineRead_wide_detected (hfree : s.free 0 % 2 = 1) (line : Nat) :
    s.lineRead h line .wide = (s.drew 1).badLine h false :=
  if_pos (by simp [hfree])

/-- One that is not detected is miscorrected, and counts as a corrected symbol. -/
theorem lineRead_wide_miscorrected (hfree : s.free 0 % 2 ≠ 1) (line : Nat) :
    s.lineRead h line .wide = ((s.drew 1).miscorrect h line).corrected h line :=
  if_neg (by simpa using hfree)

theorem scrubRead_wide (hh : h < 192) (hs : Scrubs s h) (line : Nat) :
    ∃ t, exec (.scrubRead h line .wide) s = .next t ∧
      (s.free 0 % 2 = 1 → t.faults.sticky.getLsbD (srcMem (h / 48)) = true ∧
        (t.channel h).uncorrected = (s.channel h).uncorrected + 1) ∧
      (s.free 0 % 2 ≠ 1 → (t.channel h).corrected = (s.channel h).corrected + 1 ∧ t.faults = s.faults) := by
  have hdraw : (s.modChannel h Channel.scrubs).free 0 = s.free 0 := rfl
  have hscrubs : ((s.modChannel h Channel.scrubs).drew 1).channel h = (s.channel h).scrubs :=
    channel_modChannel_same hh _
  refine ⟨_, exec_scrubRead hs line .wide, fun hfree => ?_, fun hfree => ?_⟩
  · rw [lineRead_wide_detected (hdraw ▸ hfree), badLine_channel hh, hscrubs]
    exact ⟨badLine_sticky _ h false, rfl⟩
  · rw [lineRead_wide_miscorrected (hdraw ▸ hfree), corrected_channel hh, miscorrect_channel, hscrubs]
    exact ⟨rfl, (corrected_faults _ h line).trans (miscorrect_faults _ h line)⟩

/-! ### CORRECTION_WRITE_BACK (R365) -/

/-- The channel once the write-back of a line is no longer owed. -/
def Channel.writesBack (c : Channel) (line : Nat) : Channel := { c with owed := c.owed.filter (· != line) }

/-- The channel as a write-back finds it: what no scrub read owes follows a corrected symbol that counts first. -/
def Channel.beforeWriteBack (c : Channel) (line : Nat) : Channel :=
  if c.trained = true ∧ line ∉ c.owed then c.corrects line else c

theorem Channel.beforeWriteBack_corrected (c : Channel) (line : Nat) : (c.beforeWriteBack line).corrected =
    c.corrected + (if c.trained = true ∧ line ∉ c.owed then 1 else 0) := by
  unfold Channel.beforeWriteBack
  split
  · rfl
  · exact (BitVec.add_zero _).symm

theorem Channel.mem_beforeWriteBack_owed (c : Channel) {line l : Nat} (hl : l ≠ line) :
    l ∈ (c.beforeWriteBack line).owed ↔ l ∈ c.owed := by
  unfold Channel.beforeWriteBack
  split
  · simp [Channel.corrects, hl]
  · rfl

theorem Channel.mem_writesBack_owed (c : Channel) (line l : Nat) :
    l ∈ (c.writesBack line).owed ↔ l ∈ c.owed ∧ l ≠ line := by
  simp [Channel.writesBack]

/-- A write-back that no corrected symbol precedes: the channel is not trained, or a scrub read owes it. -/
theorem Channel.untrained_or_owed {c : Channel} {line : Nat} (h : ¬ (c.trained = true ∧ line ∉ c.owed)) :
    (!c.trained || c.owed.contains line) = true := by
  rw [Bool.or_eq_true, Bool.not_eq_true', List.contains_iff_mem]
  by_cases ht : c.trained = true
  · exact .inr (Decidable.byContradiction fun hmem => h ⟨ht, hmem⟩)
  · exact .inl (Bool.eq_false_iff.2 ht)

theorem exec_correctionWriteBack (hh : h < 192) (line : Nat) :
    ∃ t, exec (.correctionWriteBack h line) s = .next t ∧
      t.channel h = ((s.channel h).beforeWriteBack line).writesBack line := by
  by_cases hown : (s.channel h).trained = true ∧ line ∉ (s.channel h).owed
  · refine ⟨_, congrArg Host.Outcome.next (if_neg (by simp [hown])), ?_⟩
    rw [Channel.beforeWriteBack, if_pos hown, ← corrected_channel hh]
    exact channel_modChannel_same hh _
  · refine ⟨_, congrArg Host.Outcome.next (if_pos (Channel.untrained_or_owed hown)), ?_⟩
    rw [Channel.beforeWriteBack, if_neg hown]
    exact channel_modChannel_same hh _

theorem correctionWriteBack_settles (hh : h < 192) (line : Nat) :
    ∃ t, exec (.correctionWriteBack h line) s = .next t ∧ line ∉ (t.channel h).owed ∧
      (∀ l, l ≠ line → (l ∈ (t.channel h).owed ↔ l ∈ (s.channel h).owed)) ∧
      (t.channel h).corrected = (s.channel h).corrected +
        (if (s.channel h).trained = true ∧ line ∉ (s.channel h).owed then 1 else 0) := by
  obtain ⟨t, hexec, hchannel⟩ := exec_correctionWriteBack (s := s) hh line
  refine ⟨t, hexec, ?_⟩
  simp only [hchannel, Channel.mem_writesBack_owed]
  exact ⟨fun hmem => hmem.2 rfl,
    fun l hl => (and_iff_left hl).trans (Channel.mem_beforeWriteBack_owed _ hl),
    Channel.beforeWriteBack_corrected _ line⟩

/-- Settles O59: each event changes its own channel as R364 to R371 say, and the fault that a bad line or a failed
retrain raises leaves the channels' counts as they stand. -/
theorem memoryChannels : Obligations.MemoryChannels := by
  unfold Obligations.MemoryChannels
  refine fun s h line hh => ⟨fun _ hp found => exec_scrubRead_nothing (.inr hp) line found,
    fun ht hp => ⟨refresh_counts hh ht hp, retrainInterval_begins hh ht hp, fun hrate hrun => ?_⟩,
    fun hn => ⟨exec_refresh_nothing hn, exec_retrainInterval_nothing hn,
      exec_scrubRead_nothing (hn.imp_right fun hp => by omega) line⟩,
    correctionWriteBack_settles hh line, exec_fullRetrainEnd_nothing,
    fun hr => ⟨fullRetrainEnd_ok hh hr, fullRetrainEnd_fails hh hr⟩⟩
  have hs : Scrubs s h := ⟨ht, hrate, hrun⟩
  exact ⟨scrubRead_clean hh hs line, scrubRead_corrected hh hs line, scrubRead_bad hh hs line,
    scrubRead_wide hh hs line⟩

end Sys2Proof.Machine
end

section
/-!
The lanes of the coherent link (13 R381): which width and lanes a mask of working lanes gives.
-/

namespace Sys2Proof.Machine

theorem lanesWork_iff {w : Nat} (m : BitVec w) (a n : Nat) : lanesWork m a n = true ↔ Works m a n := by
  simp [lanesWork, Works]

/-- The lanes of a narrower group work when all lanes of a wider one do. -/
theorem Works.mono {w a n b k : Nat} {m : BitVec w} (h : Works m a n) (hlow : a ≤ b) (hhigh : b + k ≤ a + n) :
    Works m b k := by
  intro i hi
  rw [show b + i = a + (b - a + i) by omega]
  exact h _ (by omega)

/-- A mask of lanes within a group that works selects working lanes alone. -/
theorem and_eq_of_works {a n : Nat} {m mask : U16} (h : Works m a n)
    (hmask : ∀ i < 16, mask.getLsbD i = true → a ≤ i ∧ i < a + n) : mask &&& m = mask := by
  apply BitVec.eq_of_getLsbD_eq
  intro i hi
  rw [BitVec.getLsbD_and, Bool.and_eq_left_iff_imp]
  intro hset
  obtain ⟨hlow, hhigh⟩ := hmask i hi hset
  have hwork := h (i - a) (by omega)
  rwa [Nat.add_sub_cancel' hlow] at hwork

/-- The width and mask of a group of four lanes. -/
def laneGroup (g : Nat) : Nat × U16 := (4, (0x000F : U16) <<< (4 * g))

section
variable {most : Nat} {m : U16}

theorem cohLanes_all (hmost : 16 ≤ most) (h : Works m 0 16) : cohLanes most m = some (16, 0xFFFF) :=
  if_pos (by simp [hmost, (lanesWork_iff m 0 16).2 h])

theorem cohLanes_narrower (hall : ¬ (16 ≤ most ∧ Works m 0 16)) : cohLanes most m =
    if 8 ≤ most && lanesWork m 0 8 then some (8, 0x00FF)
    else if 8 ≤ most && lanesWork m 8 8 then some (8, 0xFF00)
    else ((List.range 4).find? (fun g => lanesWork m (4 * g) 4)).map laneGroup := by
  unfold cohLanes
  rw [if_neg (by simpa [lanesWork_iff] using hall)]
  rfl

theorem cohLanes_lower (hmost : 8 ≤ most) (hall : ¬ (16 ≤ most ∧ Works m 0 16)) (h : Works m 0 8) :
    cohLanes most m = some (8, 0x00FF) := by
  rw [cohLanes_narrower hall, if_pos (by simp [hmost, (lanesWork_iff m 0 8).2 h])]

theorem cohLanes_upper (hmost : 8 ≤ most) (hlow : ¬ Works m 0 8) (h : Works m 8 8) :
    cohLanes most m = some (8, 0xFF00) := by
  have hall : ¬ (16 ≤ most ∧ Works m 0 16) := fun hw => hlow (hw.2.mono (Nat.le_refl 0) (by decide))
  rw [cohLanes_narrower hall, if_neg (by simp [lanesWork_iff, hlow]),
    if_pos (by simp [hmost, (lanesWork_iff m 8 8).2 h])]

/-- Where neither all lanes nor a half may be taken, the lowest group of four that works is. -/
theorem cohLanes_group (hall : ¬ (16 ≤ most ∧ Works m 0 16)) (hlow : ¬ (8 ≤ most ∧ Works m 0 8))
    (hhigh : ¬ (8 ≤ most ∧ Works m 8 8)) : cohLanes most m =
      ((List.range 4).find? (fun g => lanesWork m (4 * g) 4)).map laneGroup := by
  rw [cohLanes_narrower hall, if_neg (by simpa [lanesWork_iff] using hlow),
    if_neg (by simpa [lanesWork_iff] using hhigh)]

/-- What a choice of lanes may be (R381): all 16, a half, or a group of four, as wide as the most allowed, and working. -/
inductive LaneChoice (most : Nat) (m : U16) : Option (Nat × U16) → Prop
  | all (hmost : 16 ≤ most) (h : Works m 0 16) : LaneChoice most m (some (16, 0xFFFF))
  | lower (hmost : 8 ≤ most) (h : Works m 0 8) : LaneChoice most m (some (8, 0x00FF))
  | upper (hmost : 8 ≤ most) (h : Works m 8 8) : LaneChoice most m (some (8, 0xFF00))
  | group (g : Nat) (hg : g < 4) (h : Works m (4 * g) 4) : LaneChoice most m (some (laneGroup g))
  | none (h : ∀ g < 4, ¬ Works m (4 * g) 4) : LaneChoice most m none

theorem cohLanes_choice (most : Nat) (m : U16) : LaneChoice most m (cohLanes most m) := by
  by_cases hall : 16 ≤ most ∧ Works m 0 16
  · rw [cohLanes_all hall.1 hall.2]
    exact .all hall.1 hall.2
  by_cases hlow : 8 ≤ most ∧ Works m 0 8
  · rw [cohLanes_lower hlow.1 hall hlow.2]
    exact .lower hlow.1 hlow.2
  by_cases hhigh : 8 ≤ most ∧ Works m 8 8
  · rw [cohLanes_upper hhigh.1 (fun h => hlow ⟨hhigh.1, h⟩) hhigh.2]
    exact .upper hhigh.1 hhigh.2
  rw [cohLanes_group hall hlow hhigh]
  cases hfind : (List.range 4).find? (fun g => lanesWork m (4 * g) 4) with
  | none => exact .none fun g hg hw =>
      List.find?_eq_none.1 hfind g (List.mem_range.2 hg) ((lanesWork_iff m _ _).2 hw)
  | some g =>
    have hworks : lanesWork m (4 * g) 4 = true := List.find?_some (p := fun g => lanesWork m (4 * g) 4) hfind
    exact .group g (List.mem_range.1 (List.mem_of_find?_eq_some hfind)) ((lanesWork_iff m _ _).1 hworks)

/-- The lanes of a group of four. -/
theorem groupMask_within : ∀ g < 4, ∀ i < 16, ((0x000F : U16) <<< (4 * g)).getLsbD i = true →
    4 * g ≤ i ∧ i < 4 * g + 4 := by decide

theorem cohLanes_some {w : Nat} {mask : U16} (h : cohLanes most m = some (w, mask)) :
    (w = 16 ∨ w = 8 ∨ w = 4) ∧ (4 ≤ most → w ≤ most) ∧ mask &&& m = mask := by
  have hchoice := cohLanes_choice most m
  rw [h] at hchoice
  cases hchoice with
  | all hmost hw => exact ⟨.inl rfl, fun _ => hmost, and_eq_of_works hw (by decide)⟩
  | lower hmost hw => exact ⟨.inr (.inl rfl), fun _ => hmost, and_eq_of_works hw (by decide)⟩
  | upper hmost hw => exact ⟨.inr (.inl rfl), fun _ => hmost, and_eq_of_works hw (by decide)⟩
  | group g hg hw => exact ⟨.inr (.inr rfl), fun hmost => hmost, and_eq_of_works hw (groupMask_within g hg)⟩

theorem cohLanes_none (h : cohLanes most m = none) : ∀ g < 4, ¬ Works m (4 * g) 4 := by
  have hchoice := cohLanes_choice most m
  rw [h] at hchoice
  cases hchoice with
  | none hnone => exact hnone

end

/-- Settles O36: the case split of R381, widest choice first; each choice's mask lies within a group that works. -/
theorem laneWidths : Obligations.LaneWidths := by
  unfold Obligations.LaneWidths
  exact fun most m w mask =>
    ⟨cohLanes_all, cohLanes_lower, cohLanes_upper, cohLanes_some, cohLanes_none⟩

end Sys2Proof.Machine
end

section
/-!
Messages of the companion on the coherent link (13 R383 to R388): snoops, data, acknowledgements and errors.
-/

namespace Sys2Proof.Machine

/-! ### Snoops (R384 to R386) -/

/-- A read that brings the line at `off` to a ring that watches it. -/
def ReadOut.watchedAt (x : ReadOut) (off : Nat) : Bool :=
  x.addr == off && match x.use with
    | .record _ _ | .source | .dropped => false
    | _ => true

theorem ReadOut.watchedAt_of_use {x : ReadOut} {off : Nat} (haddr : x.addr = off) (hrecord : ∀ n i, x.use ≠ .record n i)
    (hsource : x.use ≠ .source) (hdropped : x.use ≠ .dropped) : x.watchedAt off = true := by
  rw [ReadOut.watchedAt, haddr, beq_self_eq_true, Bool.true_and]
  cases huse : x.use with
  | record n i => exact absurd huse (hrecord n i)
  | source => exact absurd huse hsource
  | dropped => exact absurd huse hdropped
  | producer n => rfl
  | consumer c => rfl

theorem ReadOut.watchedAt_other {x : ReadOut} {off : Nat} (haddr : x.addr ≠ off) : x.watchedAt off = false := by
  simp [ReadOut.watchedAt, haddr]

/-- The outstanding reads of a watched line become stale. -/
def State.staleAt (s : State) (off : Nat) : State :=
  s.modLink (fun l => { l with
    reads := l.reads.map (fun x => if x.watchedAt off then { x with stale := true } else x) })

/-- The shared copy of a line is given up. -/
def State.giveUp (s : State) (off : Nat) : State :=
  s.modLink (fun l => { l with shared := l.shared.filter (· != off) })

/-- A line is read anew, once for each of its uses. -/
def State.readFor (s : State) (off : Nat) (l : List ReadUse) : State := l.foldl (fun s u => s.sendRead off u) s

section
variable (s : State) (tag : U16) (addr : U64)

/-- The offset in companion memory of an address on the link. -/
def State.offset : Nat := (addr - s.link.t2Base).toNat

theorem snpInv_stale (h : s.link.reads.any (·.watchedAt (s.offset addr)) = true) :
    s.snpInv tag addr = (s.send (.invAck tag addr)).staleAt (s.offset addr) :=
  if_pos h

theorem snpInv_unwatched (h : s.link.reads.any (·.watchedAt (s.offset addr)) = false)
    (hshared : s.offset addr ∉ s.link.shared) (huses : s.watchUses (s.offset addr) = []) :
    s.snpInv tag addr = s.send (.invAck tag addr) :=
  (if_neg (by rw [Bool.not_eq_true]; exact h)).trans (if_neg (by
    show ¬ (s.link.shared.contains (s.offset addr) || !(s.watchUses (s.offset addr)).isEmpty) = true
    simp [hshared, huses]))

theorem snpInv_rereads (h : s.link.reads.any (·.watchedAt (s.offset addr)) = false)
    (hwatch : s.offset addr ∈ s.link.shared ∨ s.watchUses (s.offset addr) ≠ []) :
    s.snpInv tag addr = if s.traffic
      then ((s.send (.invAck tag addr)).giveUp (s.offset addr)).readFor (s.offset addr) (s.watchUses (s.offset addr))
      else (s.send (.invAck tag addr)).giveUp (s.offset addr) :=
  (if_neg (by rw [Bool.not_eq_true]; exact h)).trans (if_pos (by
    show (s.link.shared.contains (s.offset addr) || !(s.watchUses (s.offset addr)).isEmpty) = true
    simpa using hwatch))

end

theorem OnlyLink.readFor {s t : State} (h : OnlyLink s t) (off : Nat) (l : List ReadUse) :
    OnlyLink s (t.readFor off l) :=
  foldl_keeps (P := OnlyLink s) h (fun _ _ h => h)

theorem OnlyLink.refl (s : State) : OnlyLink s s := rfl

/-- What each line that a list of uses asks for leaves of the link: one more read, the shared copies as they are. -/
theorem readFor_link (s : State) (off : Nat) (l : List ReadUse) :
    (s.readFor off l).link.reads.length = s.link.reads.length + l.length ∧
      (s.readFor off l).link.shared = s.link.shared ∧ s.sent <:+ (s.readFor off l).sent := by
  induction l generalizing s with
  | nil => exact ⟨rfl, rfl, List.suffix_refl _⟩
  | cons u l ih =>
    obtain ⟨hreads, hshared, hsent⟩ := ih (s.sendRead off u)
    refine ⟨hreads.trans ?_, hshared.trans rfl, (List.suffix_cons _ _).trans hsent⟩
    simp [State.sendRead]
    omega

/-- What a snoop leaves, whatever watches the line (R384 to R386). -/
theorem snpInv_effect (s : State) (tag : U16) (addr : U64) :
    OnlyLink s (s.snpInv tag addr) ∧ Sent.invAck tag addr ∈ (s.snpInv tag addr).sent := by
  have hacked : Sent.invAck tag addr ∈ (s.send (.invAck tag addr)).sent := List.mem_cons_self ..
  by_cases hread : s.link.reads.any (·.watchedAt (s.offset addr)) = true
  · rw [snpInv_stale s tag addr hread]
    exact ⟨OnlyLink.refl s, hacked⟩
  rw [Bool.not_eq_true] at hread
  by_cases hwatch : s.offset addr ∈ s.link.shared ∨ s.watchUses (s.offset addr) ≠ []
  · rw [snpInv_rereads s tag addr hread hwatch]
    have hgiven : OnlyLink s ((s.send (.invAck tag addr)).giveUp (s.offset addr)) := rfl
    split
    · exact ⟨hgiven.readFor _ _, (readFor_link _ _ _).2.2.subset hacked⟩
    · exact ⟨hgiven, hacked⟩
  · rw [not_or, not_not] at hwatch
    rw [snpInv_unwatched s tag addr hread hwatch.1 hwatch.2]
    exact ⟨OnlyLink.refl s, hacked⟩

/-- A read of a watched line that is outstanding becomes stale, and the answer goes out alone. -/
theorem snpInv_outstanding {s : State} {tag : U16} {addr : U64} {x : ReadOut} (hx : x ∈ s.link.reads)
    (hw : x.watchedAt (s.offset addr) = true) : (s.snpInv tag addr).sent = .invAck tag addr :: s.sent ∧
      { x with stale := true } ∈ (s.snpInv tag addr).link.reads := by
  rw [snpInv_stale s tag addr (List.any_eq_true.2 ⟨x, hx, hw⟩)]
  exact ⟨rfl, List.mem_map.2 ⟨x, hx, if_pos hw⟩⟩

theorem any_watchedAt_false {l : List ReadOut} {off : Nat} (h : ∀ x ∈ l, x.addr ≠ off) :
    l.any (·.watchedAt off) = false := by
  simpa using fun x hx => ReadOut.watchedAt_other (h x hx)

/-- A shared copy is given up, and the line is read again for each of its uses. -/
theorem snpInv_shared {s : State} {tag : U16} {addr : U64} (hshared : s.offset addr ∈ s.link.shared)
    (hreads : ∀ x ∈ s.link.reads, x.addr ≠ s.offset addr) : s.offset addr ∉ (s.snpInv tag addr).link.shared ∧
      (s.traffic = true → (s.snpInv tag addr).link.reads.length =
        s.link.reads.length + (s.watchUses (s.offset addr)).length) := by
  have hgone : s.offset addr ∉ ((s.send (.invAck tag addr)).giveUp (s.offset addr)).link.shared := by
    simp [State.giveUp]
  have hread := readFor_link ((s.send (.invAck tag addr)).giveUp (s.offset addr)) (s.offset addr)
    (s.watchUses (s.offset addr))
  rw [snpInv_rereads s tag addr (any_watchedAt_false hreads) (.inl hshared)]
  split
  · rw [hread.2.1]
    exact ⟨hgone, fun _ => hread.1⟩
  · rename_i htraffic
    exact ⟨hgone, fun h => absurd h htraffic⟩

/-- The state in which a snoop is answered: the module wakes when the line is watched (R497). -/
def State.snooped (s : State) (off : Nat) : State :=
  if off ∈ s.link.shared ∨ s.watchUses off ≠ [] then s.wake else s

/-- Waking leaves all that a snoop looks at. -/
theorem snooped_view (s : State) (off : Nat) : (s.snooped off).link = s.link ∧ (s.snooped off).sent = s.sent ∧
    (s.snooped off).traffic = s.traffic ∧ (s.snooped off).watchUses = s.watchUses := by
  unfold State.snooped
  split <;> exact ⟨rfl, rfl, rfl, rfl⟩

theorem snooped_unwatched {s : State} {off : Nat} (hshared : off ∉ s.link.shared) (huses : s.watchUses off = []) :
    s.snooped off = s :=
  if_neg (by simp [hshared, huses])

theorem exec_snpInv (tag : U16) (addr : U64) (s : State) :
    exec (.snpInv tag addr) s = .next ((s.snooped (s.offset addr)).snpInv tag addr) := by
  show Host.Outcome.next ((if s.link.shared.contains (s.offset addr) ||
    !(s.watchUses (s.offset addr)).isEmpty then s.wake else s).snpInv tag addr) = _
  congr 3
  simp

/-! ### Data (R386) -/

/-- The line that a read brings stands in companion memory, and the read is over. -/
def State.lineCame (s : State) (tag : U16) (x : ReadOut) (line : Line) : State :=
  { s.modLink (fun l => { l with reads := l.reads.filter (fun y => y.tag != tag) }) with
    t2 := writeBytes s.t2 x.addr (lineBytes line 64) }

/-- The use that a line was read for goes on. -/
def State.useLine (s : State) (x : ReadOut) (line : Line) : State :=
  match x.use with
  | .producer n => (s.keepWatched x (s.cmdRing n).enabled).takeProducer n (line.extractLsb' 0 32)
  | .consumer c => ((s.keepWatched x (s.cqRing c).enabled).takeConsumer c (line.extractLsb' 0 32)).injectDue
  | .source => s.readSource
  | .dropped => s.keepWatched x (s.link.shared.contains x.addr || s.link.reads.any (fun y => y.addr == x.addr))
  | .record n i =>
    if x.stale then s else (s.modCmd n (fun r => { r with arrived := r.arrived ++ [(i, line)] })).serveRing n

section
variable {s : State} {tag : U16} {line : Line} {x : ReadOut}

theorem exec_data_unknown (h : ∀ x ∈ s.link.reads, x.tag ≠ tag) :
    exec (.data tag line) s = .next ((s.raiseFault srcClProto).pumpLink 0) := by
  have hfind : s.link.reads.find? (fun x => x.tag == tag) = none := by simpa using h
  show Host.Outcome.next ((s.dataArrives tag line).pumpLink 0) = _
  rw [State.dataArrives, hfind]
  rfl

theorem exec_data (hfind : s.link.reads.find? (fun x => x.tag == tag) = some x) :
    exec (.data tag line) s = .next (((s.lineCame tag x line).useLine x line).pumpLink 0) := by
  show Host.Outcome.next ((s.dataArrives tag line).pumpLink 0) = _
  rw [State.dataArrives, hfind]
  rfl

theorem useLine_producer {n : Nat} (h : x.use = .producer n) : s.useLine x line =
    (s.keepWatched x (s.cmdRing n).enabled).takeProducer n (line.extractLsb' 0 32) := by
  rw [State.useLine, h]

theorem useLine_consumer {c : Nat} (h : x.use = .consumer c) : s.useLine x line =
    ((s.keepWatched x (s.cqRing c).enabled).takeConsumer c (line.extractLsb' 0 32)).injectDue := by
  rw [State.useLine, h]

theorem useLine_source (h : x.use = .source) : s.useLine x line = s.readSource := by
  rw [State.useLine, h]

theorem useLine_dropped (h : x.use = .dropped) : s.useLine x line =
    s.keepWatched x (s.link.shared.contains x.addr || s.link.reads.any (fun y => y.addr == x.addr)) := by
  rw [State.useLine, h]

theorem useLine_staleRecord {n : Nat} {i : U32} (h : x.use = .record n i) (hstale : x.stale = true) :
    s.useLine x line = s := by
  rw [State.useLine, h]
  exact if_pos hstale

theorem useLine_record {n : Nat} {i : U32} (h : x.use = .record n i) (hstale : x.stale = false) : s.useLine x line =
    (s.modCmd n (fun r => { r with arrived := r.arrived ++ [(i, line)] })).serveRing n := by
  rw [State.useLine, h]
  exact if_neg (by rw [hstale]; decide)

/-! ### Acknowledgements and errors (R387, R388) -/

theorem exec_wrAck (h : tag ∈ s.link.writes) :
    exec (.wrAck tag) s = .next ((s.modLink (·.written tag)).pumpLink 0).releaseAll.injectDue :=
  congrArg Host.Outcome.next (if_pos (List.contains_iff_mem.2 h))

theorem exec_wrAck_unknown (h : tag ∉ s.link.writes) : exec (.wrAck tag) s = .next (s.raiseFault srcClProto) :=
  congrArg Host.Outcome.next (if_neg (by simpa using h))

/-- The request that an ERR answers is over; records that it was to bring are read anew. -/
def State.errored (s : State) (tag : U16) : State :=
  (s.refetchRings (fun n => s.recordRing tag == some n)).modLink (fun l => { l.written tag with
    reads := l.reads.filter (fun x => x.tag != tag), sources := [] })

theorem exec_err (h : tag ∈ s.link.writes ∨ ∃ x ∈ s.link.reads, x.tag = tag) : exec (.err tag) s =
    .next ((List.range 64).foldl (fun t n => if s.recordRing tag == some n then t.serveRing n else t)
      (((s.errored tag).raiseFault srcClErr).pumpLink 0).releaseAll.injectDue) :=
  congrArg Host.Outcome.next (if_pos (by simpa using h))

theorem exec_err_unknown (hwrites : tag ∉ s.link.writes) (hreads : ∀ x ∈ s.link.reads, x.tag ≠ tag) :
    exec (.err tag) s = .next (s.raiseFault srcClProto) :=
  congrArg Host.Outcome.next (if_neg (by simpa using ⟨hwrites, hreads⟩))

end

/-- Settles O33: a snoop is answered whatever watches its line, and each answer of the companion goes to the request
that its tag names, or breaks the protocol. -/
theorem companionMessages : Obligations.CompanionMessages := by
  unfold Obligations.CompanionMessages
  refine ⟨fun s tag addr => ?_, fun s tag line => exec_data_unknown, fun s tag line x hfind => ?_,
    fun s tag => exec_wrAck, fun s tag => exec_wrAck_unknown, fun s tag => exec_err, fun s tag => exec_err_unknown⟩
  · obtain ⟨hlink, hsent, htraffic, huses⟩ := snooped_view s (s.offset addr)
    have hoff : (s.snooped (s.offset addr)).offset addr = s.offset addr := by rw [State.offset, hlink]; rfl
    obtain ⟨honly, hacked⟩ := snpInv_effect (s.snooped (s.offset addr)) tag addr
    refine ⟨_, exec_snpInv tag addr s, honly, hacked, fun hshared hnone hreads => ?_,
      fun x hx haddr hrecord hsource hdropped => ?_, fun hshared hreads => ?_⟩
    · rw [snooped_unwatched (off := s.offset addr) hshared hnone]
      exact snpInv_unwatched s tag addr (any_watchedAt_false hreads) hshared hnone
    · rw [← hsent]
      rw [← hlink] at hx
      refine snpInv_outstanding hx (ReadOut.watchedAt_of_use ?_ hrecord hsource hdropped)
      rw [hoff]
      exact haddr
    · have h := snpInv_shared (s := s.snooped (s.offset addr)) (tag := tag) (addr := addr)
      rw [hoff, hlink, htraffic, huses] at h
      exact h hshared hreads
  · rw [exec_data hfind]
    exact ⟨fun n h => by rw [useLine_producer h]; rfl, fun c h => by rw [useLine_consumer h]; rfl,
      fun h => by rw [useLine_source h]; rfl, fun h => by rw [useLine_dropped h]; rfl,
      fun n i h hstale => by rw [useLine_staleRecord h hstale]; rfl,
      fun n i h hstale => by rw [useLine_record h hstale]; rfl⟩

end Sys2Proof.Machine
end

section
/-!
The dictionary window (13 R392 to R394): what WIN_RD reads of it, and what WIN_WR carries out.
-/

namespace Sys2Proof.Machine

theorem vGet_of_lt {α : Type} {n i : Nat} (v : Vector α n) (hi : i < n) (d : α) : vGet v i d = v[i] := by
  simp [vGet, hi]

theorem vMod_of_lt {α : Type} {n i : Nat} (v : Vector α n) (hi : i < n) (f : α → α) :
    vMod v i f = v.set i (f v[i]) hi := by
  simp [vMod, hi, Vector.setIfInBounds, Vector.set, Array.setIfInBounds]

section
variable {s : State} {tag : U16} {slot : Nat} {l : Line}

/-! ### WIN_RD (R392) -/

theorem windowLine_request (h : slot < 32) : s.windowLine (128 * slot) = s.link.slots[slot].request := by
  have hslot : s.link.slots[128 * slot / 128]? = some s.link.slots[slot] := by simp [h]
  rw [State.windowLine, hslot]
  exact if_pos (by omega)

theorem windowLine_response (h : slot < 32) : s.windowLine (128 * slot + 64) = s.link.slots[slot].response := by
  have hslot : s.link.slots[(128 * slot + 64) / 128]? = some s.link.slots[slot] := by
    rw [show (128 * slot + 64) / 128 = slot by omega]
    simp [h]
  rw [State.windowLine, hslot]
  exact if_neg (by omega)

theorem windowLine_outside {off : Nat} (h : 4096 ≤ off) : s.windowLine off = 0 := by
  have hslot : s.link.slots[off / 128]? = none := by
    rw [Vector.getElem?_eq_none_iff]
    omega
  rw [State.windowLine, hslot]

theorem exec_winRd_request (h : slot < 32) :
    exec (.winRd tag (128 * slot)) s = .next (s.send (.winData tag s.link.slots[slot].request)) := by
  rw [← windowLine_request h]
  exact congrArg Host.Outcome.next (if_neg (by simp))

theorem exec_winRd_response (h : slot < 32) : exec (.winRd tag (128 * slot + 64)) s =
    .next ((s.send (.winData tag s.link.slots[slot].response)).modLink
      (fun l => { l with slots := l.slots.set slot { s.link.slots[slot] with unread := false } h })) := by
  have hslots : vMod s.link.slots slot (fun w => { w with unread := false }) =
      s.link.slots.set slot { s.link.slots[slot] with unread := false } h := vMod_of_lt _ h _
  rw [← windowLine_response h]
  refine congrArg Host.Outcome.next ((if_pos ?_).trans ?_)
  · simp
    omega
  · rw [show (128 * slot + 64) / 128 = slot by omega, State.modLink, State.modLink]
    simp only [State.send_link, hslots]

theorem exec_winRd_outside {off : Nat} (h : 4096 ≤ off) :
    exec (.winRd tag off) s = .next (s.send (.winData tag 0)) := by
  rw [← windowLine_outside h (s := s)]
  exact congrArg Host.Outcome.next (if_neg (by simp; omega))

/-! ### WIN_WR (R393, R394) -/

/-- The state once a request line of a slot has come and has been answered. -/
def State.requestCame (s : State) (tag : U16) (slot : Nat) (l : Line) : State :=
  (s.wake.send (.winDone tag)).putSlotLine slot (fun x => { x with request := l })

theorem exec_winWr_request (h : slot < 32) : exec (.winWr tag (128 * slot) l) s =
    .next (if (s.requestCame tag slot l).serves 0 then (s.requestCame tag slot l).requestAt slot l
      else s.requestCame tag slot l) := by
  refine congrArg Host.Outcome.next ((if_pos ?_).trans ?_)
  · simp
    omega
  · rw [show 128 * slot / 128 = slot by omega]
    rfl

theorem exec_winWr_nothing {off : Nat} (h : 4096 ≤ off ∨ off % 128 ≠ 0) :
    exec (.winWr tag off l) s = .next (s.wake.send (.winDone tag)) :=
  congrArg Host.Outcome.next (if_neg (by simp; omega))

theorem requestAt_complete (h : slot < 32) (hread : s.link.slots[slot].unread = false) :
    s.requestAt slot l = s.runSlot slot l := by
  simp [State.requestAt, State.slotBusy, vGet_of_lt _ h, hread]

/-- A request that finds the previous one unread is ignored or carried out, as a free value says. -/
theorem requestAt_unread (h : slot < 32) (hread : s.link.slots[slot].unread = true) : s.requestAt slot l =
    if s.free 0 % 2 = 1 then (s.drew 1).modLink (fun k => { k with winOverruns := k.winOverruns + 1 })
    else (s.drew 1).runSlot slot l := by
  simp [State.requestAt, State.slotBusy, vGet_of_lt _ h, hread]

end

/-- Settles O35: the slot that an offset names, and whether the slot's previous request is complete. -/
theorem windowMessages : Obligations.WindowMessages := by
  unfold Obligations.WindowMessages
  refine ⟨fun s tag slot h => ⟨exec_winRd_request h, exec_winRd_response h⟩, fun s tag off => exec_winRd_outside,
    fun s tag slot l h => ?_, fun s tag off l => exec_winWr_nothing⟩
  rw [exec_winWr_request h]
  refine ⟨fun hserves => ?_, fun hserves hread => ?_, fun hserves hread => ?_⟩
  · exact congrArg Host.Outcome.next (if_neg (by rw [Bool.not_eq_true]; exact hserves))
  · rw [← requestAt_complete h hread]
    exact congrArg Host.Outcome.next (if_pos hserves)
  · rw [← requestAt_unread h hread]
    exact congrArg Host.Outcome.next (if_pos hserves)

end Sys2Proof.Machine
end

section
/-!
States of the coherent link (13 R381, R385, R390, R391): training, loss, the backstop poll and lanes that fail.
-/

namespace Sys2Proof.Machine

/-- The companion's advertisements that R390 asks for. -/
theorem adverts_iff {size : U64} {rm rc sm wm wc : Nat} : adverts size rm rc sm wm wc = true ↔
    size ≠ 0 ∧ size.toNat % 65536 = 0 ∧ 256 ≤ rm ∧ 256 ≤ rc ∧ 128 ≤ sm ∧ 32 ≤ wm ∧ 32 ≤ wc := by
  simp [adverts, and_assoc]

section
variable {s : State} {base size : U64} {lanes : U16} {rm rc sm wm wc : Nat}

/-- The link as LINK_TRAINED brings it up, before traffic resumes. -/
def State.cameUp (s : State) (base size : U64) (w : Nat) (m : U16) (rm rc sm wm wc : Nat) : State :=
  let u := (s.cohAdvert.modLink (fun l => { l with
    state := 2, failed := false, width := w, lanesOk := m, maxWidth := w, reqCredits := rm, t2Base := base,
    t2Size := size.toNat })).resetLayer 0
  { u with layers := vMod u.layers 0 (fun y => y.granted (grantedMsgs rm sm wm) (grantedCells rc wc)) }

theorem linkTrained_up {w : Nat} {m : U16} (hruns : s.linksRun = true)
    (hlanes : cohLanes s.link.maxWidth lanes = some (w, m)) (hadverts : adverts size rm rc sm wm wc = true) :
    s.linkTrained base size lanes rm rc sm wm wc =
      ((List.range 64).foldl (fun s c => s.ownIndex c) (s.cameUp base size w m rm rc sm wm wc)).resumeTraffic := by
  have hwidth : cohLanes s.cohAdvert.link.maxWidth lanes = some (w, m) := hlanes
  rw [State.linkTrained, if_neg (by rw [hruns]; decide)]
  dsimp only
  rw [hwidth]
  exact if_pos hadverts

/-- Without working lanes or without the advertisements the link is down. -/
theorem linkTrained_absent (hruns : s.linksRun = true)
    (h : cohLanes s.link.maxWidth lanes = none ∨ adverts size rm rc sm wm wc = false) :
    s.linkTrained base size lanes rm rc sm wm wc = s.cohAdvert.linkAbsent := by
  rw [State.linkTrained, if_neg (by rw [hruns]; decide)]
  dsimp only
  cases hlanes : cohLanes s.cohAdvert.link.maxWidth lanes with
  | none => rfl
  | some c =>
    have hadverts := h.resolve_left fun hnone => Option.some_ne_none c (hlanes.symm.trans hnone)
    exact if_neg (by rw [hadverts]; decide)

/-- What must be missing when an advertisement of R390 is. -/
theorem adverts_false (h : size = 0 ∨ size.toNat % 65536 ≠ 0 ∨ rm < 256 ∨ rc < 256 ∨ sm < 128 ∨ wm < 32 ∨ wc < 32) :
    adverts size rm rc sm wm wc = false := by
  rw [← Bool.not_eq_true, adverts_iff]
  rintro ⟨hsize, hwhole, hrm, hrc, hsm, hwm, hwc⟩
  rcases h with h | h
  · exact hsize h
  · omega

end

section
variable {s : State} {working : U16}

theorem exec_linkTrainingRetry (hdown : s.link.state = 0) (hruns : s.linksRun = true) :
    exec .linkTrainingRetry s = .next (s.modLink (fun l => { l with state := 1 })) :=
  congrArg Host.Outcome.next (if_pos (by simp [hdown, hruns]))

theorem exec_watchPoll (hpoll : s.setting 0x1110 5 ≠ 0) (htraffic : s.traffic = true) :
    exec .watchPoll s = .next (s.rewatch (fun _ => true)) :=
  congrArg Host.Outcome.next (if_pos (by simp [hpoll, htraffic]))

/-- A lane in use that fails leaves the link at the lanes that still work. -/
theorem cohLaneFailure_narrows {w : Nat} {m : U16} (hup : s.link.state = 2)
    (hlost : s.link.lanesOk &&& working ≠ s.link.lanesOk) (hlanes : cohLanes s.link.maxWidth working = some (w, m)) :
    s.cohLaneFailure working = ((s.modLink (fun l => { l with
      width := w, lanesOk := m, maxWidth := w, retrains := l.retrains + 1 })).resendFlits 0).setLinkCause 0 := by
  rw [State.cohLaneFailure, if_neg (by simp [hup, hlost]), hlanes]

/-- Where none are left the link is lost. -/
theorem cohLaneFailure_loses (hup : s.link.state = 2) (hlost : s.link.lanesOk &&& working ≠ s.link.lanesOk)
    (hlanes : cohLanes s.link.maxWidth working = none) : s.cohLaneFailure working = s.linkLost := by
  rw [State.cohLaneFailure, if_neg (by simp [hup, hlost]), hlanes]

end

/-- Settles O37: whether lanes and advertisements let the link come up, and whether lanes are left when one fails. -/
theorem linkStates : Obligations.LinkStates := by
  unfold Obligations.LinkStates
  refine ⟨fun s base size lanes rm rc sm wm wc w m hruns hlanes hsize hwhole hrm hrc hsm hwm hwc => ?_,
    fun s base size lanes rm rc sm wm wc hruns h => ?_, fun s => rfl, fun s => exec_linkTrainingRetry,
    fun s => exec_watchPoll, fun s working w m hup hlost hlanes => ?_, fun s working hup hlost hlanes => ?_⟩
  · exact congrArg Host.Outcome.next
      (linkTrained_up hruns hlanes (adverts_iff.2 ⟨hsize, hwhole, hrm, hrc, hsm, hwm, hwc⟩))
  · exact congrArg Host.Outcome.next (linkTrained_absent hruns (h.imp_right adverts_false))
  · exact congrArg Host.Outcome.next (cohLaneFailure_narrows hup hlost hlanes)
  · exact congrArg Host.Outcome.next (cohLaneFailure_loses hup hlost hlanes)

end Sys2Proof.Machine
end

section
/-!
What transmitters do (13 R379, R380, R389): messages leave or wait, and what the links have received stands. Entering
the fault state (17 R475, R476) sends, and leaves the receivers and the ports' states alone.
-/

namespace Sys2Proof.Machine

/-- What a link's layer knows of the flits that have arrived. -/
def FlitLayer.received (y : FlitLayer) : BitVec 12 × BitVec 12 × Nat := (y.rxSeq, y.lastAck, y.sinceAck)

/-- A port without what its transmitter counts and holds back. -/
def PeerPort.besideTx (x : PeerPort) : PeerPort :=
  { x with
    txBytes := PeerPort.reset.txBytes, replays := PeerPort.reset.replays, waiting := PeerPort.reset.waiting }

/-- `t` follows `s` by what transmitters do. -/
structure Transmits (s t : State) : Prop where
  received (l : Nat) : (vGet t.layers l FlitLayer.reset).received = (vGet s.layers l FlitLayer.reset).received
  ports (p : Nat) : (t.port p).besideTx = (s.port p).besideTx
  sent : s.sent <:+ t.sent

theorem Transmits.trans {s t u : State} (h : Transmits s t) (h' : Transmits t u) : Transmits s u :=
  ⟨fun l => (h'.received l).trans (h.received l), fun p => (h'.ports p).trans (h.ports p), h.sent.trans h'.sent⟩

theorem Transmits.of_eq {s t : State} (hlayers : t.layers = s.layers) (hports : t.ports = s.ports)
    (hsent : t.sent = s.sent) : Transmits s t :=
  ⟨fun l => by rw [hlayers], fun p => by rw [State.port, hports, State.port], hsent ▸ List.suffix_refl _⟩

theorem Transmits.refl (s : State) : Transmits s s := .of_eq rfl rfl rfl

/-- A state that agrees with `t` in layers, ports and messages sent may stand in its place. -/
theorem Transmits.congr_right {s t u : State} (h : Transmits s t) (hlayers : u.layers = t.layers := by rfl)
    (hports : u.ports = t.ports := by rfl) (hsent : u.sent = t.sent := by rfl) : Transmits s u :=
  h.trans (.of_eq hlayers hports hsent)

theorem Transmits.congr_left {s t u : State} (h : Transmits t u) (hlayers : t.layers = s.layers := by rfl)
    (hports : t.ports = s.ports := by rfl) (hsent : t.sent = s.sent := by rfl) : Transmits s u :=
  (Transmits.of_eq hlayers hports hsent).trans h

theorem foldl_transmits {α : Type} {f : State → α → State} (hf : ∀ s a, Transmits s (f s a)) (l : List α) (s : State) :
    Transmits s (l.foldl f s) :=
  foldl_keeps (P := Transmits s) (Transmits.refl s) (fun t a h => h.trans (hf t a))

section
variable {s t : State} (h : Transmits s t)
include h

theorem Transmits.port_state (p : Nat) : (t.port p).state = (s.port p).state :=
  (congrArg PeerPort.state (h.ports p) :)

theorem Transmits.port_rxBytes (p : Nat) : (t.port p).rxBytes = (s.port p).rxBytes :=
  (congrArg PeerPort.rxBytes (h.ports p) :)

theorem Transmits.mem_sent {m : Sent} (hm : m ∈ s.sent) : m ∈ t.sent := h.sent.subset hm

end

/-! ### Layers -/

theorem push_received (y : FlitLayer) (m : WaitingMsg) : (y.push m).received = y.received := rfl

theorem run_received (y : FlitLayer) (r : Room) (m : WaitingMsg) (k : Nat) :
    (y.run r m k).1.received = y.received := by
  induction k generalizing y r m with
  | zero => rfl
  | succ k ih =>
    unfold FlitLayer.run
    split
    · exact (ih _ _ _).trans (push_received y m)
    · rfl

theorem pumpFlits_received (r : Room) (ms : List WaitingMsg) (held : List Nat) (y : FlitLayer) :
    (pumpFlits r ms held y).received = y.received := by
  induction ms generalizing r held y with
  | nil => rfl
  | cons m ms ih =>
    unfold pumpFlits
    dsimp only
    split
    · exact ih _ _ _
    · split
      · exact (ih _ _ _).trans (run_received y r m _)
      · exact (ih _ _ _).trans (run_received y r m _)

theorem pump_received (y : FlitLayer) (r : Room) : (y.pump r).received = y.received := pumpFlits_received _ _ _ _

theorem received_vMod {ls : Vector FlitLayer 9} {f : FlitLayer → FlitLayer} (hf : ∀ y, (f y).received = y.received)
    (k l : Nat) : (vGet (vMod ls k f) l FlitLayer.reset).received = (vGet ls l FlitLayer.reset).received := by
  rw [vGet_vMod]
  split
  · exact hf _
  · rfl

theorem modLayers_transmits (s : State) (k : Nat) {f : FlitLayer → FlitLayer} (hf : ∀ y, (f y).received = y.received) :
    Transmits s { s with layers := vMod s.layers k f } :=
  ⟨received_vMod hf k, fun _ => rfl, List.suffix_refl _⟩

theorem modPort_transmits (s : State) (p : Nat) {f : PeerPort → PeerPort} (hf : ∀ x, (f x).besideTx = x.besideTx) :
    Transmits s (s.modPort p f) := by
  refine ⟨fun _ => rfl, fun q => ?_, List.suffix_refl _⟩
  rw [State.port, State.modPort_ports, vGet_vMod, State.port]
  split
  · exact hf _
  · rfl

theorem send_transmits (s : State) (m : Sent) : Transmits s (s.send m) := by
  refine ⟨fun l => ?_, fun _ => rfl, List.suffix_cons m s.sent⟩
  rw [State.send_layers]
  unfold layersWith
  split
  · exact received_vMod (f := fun y => y.offer s.room (s.creditsOf m) m) (fun y => pump_received _ _) _ l
  · rfl

theorem sendPeer_transmits (s : State) (p : Nat) (m : Sent) : Transmits s (s.sendPeer p m) := by
  refine Transmits.trans ?_ (send_transmits _ m)
  exact modPort_transmits s p (fun _ => rfl)

theorem pumpLink_transmits (s : State) (k : Nat) : Transmits s (s.pumpLink k) :=
  modLayers_transmits s k (fun y => pump_received y _)

theorem resendFlits_transmits (s : State) (k : Nat) : Transmits s (s.resendFlits k) := by
  unfold State.resendFlits
  split
  · exact .of_eq rfl rfl rfl
  · exact modPort_transmits s _ (fun _ => rfl)

/-! ### Lines of companion memory -/

theorem sendLineOf_transmits (s : State) (slot : Bool) (addr : Nat) : Transmits s (State.sendLineOf slot s addr) :=
  (send_transmits _ _).congr_left

theorem sendLines_transmits (s : State) (a n : Nat) : Transmits s (s.sendLines a n) := by
  induction n generalizing s a with
  | zero => exact .refl s
  | succ n ih => exact (sendLineOf_transmits s false a).trans (ih _ _)

theorem writeT2_transmits (s : State) (addr : Nat) (bs : List Byte) : Transmits s (s.writeT2 addr bs) := by
  unfold State.writeT2
  split
  · exact .refl s
  · exact (sendLines_transmits { s with t2 := writeBytes s.t2 addr bs } _ _).congr_left.congr_right

theorem sendRead_transmits (s : State) (addr : Nat) (use : ReadUse) : Transmits s (s.sendRead addr use) :=
  (send_transmits _ _).congr_left

/-! ### Posts -/

theorem endRecord_transmits (s : State) (done : Option (Nat × Nat)) : Transmits s (s.endRecord done) := by
  unfold State.endRecord
  split
  · exact .refl s
  · refine (foldl_transmits (fun t r => ?_) _ _).congr_left
    split <;> exact .of_eq rfl rfl rfl

theorem writePost_transmits (s : State) (p : Post) : Transmits s (s.writePost p) := by
  have hsent (m : Mem) (l : List Nat) : Transmits s (l.foldl (State.sendLineOf true) { s with t2 := m }) :=
    (foldl_transmits (fun t a => sendLineOf_transmits t true a) l _).congr_left
  unfold State.writePost
  dsimp only
  generalize hu : List.foldl (State.sendLineOf true) _ _ = u
  have hwritten : Transmits s u := hu ▸ hsent _ _
  split <;> split <;> exact hwritten.congr_right

theorem post_transmits (s : State) (p : Post) : Transmits s (s.post p) := by
  unfold State.post
  dsimp only
  split
  · exact endRecord_transmits s _
  · split
    · split
      · exact (endRecord_transmits s p.done).trans (writePost_transmits _ p)
      · exact (endRecord_transmits s p.done).congr_right
    · exact .of_eq rfl rfl rfl

/-! ### Command rings -/

theorem modCmd_transmits (s : State) (n : Nat) (f : CmdRing → CmdRing) : Transmits s (s.modCmd n f) :=
  .of_eq rfl rfl rfl

theorem writeConsumer_transmits (s : State) (n : Nat) : Transmits s (s.writeConsumer n) := writeT2_transmits s _ _

theorem takeArrived_transmits (s : State) (n k : Nat) : Transmits s (s.takeArrived n k) := by
  induction k generalizing s with
  | zero => exact .refl s
  | succ k ih =>
    unfold State.takeArrived
    dsimp only
    split
    · split
      · exact ((modCmd_transmits s n _).trans (writeConsumer_transmits _ n)).trans (ih _)
      · exact .refl s
    · exact .refl s

theorem fetchRecords_transmits (s : State) (n k : Nat) : Transmits s (s.fetchRecords n k) := by
  induction k generalizing s with
  | zero => exact .refl s
  | succ k ih =>
    unfold State.fetchRecords
    dsimp only
    split
    · refine Transmits.trans ?_ (ih _)
      exact (sendRead_transmits s _ _).trans (modCmd_transmits _ n _)
    · exact .refl s

theorem serveAll_transmits (s : State) : Transmits s s.serveAll :=
  foldl_transmits (fun t n => (takeArrived_transmits t n 64).trans (fetchRecords_transmits _ n 64)) _ s

/-! ### The fault state -/

theorem undoLine_transmits (s : State) (e : U16 × Nat × Line) : Transmits s (s.undoLine e) := by
  unfold State.undoLine
  split <;> exact .of_eq rfl rfl rfl

theorem unsettle_transmits (s : State) : Transmits s s.unsettle := foldl_transmits undoLine_transmits _ s

/-- The job's objects end: what waited at the ports goes (R476). -/
theorem endObjects_transmits (s : State) : Transmits s s.endObjects := by
  refine ⟨fun _ => rfl, fun p => ?_, List.suffix_refl _⟩
  show (vGet (s.ports.map _) p PeerPort.reset).besideTx = _
  rw [vGet_map s.ports _ p PeerPort.reset PeerPort.reset]
  split
  · rfl
  · rename_i hp
    simp [State.port, vGet, hp]

theorem enterFault_transmits (s : State) : Transmits s s.enterFault := by
  have hunsettled := unsettle_transmits s
  unfold State.enterFault
  generalize s.unsettle = u at hunsettled ⊢
  dsimp only
  have hserved (t : State) (l : List (Nat × Record)) (h : Transmits s t) :
      Transmits s (t.completeAll stJobRestarted l).serveAll :=
    (h.trans (foldl_transmits (fun t e => post_transmits t _) l t)).trans (serveAll_transmits _)
  split
  · refine (hserved _ _ ?_).trans (sendPeer_transmits _ _ _)
    exact hunsettled.trans (endObjects_transmits _).congr_left.congr_right
  · refine hserved _ _ ?_
    exact hunsettled.trans (endObjects_transmits _).congr_left.congr_right

theorem pairFaulted_transmits (s : State) : Transmits s s.pairFaulted := by
  unfold State.pairFaulted
  split <;> exact .of_eq rfl rfl rfl

theorem raiseFault_transmits (s : State) (source : Nat) : Transmits s (s.raiseFault source) := by
  have hsticky : Transmits s (s.withSticky source) := .of_eq rfl rfl rfl
  rcases raiseFault_cases s source with h | h <;> rw [h]
  · exact hsticky
  · exact (hsticky.trans (enterFault_transmits _)).trans (pairFaulted_transmits _)

end Sys2Proof.Machine
end

section
/-!
Flits (13 R379, R380, R395, R398): order, damage, acknowledgements and the cells of a peer port's flit.
-/

namespace Sys2Proof.Machine

/-! ### Acknowledgements that arrive -/

/-- The flit's acknowledgement and credits have reached the transmitter. -/
def State.ackCame (s : State) (link : Nat) (f : Flit) : State :=
  { s with layers := vMod s.layers link (fun y => { y.credited link f with lastAck := flitAckNo f }) }

/-- The resends in a row of a link's layer. -/
def State.withResends (s : State) (link n : Nat) : State :=
  { s with layers := vMod s.layers link (fun y => { y with resends := n }) }

/-- The state in which flits have been sent again. -/
def State.resent (s : State) (link n : Nat) : State := ((s.resendFlits link).pumpLink link).withResends link n

/-- Resends in a row that an acknowledgement leaves. -/
def FlitLayer.resendsAfter (y : FlitLayer) (f : Flit) : Nat := if flitAckNo f != y.lastAck then 0 else y.resends

theorem takeAckNak_eq (s : State) (link : Nat) (f : Flit) : s.takeAckNak link f =
    if flitNak f && !((vGet s.layers link FlitLayer.reset).credited link f).unacked.isEmpty then
      if (vGet s.layers link FlitLayer.reset).resendsAfter f + 1 ≥ 8 then
        ((s.ackCame link f).resent link ((vGet s.layers link FlitLayer.reset).resendsAfter f + 1)).retrainLink link
      else (s.ackCame link f).resent link ((vGet s.layers link FlitLayer.reset).resendsAfter f + 1)
    else ((s.ackCame link f).withResends link ((vGet s.layers link FlitLayer.reset).resendsAfter f)).pumpLink link :=
  rfl

/-- What the transmitter does about an acknowledgement: it goes on, sends flits again, or retrains the link. -/
theorem takeAckNak_cases (s : State) (link : Nat) (f : Flit) : ∃ n,
    s.takeAckNak link f = ((s.ackCame link f).withResends link n).pumpLink link ∨
    s.takeAckNak link f = (s.ackCame link f).resent link n ∨
    s.takeAckNak link f = ((s.ackCame link f).resent link n).retrainLink link := by
  rw [takeAckNak_eq]
  split
  · split
    · exact ⟨_, .inr (.inr rfl)⟩
    · exact ⟨_, .inr (.inl rfl)⟩
  · exact ⟨_, .inl rfl⟩

theorem withResends_transmits (s : State) (link n : Nat) : Transmits s (s.withResends link n) :=
  modLayers_transmits s link (fun _ => rfl)

theorem resent_transmits (s : State) (link n : Nat) : Transmits s (s.resent link n) :=
  ((resendFlits_transmits s link).trans (pumpLink_transmits _ link)).trans (withResends_transmits _ link n)

theorem modLink_transmits (s : State) (g : CohLink → CohLink) : Transmits s (s.modLink g) := .of_eq rfl rfl rfl

theorem setLinkCause_transmits (s : State) (b : Nat) : Transmits s (s.setLinkCause b) := .of_eq rfl rfl rfl

theorem retrainLink_transmits (s : State) (link : Nat) : Transmits s (s.retrainLink link) := by
  have hagain (t : State) : Transmits t ((t.resendFlits link).setLinkCause link) :=
    (resendFlits_transmits t link).trans (setLinkCause_transmits _ link)
  have hzero := withResends_transmits s link 0
  unfold State.retrainLink
  dsimp only
  split
  · exact (hzero.trans (modLink_transmits _ _)).trans (hagain _)
  · exact hzero.trans (hagain _)

theorem takeAckNak_transmits (s : State) (link : Nat) (f : Flit) :
    Transmits (s.ackCame link f) (s.takeAckNak link f) := by
  obtain ⟨n, h | h | h⟩ := takeAckNak_cases s link f <;> rw [h]
  · exact (withResends_transmits _ link n).trans (pumpLink_transmits _ link)
  · exact resent_transmits _ link n
  · exact (resent_transmits _ link n).trans (retrainLink_transmits _ link)

/-- The faults and the coherent link's codeword counts. -/
def State.faultsAndCodewords (s : State) : Faults × U64 × U64 := (s.faults, s.link.fecCorrected, s.link.fecUncorr)

theorem resendFlits_faultsAndCodewords (s : State) (link : Nat) :
    (s.resendFlits link).faultsAndCodewords = s.faultsAndCodewords := by
  unfold State.resendFlits
  dsimp only
  split <;> rfl

theorem retrainLink_faultsAndCodewords (s : State) (link : Nat) :
    (s.retrainLink link).faultsAndCodewords = s.faultsAndCodewords := by
  have hagain (t : State) : ((t.resendFlits link).setLinkCause link).faultsAndCodewords = t.faultsAndCodewords :=
    resendFlits_faultsAndCodewords t link
  unfold State.retrainLink
  dsimp only
  split <;> exact hagain _

theorem takeAckNak_faultsAndCodewords (s : State) (link : Nat) (f : Flit) :
    (s.takeAckNak link f).faultsAndCodewords = s.faultsAndCodewords := by
  have hresent (n : Nat) : ((s.ackCame link f).resent link n).faultsAndCodewords = s.faultsAndCodewords :=
    resendFlits_faultsAndCodewords (s.ackCame link f) link
  obtain ⟨n, h | h | h⟩ := takeAckNak_cases s link f <;> rw [h]
  · rfl
  · exact hresent n
  · exact (retrainLink_faultsAndCodewords _ link).trans (hresent n)

/-! ### A flit is taken or discarded -/

/-- How far a flit is ahead of the last one delivered in order. -/
def FlitLayer.ahead (y : FlitLayer) (f : Flit) : Nat := (flitSeq f - y.rxSeq).toNat

theorem FlitLayer.flitSeq_of_ahead {y : FlitLayer} {f : Flit} (h : y.ahead f = 1) : flitSeq f = y.rxSeq + 1 := by
  unfold FlitLayer.ahead at h
  bv_omega

/-- The next flit in order is counted at its link, and the places that it takes are owed. -/
def State.tookFlit (s : State) (link : Nat) (f : Flit) : State :=
  { s with layers := vMod s.layers link (fun y => { y.owes link f with
      rxSeq := flitSeq f, sinceAck := y.sinceAck + 1 }) }

/-- The next flit in order is delivered. -/
def State.delivered (s : State) (link : Nat) (f : Flit) : State :=
  ((s.tookFlit link f).takeAckNak link f).deliverCells link f

/-- A flit is judged by its layer. -/
def State.judgeFlit (s : State) (link : Nat) (f : Flit) : State :=
  let y := vGet s.layers link FlitLayer.reset
  if !flitGood f then s.sendAck link true
  else if y.ahead f == 0 || decide (y.ahead f ≥ 2048) then s
  else if y.ahead f ≠ 1 then s.sendAck link true
  else if y.sinceAck + 1 ≥ 32 then (s.delivered link f).sendAck link false
  else s.delivered link f

/-- The codeword counts of the coherent link after a flit. -/
def State.countCodeword (s : State) (f : Flit) : State :=
  s.modLink (fun l => { l with
    fecCorrected := l.fecCorrected + BitVec.ofNat 64 f.fecFixed,
    fecUncorr := if f.fecGood then l.fecUncorr else l.fecUncorr + 1 })

theorem exec_flit_coh (f : Flit) (s : State) : exec (.flit 0 f) s = .next ((s.countCodeword f).judgeFlit 0 f) := rfl

theorem exec_flit_peer (p : Nat) (f : Flit) (s : State) :
    exec (.flit (1 + p) f) s = .next (s.judgeFlit (1 + p) f) := by
  have hpeer : (1 + p == 0) = false := by simp
  show Host.Outcome.next (s.flit (1 + p) f) = _
  unfold State.flit
  rw [hpeer]
  rfl

section
variable {s : State} {link : Nat} {f : Flit}

theorem judgeFlit_discards (h : flitGood f = false ∨
    (1 < (vGet s.layers link FlitLayer.reset).ahead f ∧ (vGet s.layers link FlitLayer.reset).ahead f < 2048)) :
    s.judgeFlit link f = s.sendAck link true := by
  unfold State.judgeFlit
  dsimp only
  split
  · rfl
  · rename_i hgood
    obtain ⟨hlow, hhigh⟩ := h.resolve_left (by simpa using hgood)
    rw [if_neg (by simp; omega), if_pos (by omega)]

theorem judgeFlit_repeated (hgood : flitGood f = true) (h : (vGet s.layers link FlitLayer.reset).ahead f = 0 ∨
    2048 ≤ (vGet s.layers link FlitLayer.reset).ahead f) : s.judgeFlit link f = s := by
  unfold State.judgeFlit
  dsimp only
  rw [if_neg (by simp [hgood]), if_pos (by simpa using h)]

theorem judgeFlit_next (hgood : flitGood f = true) (h : (vGet s.layers link FlitLayer.reset).ahead f = 1) :
    s.judgeFlit link f = if (vGet s.layers link FlitLayer.reset).sinceAck + 1 ≥ 32
      then (s.delivered link f).sendAck link false else s.delivered link f := by
  unfold State.judgeFlit
  dsimp only
  rw [if_neg (by simp [hgood]), if_neg (by simp [h]), if_neg (by simp [h])]

end

/-! ### Flits of a peer port -/

section
variable {s : State} {p : Nat} {f : Flit}

/-- The layer of a peer port's link. -/
def State.peerLayer (s : State) (p : Nat) : FlitLayer := vGet s.layers (1 + p) FlitLayer.reset

theorem peerLayer_modLayers (hp : p < 8) (g : FlitLayer → FlitLayer) :
    State.peerLayer { s with layers := vMod s.layers (1 + p) g } p = g (s.peerLayer p) := by
  simp [State.peerLayer, vGet_vMod, show 1 + p < 9 by omega]

/-- An acknowledgement goes out in a header of its own; it returns credits that the module owes. -/
theorem sendAck_peer (hp : p < 8) (nak : Bool) : ((s.sendAck (1 + p) nak).peerLayer p).received =
    ((s.peerLayer p).rxSeq, (s.peerLayer p).lastAck, 0) := by
  show (State.peerLayer { s with layers := vMod s.layers (1 + p) (fun y => { y.repaid with sinceAck := 0 }) }
    p).received = _
  rw [peerLayer_modLayers hp]
  rfl

/-- Every cell of a flit that is not empty lies on a channel that the port may carry. -/
def cellsAllowed (p state : Nat) (f : Flit) : Bool :=
  (List.range 4).all (fun c =>
    cellKind (flitCell f c) == 0 || (peerChannels p state).contains (cellChannel (flitCell f c)))

theorem cellsAllowed_iff {state : Nat} : cellsAllowed p state f = true ↔
    ∀ c < 4, cellKind (flitCell f c) ≠ 0 → cellChannel (flitCell f c) ∈ peerChannels p state := by
  simp [cellsAllowed, or_iff_not_imp_left]

/-- The cells of a flit are counted, and data cells go to the messages that await them. -/
def State.cellsCame (s : State) (p : Nat) (f : Flit) : State :=
  let t := s.modPort p (fun x => { x with rxBytes := x.rxBytes + BitVec.ofNat 64 (64 * fullCells f) })
  { t with layers := vMod t.layers (1 + p) (fun y => { y with
    awaiting := (List.range 4).foldl (peerCell f) y.awaiting }) }

theorem port_modPort_same {q : Nat} (hq : q < 8) (g : PeerPort → PeerPort) :
    (s.modPort q g).port q = g (s.port q) := by
  simp [State.port, State.modPort, vGet_vMod, hq]

theorem port_modPort_other {q r : Nat} (hr : r ≠ q) (g : PeerPort → PeerPort) :
    (s.modPort q g).port r = s.port r := by
  simp [State.port, State.modPort, vGet_vMod, hr.symm]

theorem deliverCells_peer (hp : p < 8) : s.deliverCells (1 + p) f =
    if cellsAllowed p (s.port p).state f then s.cellsCame p f else (s.cellsCame p f).raiseFault srcPeer := by
  have hpeer : (1 + p == 0) = false := by simp
  have hstate : ((s.cellsCame p f).port p).state = (s.port p).state := by
    show (State.port (s.modPort p _) p).state = _
    rw [port_modPort_same hp]
  unfold State.deliverCells
  rw [hpeer, Nat.add_sub_cancel_left, ← hstate]
  rfl

/-- What the delivery of a peer port's flit leaves (R380, R395). -/
structure Delivers (s t : State) (p : Nat) (f : Flit) : Prop where
  received : (t.peerLayer p).received = (flitSeq f, flitAckNo f, (s.peerLayer p).sinceAck + 1)
  rxBytes : (t.port p).rxBytes = (s.port p).rxBytes + BitVec.ofNat 64 (64 * fullCells f)
  allowed : cellsAllowed p (s.port p).state f = true → t.faults = s.faults
  refused : cellsAllowed p (s.port p).state f = false → t.faults.sticky.getLsbD srcPeer = true

theorem delivered_delivers (hp : p < 8) : Delivers s (s.delivered (1 + p) f) p f := by
  have hack := takeAckNak_transmits (s.tookFlit (1 + p) f) (1 + p) f
  have hfaults : ((s.tookFlit (1 + p) f).takeAckNak (1 + p) f).faults = s.faults :=
    congrArg Prod.fst (takeAckNak_faultsAndCodewords (s.tookFlit (1 + p) f) (1 + p) f)
  unfold State.delivered
  generalize (s.tookFlit (1 + p) f).takeAckNak (1 + p) f = u at hack hfaults ⊢
  have hcame : State.peerLayer ((s.tookFlit (1 + p) f).ackCame (1 + p) f) p =
      { ((s.peerLayer p).owes (1 + p) f).credited (1 + p) f with
        rxSeq := flitSeq f, sinceAck := (s.peerLayer p).sinceAck + 1, lastAck := flitAckNo f } := by
    unfold State.ackCame State.tookFlit
    rw [peerLayer_modLayers hp, peerLayer_modLayers hp]
    rfl
  have hreceived : ((u.cellsCame p f).peerLayer p).received =
      (flitSeq f, flitAckNo f, (s.peerLayer p).sinceAck + 1) := by
    unfold State.cellsCame
    dsimp only
    rw [peerLayer_modLayers hp]
    exact (hack.received (1 + p)).trans (congrArg FlitLayer.received hcame)
  have hbytes : ((u.cellsCame p f).port p).rxBytes = (s.port p).rxBytes + BitVec.ofNat 64 (64 * fullCells f) := by
    show (State.port (u.modPort p _) p).rxBytes = _
    rw [port_modPort_same hp]
    exact congrArg (· + BitVec.ofNat 64 (64 * fullCells f)) (hack.port_rxBytes p)
  rw [deliverCells_peer hp, show (u.port p).state = (s.port p).state from hack.port_state p]
  split
  · rename_i hok
    exact ⟨hreceived, hbytes, fun _ => hfaults, fun hbad => absurd hok (by rw [hbad]; decide)⟩
  · rename_i hbad
    have hraised := raiseFault_transmits (u.cellsCame p f) srcPeer
    exact ⟨(hraised.received (1 + p)).trans hreceived, (hraised.port_rxBytes p).trans hbytes,
      fun hok => absurd hok hbad, fun _ => (raiseFault_raises _ srcPeer).getLsbD_sticky (by decide)⟩

/-- The next flit in order: what its delivery leaves, and an acknowledgement after 32 flits without one. -/
theorem exec_flit_next (hp : p < 8) (hgood : flitGood f = true) (hahead : (s.peerLayer p).ahead f = 1) :
    ∃ t, exec (.flit (1 + p) f) s = .next t ∧ (t.peerLayer p).rxSeq = (s.peerLayer p).rxSeq + 1 ∧
      (t.peerLayer p).lastAck = flitAckNo f ∧
      (t.port p).rxBytes = (s.port p).rxBytes + BitVec.ofNat 64 (64 * fullCells f) ∧
      (31 ≤ (s.peerLayer p).sinceAck → (t.peerLayer p).sinceAck = 0 ∧
        ∃ ch n, t.sent.head? = some (.flitAck (1 + p) ((s.peerLayer p).rxSeq + 1) false ch n)) ∧
      ((s.peerLayer p).sinceAck < 31 → (t.peerLayer p).sinceAck = (s.peerLayer p).sinceAck + 1) ∧
      (cellsAllowed p (s.port p).state f = true → t.faults = s.faults) ∧
      (cellsAllowed p (s.port p).state f = false → t.faults.sticky.getLsbD srcPeer = true) := by
  obtain ⟨hreceived, hbytes, hallowed, hrefused⟩ := delivered_delivers (s := s) (f := f) hp
  have hseq : ((s.delivered (1 + p) f).peerLayer p).rxSeq = (s.peerLayer p).rxSeq + 1 :=
    (congrArg Prod.fst hreceived).trans (FlitLayer.flitSeq_of_ahead hahead)
  have hlast : ((s.delivered (1 + p) f).peerLayer p).lastAck = flitAckNo f :=
    (congrArg (fun v => v.2.1) hreceived :)
  have hexec := (exec_flit_peer p f s).trans (congrArg Host.Outcome.next (judgeFlit_next hgood hahead))
  by_cases hdue : 31 ≤ (s.peerLayer p).sinceAck
  · replace hexec := hexec.trans (congrArg Host.Outcome.next (if_pos (Nat.succ_le_succ hdue)))
    have hacked := sendAck_peer (s := s.delivered (1 + p) f) hp false
    have hack : ((s.delivered (1 + p) f).sendAck (1 + p) false).sent.head? =
      some (.flitAck (1 + p) ((s.delivered (1 + p) f).peerLayer p).rxSeq false _ _) := rfl
    rw [hseq] at hack
    rw [hseq, hlast] at hacked
    exact ⟨_, hexec, (congrArg Prod.fst hacked :), (congrArg (fun v => v.2.1) hacked :), hbytes,
      fun _ => ⟨(congrArg (fun v => v.2.2) hacked :), _, _, hack⟩, fun h => by omega, hallowed, hrefused⟩
  · replace hexec := hexec.trans (congrArg Host.Outcome.next (if_neg fun h => hdue (Nat.le_of_succ_le_succ h)))
    exact ⟨_, hexec, hseq, hlast, hbytes, fun h => absurd h hdue, fun _ => (congrArg (fun v => v.2.2) hreceived :),
      hallowed, hrefused⟩

end

/-! ### Flits of the coherent link -/

/-- A source raised in the fault state sets its sticky bit alone (R475). -/
theorem raiseFault_of_faulted {s : State} (h : s.faulted = true) (source : Nat) :
    s.raiseFault source = s.withSticky source :=
  if_pos (by rw [h]; rfl)

theorem deliverCells_codewords {s : State} (h : s.faulted = true) (f : Flit) :
    (s.deliverCells 0 f).faultsAndCodewords.2 = s.faultsAndCodewords.2 := by
  unfold State.deliverCells
  rw [if_pos (by rfl)]
  dsimp only
  split
  · rfl
  · rw [State.protoFault, raiseFault_of_faulted h]
    rfl

theorem judgeFlit_codewords {s : State} (h : s.faulted = true) (f : Flit) :
    (s.judgeFlit 0 f).faultsAndCodewords.2 = s.faultsAndCodewords.2 := by
  have hack := takeAckNak_faultsAndCodewords (s.tookFlit 0 f) 0 f
  have hfaulted : ((s.tookFlit 0 f).takeAckNak 0 f).faulted = true := by
    rw [State.faulted, show ((s.tookFlit 0 f).takeAckNak 0 f).faults = s.faults from congrArg Prod.fst hack]
    exact h
  have hdelivered : (s.delivered 0 f).faultsAndCodewords.2 = s.faultsAndCodewords.2 :=
    (deliverCells_codewords hfaulted f).trans (congrArg Prod.snd hack)
  unfold State.judgeFlit
  dsimp only
  split
  · rfl
  · split
    · rfl
    · split
      · rfl
      · split <;> exact hdelivered

/-! ### ACKNOWLEDGE_INTERVAL (R380) -/

theorem exec_acknowledgeInterval_nothing {s : State} {link : Nat}
    (h : (vGet s.layers link FlitLayer.reset).sinceAck = 0) : exec (.acknowledgeInterval link) s = .next s :=
  congrArg Host.Outcome.next (if_pos (by simp [h]))

theorem exec_acknowledgeInterval {s : State} {link : Nat} (h : (vGet s.layers link FlitLayer.reset).sinceAck ≠ 0) :
    exec (.acknowledgeInterval link) s = .next (s.sendAck link false) :=
  congrArg Host.Outcome.next (if_neg (by simp [h]))

/-- Settles O38: a flit is discarded, passed over or delivered by how far it is ahead; a delivery's receiver stands
through all that the transmitter sends meanwhile. -/
theorem flitsInOrder : Obligations.FlitsInOrder := by
  unfold Obligations.FlitsInOrder
  refine ⟨fun s p f hp => ⟨fun h => ?_, fun hgood h => ?_, fun hgood h => ?_⟩,
    fun s link => ⟨exec_acknowledgeInterval_nothing, exec_acknowledgeInterval⟩, fun s f => ?_⟩
  · refine ⟨_, (exec_flit_peer p f s).trans (congrArg Host.Outcome.next (judgeFlit_discards h)), rfl, ?_, rfl⟩
    exact congrArg Prod.fst (sendAck_peer hp true)
  · exact (exec_flit_peer p f s).trans (congrArg Host.Outcome.next (judgeFlit_repeated hgood h))
  · obtain ⟨t, hexec, hseq, hlast, hbytes, hdue, hcounts, hallowed, hrefused⟩ := exec_flit_next hp hgood h
    refine ⟨t, hexec, hseq, hlast, hbytes, hdue, hcounts, fun hcells => hallowed (cellsAllowed_iff.2 hcells),
      fun ⟨c, hc, hkind, hchannel⟩ => hrefused ?_⟩
    rw [← Bool.not_eq_true, cellsAllowed_iff]
    exact fun hcells => hchannel (hcells c hc hkind)
  · refine ⟨_, exec_flit_coh f s, fun hfaulted => ?_⟩
    have hcounts := judgeFlit_codewords (s := s.countCodeword f) hfaulted f
    exact ⟨congrArg Prod.fst hcounts, congrArg Prod.snd hcounts⟩

end Sys2Proof.Machine
end

section
/-!
Ports by number: what judging a port, its reports and its traffic that waited leave (13 R395 to R397).
-/

namespace Sys2Proof.Machine

/-! ### Routes (R396, R540) -/

theorem ringPort_ne_zero {n a b plus minus : Nat} (hplus : plus ≠ 0) (hminus : minus ≠ 0) :
    ringPort n a b plus minus ≠ some 0 := by
  unfold ringPort
  split
  · exact (Option.some_ne_none 0).symm
  · split
    · simpa using hplus
    · simpa using hminus

theorem meshPort_ne_zero (dims : Nat × Nat × Nat) (self dst : Nat) : meshPort dims self dst ≠ some 0 := by
  unfold meshPort
  dsimp only
  split
  · rename_i p hp
    exact hp ▸ ringPort_ne_zero (by decide) (by decide)
  · split
    · rename_i p hp
      exact hp ▸ ringPort_ne_zero (by decide) (by decide)
    · exact ringPort_ne_zero (by decide) (by decide)

/-- Port 0 leads to the twin: no route leaves by it. -/
theorem routePort_ne_zero (s : State) (d : Nat) : s.routePort d ≠ some 0 := by
  unfold State.routePort
  split
  · exact (Option.some_ne_none 0).symm
  · split
    · decide
    · exact meshPort_ne_zero _ _ _

theorem onRoute_zero (s : State) : s.onRoute 0 = false := by
  simp [State.onRoute]

theorem movesOn_zero (s : State) : s.movesOn 0 = [] := by
  have hnone : s.granary.directory.filter
      (fun x => x.movingNow.any (fun q => s.routePort q.cause.rank == some 0)) = [] := by
    refine List.filter_eq_nil_iff.2 fun x _ => ?_
    cases x.movingNow <;> simp [routePort_ne_zero]
  rw [State.movesOn, hnone, List.map_nil]

theorem onRoute_congr {s t : State} (hjob : t.job = s.job) (hexpress : t.expressRank = s.expressRank) (p : Nat) :
    t.onRoute p = s.onRoute p := by
  have hroute : t.routePort = s.routePort := by
    funext d
    rw [State.routePort, hjob, hexpress, State.routePort]
  rw [State.onRoute, hjob, hroute, State.onRoute]

theorem expressRank_of_port {s t : State} (hjob : t.job = s.job) (hport : t.port 7 = s.port 7) :
    t.expressRank = s.expressRank := by
  simp only [State.expressRank, hjob, hport]

/-- Port 7 leads to no rank while its neighbour reports another job. -/
theorem expressRank_of_otherJob {s : State} (h : (s.port 7).nbrJob ≠ s.job.jobId) : s.expressRank = none := by
  simp [State.expressRank, h]

theorem portForeign_congr {s t : State} {p : Nat} (hjob : t.job = s.job) (hrank : (t.port p).nbrRank = (s.port p).nbrRank)
    (hnbr : (t.port p).nbrJob = (s.port p).nbrJob) : t.portForeign p = s.portForeign p := by
  simp only [State.portForeign, hjob, hrank, hnbr]

/-- Port 7 is foreign by its neighbour's job alone. -/
theorem otherJob_of_portForeign {s : State} (h : s.portForeign 7 = true) : (s.port 7).nbrJob ≠ s.job.jobId := by
  simp [State.portForeign] at h
  exact h.2

theorem nbrInJob_iff {s : State} {p : Nat} : s.nbrInJob p = true ↔ s.job.state ≠ 0 ∧ (s.port p).state = 2 ∧
    (s.port p).nbrRank ≠ 0xFFFF ∧ (s.port p).nbrJob = s.job.jobId := by
  simp [State.nbrInJob, and_assoc]

/-! ### A port is judged (R395) -/

/-- What judging port `p` leaves: its state follows the report, and the balance of a port outside the job goes. -/
structure Judges (s t : State) (p : Nat) : Prop where
  port : t.port p = { s.port p with
    state := if s.portForeign p then 3 else 2, balance := if t.nbrInJob p then (s.port p).balance else 0,
    report := if t.nbrInJob p then (s.port p).report else none }
  others (q : Nat) (hq : q ≠ p) : t.port q = s.port q
  job : t.job = s.job
  faults : t.faults = s.faults
  sent : t.sent = s.sent

theorem movePort_beside (s : State) (p : Nat) (f : PeerPort → PeerPort) : (s.movePort p f).job = s.job ∧
    (s.movePort p f).faults = s.faults ∧ (s.movePort p f).sent = s.sent := by
  unfold State.movePort
  dsimp only
  split <;> exact ⟨rfl, rfl, rfl⟩

theorem port_movePort_other {s : State} {p q : Nat} (hq : q ≠ p) (f : PeerPort → PeerPort) :
    (s.movePort p f).port q = s.port q := by
  simp [State.port, movePort_ports, vGet_vMod, hq.symm]

theorem nbrInJob_modPort {s : State} {p : Nat} (hp : p < 8) (b : Int) (r : Option (Nat × Nat)) :
    (s.modPort p (fun x => { x with balance := b, report := r })).nbrInJob p = s.nbrInJob p := by
  simp only [State.nbrInJob, port_modPort_same hp, State.modPort_job]

theorem judgePort_judges {s : State} {p : Nat} (hp : p < 8) (h : (s.port p).state = 2 ∨ (s.port p).state = 3) :
    Judges s (s.judgePort p) p := by
  obtain ⟨hjob, hfaults, hsent⟩ := movePort_beside s p (fun x => { x with state := if s.portForeign p then 3 else 2 })
  have hsame := port_movePort_same (s := s) hp (fun x => { x with state := if s.portForeign p then 3 else 2 })
  have hother (q : Nat) (hq : q ≠ p) :=
    port_movePort_other (s := s) hq (fun x => { x with state := if s.portForeign p then 3 else 2 })
  unfold State.judgePort
  rw [if_pos (by simpa using h)]
  dsimp only
  generalize s.movePort p _ = u at hjob hfaults hsent hsame hother ⊢
  by_cases hin : u.nbrInJob p = true
  · rw [if_pos hin]
    exact ⟨by simp [hin, hsame], hother, hjob, hfaults, hsent⟩
  · rw [if_neg hin]
    refine ⟨?_, fun q hq => (port_modPort_other hq _).trans (hother q hq), hjob, hfaults, hsent⟩
    simp [nbrInJob_modPort hp, hin, port_modPort_same hp, hsame]

/-! ### Traffic that waited (R397) -/

theorem sendPeer_waiting (s : State) (p q : Nat) (m : Sent) : ((s.sendPeer p m).port q).waiting = (s.port q).waiting := by
  show (State.port (s.modPort p _) q).waiting = _
  simp only [State.port, State.modPort_ports, vGet_vMod]
  split <;> rfl

theorem foldl_sendPeer_waiting (s : State) (p q : Nat) (l : List Sent) :
    ((l.foldl (fun s m => s.putOnPort p m) s).port q).waiting = (s.port q).waiting :=
  foldl_view (fun t => (t.port q).waiting) (fun t m => sendPeer_waiting t p q m) l s

theorem foldl_sendPeer_faults (s : State) (p : Nat) (l : List Sent) :
    (l.foldl (fun s m => s.putOnPort p m) s).faults = s.faults :=
  foldl_view (f := fun s m => s.putOnPort p m) State.faults (fun _ _ => rfl) l s

theorem foldl_sendPeer_transmits (s : State) (p : Nat) (l : List Sent) :
    Transmits s (l.foldl (fun s m => s.putOnPort p m) s) :=
  foldl_transmits (fun t m => sendPeer_transmits t p m) l s

theorem mem_sent_foldl_sendPeer (s : State) (p : Nat) {l : List Sent} {m : Sent} (hm : m ∈ l) :
    m ∈ (l.foldl (fun s m => s.putOnPort p m) s).sent := by
  induction l generalizing s with
  | nil => exact absurd hm List.not_mem_nil
  | cons a l ih =>
    rcases List.mem_cons.1 hm with rfl | hm
    · exact (foldl_sendPeer_transmits _ p l).mem_sent (List.mem_cons_self ..)
    · exact ih _ hm

theorem releaseWaiting_transmits (s : State) (p : Nat) : Transmits s (s.releaseWaiting p) := by
  unfold State.releaseWaiting
  split
  · exact (modPort_transmits s p (f := fun x => { x with waiting := [] }) (fun _ => rfl)).trans
      (foldl_sendPeer_transmits _ p _)
  · exact .refl s

theorem releaseWaiting_faults (s : State) (p : Nat) : (s.releaseWaiting p).faults = s.faults := by
  unfold State.releaseWaiting
  split
  · exact foldl_sendPeer_faults _ p _
  · rfl

theorem releaseWaiting_outside {s : State} {p : Nat} (h : s.nbrInJob p = false) : s.releaseWaiting p = s :=
  if_neg (by rw [h]; decide)

/-- What waited at a port leaves once its neighbour has reported the job. -/
theorem releaseWaiting_inJob {s : State} {p : Nat} (hp : p < 8) (h : s.nbrInJob p = true) :
    ((s.releaseWaiting p).port p).waiting = [] ∧ ∀ m ∈ (s.port p).waiting, m ∈ (s.releaseWaiting p).sent := by
  rw [State.releaseWaiting, if_pos h]
  refine ⟨?_, fun m hm => mem_sent_foldl_sendPeer _ p hm⟩
  rw [foldl_sendPeer_waiting, port_modPort_same hp]

/-! ### A neighbour's report (R395, R397) -/

/-- What a neighbour's report comes to: `s` is the state in which it is judged. -/
structure Reports (s t : State) (p : Nat) : Prop where
  state : (t.port p).state = if s.portForeign p then 3 else 2
  nbrJob : (t.port p).nbrJob = (s.port p).nbrJob
  nbrRank : (t.port p).nbrRank = (s.port p).nbrRank
  nbrSerial : (t.port p).nbrSerial = (s.port p).nbrSerial
  lanesOk : (t.port p).lanesOk = (s.port p).lanesOk
  sent : s.sent <:+ t.sent
  foreign : s.portForeign p = true → (t.port p).balance = 0
  raised : s.portForeign p = true → s.onRoute p = true → t.faults.sticky.getLsbD srcPeer = true
  joined : s.portForeign p = false → t.faults = s.faults
  released : s.portForeign p = false → s.job.state ≠ 0 → (s.port p).nbrJob = s.job.jobId →
    (s.port p).nbrRank ≠ 0xFFFF → (t.port p).waiting = [] ∧ ∀ m ∈ (s.port p).waiting, m ∈ t.sent

/-- The routes by a foreign port depend on its neighbour's job alone. -/
theorem onRoute_of_foreign {s t : State} {p : Nat} (hforeign : s.portForeign p = true) (hjob : t.job = s.job)
    (hnbr : (t.port p).nbrJob = (s.port p).nbrJob) (hothers : ∀ q, q ≠ p → t.port q = s.port q) :
    t.onRoute p = s.onRoute p := by
  refine onRoute_congr hjob ?_ p
  by_cases hp : p = 7
  · subst hp
    have hother := otherJob_of_portForeign hforeign
    rw [expressRank_of_otherJob hother, expressRank_of_otherJob (by rw [hnbr, hjob]; exact hother)]
  · exact expressRank_of_port hjob (hothers 7 (Ne.symm hp))

theorem Judges.state {s t : State} {p : Nat} (h : Judges s t p) :
    (t.port p).state = if s.portForeign p then 3 else 2 := by
  rw [h.port]

/-- A foreign port's neighbour is outside the job. -/
theorem Judges.outside {s t : State} {p : Nat} (h : Judges s t p) (hf : s.portForeign p = true) :
    t.nbrInJob p = false := by
  rw [← Bool.not_eq_true, nbrInJob_iff, h.state, hf]
  exact fun ⟨_, hup, _⟩ => absurd hup (by decide)

theorem Judges.onRoute {s t : State} {p : Nat} (h : Judges s t p) (hf : s.portForeign p = true) :
    t.onRoute p = s.onRoute p :=
  onRoute_of_foreign hf h.job (by rw [h.port]) h.others

theorem routeFault_transmits (s : State) (b : Bool) : Transmits s (s.routeFault b) := by
  cases b
  · exact .refl s
  · exact raiseFault_transmits s srcPeer

/-- The report of port `p` is taken: the port is judged, what waited leaves, and a route that is foreign raises the
fault. -/
def State.takesReport (s : State) (p : Nat) : State :=
  let t := (s.judgePort p).releaseWaiting p
  t.routeFault ((t.port p).state == 3 && t.onRoute p)

theorem takesReport_foreign {s : State} {p : Nat} (hj : Judges s (s.judgePort p) p) (hf : s.portForeign p = true) :
    s.takesReport p = (s.judgePort p).routeFault (s.onRoute p) := by
  rw [State.takesReport, releaseWaiting_outside (hj.outside hf), hj.state, hf, hj.onRoute hf]
  rfl

theorem takesReport_up {s : State} {p : Nat} (hj : Judges s (s.judgePort p) p) (hf : s.portForeign p = false) :
    s.takesReport p = (s.judgePort p).releaseWaiting p := by
  have hstate : (((s.judgePort p).releaseWaiting p).port p).state = 2 := by
    rw [(releaseWaiting_transmits _ p).port_state, hj.state, hf]
    rfl
  rw [State.takesReport, hstate]
  rfl

theorem takesReport_reports {s : State} {p : Nat} (hp : p < 8) (h : (s.port p).state = 2 ∨ (s.port p).state = 3) :
    Reports s (s.takesReport p) p := by
  have hj := judgePort_judges hp h
  have ht : Transmits (s.judgePort p) (s.takesReport p) :=
    (releaseWaiting_transmits _ p).trans (routeFault_transmits _ _)
  have hport : ((s.takesReport p).port p).besideTx = ((s.judgePort p).port p).besideTx := ht.ports p
  rw [hj.port] at hport
  refine ⟨(congrArg PeerPort.state hport :), (congrArg PeerPort.nbrJob hport :), (congrArg PeerPort.nbrRank hport :),
    (congrArg PeerPort.nbrSerial hport :), (congrArg PeerPort.lanesOk hport :), hj.sent ▸ ht.sent, fun hf => ?_,
    fun hf hroute => ?_, fun hf => ?_, fun hf hjob hnbr hrank => ?_⟩
  · exact (congrArg PeerPort.balance hport :).trans (if_neg (by rw [hj.outside hf]; decide))
  · rw [takesReport_foreign hj hf, hroute]
    exact (raiseFault_raises _ srcPeer).getLsbD_sticky (by decide)
  · rw [takesReport_up hj hf, releaseWaiting_faults, hj.faults]
  · have hin : (s.judgePort p).nbrInJob p = true := by
      rw [nbrInJob_iff, hj.job, hj.port, hf]
      exact ⟨hjob, rfl, hrank, hnbr⟩
    have hwaits : ((s.judgePort p).port p).waiting = (s.port p).waiting := by rw [hj.port]
    rw [takesReport_up hj hf, ← hwaits]
    exact releaseWaiting_inJob hp hin

end Sys2Proof.Machine
end

section
/-!
States of the peer ports (13 R381, R395 to R397, R540; 19 Table 19-7): training, loss, reports and lanes that fail.
-/

namespace Sys2Proof.Machine

section
variable {s : State} {p : Nat}

/-! ### Reports (R395, R397) -/

/-- The port once its neighbour's report has come, before it is judged. -/
def State.reported (s : State) (p : Nat) (job : U64) (rank : Nat) : State :=
  s.modPort p (fun x => { x with nbrJob := job, nbrRank := rank })

theorem takeReport_eq (job : U64) (rank : Nat) : s.takeReport p job rank = (s.reported p job rank).takesReport p := rfl

/-- The report as the statement judges it: on a port that is up. -/
def State.reportedUp (s : State) (p : Nat) (job : U64) (rank : Nat) : State :=
  s.modPort p (fun x => { x with state := 2, nbrJob := job, nbrRank := rank })

/-- A report judged on a port that has changed in other fields comes to the same. -/
theorem reportedUp_judges {t : State} (hp : p < 8) (hjob : t.job = s.job) (hothers : ∀ q, q ≠ p → t.port q = s.port q)
    (job : U64) (rank : Nat) :
    (t.reported p job rank).portForeign p = (s.reportedUp p job rank).portForeign p ∧
      ((s.reportedUp p job rank).portForeign p = true →
        (t.reported p job rank).onRoute p = (s.reportedUp p job rank).onRoute p) := by
  unfold State.reported State.reportedUp
  refine ⟨portForeign_congr hjob ?_ ?_, fun hf => onRoute_of_foreign hf hjob ?_ fun q hq => ?_⟩
  · rw [port_modPort_same hp, port_modPort_same hp]
  · rw [port_modPort_same hp, port_modPort_same hp]
  · rw [port_modPort_same hp, port_modPort_same hp]
  · rw [port_modPort_other hq, port_modPort_other hq, hothers q hq]

/-- What a neighbour's report comes to, whatever the port's other fields were. -/
theorem takeReport_reports {t : State} (hp : p < 8) (h : (t.port p).state = 2 ∨ (t.port p).state = 3) (job : U64)
    (rank : Nat) : Reports (t.reported p job rank) (t.takeReport p job rank) p :=
  takesReport_reports hp (by rwa [State.reported, port_modPort_same hp])

theorem exec_neighbourJobReport_nothing {rank : Nat} {job : U64} (hup : (s.port p).state ≠ 2)
    (hforeign : (s.port p).state ≠ 3) : exec (.neighbourJobReport p job rank) s = .next s :=
  congrArg Host.Outcome.next (if_neg (by simp [hup, hforeign]))

theorem exec_neighbourJobReport {rank : Nat} {job : U64} (h : (s.port p).state = 2 ∨ (s.port p).state = 3) :
    exec (.neighbourJobReport p job rank) s = .next (s.takeReport p job rank) :=
  congrArg Host.Outcome.next (if_pos (by simpa using h))

/-- What NEIGHBOUR_JOB_REPORT leaves of a port that is up or foreign. -/
theorem neighbourJobReport_effect (hp : p < 8) (h : (s.port p).state = 2 ∨ (s.port p).state = 3) (job : U64)
    (rank : Nat) : ∃ t, exec (.neighbourJobReport p job rank) s = .next t ∧
      (t.port p).nbrJob = job ∧ (t.port p).nbrRank = rank ∧
      ((s.reportedUp p job rank).portForeign p = true → (t.port p).state = 3 ∧ (t.port p).balance = 0 ∧
        ((s.reportedUp p job rank).onRoute p = true → t.faults.sticky.getLsbD srcPeer = true)) ∧
      ((s.reportedUp p job rank).portForeign p = false → (t.port p).state = 2 ∧ t.faults = s.faults) ∧
      ((s.reportedUp p job rank).portForeign p = false → s.job.state ≠ 0 → job = s.job.jobId → rank ≠ 0xFFFF →
        (t.port p).waiting = [] ∧ ∀ m ∈ (s.port p).waiting, m ∈ t.sent) := by
  obtain ⟨hforeign, hroute⟩ := reportedUp_judges (s := s) (t := s) hp rfl (fun _ _ => rfl) job rank
  have hreports := takeReport_reports hp h job rank
  have hport : (s.reported p job rank).port p = { s.port p with nbrJob := job, nbrRank := rank } :=
    port_modPort_same hp _
  refine ⟨_, exec_neighbourJobReport h, hreports.nbrJob.trans (by rw [hport]), hreports.nbrRank.trans (by rw [hport]),
    fun hf => ⟨?_, hreports.foreign (hforeign.trans hf), fun hr => ?_⟩, fun hf => ⟨?_, ?_⟩,
    fun hf hstate hjob hrank => ?_⟩
  · rw [hreports.state, hforeign, hf]
    rfl
  · exact hreports.raised (hforeign.trans hf) ((hroute hf).trans hr)
  · rw [hreports.state, hforeign, hf]
    rfl
  · exact hreports.joined (hforeign.trans hf)
  · have hreleased := hreports.released (hforeign.trans hf) hstate
    rw [hport] at hreleased
    exact hreleased hjob hrank

/-! ### PEER_PORT_TRAINED -/

theorem exec_peerPortTrained_nothing {lanes : Byte} {serial : U64} {job : Option (U64 × Nat)}
    (h : s.portTrains p = false) : exec (.peerPortTrained p lanes serial job) s = .next s :=
  congrArg Host.Outcome.next (if_pos (by rw [h]; rfl))

theorem exec_peerPortTrained_noWidth {lanes : Byte} {serial : U64} {job : Option (U64 × Nat)}
    (htrains : s.portTrains p = true) (h : peerLanes (s.port p).maxWidth lanes = none) :
    exec (.peerPortTrained p lanes serial job) s =
      .next (s.movePort p (fun x => { x with state := 0, lanesOk := 0 })) := by
  show Host.Outcome.next (s.portTrained p lanes serial job) = _
  rw [State.portTrained, if_neg (by rw [htrains]; decide), h]

/-- The port on its lanes, before it is judged. -/
def State.portCameUp (s : State) (p w : Nat) (m : Byte) (serial : U64) : State :=
  ((s.resetLayer (1 + p)).modPort p (fun x => { x with
    state := 2, lanesOk := m, maxWidth := w, nbrSerial := serial })).setLinkCause (1 + p)

theorem resetLayer_beside (s : State) (p : Nat) : (s.resetLayer (1 + p)).job = s.job ∧
    (s.resetLayer (1 + p)).faults = s.faults ∧ (s.resetLayer (1 + p)).ident = s.ident ∧
    ∀ q, q ≠ p → (s.resetLayer (1 + p)).port q = s.port q := by
  rw [State.resetLayer, if_neg (by omega), Nat.add_sub_cancel_left]
  exact ⟨rfl, rfl, rfl, fun q hq => port_modPort_other hq _⟩

theorem portCameUp_port (hp : p < 8) {w : Nat} {m : Byte} {serial : U64} :
    ((s.portCameUp p w m serial).port p).state = 2 ∧ ((s.portCameUp p w m serial).port p).lanesOk = m ∧
      ((s.portCameUp p w m serial).port p).nbrSerial = serial := by
  have hport : (s.portCameUp p w m serial).port p = { (s.resetLayer (1 + p)).port p with
      state := 2, lanesOk := m, maxWidth := w, nbrSerial := serial } := port_modPort_same hp _
  rw [hport]
  exact ⟨rfl, rfl, rfl⟩

theorem portCameUp_other {w q : Nat} {m : Byte} {serial : U64} (hq : q ≠ p) :
    (s.portCameUp p w m serial).port q = s.port q :=
  (port_modPort_other hq _).trans ((resetLayer_beside s p).2.2.2 q hq)

/-- What the module tells its neighbour of its job (R395). -/
def State.advertisement (s : State) (p : Nat) : Sent :=
  .advertise p s.ident.serial (if s.job.state = 0 then none else some (s.job.jobId, s.job.rank))

/-- Job and rank that a neighbour reports, if any. -/
def reportedJob (job : Option (U64 × Nat)) : U64 := (job.map (·.1)).getD 0
def reportedRank (job : Option (U64 × Nat)) : Nat := (job.map (·.2)).getD 0xFFFF

/-- The trained port once its neighbour has been told of the job. -/
def State.cameUpTold (s : State) (p w : Nat) (m : Byte) (serial : U64) : State :=
  (s.portCameUp p w m serial).advertise p

theorem cameUpTold_eq (hp : p < 8) {w : Nat} {m : Byte} {serial : U64} :
    s.cameUpTold p w m serial = (s.portCameUp p w m serial).send (s.advertisement p) := by
  obtain ⟨hjob, -, hident, -⟩ := resetLayer_beside s p
  rw [State.cameUpTold, State.advertise, if_pos (by rw [(portCameUp_port hp).1]; rfl), State.ownJob,
    show (s.portCameUp p w m serial).job = s.job from hjob,
    show (s.portCameUp p w m serial).ident = s.ident from hident, State.advertisement]
  simp only [beq_iff_eq]

/-- The trained port once its neighbour's report is taken. -/
def State.trainedReport (s : State) (p w : Nat) (m : Byte) (serial : U64) (job : Option (U64 × Nat)) : State :=
  (s.cameUpTold p w m serial).takeReport p (reportedJob job) (reportedRank job)

theorem tryPair_transmits (s : State) : Transmits s s.tryPair := by
  unfold State.tryPair
  split
  · exact (sendPeer_transmits (s.setPair 1) 0 _).congr_left
  · exact .refl s

theorem tryPair_faults (s : State) : s.tryPair.faults = s.faults := by
  unfold State.tryPair
  split <;> rfl

/-- A trained port's report is judged; on port 0 pairing may begin besides (R517). -/
theorem portTrained_up {lanes : Byte} {serial : U64} {job : Option (U64 × Nat)} {w : Nat} {m : Byte}
    (htrains : s.portTrains p = true) (h : peerLanes (s.port p).maxWidth lanes = some (w, m)) :
    ∃ t, s.portTrained p lanes serial job = t ∧
      Transmits (s.trainedReport p w m serial job) t ∧ t.faults = (s.trainedReport p w m serial job).faults := by
  rw [State.portTrained, if_neg (by rw [htrains]; decide), h]
  dsimp only
  split
  · exact ⟨_, rfl, tryPair_transmits _, tryPair_faults _⟩
  · exact ⟨_, rfl, Transmits.refl _, rfl⟩

/-- PEER_PORT_TRAINED with a width: the port comes up on its lanes, tells its neighbour of the job, and is judged. -/
theorem exec_peerPortTrained_up (hp : p < 8) {lanes : Byte} {serial : U64} {job : Option (U64 × Nat)} {w : Nat}
    {m : Byte} (htrains : s.portTrains p = true) (h : peerLanes (s.port p).maxWidth lanes = some (w, m)) : ∃ t,
      exec (.peerPortTrained p lanes serial job) s = .next t ∧
      Reports ((s.cameUpTold p w m serial).reported p (reportedJob job) (reportedRank job))
        (s.trainedReport p w m serial job) p ∧
      Transmits (s.trainedReport p w m serial job) t ∧ t.faults = (s.trainedReport p w m serial job).faults := by
  obtain ⟨t, ht, hpairs, hfaults⟩ := portTrained_up (serial := serial) (job := job) htrains h
  refine ⟨t, congrArg Host.Outcome.next ht, ?_, hpairs, hfaults⟩
  exact takeReport_reports hp (.inl (cameUpTold_eq hp ▸ (portCameUp_port hp).1)) _ _

theorem cameUpTold_beside (hp : p < 8) {w : Nat} {m : Byte} {serial : U64} :
    (s.cameUpTold p w m serial).job = s.job ∧ (s.cameUpTold p w m serial).faults = s.faults ∧
      ∀ q, q ≠ p → (s.cameUpTold p w m serial).port q = s.port q := by
  obtain ⟨hjob, hfaults, -, -⟩ := resetLayer_beside s p
  rw [cameUpTold_eq hp]
  exact ⟨hjob, hfaults, fun q => portCameUp_other⟩

/-- The fields of the port that has come up, as R395 and R397 have them. -/
theorem peerPortTrained_effect (hp : p < 8) {lanes : Byte} {serial : U64} {job : Option (U64 × Nat)} {w : Nat}
    {m : Byte} (htrains : s.portTrains p = true) (h : peerLanes (s.port p).maxWidth lanes = some (w, m)) : ∃ t,
      exec (.peerPortTrained p lanes serial job) s = .next t ∧
      (t.port p).state = (if (s.reportedUp p (reportedJob job) (reportedRank job)).portForeign p then 3 else 2) ∧
      ((s.reportedUp p (reportedJob job) (reportedRank job)).portForeign p = true →
        (s.reportedUp p (reportedJob job) (reportedRank job)).onRoute p = true →
          t.faults.sticky.getLsbD srcPeer = true) ∧
      ((s.reportedUp p (reportedJob job) (reportedRank job)).portForeign p = false → t.faults = s.faults) ∧
      s.advertisement p ∈ t.sent ∧ (t.port p).lanesOk = m ∧ (t.port p).nbrSerial = serial ∧
      (t.port p).nbrJob = reportedJob job ∧ (t.port p).nbrRank = reportedRank job := by
  obtain ⟨t, hexec, hreports, hpairs, htfaults⟩ := exec_peerPortTrained_up (serial := serial) (job := job) hp htrains h
  obtain ⟨hjob, hfaults, hothers⟩ := cameUpTold_beside (s := s) (w := w) (m := m) (serial := serial) hp
  obtain ⟨hforeign, hroute⟩ := reportedUp_judges hp hjob hothers (reportedJob job) (reportedRank job)
  obtain ⟨-, hlanes, hserial⟩ := portCameUp_port (s := s) (w := w) (m := m) (serial := serial) hp
  have hport : ((s.cameUpTold p w m serial).reported p (reportedJob job) (reportedRank job)).port p =
      { (s.portCameUp p w m serial).port p with nbrJob := reportedJob job, nbrRank := reportedRank job } := by
    rw [cameUpTold_eq hp]
    exact port_modPort_same hp _
  have htold : s.advertisement p ∈
      ((s.cameUpTold p w m serial).reported p (reportedJob job) (reportedRank job)).sent := by
    rw [cameUpTold_eq hp]
    exact List.mem_cons_self ..
  have hlast : (t.port p).besideTx = _ := hpairs.ports p
  refine ⟨t, hexec, ?_, fun hf hr => ?_, fun hf => ?_, hpairs.mem_sent (hreports.sent.subset htold), ?_, ?_, ?_, ?_⟩
  · rw [← hforeign]
    exact (hpairs.port_state p).trans hreports.state
  · rw [htfaults]
    exact hreports.raised (hforeign.trans hf) ((hroute hf).trans hr)
  · rw [htfaults, hreports.joined (hforeign.trans hf)]
    exact hfaults
  · exact (congrArg PeerPort.lanesOk hlast :).trans (hreports.lanesOk.trans (by rw [hport]; exact hlanes))
  · exact (congrArg PeerPort.nbrSerial hlast :).trans (hreports.nbrSerial.trans (by rw [hport]; exact hserial))
  · exact (congrArg PeerPort.nbrJob hlast :).trans (hreports.nbrJob.trans (by rw [hport]))
  · exact (congrArg PeerPort.nbrRank hlast :).trans (hreports.nbrRank.trans (by rw [hport]))

/-! ### PEER_PORT_DOWN (R311, R395) -/

/-- The port down, with what its neighbour reported forgotten and its traffic gone. -/
def State.portLeft (s : State) (p : Nat) : State :=
  { (s.modPort p (fun x => { x with
      state := 0, lanesOk := 0, nbrSerial := 0, nbrRank := 0xFFFF, nbrJob := 0, balance := 0, report := none,
      waiting := [] })).setLinkCause (1 + p) with
    inbox := s.inbox.filter (fun e => e.1 != p) }

theorem movePort_leaves (hp : p < 8) {f : PeerPort → PeerPort} (h : (f (s.port p)).state ≠ (s.port p).state) :
    s.movePort p f = (s.modPort p f).setLinkCause (1 + p) := by
  unfold State.movePort
  dsimp only
  rw [port_modPort_same hp]
  exact if_neg (by simpa using h)

theorem portDown_up (hp : p < 8) (h : (s.port p).state = 2 ∨ (s.port p).state = 3) : s.portDown p 0 =
    ((s.movesOn p).foldl (fun s h => s.refuseMove h 0) (if p = 0 then (s.portLeft p).endPair else s.portLeft p)
      ).routeFault (s.onRoute p) := by
  have hroute : (s.onRoute p && (s.port p).state != 1) = s.onRoute p := by
    rcases h with h | h <;> rw [h] <;> exact Bool.and_true _
  unfold State.portDown
  dsimp only
  rw [if_neg (by rcases h with h | h <;> simp [h]), hroute, movePort_leaves hp (by rcases h with h | h <;> simp [h])]
  rfl

theorem exec_peerPortDown_disabled (h : (s.port p).state = 4) : exec (.peerPortDown p) s = .next s :=
  congrArg Host.Outcome.next (if_pos (by rw [h]; rfl))

theorem exec_peerPortDown (h : (s.port p).state = 2 ∨ (s.port p).state = 3) :
    exec (.peerPortDown p) s = .next (s.portDown p 0) :=
  congrArg Host.Outcome.next (if_neg (by rcases h with h | h <;> simp [h]))

/-- Leaving a pair for ALONE (Table 19-7, R518). -/
theorem endPair_effect (s : State) : s.endPair.pairing.state = 0 ∧
    s.endPair.pairing.readySent = (if s.pairing.state = 0 then s.pairing.readySent else false) ∧
    (s.pairing.state ≠ 0 → s.endPair.causes.sys.getLsbD sysTwin = true) ∧ s.endPair.causes.link = s.causes.link ∧
    s.endPair.granary.mirror = (if s.pairing.state = 3 then [] else s.granary.mirror) ∧
    s.endPair.faults = s.faults := by
  have htwin : (s.setPair 0).causes.sys.getLsbD sysTwin = true := (getLsbD_putBit_true _ _ (by decide)).2 (.inr rfl)
  by_cases halone : s.pairing.state = 0
  · rw [State.endPair, if_pos (by simpa using halone)]
    simp [halone]
  by_cases hdetaching : s.pairing.state = 3
  · have hend : s.endPair = { s.setPair 0 with
        granary := { (s.setPair 0).granary with mirror := [] },
        pairing := { (s.setPair 0).pairing with twinSerial := 0 } } := by
      simp [State.endPair, hdetaching]
    rw [hend, if_neg halone, if_pos hdetaching]
    exact ⟨rfl, rfl, fun _ => htwin, rfl, rfl, rfl⟩
  · have hend : s.endPair = if s.pairing.state = 2 then (s.setPair 0).unpairSeals else s.setPair 0 := by
      simp [State.endPair, halone, hdetaching]
    rw [hend, if_neg halone, if_neg hdetaching]
    split
    · exact ⟨rfl, rfl, fun _ => htwin, rfl, rfl, rfl⟩
    · exact ⟨rfl, rfl, fun _ => htwin, rfl, rfl, rfl⟩

/-- Port 0 lies on no route: when it goes down the pair ends, and no fault is raised. -/
theorem portDown_zero (h : (s.port 0).state = 2 ∨ (s.port 0).state = 3) : s.portDown 0 0 = (s.portLeft 0).endPair := by
  rw [portDown_up (by decide) h, movesOn_zero, onRoute_zero]
  rfl

theorem portLeft_port (hp : p < 8) : (s.portLeft p).port p = { s.port p with
    state := 0, lanesOk := 0, nbrSerial := 0, nbrRank := 0xFFFF, nbrJob := 0, balance := 0, report := none,
    waiting := [] } :=
  port_modPort_same hp _

theorem portLeft_other {q : Nat} (hq : q ≠ p) : (s.portLeft p).port q = s.port q := port_modPort_other hq _

theorem peerPortDown_zero (h : (s.port 0).state = 2 ∨ (s.port 0).state = 3) : ∃ t,
    exec (.peerPortDown 0) s = .next t ∧ (t.port 0).state = 0 ∧ (t.port 0).nbrRank = 0xFFFF ∧
    (t.port 0).waiting = [] ∧ t.pairing.state = 0 ∧
    t.pairing.readySent = (if s.pairing.state = 0 then s.pairing.readySent else false) ∧
    (s.pairing.state ≠ 0 → t.causes.sys.getLsbD sysTwin = true) ∧ t.causes.link.getLsbD 1 = true ∧
    t.granary.mirror = (if s.pairing.state = 3 then [] else s.granary.mirror) ∧ t.faults = s.faults ∧
    ∀ q, q ≠ 0 → t.port q = s.port q := by
  obtain ⟨halone, hready, htwin, hlink, hmirror, hfaults⟩ := endPair_effect (s.portLeft 0)
  have hport (q : Nat) : (s.portLeft 0).endPair.port q = (s.portLeft 0).port q := by
    rw [State.port, endPair_ports, State.port]
  refine ⟨_, (exec_peerPortDown h).trans (congrArg Host.Outcome.next (portDown_zero h)), ?_, ?_, ?_, halone, hready,
    htwin, ?_, hmirror, hfaults, fun q hq => (hport q).trans (portLeft_other hq)⟩
  · rw [hport, portLeft_port (by decide)]
  · rw [hport, portLeft_port (by decide)]
  · rw [hport, portLeft_port (by decide)]
  · rw [hlink]
    exact (getLsbD_putBit_true s.causes.link 1 (by decide)).2 (.inr rfl)

/-! ### JOIN_TIMEOUT and lanes that fail (R381, R397) -/

theorem exec_joinTimeout_nothing (h : (s.port p).waiting = [] ∨ s.power.pstate = 2) :
    exec (.joinTimeout p) s = .next s :=
  congrArg Host.Outcome.next (if_pos (by simpa using h))

theorem exec_joinTimeout (hwaits : (s.port p).waiting ≠ []) (hhold : s.power.pstate ≠ 2) :
    exec (.joinTimeout p) s = .next (s.raiseFault srcPeer) :=
  congrArg Host.Outcome.next (if_neg (by simp [hwaits, hhold]))

/-- A lane in use that fails leaves a port at the lanes that still work. -/
theorem peerLaneFailure_narrows {working : Byte} {w : Nat} {m : Byte} (h : (s.port p).state = 2 ∨ (s.port p).state = 3)
    (hlost : (s.port p).lanesOk &&& working ≠ (s.port p).lanesOk)
    (hlanes : peerLanes (s.port p).maxWidth working = some (w, m)) : s.peerLaneFailure p working =
      ((s.modPort p (fun x => { x with lanesOk := m, maxWidth := w })).resendFlits (1 + p)).setLinkCause (1 + p) := by
  rw [State.peerLaneFailure, if_neg (by rcases h with h | h <;> simp [h, hlost]), hlanes]

/-- Where none are left the port goes down. -/
theorem peerLaneFailure_loses {working : Byte} (h : (s.port p).state = 2 ∨ (s.port p).state = 3)
    (hlost : (s.port p).lanesOk &&& working ≠ (s.port p).lanesOk)
    (hlanes : peerLanes (s.port p).maxWidth working = none) : s.peerLaneFailure p working = s.portDown p 0 := by
  rw [State.peerLaneFailure, if_neg (by rcases h with h | h <;> simp [h, hlost]), hlanes]

theorem exec_laneFailure_peer (working : U16) :
    exec (.laneFailure (p + 1) working) s = .next (s.peerLaneFailure p (working.setWidth 8)) :=
  congrArg Host.Outcome.next (if_neg (Nat.succ_ne_zero p))

end

/-- Settles O52: what a port's neighbour reports decides between up and foreign, and a port that goes down forgets it. -/
theorem peerPortStates : Obligations.PeerPortStates := by
  unfold Obligations.PeerPortStates
  refine ⟨fun s p lanes serial job => exec_peerPortTrained_nothing,
    fun s p lanes serial job => exec_peerPortTrained_noWidth,
    fun s p lanes serial job w m hp htrains h => peerPortTrained_effect hp htrains h,
    fun s p => exec_peerPortDown_disabled, fun s p hp hne h => ?_, fun s => peerPortDown_zero,
    fun s p => ⟨exec_joinTimeout_nothing, exec_joinTimeout⟩, fun s p rank job => exec_neighbourJobReport_nothing,
    fun s p rank job hp h => ?_, fun s p working w m hp h hlost => ⟨fun hlanes => ?_, fun hlanes => ?_⟩⟩
  · rw [exec_peerPortDown h, portDown_up hp h, if_neg hne]
    rfl
  · exact neighbourJobReport_effect hp h job rank
  · rw [exec_laneFailure_peer, peerLaneFailure_narrows h hlost hlanes]
  · rw [exec_laneFailure_peer, peerLaneFailure_loses h hlost hlanes, exec_peerPortDown h]

end Sys2Proof.Machine
end

section
/-!
Traffic that arrives on peer ports (13 R395 to R398; 10 R305, R306; 14 R413, R414; 18 R502): what a port takes, what
waits, and what barriers, collectives, mirrored seals and slack reports come to.
-/

namespace Sys2Proof.Machine

/-! ### What a port takes (R395, R398, Table 18-5) -/

section
variable {s : State} {p : Nat} {x : PeerIn} {waits : Bool} {k : State → State}

theorem onChannel_down (hup : (s.port p).state ≠ 2) (hforeign : (s.port p).state ≠ 3) :
    s.onChannel p x waits k = s :=
  if_neg (by simp [hup, hforeign])

/-- A foreign port carries no channel. -/
theorem onChannel_foreign (h : (s.port p).state = 3) : s.onChannel p x waits k = s.raiseFault srcPeer := by
  rw [State.onChannel, if_pos (by simp [h]), if_pos (by simp [h, peerChannels])]

theorem onChannel_up (h : (s.port p).state = 2) (hchannel : x.channel ∈ peerChannels p 2) :
    s.onChannel p x waits k = if s.peerWaits p x waits then { s with inbox := s.inbox ++ [(p, x)] } else k s := by
  rw [State.onChannel, if_pos (by simp [h]), if_neg (by simp [h, hchannel])]

theorem onChannel_waits (h : (s.port p).state = 2) (hchannel : x.channel ∈ peerChannels p 2)
    (hwaits : 2 ≤ s.power.pstate ∨ waits = true) :
    s.onChannel p x waits k = { s with inbox := s.inbox ++ [(p, x)] } := by
  rw [onChannel_up h hchannel, if_pos]
  rcases hwaits with hwaits | hwaits <;> simp [State.peerWaits, hwaits]

theorem onChannel_takes (h : (s.port p).state = 2) (hchannel : x.channel ∈ peerChannels p 2)
    (htakes : Takes s p x.channel) (hwaits : waits = false) : s.onChannel p x waits k = k s := by
  obtain ⟨hpower, hinbox⟩ := htakes
  rw [onChannel_up h hchannel, if_neg]
  simp only [State.peerWaits, hwaits, Bool.or_false, Bool.or_eq_true, decide_eq_true_eq, List.any_eq_true, not_or,
    not_exists, Bool.and_eq_true, beq_iff_eq]
  exact ⟨Nat.not_le.2 hpower, fun e he => hinbox e he.1 he.2.1 he.2.2⟩

end

/-- Channels 0 to 3 on the ports to neighbours, 1, 2 and 4 on the twin's (R395, R398). -/
theorem mem_peerChannels {p ch : Nat} (hp : p ≠ 0) (hch : ch < 4) : ch ∈ peerChannels p 2 := by
  have hchannels : peerChannels p 2 = [0, 1, 2, 3] := by simp [peerChannels, hp]
  rw [hchannels]
  interval_cases ch <;> decide

section
variable {s : State} {p dst : Nat} {m : SyncMsg} {b : Bulk} {a : AckMsg} {x : Message}

/-- Sealed objects whose manifest cannot be encrypted yet wait (R441). -/
def State.bulkWaits (s : State) (p dst : Nat) (b : Bulk) : Bool :=
  match b with
  | .mirrored m => p == 0 && s.pairing.state == 2 && !m.more && s.waitsIv m m.listed.length
  | .moved _ m => p != 0 && dst == s.job.rank && m.state == 4 && s.waitsIv m m.objects.length
  | _ => false

/-- What a port makes of BULK that it takes. -/
def State.bulkTaken (s : State) (p dst : Nat) (b : Bulk) : State :=
  if p = 0 then
    (match b with
    | .mirrored m => s.mirroredArrives m
    | _ => s)
  else s.forMe dst (fun q => .bulk q dst b) (fun s => s.bulkArrives b)

/-- What a port makes of an acknowledgement that it takes. -/
def State.ackTaken (s : State) (p dst : Nat) (a : AckMsg) : State :=
  if p = 0 then
    (match a with
    | .twinReceipt h no status =>
      if s.faulted || s.pairing.state != 2 then s else (s.twinReceipt h no status).finishDrained
    | .moveAck _ _ => s)
  else s.forMe dst (fun q => .ackp q dst a) (fun s => s.ackArrives a)

/-! One equation for each channel: what may wait, and what is made of it when it is taken. -/

theorem exec_barrierArrival : exec (.barrierArrival p dst m) s = .next (s.onChannel p (.sync dst m) false
    (fun s => s.forMe dst (fun q => .sync q dst m) (fun s => s.syncArrives m))) := rfl

theorem exec_bulk : exec (.bulk p dst b) s =
    .next (s.onChannel p (.bulk dst b) (s.bulkWaits p dst b) (fun s => s.bulkTaken p dst b)) := by
  cases b <;> rfl

theorem exec_ackp : exec (.ackp p dst a) s =
    .next (s.onChannel p (.ackp dst a) false (fun s => s.ackTaken p dst a)) := by
  cases a <;> rfl

theorem exec_slackReport : exec (.slackReport p x) s = .next (s.onChannel p (.slack x) false
    (fun s => s.slackArrives p x)) := rfl

theorem exec_barrierTimeout {b : Nat} : exec (.barrierTimeout b) s =
    .next (if ((s.barrierAt b).cores.isEmpty && (s.barrierAt b).ranks.isEmpty) || s.power.pstate == 2 then s
      else s.raiseFault srcSync) := rfl

theorem bulkWaits_eq_false (hp : p ≠ 0)
    (h : ∀ g y, b = .moved g y → y.state = 4 → s.waitsIv y y.objects.length = false) :
    s.bulkWaits p dst b = false := by
  cases b with
  | moved g y =>
    by_cases hstate : y.state = 4
    · simp [State.bulkWaits, h g y rfl hstate]
    · simp [State.bulkWaits, hstate]
  | mirrored y => simp [State.bulkWaits, hp]
  | collective => rfl
  | deltas => rfl

theorem bulkWaits_mirrored {y : MovedSession} :
    s.bulkWaits 0 dst (.mirrored y) = true ↔
      s.pairing.state = 2 ∧ y.more = false ∧ s.waitsIv y y.listed.length = true := by
  simp [State.bulkWaits, and_assoc]

theorem bulkTaken_of_ne (hp : p ≠ 0) :
    s.bulkTaken p dst b = s.forMe dst (fun q => .bulk q dst b) (fun s => s.bulkArrives b) := if_neg hp

theorem ackTaken_of_ne (hp : p ≠ 0) :
    s.ackTaken p dst a = s.forMe dst (fun q => .ackp q dst a) (fun s => s.ackArrives a) := if_neg hp

end

/-! ### Traffic of a job -/

section
variable {s : State} {dst : Nat} {mk : Nat → Sent} {k : State → State}

theorem forMe_dropped (h : s.faulted = true ∨ s.job.state = 0) : s.forMe dst mk k = s :=
  if_pos (by simpa using h)

theorem forMe_relayed (hfaulted : s.faulted = false) (hjob : s.job.state ≠ 0) (hdst : dst ≠ s.job.rank) :
    s.forMe dst mk k = s.relay dst mk := by
  rw [State.forMe, if_neg (by simp [hfaulted, hjob]), if_pos (by simpa using hdst)]

theorem forMe_taken (hfaulted : s.faulted = false) (hjob : s.job.state ≠ 0) (hdst : dst = s.job.rank) :
    s.forMe dst mk k = (k s).finishDrained := by
  rw [State.forMe, if_neg (by simp [hfaulted, hjob]), if_neg (by simpa using hdst)]

end

/-! ### Arrivals at a barrier (R413) -/

section
variable {s : State} {m : SyncMsg}

theorem syncArrives_earlier (h : m.epoch.toNat < (s.barrierAt m.barrier).epoch.toNat) : s.syncArrives m = s :=
  if_pos (by simp [h])

theorem syncArrives_later (hbarrier : m.barrier < 64) (h : (s.barrierAt m.barrier).epoch.toNat < m.epoch.toNat) :
    s.syncArrives m = s.modBarrier m.barrier (fun x => { x with held := x.held ++ [m] }) := by
  have hne : m.epoch ≠ (s.barrierAt m.barrier).epoch := fun heq => by simp [heq] at h
  rw [State.syncArrives, if_neg (by simp [hbarrier, h.le]), if_pos (by simpa using hne)]

theorem syncArrives_now (hbarrier : m.barrier < 64) (h : m.epoch = (s.barrierAt m.barrier).epoch)
    (hrelease : m.release = false) : s.syncArrives m = ((s.takeArrival m).tryBarrier m.barrier).closeDue := by
  rw [State.syncArrives, if_neg (by simp [hbarrier, h]), if_neg (by simp [h]), if_neg (by simp [hrelease])]

/-- Two changes of a barrier are one where they agree on what it holds. -/
theorem modBarrier_congr {b : Nat} {f g : Barrier → Barrier} (h : f (s.barrierAt b) = g (s.barrierAt b)) :
    s.modBarrier b f = s.modBarrier b g := by
  have hmod : vMod s.sync.barriers b f = vMod s.sync.barriers b g := by
    simp only [State.barrierAt, vGet] at h
    unfold vMod
    split
    next x hx =>
      rw [hx] at h
      exact congrArg _ h
    next => rfl
  rw [State.modBarrier, hmod, State.modBarrier]

/-- An arrival that agrees with the group joins the ranks that have arrived. -/
theorem takeArrival_joins
    (hgroup : ∀ g, (s.barrierAt m.barrier).group = some g → g = (m.coreMask, m.ranks))
    (hnew : m.src ∉ (s.barrierAt m.barrier).ranks) :
    s.takeArrival m = s.modBarrier m.barrier (fun x => { x with
      group := some (m.coreMask, m.ranks), ranks := x.ranks ++ [m.src] }) := by
  have hagrees : (s.barrierAt m.barrier).agrees m.coreMask m.ranks = true := agrees_iff.2 hgroup
  rw [State.takeArrival, if_neg (by simp [hagrees])]
  refine modBarrier_congr ?_
  simp [Barrier.fixed, hnew]

/-- A barrier stays closed while one of its ranks is missing. -/
theorem tryBarrier_of_missing {b r : Nat} {g : U64 × List Nat} (hgroup : (s.barrierAt b).group = some g)
    (hmember : r ∈ g.2) (hmissing : r ∉ (s.barrierAt b).ranks) : s.tryBarrier b = s := by
  have hall : (s.barrierAt b).allIn = false := by
    simp only [Barrier.allIn, hgroup, List.all_eq_false]
    exact ⟨r, hmember, by simp [hmissing]⟩
  exact if_neg (by simp [State.barrierDone, hall])

theorem tryBarrier_of_no_group {b : Nat} (hgroup : (s.barrierAt b).group = none) : s.tryBarrier b = s :=
  if_neg (by simp [State.barrierDone, Barrier.allIn, hgroup])

theorem closeDue_of_not_due (hdue : s.sheaf.due = false) (hagain : s.sheaf.again = false) : s.closeDue = s := by
  simp [State.closeDue, State.closeOne, hdue, hagain]

/-- An arrival of the barrier's epoch that leaves one of its ranks missing joins those that have arrived. -/
theorem syncArrives_joins (hbarrier : m.barrier < 64) (hepoch : m.epoch = (s.barrierAt m.barrier).epoch)
    (hrelease : m.release = false) (hdue : s.sheaf.due = false) (hagain : s.sheaf.again = false)
    (hgroup : ∀ g, (s.barrierAt m.barrier).group = some g → g = (m.coreMask, m.ranks))
    (hnew : m.src ∉ (s.barrierAt m.barrier).ranks) {r : Nat} (hmember : r ∈ m.ranks) (hother : m.src ≠ r)
    (hmissing : r ∉ (s.barrierAt m.barrier).ranks) :
    s.syncArrives m = s.modBarrier m.barrier (fun x => { x with
      group := some (m.coreMask, m.ranks), ranks := x.ranks ++ [m.src] }) := by
  have hat := barrierAt_modBarrier_same (s := s) hbarrier (fun x => { x with
    group := some (m.coreMask, m.ranks), ranks := x.ranks ++ [m.src] })
  rw [syncArrives_now hbarrier hepoch hrelease, takeArrival_joins hgroup hnew,
    tryBarrier_of_missing (by rw [hat]) hmember (by rw [hat]; simp [hmissing, hother.symm])]
  exact closeDue_of_not_due hdue hagain

end

/-! ### Parts of a collective -/

section
variable {s : State} {n : Nat} {q : Parts}

theorem takeParts_keeps (h : ∀ r ∈ (s.barrierAt n).parts, r.epoch = q.epoch →
    r.rank ≠ q.rank ∧ r.partBytes = q.partBytes ∧ r.parts = q.parts) :
    s.takeParts n q = s.modBarrier n (fun x => { x with parts := x.parts ++ [q] }) := by
  have hnew : (s.barrierAt n).parts.any (fun r => r.rank == q.rank && r.epoch == q.epoch) = false := by
    simp only [List.any_eq_false, Bool.and_eq_true, beq_iff_eq]
    exact fun r hr heq => (h r hr heq.2).1 heq.1
  have hfits : (s.barrierAt n).parts.any (fun r => r.epoch == q.epoch &&
      (r.partBytes != q.partBytes || r.parts != q.parts)) = false := by
    simp only [List.any_eq_false, Bool.and_eq_true, beq_iff_eq, Bool.or_eq_true, bne_iff_ne]
    intro r hr ⟨hepoch, hdiffers⟩
    obtain ⟨-, hbytes, hparts⟩ := h r hr hepoch
    exact hdiffers.elim (· hbytes) (· hparts)
  rw [State.takeParts, if_neg (by simp [hnew]), if_neg (by simp [hfits])]

/-- A part is kept where the group is not fixed yet: the barrier stays closed. -/
theorem bulkArrives_collective {epoch : U64} {src partBytes parts : Nat} {data : List Byte} (hn : n < 56)
    (hepoch : (s.barrierAt n).epoch.toNat ≤ epoch.toNat) (hgroup : (s.barrierAt n).group = none)
    (h : ∀ r ∈ (s.barrierAt n).parts, r.epoch = epoch → r.rank ≠ src ∧ r.partBytes = partBytes ∧ r.parts = parts) :
    s.bulkArrives (.collective n epoch src partBytes parts data) =
      s.modBarrier n (fun x => { x with parts := x.parts ++ [⟨epoch, src, partBytes, parts, data⟩] }) := by
  rw [State.bulkArrives, if_neg (by simp [hn, hepoch]), takeParts_keeps h, tryBarrier_of_no_group]
  rw [barrierAt_modBarrier_same (by omega), hgroup]

end

/-! ### The twin's traffic (R305, R306) -/

section
variable {s : State} {m : MovedSession}

theorem mirroredArrives_dropped (h : s.faulted = true ∨ s.pairing.state ≠ 2) : s.mirroredArrives m = s :=
  if_pos (by simpa using h)

/-- A PAIRED module takes what is mirrored and answers with a receipt. -/
theorem mirroredArrives_answers (hfaulted : s.faulted = false) (hpaired : s.pairing.state = 2) :
    s.mirroredArrives m = (s.takeMirrored m).1.putOnPort 0
      (.ackp 0 0 (.twinReceipt m.session m.sealNo (s.takeMirrored m).2)) :=
  if_neg (by simp [hfaulted, hpaired])

theorem takeMirrored_denied (h : s.keysAgree m = false) : s.takeMirrored m = (s, stDenied) :=
  if_pos (by simp [h])

theorem ackTaken_twinReceipt {dst status : Nat} {h no : U64} (hfaulted : s.faulted = false)
    (hpaired : s.pairing.state = 2) :
    s.ackTaken 0 dst (.twinReceipt h no status) = (s.twinReceipt h no status).finishDrained := by
  simp [State.ackTaken, hfaulted, hpaired]

end

/-! ### Slack reports (R502) -/

section
variable {s : State} {p : Nat} {x : Message}

theorem slackArrives_grants (hfaulted : s.faulted = false) (hp : p ∈ s.slackPorts) :
    s.slackArrives p x = s.modPort p (fun y => { y with
      balance := (if bitAt x 8 then 0 else y.balance) + (bytesLe (lineBytes x 16) 8 2 : Nat),
      report := some (field x 4 4, field x 10 2) }) :=
  if_neg (by simp [hfaulted, hp])

theorem ne_zero_of_mem_slackPorts (hp : p ∈ s.slackPorts) : p ≠ 0 := by
  rintro rfl
  unfold State.slackPorts at hp
  split at hp
  · simp at hp
  · simp at hp

end

/-- Settles O53: each channel's equation says what a port takes and what waits; what is taken then goes through the
lemma of its kind. -/
theorem peerTraffic : Obligations.PeerTraffic := by
  unfold Obligations.PeerTraffic
  refine ⟨?down, ?foreign, ?waits, ?sealed, ?job, ?barrier, ?collective, ?mirrored, ?receipt, ?slack, ?timeout⟩
  case down =>
    intro s p dst m b a x hup hforeign
    simp only [exec_barrierArrival, exec_bulk, exec_ackp, exec_slackReport, onChannel_down hup hforeign, and_self]
  case foreign =>
    intro s p dst m b a x _ hforeign
    simp only [exec_barrierArrival, exec_bulk, exec_ackp, exec_slackReport, onChannel_foreign hforeign, and_self]
  case waits =>
    intro s p dst m b a x hp hup hpower
    have hcarries {ch : Nat} (hch : ch < 4) : ch ∈ peerChannels p 2 := mem_peerChannels hp hch
    rw [exec_barrierArrival, exec_bulk, exec_ackp, exec_slackReport,
      onChannel_waits (x := .sync dst m) hup (hcarries (ch := 0) (by decide)) (.inl hpower),
      onChannel_waits (x := .bulk dst b) hup (hcarries (ch := 1) (by decide)) (.inl hpower),
      onChannel_waits (x := .ackp dst a) hup (hcarries (ch := 2) (by decide)) (.inl hpower),
      onChannel_waits (x := .slack x) hup (hcarries (ch := 3) (by decide)) (.inl hpower)]
    exact ⟨rfl, rfl, rfl, rfl⟩
  case sealed =>
    intro s dst m hup hwaits
    rw [exec_bulk, onChannel_waits (x := .bulk dst (.mirrored m)) hup (by decide : 1 ∈ peerChannels 0 2) (hwaits.imp_right bulkWaits_mirrored.2)]
  case job =>
    intro s p dst m b a hp hup htakes hsealed
    rw [exec_barrierArrival, exec_bulk, exec_ackp,
      onChannel_takes (x := .sync dst m) hup (mem_peerChannels (ch := 0) hp (by decide)) (htakes 0) rfl,
      onChannel_takes (x := .bulk dst b) hup (mem_peerChannels (ch := 1) hp (by decide)) (htakes 1)
        (bulkWaits_eq_false hp hsealed),
      onChannel_takes (x := .ackp dst a) hup (mem_peerChannels (ch := 2) hp (by decide)) (htakes 2) rfl,
      bulkTaken_of_ne hp, ackTaken_of_ne hp]
    refine ⟨fun hdropped => ?_, fun hfaulted hjob hdst => ?_, fun hfaulted hjob hdst => ?_⟩
    · simp only [forMe_dropped hdropped, and_self]
    · simp only [forMe_relayed hfaulted hjob hdst, and_self]
    · simp only [forMe_taken hfaulted hjob hdst, and_self]
  case barrier =>
    intro s p m hp hup htakes hfaulted hjob hdraining hdue hagain hbarrier
    rw [exec_barrierArrival,
      onChannel_takes (x := .sync s.job.rank m) hup (mem_peerChannels (ch := 0) hp (by decide)) htakes rfl,
      forMe_taken hfaulted hjob rfl]
    refine ⟨fun hepoch => ?_, fun hepoch => ?_, fun hepoch hrelease hmember hsrc hmissing hnew hgroup => ?_⟩
    · rw [syncArrives_earlier hepoch, finishDrained_of_state hdraining]
    · rw [syncArrives_later (by omega) hepoch, finishDrained_of_state]
      exact hdraining
    · rw [syncArrives_joins (by omega) hepoch hrelease hdue hagain hgroup hnew hmember hsrc hmissing,
        finishDrained_of_state]
      exact hdraining
  case collective =>
    intro s p n src partBytes parts epoch data hp hup htakes hfaulted hjob hdraining hn hepoch hgroup hagree
    rw [exec_bulk,
      onChannel_takes (x := .bulk s.job.rank (.collective n epoch src partBytes parts data)) hup
        (mem_peerChannels (ch := 1) hp (by decide)) htakes (bulkWaits_eq_false hp (by simp)), bulkTaken_of_ne hp,
      forMe_taken hfaulted hjob rfl, bulkArrives_collective hn hepoch hgroup hagree, finishDrained_of_state]
    exact hdraining
  case mirrored =>
    intro s dst m hup htakes hready
    have hwaits : s.bulkWaits 0 dst (.mirrored m) = false := by
      rw [← Bool.not_eq_true, bulkWaits_mirrored]
      rintro ⟨-, hlast, hiv⟩
      rcases hready with hmore | hnoIv
      · simp [hlast] at hmore
      · simp [hiv] at hnoIv
    have hexec : exec (.bulk 0 dst (.mirrored m)) s = .next (s.mirroredArrives m) := by
      rw [exec_bulk, onChannel_takes (x := .bulk dst (.mirrored m)) hup (by decide : 1 ∈ peerChannels 0 2) htakes
        hwaits]
      rfl
    refine ⟨fun hdropped => ?_, fun hfaulted hpaired => ?_, takeMirrored_denied⟩
    · rw [hexec, mirroredArrives_dropped hdropped]
    · exact ⟨_, hexec.trans (congrArg _ (mirroredArrives_answers hfaulted hpaired)), rfl, rfl, rfl⟩
  case receipt =>
    intro s dst status h no hup htakes hfaulted hpaired
    rw [exec_ackp, onChannel_takes (x := .ackp dst (.twinReceipt h no status)) hup
      (by decide : 2 ∈ peerChannels 0 2) htakes rfl, ackTaken_twinReceipt hfaulted hpaired]
  case slack =>
    intro s p x hp hup htakes hfaulted hslack
    have hchannel := mem_peerChannels (ne_zero_of_mem_slackPorts hslack) (ch := 3) (by decide)
    refine ⟨_, exec_slackReport.trans (congrArg _ ((onChannel_takes (x := .slack x) hup hchannel htakes rfl).trans
      (slackArrives_grants hfaulted hslack))), ?_, ?_, fun q hq => port_modPort_other hq _, rfl⟩
    · rw [port_modPort_same hp]
    · rw [port_modPort_same hp]
  case timeout =>
    intro s b
    rw [exec_barrierTimeout]
    refine ⟨fun hidle => ?_, fun harrived hpower => ?_⟩
    · rw [if_pos (by simpa using hidle)]
    · rw [if_neg]
      rcases harrived with harrived | harrived <;> simp [harrived, hpower]

end Sys2Proof.Machine
end

section
/-!
The machine as a whole (19 R509, R514; 14 R416; 09 R274): what a step is, what the release of a reset leaves, the tick
of an empty queue, and the invariant that every step keeps.
-/

namespace Sys2Proof.Machine

/-! ### Reset -/

@[simp] theorem cmdRing_reset (n : Nat) : State.reset.cmdRing n = CmdRing.reset := vGet_replicate 64 n _

@[simp] theorem cqRing_reset (n : Nat) : State.reset.cqRing n = CqRing.reset := vGet_replicate 64 n _

@[simp] theorem port_reset (p : Nat) : State.reset.port p = PeerPort.reset := vGet_replicate 8 p _

theorem reset_inv : State.reset.Inv :=
  ⟨rfl, rfl, rfl, rfl, by decide, by decide, by decide, by decide, fun n => by simp [CmdRing.reset],
    fun n => by simp [CqRing.reset], by decide⟩

/-! ### The invariant -/

/-- Every command keeps the invariant: each by the lemma of its own function. -/
theorem exec_keeps {s : State} (h : s.Inv) (i : Instr) : Keeps (exec i s) :=
  match i with
  | .snpInv tag addr => execSnpInv_keeps h tag addr
  | .data tag line => execData_keeps h tag line
  | .wrAck tag => execWrAck_keeps h tag
  | .err tag => execErr_keeps h tag
  | .winRd tag off => execWinRd_keeps h tag off
  | .winWr tag off line => execWinWr_keeps h tag off line
  | .recordStart ring => execRecordStart_keeps h ring
  | .indexCreate r => execIndexCreate_keeps h r
  | .indexLoad r => execIndexLoad_keeps h r
  | .indexDrop r => execIndexDrop_keeps h r
  | .indexSave r => execIndexSave_keeps h r
  | .vecInsert r => execVecInsert_keeps h r
  | .vecDelete r => execVecDelete_keeps h r
  | .indexPublish r => execIndexPublish_keeps h r
  | .generationSwitch slot tenant => execGenerationSwitch_keeps h slot tenant
  | .autoPublish slot tenant => execAutoPublish_keeps h slot tenant
  | .search r => execSearch_keeps h r
  | .topk r => execTopk_keeps h r
  | .topkMerge r => execTopkMerge_keeps h r
  | .tableCreate r => execTableCreate_keeps h r
  | .tableDrop r => execTableDrop_keeps h r
  | .rowLoad r => execRowLoad_keeps h r
  | .tableSave r => execTableSave_keeps h r
  | .gather r => execGather_keeps h r
  | .pool r => execPool_keeps h r
  | .scatter r => execScatter_keeps h r
  | .tableBoundary => execTableBoundary_keeps h
  | .quietUsExpiry => execQuietUsExpiry_keeps h
  | .tokenise r => execTokenise_keeps h r
  | .detokenise r => execDetokenise_keeps h r
  | .grammarLoad r => execGrammarLoad_keeps h r
  | .grammarDrop r => execGrammarDrop_keeps h r
  | .templateLoad r => execTemplateLoad_keeps h r
  | .templateDrop r => execTemplateDrop_keeps h r
  | .passageLoad r => execPassageLoad_keeps h r
  | .passageDrop r => execPassageDrop_keeps h r
  | .pack r => execPack_keeps h r
  | .jobLoad r => execJobLoad_keeps h r
  | .jobEnd r => execJobEnd_keeps h r
  | .graceExpiry => execGraceExpiry_keeps h
  | .request r => execRequest_keeps h r
  | .embed r => execEmbed_keeps h r
  | .safeguardRead r => execSafeguardRead_keeps h r
  | .modelLoad r => execModelLoad_keeps h r
  | .modelRetire r => execModelRetire_keeps h r
  | .modelCurrent r => execModelCurrent_keeps h r
  | .modelPin r => execModelPin_keeps h r
  | .stepOpen => execStepOpen_keeps h
  | .epochOpen => execEpochOpen_keeps h
  | .stepEnd => execStepEnd_keeps h
  | .slowWindowEnd => execSlowWindowEnd_keeps h
  | .openSession r => execOpenSession_keeps h r
  | .append r => execAppend_keeps h r
  | .generate r => execGenerate_keeps h r
  | .resume r => execResume_keeps h r
  | .park r => execPark_keeps h r
  | .revive r => execRevive_keeps h r
  | .move r => execMove_keeps h r
  | .fork r => execFork_keeps h r
  | .close r => execClose_keeps h r
  | .sealSession r => execSealSession_keeps h r
  | .sealComplete session => execSealComplete_keeps h session
  | .automaticSeal session => execAutomaticSeal_keeps h session
  | .pageMap r => execPageMap_keeps h r
  | .pageUnmap r => execPageUnmap_keeps h r
  | .copyIn r => execCopyIn_keeps h r
  | .copyOut r => execCopyOut_keeps h r
  | .tierMode r => execTierMode_keeps h r
  | .windowOpen r => execWindowOpen_keeps h r
  | .windowFlush r => execWindowFlush_keeps h r
  | .windowClose r => execWindowClose_keeps h r
  | .windowFill window bale write => execWindowFill_keeps h window bale write
  | .quarantineRelease epoch => execQuarantineRelease_keeps h epoch
  | .tallyClaim r => execTallyClaim_keeps h r
  | .tallyRelease r => execTallyRelease_keeps h r
  | .tallySignal r => execTallySignal_keeps h r
  | .tallyWait r => execTallyWait_keeps h r
  | .tallyRead r => execTallyRead_keeps h r
  | .tallyTimeout tally ring seq => execTallyTimeout_keeps h tally ring seq
  | .diagEcho r => execDiagEcho_keeps h r
  | .faultInject r => execFaultInject_keeps h r
  | .faultRead r => execFaultRead_keeps h r
  | .mma vc w => execMma_keeps h vc w
  | .jump vc w => execJump_keeps h vc w
  | .branch vc w => execBranch_keeps h vc w
  | .loop vc w => execLoop_keeps h vc w
  | .halt vc w => execHalt_keeps h vc w
  | .drain vc w => execDrain_keeps h vc w
  | .tallyAdd vc w => execTallyAdd_keeps h vc w
  | .tallyWaitInstruction vc w => execTallyWaitInstruction_keeps h vc w
  | .barrier vc w => execBarrier_keeps h vc w
  | .collect vc w => execCollect_keeps h vc w
  | .add vc w => execAdd_keeps h vc w
  | .sub vc w => execSub_keeps h vc w
  | .mul vc w => execMul_keeps h vc w
  | .and vc w => execAnd_keeps h vc w
  | .or vc w => execOr_keeps h vc w
  | .xor vc w => execXor_keeps h vc w
  | .shl vc w => execShl_keeps h vc w
  | .shr vc w => execShr_keeps h vc w
  | .loadi vc w => execLoadi_keeps h vc w
  | .ld vc w => execLd_keeps h vc w
  | .st vc w => execSt_keeps h vc w
  | .moveInstruction vc w => execMoveInstruction_keeps h vc w
  | .rowget vc w => execRowget_keeps h vc w
  | .rowpool vc w => execRowpool_keeps h vc w
  | .rowput vc w => execRowput_keeps h vc w
  | .attend vc w => execAttend_keeps h vc w
  | .writtenThroughMark vc => execWrittenThroughMark_keeps h vc
  | .walkWaitTimeout vc => execWalkWaitTimeout_keeps h vc
  | .handoff vc w => execHandoff_keeps h vc w
  | .vectorAdd vc w => execVectorAdd_keeps h vc w
  | .vectorSub vc w => execVectorSub_keeps h vc w
  | .vectorMul vc w => execVectorMul_keeps h vc w
  | .fma vc w => execFma_keeps h vc w
  | .max vc w => execMax_keeps h vc w
  | .exp vc w => execExp_keeps h vc w
  | .recip vc w => execRecip_keeps h vc w
  | .rsqrt vc w => execRsqrt_keeps h vc w
  | .silu vc w => execSilu_keeps h vc w
  | .gelu vc w => execGelu_keeps h vc w
  | .cvt vc w => execCvt_keeps h vc w
  | .rsum vc w => execRsum_keeps h vc w
  | .rmax vc w => execRmax_keeps h vc w
  | .softmax vc w => execSoftmax_keeps h vc w
  | .rmsnorm vc w => execRmsnorm_keeps h vc w
  | .layernorm vc w => execLayernorm_keeps h vc w
  | .rope vc w => execRope_keeps h vc w
  | .hadamard vc w => execHadamard_keeps h vc w
  | .psum vc w => execPsum_keeps h vc w
  | .commandRingEnable route ring value => execCommandRingEnable_keeps h route ring value
  | .completionRingEnable route ring value => execCompletionRingEnable_keeps h route ring value
  | .dictionaryWrite route index sub value => execDictionaryWrite_keeps h route index sub value
  | .dictionaryFrame f => execDictionaryFrame_keeps h f
  | .dictionaryCommit index sub => execDictionaryCommit_keeps h index sub
  | .quote route value => execQuote_keeps h route value
  | .quoteWritten => execQuoteWritten_keeps h
  | .keyImport route value => execKeyImport_keeps h route value
  | .keyErase route value => execKeyErase_keeps h route value
  | .installMainFirmware route => execInstallMainFirmware_keeps h route
  | .installPartitionFirmware route => execInstallPartitionFirmware_keeps h route
  | .rotateIdentity route => execRotateIdentity_keeps h route
  | .debugUnlock route => execDebugUnlock_keeps h route
  | .factoryReset route => execFactoryReset_keeps h route
  | .trustOperationEnd => execTrustOperationEnd_keeps h
  | .stageOff route value => execStageOff_keeps h route value
  | .stageData route value => execStageData_keeps h route value
  | .stickyClear route sub value => execStickyClear_keeps h route sub value
  | .causeClear route index sub value => execCauseClear_keeps h route index sub value
  | .sleep route value => execSleep_keeps h route value
  | .sleepExit => execSleepExit_keeps h
  | .softReset route value => execSoftReset_keeps h route value
  | .peerPortEnable route port value => execPeerPortEnable_keeps h route port value
  | .pairEn route value => execPairEn_keeps h route value
  | .detachPair route value => execDetachPair_keeps h route value
  | .faultSourceAssert source rail => execFaultSourceAssert_keeps h source rail
  | .jobRestart => execJobRestart_keeps h
  | .flit link f => execFlit_keeps h link f
  | .acknowledgeInterval link => execAcknowledgeInterval_keeps h link
  | .laneFailure link working => execLaneFailure_keeps h link working
  | .linkTrained base size lanes reqMsgs reqCells srspMsgs wrspMsgs wrspCells =>
    execLinkTrained_keeps h base size lanes reqMsgs reqCells srspMsgs wrspMsgs wrspCells
  | .coherentLinkLost => execCoherentLinkLost_keeps h
  | .linkTrainingRetry => execLinkTrainingRetry_keeps h
  | .watchPoll => execWatchPoll_keeps h
  | .peerPortTrained port lanes serial job => execPeerPortTrained_keeps h port lanes serial job
  | .peerPortDown port => execPeerPortDown_keeps h port
  | .joinTimeout port => execJoinTimeout_keeps h port
  | .bulk port dst b => execBulk_keeps h port dst b
  | .ackp port dst a => execAckp_keeps h port dst a
  | .barrierArrival port dst m => execBarrierArrival_keeps h port dst m
  | .barrierTimeout barrier => execBarrierTimeout_keeps h barrier
  | .slackReport port m => execSlackReport_keeps h port m
  | .hello port m => execHello_keeps h port m
  | .helloTimer => execHelloTimer_keeps h
  | .ready port m => execReady_keeps h port m
  | .detach port m => execDetach_keeps h port m
  | .detached port m => execDetached_keeps h port m
  | .detachTimeout => execDetachTimeout_keeps h
  | .fault port m => execFault_keeps h port m
  | .twinSenseN low => execTwinSenseN_keeps h low
  | .startUpStage f => execStartUpStage_keeps h f
  | .powerOnReset => execPowerOnReset_keeps h
  | .pinReset low => execPinReset_keeps h low
  | .pmateN closed => execPmateN_keeps h closed
  | .vinFault => execVinFault_keeps h
  | .nvWriteInhibit => execNvWriteInhibit_keeps h
  | .nvWriteResume => execNvWriteResume_keeps h
  | .inputSagEnd => execInputSagEnd_keeps h
  | .undervoltageLockout => execUndervoltageLockout_keeps h
  | .throttleUpdate vinMv inputW tj overCap => execThrottleUpdate_keeps h vinMv inputW tj overCap
  | .droopDetection quadrant => execDroopDetection_keeps h quadrant
  | .droopRelease quadrant => execDroopRelease_keeps h quadrant
  | .thermalTrip tj => execThermalTrip_keeps h tj
  | .lpddr6Hot package => execLpddr6Hot_keeps h package
  | .lpddr6HotFault package => execLpddr6HotFault_keeps h package
  | .rackAlert low => execRackAlert_keeps h low
  | .regulatorAlert asserted => execRegulatorAlert_keeps h asserted
  | .alertHoldExpiry regulator => execAlertHoldExpiry_keeps h regulator
  | .idleEntry => execIdleEntry_keeps h
  | .energyInterval nanojoules => execEnergyInterval_keeps h nanojoules
  | .clockFault => execClockFault_keeps h
  | .refresh channel => execRefresh_keeps h channel
  | .retrainInterval channel beyond => execRetrainInterval_keeps h channel beyond
  | .scrubRead channel line found => execScrubRead_keeps h channel line found
  | .correctionWriteBack channel line => execCorrectionWriteBack_keeps h channel line
  | .presenceButton => execPresenceButton_keeps h
  | .presenceWindowExpiry => execPresenceWindowExpiry_keeps h
  | .presenceJumper fitted => execPresenceJumper_keeps h fitted
  | .tamperBreak => execTamperBreak_keeps h
  | .idcode => execIdcode_keeps h
  | .bypass tdi => execBypass_keeps h tdi
  | .packageTemperatureReadout package temp rated => execPackageTemperatureReadout_keeps h package temp rated
  | .fullRetrainEnd channel ok => execFullRetrainEnd_keeps h channel ok
  | .managementLinkChange up => execManagementLinkChange_keeps h up
  | .neighbourJobReport port job rank => execNeighbourJobReport_keeps h port job rank
  | .debugPortAccess a => execDebugPortAccess_keeps h a

theorem step_keeps {s : State} (h : s.Inv) : Keeps (step s) := by
  unfold step
  split
  · exact keeps_next.2 (tick_inv h)
  · next c rest _ =>
    have hrest : State.Inv { s with pending := rest } := h
    exact exec_keeps hrest c

/-! ### The tick of the clock (R416, R274) -/

/-- What a tick earns beside the fraction that was left, in units of 1/(65,536 · 95,000,000). -/
abbrev Tenant.earned (x : Tenant) : Nat := x.frac + x.rate.toNat * 65536

/-- A tick that reaches `burst` leaves the level there. -/
theorem tick_full {x : Tenant} (h : x.level + (x.earned / (65536 * mgmtHz) : Nat) ≥ (x.burst.toNat : Int)) :
    x.tick = { x with level := x.burst.toNat, frac := 0 } := if_pos h

/-- A tick that does not reach `burst` adds what is earned, keeping the fraction. -/
theorem tick_below {x : Tenant} (h : ¬ x.level + (x.earned / (65536 * mgmtHz) : Nat) ≥ (x.burst.toNat : Int)) :
    x.tick = { x with
      level := x.level + (x.earned / (65536 * mgmtHz) : Nat), frac := x.earned % (65536 * mgmtHz) } := if_neg h

/-- What a tick does to a tenant: no other field than the level and its fraction moves, the level stays at most at
`burst`, and below it nothing of what `rate` adds is lost. -/
theorem tick_tenant (x : Tenant) :
    { x.tick with level := x.level, frac := x.frac } = x ∧ x.tick.level ≤ (x.burst.toNat : Int) ∧
      (x.tick.level < (x.burst.toNat : Int) →
        x.tick.level * (65536 * 95000000) + x.tick.frac =
          x.level * (65536 * 95000000) + x.frac + x.rate.toNat * 65536) := by
  by_cases h : x.level + (x.earned / (65536 * mgmtHz) : Nat) ≥ (x.burst.toNat : Int)
  · rw [tick_full h]
    exact ⟨rfl, Int.le_refl _, fun hbelow => absurd hbelow (Int.lt_irrefl _)⟩
  · rw [tick_below h]
    simp only [Tenant.earned, mgmtHz] at h ⊢
    exact ⟨trivial, by omega, fun _ => by omega⟩

/-- Settles O1: `step` on a queue that is not empty is `exec` of its front. -/
theorem stepRunsFrontCommand : Obligations.StepRunsFrontCommand := by
  intro s c rest hpending
  simp only [step, hpending]

/-- Settles O2: a step on an empty queue is a tick, and a tick moves the clock and the levels alone. -/
theorem emptyQueueTicks : Obligations.EmptyQueueTicks := by
  intro s hpending
  refine ⟨s.tick, by simp only [step, hpending], rfl, rfl, List.length_map .., fun i x y hx hy => ?_⟩
  have hxy : y = x.tick := by
    simpa [State.tick, hx] using hy.symm
  subst hxy
  exact tick_tenant x

/-- Settles O3: the fields of the reset state, and each of its rings, channels and ports at its own reset. -/
theorem resetState : Obligations.ResetState := by
  have hchannel (h : Fin 192) : State.reset.channels[h].trained = false := by
    simp [State.reset, Channel.reset]
  exact ⟨rfl, rfl, rfl, rfl, rfl, rfl, rfl, rfl, rfl, rfl, rfl, rfl, rfl,
    fun n _ => by simp [CmdRing.reset, CqRing.reset], hchannel, fun p _ => by simp [PeerPort.reset], rfl, rfl, rfl⟩

/-- Settles O4. -/
theorem resetKeepsInvariant : Obligations.ResetKeepsInvariant := reset_inv

/-- Settles O5: a tick keeps the invariant, and so does every command. -/
theorem stepKeepsInvariant : Obligations.StepKeepsInvariant :=
  fun _ t hinv hstep => step_keeps hinv t hstep

end Sys2Proof.Machine
end

section
/-!
Tallies (14 R404, R405) and the barriers of programs (14 R409 to R415).
-/

namespace Sys2Proof.Machine

/-! ### The tally unit (R404) -/

theorem signal_value_toNat {t : Tally} {n : Nat} (h : t.overflows n = false) :
    (t.signal n).2.value.toNat = t.value.toNat + (n - min n t.waiters.length) := by
  simp only [Tally.overflows, decide_eq_false_iff_not, Nat.not_le] at h
  simp only [Tally.signal, BitVec.toNat_add, BitVec.toNat_ofNat, Nat.add_mod_mod]
  exact Nat.mod_eq_of_lt h

theorem wait_takes {t : Tally} (h : t.value ≠ 0) (w : Waiter) :
    t.wait w = (true, { t with value := t.value - 1 }) := if_pos (bne_iff_ne.2 h)

theorem wait_joins {t : Tally} (h : t.value = 0) (w : Waiter) :
    t.wait w = (false, { t with waiters := t.waiters ++ [w] }) := if_neg (by simp [h])

/-- A tally above zero has an empty queue, and a wait keeps it so. -/
theorem wait_keeps_empty {t : Tally} (h : t.value ≠ 0 → t.waiters = []) (w : Waiter)
    (hafter : (t.wait w).2.value ≠ 0) : (t.wait w).2.waiters = [] := by
  by_cases hz : t.value = 0
  · rw [wait_joins hz] at hafter
    exact absurd hz hafter
  · rw [wait_takes hz]
    exact h hz

/-- A signal that leaves a value has released every waiter. -/
theorem signal_keeps_empty {t : Tally} {n : Nat} (h : t.value ≠ 0 → t.waiters = [])
    (hafter : (t.signal n).2.value ≠ 0) : (t.signal n).2.waiters = [] := by
  change t.waiters.drop n = []
  by_cases hall : t.waiters.length ≤ n
  · exact List.drop_eq_nil_of_le hall
  · have hsame : (t.signal n).2.value = t.value := by
      simp [Tally.signal, Nat.min_eq_left (Nat.le_of_not_le hall)]
    rw [h (hsame ▸ hafter), List.drop_nil]

/-- Settles O31: the unit's signal and wait, by whether the value is above zero and whether a waiter is left. -/
theorem tallyUnit : Obligations.TallyUnit := by
  intro t n w
  exact ⟨rfl, rfl, signal_value_toNat, fun h => wait_takes h w, fun h => wait_joins h w,
    fun h => ⟨wait_keeps_empty h w, fun _ => signal_keeps_empty h⟩⟩

/-! ### TALLY_ADD and TALLY_WAIT of programs (R404, R405, R409) -/

section
variable {s : State} {vc : Nat} {w : CoreWord} {c : VCore} (h : Issues s vc w c)
include h

/-- A count above zero is signalled, or is past the value's end. -/
theorem exec_tallyAdd (he : Encodes w 0 5) (hcount : c.tallyCount w ≠ 0) : exec (.tallyAdd vc w) s = .next (
    if (s.tally (wTally w)).overflows (c.tallyCount w) then (s.past vc c).raiseFault srcSync
    else (s.past vc c).signalTally (wTally w) (c.tallyCount w)) :=
  congrArg _ (issueIn_past h (isOp_of_encodes he) (bne_iff_ne.2 hcount) _)

theorem exec_tallyAdd_zero (he : Encodes w 0 5) (hcount : c.tallyCount w = 0) :
    exec (.tallyAdd vc w) s = .next (s.raiseFault (srcCore (s.coreOf vc))) :=
  congrArg _ (issueIn_violation h (isOp_of_encodes he) (bne_eq_false_iff_eq.2 hcount) _)

theorem exec_tallyWait (he : Encodes w 0 6) : exec (.tallyWaitInstruction vc w) s = .next (
    let r := (s.tally (wTally w)).wait (.core vc)
    let u := ((s.past vc c).putTally r.2).countTallyOp
    if r.1 then u else u.modVcore vc (fun x => { x with wait := .tally (wTally w) })) :=
  congrArg _ (issue_past h (isOp_of_encodes he) _)

end

/-- Settles O10: a signal by whether it overflows, a wait by whether the value is above zero. -/
theorem tallyInstructions : Obligations.TallyInstructions := by
  intro s vc w c h n t count
  refine ⟨exec_tallyAdd_zero h, fun he hcount hfits => ?_, fun he hcount hover => ?_, fun he hvalue => ?_,
    fun he hvalue => ?_⟩
  · have hfits : (s.tally (wTally w)).overflows (c.tallyCount w) = false := decide_eq_false (Nat.not_le.2 hfits)
    rw [exec_tallyAdd h he hcount, if_neg (by simp [hfits])]
    rfl
  · have hover : (s.tally (wTally w)).overflows (c.tallyCount w) = true := decide_eq_true hover
    rw [exec_tallyAdd h he hcount, if_pos hover]
  · rw [exec_tallyWait h he, wait_takes (t := s.tally (wTally w)) hvalue]
    rfl
  · rw [exec_tallyWait h he, wait_joins (t := s.tally (wTally w)) hvalue]
    rfl

/-! ### BARRIER and COLLECT (R409, R412, R415, R418) -/

theorem collect_issues {s : State} {w : CoreWord} (he : Encodes w 0 8)
    (hfull : s.collectsFull (wBarrier w) = false) :
    (isOp w 0 8 && !s.collectsFull (wBarrier w)) = true := by
  rw [isOp_of_encodes he, hfull]; rfl

section
variable {s : State} {vc : Nat} {w : CoreWord} {c : VCore} (h : Issues s vc w c)
include h

theorem exec_barrier (he : Encodes w 0 7) (hok : s.barrierOk vc c w = true) : exec (.barrier vc w) s =
    .next ((s.past vc c).coreArrival (wBarrier w) vc (c.reg (wCoreMaskReg w)) (s.barrierRanks c w)
      (.barrier (wBarrier w))) :=
  congrArg _ (issueIn_past h (isOp_of_encodes he) hok _)

theorem exec_barrier_violation (he : Encodes w 0 7) (hok : s.barrierOk vc c w = false) :
    exec (.barrier vc w) s = .next (s.raiseFault (srcCore (s.coreOf vc))) :=
  congrArg _ (issueIn_violation h (isOp_of_encodes he) hok _)

/-- While eight other collectives are in progress a COLLECT does not issue. -/
theorem exec_collect_full (hfull : s.collectsFull (wBarrier w) = true) : exec (.collect vc w) s = .next s := by
  have his : (isOp w 0 8 && !s.collectsFull (wBarrier w)) = false := by simp [hfull]
  refine congrArg Host.Outcome.next ?_
  simp only [State.issueIn, State.issue, his, h.there, Bool.and_false, Bool.false_and, if_neg Bool.false_ne_true]

theorem exec_collect_violation (he : Encodes w 0 8) (hfull : s.collectsFull (wBarrier w) = false)
    (hok : s.collectOk vc c w = false) : exec (.collect vc w) s = .next (s.raiseFault (srcCore (s.coreOf vc))) :=
  congrArg _ (issueIn_violation h (collect_issues he hfull) hok _)

/-- A COLLECT that issues sends its parts and, unless they differ in form from those that have come, arrives. -/
theorem exec_collect (he : Encodes w 0 8) (hfull : s.collectsFull (wBarrier w) = false)
    (hok : s.collectOk vc c w = true) : exec (.collect vc w) s = .next (
    let b := wBarrier w
    let g := s.collectGroup vc w
    let data := readBytes c.sram (64 * wCollectSrc w) (c.partTotal w)
    let e := (s.barrierAt b).epoch
    let sent := (g.2.filter (· != s.job.rank)).foldl (fun (u : State) d => u.sendTo d (fun p =>
      .bulk p d (.collective b e s.job.rank (c.partBytes w) (c.partCount w) data))) (s.past vc c)
    let u := sent.takeParts b ⟨e, s.job.rank, c.partBytes w, c.partCount w, data⟩
    if u.faulted then u else u.coreArrival b vc g.1 g.2 (.collect b w)) :=
  congrArg _ (issueIn_past h (collect_issues he hfull) hok _)

end

/-! ### The release of a barrier (R412, R413) -/

/-- A barrier once its round is over: its epoch is the next, and its arrivals and the round's parts are gone. -/
def Barrier.nextInstance (x : Barrier) : Barrier :=
  { x with
    epoch := x.epoch + 1, cores := [], ranks := [], parts := x.parts.filter (fun p => p.epoch != x.epoch),
    held := x.held.filter (fun m => m.epoch != x.epoch + 1) }

theorem tellRelease_besidePorts (s : State) (b : Nat) : (s.tellRelease b).besidePorts = s.besidePorts := by
  unfold State.tellRelease
  dsimp only
  split
  · rfl
  · exact foldl_sendTo_besidePorts _ _ _

/-- Where no message of the next epoch is held, the next epoch is all that a round's end begins here. -/
theorem nextEpoch_besidePorts {s : State} {b : Nat}
    (hheld : ∀ m ∈ (s.barrierAt b).held, m.epoch ≠ (s.barrierAt b).epoch + 1) :
    (s.nextEpoch b).besidePorts = (s.modBarrier b Barrier.nextInstance).besidePorts := by
  have htold := tellRelease_besidePorts s b
  have hbarrier : (s.tellRelease b).barrierAt b = s.barrierAt b := (congrArg (State.barrierAt · b) htold :)
  have hnow : (s.barrierAt b).held.filter (fun m => m.epoch == (s.barrierAt b).epoch + 1) = [] := by
    simpa [List.filter_eq_nil_iff] using hheld
  unfold State.nextEpoch
  simp only [hbarrier, hnow, List.foldl_nil]
  rw [modBarrier_congr (g := Barrier.nextInstance) (by rw [hbarrier]; rfl)]
  exact (congrArg (State.modBarrier · b Barrier.nextInstance) htold :)

theorem barrierAt_modBarrier_other {s : State} {b n : Nat} (hn : n ≠ b) (f : Barrier → Barrier) :
    (s.modBarrier b f).barrierAt n = s.barrierAt n := by
  simp [State.barrierAt, State.modBarrier, vGet_vMod, hn.symm]

/-- The core that is released waits for nothing. -/
theorem vcore?_releaseCore_same (ps : List Parts) (s : State) (w : Nat × Option CoreWord) {x : VCore}
    (hx : (State.releaseCore ps s w).vcore? w.1 = some x) : x.wait = .none := by
  rw [State.releaseCore, State.modVcore, vcore?_putVcore_same, Option.some.injEq] at hx
  subst hx
  split <;> rfl

/-- Once each core of `ws` is released no core waits at `b` any more, where those of `ws` alone did. -/
theorem foldl_releaseCore_waits {b : Nat} (ps : List Parts) {s : State} {ws : List (Nat × Option CoreWord)}
    (h : ∀ n x, s.vcore? n = some x → waitAt b x.wait ≠ none → n ∈ ws.map (·.1)) {n : Nat} {x : VCore}
    (hx : (ws.foldl (State.releaseCore ps) s).vcore? n = some x) : waitAt b x.wait = none := by
  induction ws generalizing s with
  | nil => exact Decidable.byContradiction fun hwait => absurd (h n x hx hwait) List.not_mem_nil
  | cons w ws ih =>
    refine ih (fun k y hy hwait => ?_) hx
    by_cases hk : k = w.1
    · rw [hk] at hy
      rw [vcore?_releaseCore_same ps s w hy] at hwait
      exact absurd rfl hwait
    · rw [State.releaseCore, vcore?_modVcore_other s w.1 k _ hk] at hy
      exact (List.mem_cons.1 (h k y hy hwait)).resolve_left hk

theorem mem_waitersAt {s : State} {b n : Nat} {x : VCore} (hx : s.vcore? n = some x)
    (hwait : waitAt b x.wait ≠ none) : n ∈ (s.waitersAt b).map (·.1) := by
  obtain ⟨y, hy⟩ := Option.ne_none_iff_exists'.1 hwait
  obtain ⟨e, he, rfl⟩ := Option.map_eq_some_iff.1 hx
  have hen : e.1 = n := by simpa using List.find?_some he
  exact List.mem_map.2 ⟨(e.1, y), List.mem_filterMap.2 ⟨e, List.mem_of_find?_eq_some he, by simp [hy]⟩, hen⟩

/-- A core that waits for nothing at `b` waits neither for its release nor for its data. -/
theorem not_waiting_of_waitAt {b : Nat} {w : CoreWait} (h : waitAt b w = none) :
    w ≠ .barrier b ∧ ∀ i, w ≠ .collect b i := by
  refine ⟨?_, fun i => ?_⟩ <;> rintro rfl <;> simp [waitAt] at h

/-- `s` once the cores that wait at `b` are released and the wait is counted. -/
def State.coresReleased (s : State) (b : Nat) : State :=
  let x := s.barrierAt b
  let t := (s.waitersAt b).foldl (State.releaseCore x.sorted) s
  { t with sync := { t.sync with slackUs := max t.sync.slackUs (t.waitedUs x) } }

theorem coresReleased_barrierAt (s : State) (b n : Nat) : (s.coresReleased b).barrierAt n = s.barrierAt n :=
  foldl_keeps (P := fun t => t.barrierAt n = s.barrierAt n) rfl (fun _ _ h => h)

/-- A complete barrier of programs releases its cores and ends its round. -/
theorem tryBarrier_done {s : State} {b : Nat} (hb : b < 56) (hdone : s.barrierDone b = true)
    (hheld : ∀ m ∈ (s.barrierAt b).held, m.epoch ≠ (s.barrierAt b).epoch + 1) :
    (s.tryBarrier b).besidePorts = ((s.coresReleased b).modBarrier b Barrier.nextInstance).besidePorts := by
  have htry : s.tryBarrier b = (s.coresReleased b).nextEpoch b := if_pos (by simp [hb, hdone])
  rw [htry]
  exact nextEpoch_besidePorts (by simpa only [coresReleased_barrierAt] using hheld)

theorem coreArrival_differs {s : State} {b vc : Nat} {mask : U64} {ranks : List Nat} {wait : CoreWait}
    (h : (s.barrierAt b).agrees mask ranks = false) : s.coreArrival b vc mask ranks wait = s.raiseFault srcSync :=
  if_pos (by simp [h])

/-- Settles O11: BARRIER and COLLECT as they issue; the release from what a complete barrier leaves beside the ports. -/
theorem coreBarriers : Obligations.CoreBarriers := by
  refine ⟨fun s vc w c h => ⟨exec_barrier h, exec_barrier_violation h, fun _ => exec_collect_full h,
    exec_collect_violation h, ?_⟩, fun s b vc mask ranks => ⟨coreArrival_differs, fun hb hdone hheld => ?_⟩⟩
  · intro he hfull hok b g data e sent u hu
    exact (exec_collect h he hfull hok).trans (congrArg _ (if_neg (Bool.eq_false_iff.1 hu)))
  · have hframe := tryBarrier_done hb hdone hheld
    have hbarrier (n : Nat) : (s.tryBarrier b).barrierAt n =
        ((s.coresReleased b).modBarrier b Barrier.nextInstance).barrierAt n :=
      (congrArg (State.barrierAt · n) hframe :)
    have hsame : (s.tryBarrier b).barrierAt b = (s.barrierAt b).nextInstance := by
      rw [hbarrier, barrierAt_modBarrier_same (by omega), coresReleased_barrierAt]
    have hcore (n : Nat) : (s.tryBarrier b).vcore? n = (s.coresReleased b).vcore? n :=
      (congrArg (State.vcore? · n) hframe :)
    rw [hsame]
    refine ⟨rfl, rfl, rfl, rfl, fun n hn => ?_, fun n x hx => ?_⟩
    · rw [hbarrier, barrierAt_modBarrier_other hn, coresReleased_barrierAt]
    · rw [hcore] at hx
      exact not_waiting_of_waitAt (foldl_releaseCore_waits _ (fun _ _ => mem_waitersAt) hx)

end Sys2Proof.Machine
end

section
/-!
Writes of the dictionary that fail a check (16 R453), and the writes of the staging area and of tenant keys (15 R436 to
R438, R445).
-/

namespace Sys2Proof.Machine

/-! ### Answers -/

/-- An answer is sent and, where no rule gives its value, drawn: nothing else moves. -/
theorem answered_frame (w : State) (route index sub status : Nat) :
    { Answered w route index sub status with sent := w.sent, draws := w.draws } = w := by
  unfold Answered
  dsimp only
  cases w.held? route index sub <;> rfl

/-- A write on a served route answers its own status, unless a soft reset follows it. -/
theorem rowWrite_answers {s w : State} {route index sub st : Nat} {v : U64} (hserves : s.serves route = true)
    (hawake : s.power.pstate ≠ 3) (hwrite : s.dictWrite route index sub v.toNat = (w, st))
    (hreset : startsReset index sub st = false) : s.rowWrite route index sub v = Answered w route index sub st := by
  have hreq : s.wake.request route 2 index sub v.toNat true = w.answers st (w.held? route index sub) false := by
    rw [wake_of_awake hawake]
    simp only [State.request, State.writeRequest, hwrite, hreset]
    rfl
  simp only [State.rowWrite, hserves, if_true, hreq, Answer.finish, answers_reset, answers_status, Answered]
  rfl

theorem rowWrite_unserved {s : State} {route index sub : Nat} {v : U64} (h : s.serves route = false) :
    s.rowWrite route index sub v = s := if_neg (by simp [h])

/-- A write that fails a check does nothing. -/
theorem dictWrite_refused {s : State} {route index sub v : Nat} (h : s.writeStatus route index sub v ≠ stOk) :
    s.dictWrite route index sub v = (s, s.writeStatus route index sub v) := if_pos (bne_iff_ne.2 h)

theorem startsReset_refused {index sub st : Nat} (h : st ≠ stOk) : startsReset index sub st = false := by
  simp [startsReset, h]

/-- It answers the status of that check, with the value still held. -/
theorem rowWrite_refused {s : State} {route index sub : Nat} {v : U64} (hserves : s.serves route = true)
    (hawake : s.power.pstate ≠ 3) (h : s.writeStatus route index sub v.toNat ≠ stOk) :
    s.rowWrite route index sub v = Answered s route index sub (s.writeStatus route index sub v.toNat) :=
  rowWrite_answers hserves hawake (dictWrite_refused h) (startsReset_refused h)

/-! ### The checks of Table 16-3 in their order -/

/-- The checks of a subindex that exists, one after the other. -/
theorem writeStatus_of_sub {s : State} {index sub : Nat} {i : SubInfo} (hi : subInfo index sub = some i)
    (route v : Nat) : s.writeStatus route index sub v =
      if s.startUp.stage == 0xFF && !s.recoveryServes index sub (v % 2 ^ i.width) then stNotSupported
      else if i.access = .ro ∨ i.access = .sp then stDenied
      else if i.access = .rwp ∧ s.presence = false then stPresence
      else if s.valueOk route index sub (writtenValue index sub i.width v) = false then stBadParam
      else if s.stateOk route index sub (writtenValue index sub i.width v) = false then stWrongState
      else stOk := by
  unfold State.writeStatus
  rw [hi]
  cases ha : i.access <;> simp [ha]

/-- `x` is a row that is one write of a subindex. -/
def IsRowWrite (x : (Nat → U64 → Instr) × Nat × Nat × (U64 → U64)) : Prop :=
  ∀ route v s, exec (x.1 route v) s = .next (s.rowWrite route x.2.1 x.2.2.1 (x.2.2.2 v))

theorem dictionaryRows_isRowWrite (n k : Nat) : ∀ x ∈ dictionaryRows n k, IsRowWrite x := by
  simp only [dictionaryRows, List.forall_mem_cons, List.not_mem_nil, false_implies, implies_true, and_true]
  and_intros
  all_goals exact fun _ _ _ => rfl

/-! ### Requests (R453, R454) -/

section
variable (s : State) (status : Nat) (v : Option Nat) (reset : Bool)

theorem answers_frame : { (s.answers status v reset).state with draws := s.draws } = s := by
  cases v <;> rfl

theorem answers_value_held {x : Nat} (h : v = some x) : (s.answers status v reset).value = BitVec.ofNat 64 x := by
  subst h
  rfl

end

section
variable {s : State} {route index sub : Nat}

/-- A request that is neither a read nor a write, or whose reserved bytes are not zero, is BAD_PARAM. -/
theorem request_malformed {op v : Nat} {zeros : Bool} (h : op ≠ 1 ∧ op ≠ 2 ∨ zeros = false) :
    ∃ x, s.request route op index sub v zeros = s.answers stBadParam x false := by
  unfold State.request
  split
  · exact ⟨none, if_neg (by simp_all)⟩
  · split
    · exact ⟨s.held? route index sub, if_neg (by simp_all)⟩
    · exact ⟨none, rfl⟩

theorem request_write_malformed (v : Nat) : s.request route 2 index sub v false =
    s.answers stBadParam (s.held? route index sub) false := rfl

theorem request_read (v : Nat) : s.request route 1 index sub v true = s.readRequest route index sub := rfl

theorem request_write (v : Nat) : s.request route 2 index sub v true = s.writeRequest route index sub v := rfl

theorem readRequest_held {x : Nat} (h : s.held? route index sub = some x) :
    (s.readRequest route index sub).status = stOk ∧ (s.readRequest route index sub).value = BitVec.ofNat 64 x := by
  rw [State.readRequest, h]
  exact ⟨rfl, rfl⟩

theorem readRequest_none (h : s.held? route index sub = none) :
    (s.readRequest route index sub).status = stNotSupported := by
  rw [State.readRequest, h]
  rfl

theorem readRequest_frame : { (s.readRequest route index sub).state with draws := s.draws } = s := by
  unfold State.readRequest
  split
  · rfl
  · split <;> rfl

end

/-- Settles O44: the rows are one write each, a refused write answers its status, and the status is the first failing
check's. -/
theorem dictionaryChecks : Obligations.DictionaryChecks := by
  refine ⟨fun n k x hx s route v => ⟨fun hserves => ?_, fun hserves hawake hstatus => ?_⟩,
    fun s route index sub v => ⟨fun hnone => ?_, fun i hi => ?_⟩, fun s route op index sub v zeros => ?_⟩
  · rw [dictionaryRows_isRowWrite n k x hx, rowWrite_unserved hserves]
  · exact ⟨_, (dictionaryRows_isRowWrite n k x hx route v s).trans
      (congrArg _ (rowWrite_refused hserves hawake hstatus)), rfl, answered_frame _ _ _ _ _⟩
  · rw [State.writeStatus, hnone]
  · simp only [writeStatus_of_sub hi]
    refine ⟨fun hrec => if_pos hrec, fun hrec hro => ?_, fun hrec hrwp hpres => ?_, fun hrec hro hsp hpres =>
      ⟨fun hvalue => ?_, fun hvalue hstate => ?_, fun hvalue hstate => ?_⟩⟩
    · rw [if_neg (by rw [hrec]; decide), if_pos hro]
    · rw [if_neg (by rw [hrec]; decide), if_neg (by simp [hrwp]), if_pos ⟨hrwp, hpres⟩]
    all_goals
      have hpres : ¬ (i.access = .rwp ∧ s.presence = false) := by
        rintro ⟨hrwp, hno⟩
        rcases hpres with hpres | hpres
        · exact hpres hrwp
        · exact absurd (hpres.symm.trans hno) (by decide)
      rw [if_neg (by rw [hrec]; decide), if_neg (by simp [hro, hsp]), if_neg hpres]
    · rw [if_pos hvalue]
    · rw [if_neg (by simp [hvalue]), if_pos hstate]
    · rw [if_neg (by simp [hvalue]), if_neg (by simp [hstate])]
  · refine ⟨fun hbad => ?_, fun hop hzeros x hx => ?_, fun hop hzeros => ?_, fun hop hzeros => ?_⟩
    · obtain ⟨x, hx⟩ := request_malformed (s := s) (route := route) (index := index) (sub := sub) (v := v) hbad
      simp only [hx, answers_status, answers_frame, and_self]
    · subst hop hzeros
      exact answers_value_held _ _ _ _ hx
    · subst hop hzeros
      exact ⟨fun x => readRequest_held, readRequest_none, readRequest_frame⟩
    · subst hop hzeros
      exact ⟨answers_status _ _ _ _, dictWrite_refused, fun x hx => answers_value_held _ _ _ _ hx⟩

/-! ### The staging area (R445) -/

theorem recoveryServes_staging (s : State) (sub v : Nat) : s.recoveryServes 0x8110 sub v = true := by
  simp [State.recoveryServes]

theorem valueOk_stageOff (s : State) (route v : Nat) :
    s.valueOk route 0x8110 1 v = (v % 8 == 0 && decide (v < stageSize)) := by
  have hrange : rangeOk 0x8110 1 v = (v % 8 == 0) := rfl
  have hselects : s.selects route 0x8110 1 v = true := rfl
  unfold State.valueOk
  rw [hrange, hselects, Bool.and_true]
  rfl

theorem valueOk_stageData (s : State) (route v : Nat) :
    s.valueOk route 0x8110 2 v = decide (s.part.stageOff < stageSize) := by
  have hrange : rangeOk 0x8110 2 v = true := rfl
  have hselects : s.selects route 0x8110 2 v = true := rfl
  unfold State.valueOk
  rw [hrange, hselects, Bool.and_true]
  rfl

theorem stateOk_staging (s : State) (route sub v : Nat) :
    s.stateOk route 0x8110 sub v = (s.part.spState == 1 && !s.power.nvInhibit) := rfl

/-- The checks of a write of the staging object: no check before its value's can fail. -/
theorem writeStatus_staging (s : State) (route : Nat) {sub : Nat} (v : Nat) {i : SubInfo}
    (hi : subInfo 0x8110 sub = some i) (hrw : i.access = .rw ∨ i.access = .wo) : s.writeStatus route 0x8110 sub v =
      if s.valueOk route 0x8110 sub (v % 2 ^ i.width) = false then stBadParam
      else if s.stateOk route 0x8110 sub (v % 2 ^ i.width) = false then stWrongState else stOk := by
  rw [writeStatus_of_sub hi, recoveryServes_staging, Bool.not_true, Bool.and_false, if_neg Bool.false_ne_true,
    if_neg (by rcases hrw with h | h <;> simp [h]), if_neg (by rcases hrw with h | h <;> simp [h])]
  rfl

theorem writeStatus_stageOff (s : State) (route v : Nat) : s.writeStatus route 0x8110 1 v =
    if s.valueOk route 0x8110 1 (v % 2 ^ 32) = false then stBadParam
    else if s.stateOk route 0x8110 1 (v % 2 ^ 32) = false then stWrongState else stOk :=
  writeStatus_staging s route v (i := rwN 32 0) rfl (.inl rfl)

theorem writeStatus_stageData (s : State) (route v : Nat) : s.writeStatus route 0x8110 2 v =
    if s.valueOk route 0x8110 2 (v % 2 ^ 64) = false then stBadParam
    else if s.stateOk route 0x8110 2 (v % 2 ^ 64) = false then stWrongState else stOk :=
  writeStatus_staging s route v (i := woN 64) rfl (.inr rfl)

/-- Below 62 V, or while the partition's firmware runs, no write of the staging area is allowed. -/
theorem stateOk_staging_refuses {s : State} (h : s.part.spState ≠ 1 ∨ s.power.nvInhibit = true) (route sub v : Nat) :
    s.stateOk route 0x8110 sub v = false := by
  rw [stateOk_staging]
  rcases h with h | h <;> simp [h]

theorem memGet_stageWord_in (s : State) (v : U64) {i : Nat} (hi : i < 8) :
    memGet (s.stageWord v.toNat).part.staging (s.part.stageOff + i) = v.extractLsb' (8 * i) 8 :=
  memGet_writeLe_in s.part.staging s.part.stageOff v hi

theorem memGet_stageWord_out (s : State) (v : Nat) {a : Nat}
    (ha : a < s.part.stageOff ∨ s.part.stageOff + 8 ≤ a) :
    memGet (s.stageWord v).part.staging a = memGet s.part.staging a :=
  memGet_writeLe_out s.part.staging s.part.stageOff 8 v a ha

/-- Settles O46: the two writes' effects on the staging memory, and the checks of the staging object. -/
theorem stagingArea : Obligations.StagingArea := by
  refine ⟨fun s route v h => ⟨_, exec_stageData h, ?_⟩, fun s route h => ⟨_, exec_stageOff h, ?_⟩,
    fun s route v hv hbad => ?_, fun s route v h => ⟨fun hlt hmul => ?_, fun hlt => ?_⟩,
    fun s route sub v hserves hawake hstatus =>
      ⟨_, congrArg Host.Outcome.next (rowWrite_refused hserves hawake hstatus), ?_⟩⟩
  · have hframe := answered_frame (s.stageWord v.toNat) route 0x8110 2 stOk
    rw [answered_part]
    exact ⟨fun i hi => memGet_stageWord_in s v hi, fun a ha => memGet_stageWord_out s v.toNat ha, rfl, rfl,
      (congrArg (fun u : State => { u with part := s.part }) hframe :)⟩
  · rw [answered_part, heldValue_zero]
    exact ⟨rfl, rfl, rfl⟩
  · rw [writeStatus_stageOff, Nat.mod_eq_of_lt hv, valueOk_stageOff, if_pos]
    rcases hbad with hbad | hbad
    · simp [hbad]
    · simp [Nat.not_lt.2 hbad]
  · have hv : v.toNat < 2 ^ 32 := Nat.lt_trans hlt (by decide)
    rw [writeStatus_stageOff, Nat.mod_eq_of_lt hv, valueOk_stageOff, if_neg (by simp [hlt, hmul]),
      if_pos (stateOk_staging_refuses h _ _ _)]
  · rw [writeStatus_stageData, valueOk_stageData, if_neg (by simp [hlt]), if_pos (stateOk_staging_refuses h _ _ _)]
  · exact answered_part s route 0x8110 sub _

/-! ### Keys of tenants (R436 to R438) -/

/-- `size` is nothing that reads change. -/
theorem readSources_t2Size (s : State) (l : List (Nat × Nat)) : (s.readSources l).link.t2Size = s.link.t2Size := by
  unfold State.readSources
  dsimp only
  split
  · rfl
  · rcases readSource_cases (s.modLink fun k => { k with sources := k.sources ++ _ }) with h | ⟨a, n, h⟩
    · rw [h]
      rfl
    · rw [h]
      rfl

section
variable {s : State} {t : Nat} {x : Tenant}

theorem importKey_none (h : s.tenant? t = none) : s.importKey t = (s, stDenied) := by
  rw [State.importKey, h]

theorem eraseKey_none (h : s.tenant? t = none) : s.eraseKey t = (s, stDenied) := by
  rw [State.eraseKey, h]

theorem importKey_denied (hx : s.tenant? t = some x) (h : s.part.debug = true ∨ s.part.spState = 1) :
    s.importKey t = (s, stDenied) := by
  rw [State.importKey, hx]
  exact if_pos (by rcases h with h | h <;> simp [h])

/-- A blob that does not lie in companion memory, or lies in an open window, is not read. -/
theorem importKey_unread (hx : s.tenant? t = some x) (hdebug : s.part.debug = false) (hsp : s.part.spState ≠ 1)
    (h : s.t2Ok x.keySrc.toNat 1664 = false ∨ s.inWindow x.keySrc.toNat 1664 = true) :
    s.importKey t = (s, stBadParam) := by
  have hread : (s.t2Ok x.keySrc.toNat 1664 && !s.inWindow x.keySrc.toNat 1664) = false := by
    rcases h with h | h <;> simp [h]
  rw [State.importKey, hx]
  simp [hdebug, hsp, hread]

/-- The state in which an import judges its blob. -/
abbrev State.keyRead (s : State) (x : Tenant) : State := s.readSources [(x.keySrc.toNat, 1664)]

/-- The blob is read, and judged by what it holds. -/
theorem importKey_read (hx : s.tenant? t = some x) (hdebug : s.part.debug = false) (hsp : s.part.spState ≠ 1)
    (hok : s.t2Ok x.keySrc.toNat 1664 = true) (hwin : s.inWindow x.keySrc.toNat 1664 = false) :
    ((s.keyRead x).blobKey t (readBytes s.t2 x.keySrc.toNat 1664) = none →
      s.importKey t = (s.keyRead x, stBadParam)) ∧
    ∀ k, (s.keyRead x).blobKey t (readBytes s.t2 x.keySrc.toNat 1664) = some k → s.importKey t =
      if s.keyIdTaken t k then (s.keyRead x, stBadParam)
      else if x.key.any (·.imported) || s.keyBusy t then (s.keyRead x, stWrongState)
      else ((s.keyRead x).modTenant t (fun y => { y with key := some ⟨k, true⟩ }), stOk) := by
  have hframe := readSources_besideLink s [(x.keySrc.toNat, 1664)]
  have ht2 : (s.keyRead x).t2 = s.t2 := (readSources_frame s _).1
  have hok' : (s.keyRead x).t2Ok x.keySrc.toNat 1664 = true := by
    rwa [State.t2Ok, readSources_t2Size, ← State.t2Ok]
  have hwin' : (s.keyRead x).inWindow x.keySrc.toNat 1664 = false :=
    (congrArg (State.inWindow · x.keySrc.toNat 1664) hframe).trans hwin
  have htaken (k : BitVec 256) : (s.keyRead x).keyIdTaken t k = s.keyIdTaken t k :=
    (congrArg (State.keyIdTaken · t k) hframe :)
  have hbusy : (s.keyRead x).keyBusy t = s.keyBusy t := (congrArg (State.keyBusy · t) hframe :)
  rw [State.importKey, hx]
  simp only [hdebug, hok, hwin, hok', hwin', ht2, htaken, hbusy, Bool.false_or, Bool.not_false, Bool.and_self, if_true,
    beq_eq_false_iff_ne.2 hsp, if_neg Bool.false_ne_true]
  refine ⟨fun hnone => ?_, fun k hk => ?_⟩
  · rw [hnone]
  · rw [hk]

theorem eraseKey_busy (hx : s.tenant? t = some x) (h : s.keyBusy t = true) : s.eraseKey t = (s, stWrongState) := by
  rw [State.eraseKey, hx]
  exact if_pos h

theorem eraseKey_fresh (hx : s.tenant? t = some x) (h : s.keyBusy t = false) : s.eraseKey t =
    ((s.modTenant t (fun y => { y with key := some ⟨Config.random s.draws, false⟩ })).drew 1, stOk) := by
  rw [State.eraseKey, hx]
  exact if_neg (by simp [h])

end

section
variable {s : State} {route : Nat} {v : U64}

theorem exec_keyImport (h : Allows s route 0x3010 4 v) : exec (.keyImport route v) s =
    .next (Answered (s.importKey (s.selectedTenant route)).1 route 0x3010 4
      (s.importKey (s.selectedTenant route)).2) := by
  have hwrite := dictWrite_allowed h
  obtain ⟨hserves, hawake, -⟩ := h
  exact congrArg Host.Outcome.next (rowWrite_answers hserves hawake hwrite rfl)

theorem exec_keyErase (h : Allows s route 0x3010 5 v) : exec (.keyErase route v) s =
    .next (Answered (s.eraseKey (s.selectedTenant route)).1 route 0x3010 5
      (s.eraseKey (s.selectedTenant route)).2) := by
  have hwrite := dictWrite_allowed h
  obtain ⟨hserves, hawake, -⟩ := h
  exact congrArg Host.Outcome.next (rowWrite_answers hserves hawake hwrite rfl)

end

/-- Settles O47: an import and an erase answer their own status, by the tenant, the partition and the blob. -/
theorem keyWrites : Obligations.KeyWrites := by
  refine ⟨fun s route v hnone => ⟨fun h => ?_, fun h => ?_⟩, fun s route v x hx => ⟨fun h => ?_, fun h => ?_⟩⟩
  · rw [exec_keyImport h, importKey_none hnone]
  · rw [exec_keyErase h, eraseKey_none hnone]
  · refine ⟨exec_keyImport h, importKey_denied hx, fun hdebug hsp hok hwin => ?_,
      (congrArg State.tenants (readSources_besideLink s _) :), importKey_unread hx⟩
    obtain ⟨hnone, hsome⟩ := importKey_read hx hdebug hsp hok hwin
    split
    · next hblob => exact hnone hblob
    · next k hblob => exact hsome k hblob
  · have herase := exec_keyErase h
    exact ⟨fun hbusy => by rwa [eraseKey_busy hx hbusy] at herase,
      fun hfree => by rwa [eraseKey_fresh hx hfree] at herase⟩

end Sys2Proof.Machine
end

section
/-!
What a fault changes (17 R471 to R476), and the collector of fault sources.
-/

namespace Sys2Proof.Machine

/-! ### Ring traffic -/

/-- `s` without what completions, ring reads and messages to peers change. -/
def State.besideTraffic (s : State) : State :=
  { s.besidePosts with
    cmdRings := State.reset.cmdRings, ports := State.reset.ports, draws := State.reset.draws }

theorem besideTraffic_of_besideLink {s t : State} (h : t.besideLink = s.besideLink) :
    t.besideTraffic = s.besideTraffic :=
  (congrArg State.besideTraffic h :)

theorem besideTraffic_of_besidePosts {s t : State} (h : t.besidePosts = s.besidePosts) :
    t.besideTraffic = s.besideTraffic :=
  (congrArg State.besideTraffic h :)

section
variable {s t : State} (h : t.besideTraffic = s.besideTraffic)
include h

theorem faultStates_of_besideTraffic : t.faults.faultStates = s.faults.faultStates :=
  (congrArg (fun u : State => u.faults.faultStates) h :)

theorem owed_of_besideTraffic : t.faults.owed = s.faults.owed :=
  (congrArg (fun u : State => u.faults.owed) h :)

end

theorem takeArrived_besideTraffic (s : State) (n k : Nat) : (s.takeArrived n k).besideTraffic = s.besideTraffic := by
  induction k generalizing s with
  | zero => rfl
  | succ k ih =>
    unfold State.takeArrived
    dsimp only
    split
    · split
      · exact (ih _).trans ((besideTraffic_of_besideLink (writeConsumer_besideLink _ n)).trans rfl)
      · rfl
    · rfl

theorem fetchRecords_besideTraffic (s : State) (n k : Nat) : (s.fetchRecords n k).besideTraffic = s.besideTraffic := by
  induction k generalizing s with
  | zero => rfl
  | succ k ih =>
    unfold State.fetchRecords
    dsimp only
    split
    · exact ih _
    · rfl

theorem serveAll_besideTraffic (s : State) : s.serveAll.besideTraffic = s.besideTraffic :=
  foldl_view State.besideTraffic
    (fun t n => (fetchRecords_besideTraffic _ n 64).trans (takeArrived_besideTraffic t n 64)) _ s

theorem completeAll_besideTraffic (s : State) (status : Nat) (l : List (Nat × Record)) :
    (s.completeAll status l).besideTraffic = s.besideTraffic :=
  foldl_view State.besideTraffic (fun t _ => besideTraffic_of_besidePosts (post_besidePosts t _)) l s

theorem unsettle_besideTraffic (s : State) : s.unsettle.besideTraffic = s.besideTraffic :=
  foldl_view State.besideTraffic (fun t e => by unfold State.undoLine; split <;> rfl) _ s

/-! ### The fault state (R475, R476) -/

/-- The commands in progress when the fault state is entered, a JOB_END apart: they complete with JOB_RESTARTED. -/
def State.endedByFault (s : State) : List (Nat × Record) :=
  s.outstanding.filter (fun e => !(decide (s.job.ending = some e.1) && e.2.opcode == 0x0401))

/-- `s` with its rings stopped: what waits for a command in progress is dropped, and records not taken are read anew. -/
def State.ringsStopped (s : State) : State :=
  let ids := s.running.map (fun r => (r.record.ring, r.id))
  let t := (s.modLink (fun l => { l with sources := [], deferred := l.deferred.filter (fun d => match d.write with
    | .completion p => !(p.done.any ids.contains)
    | .producer _ _ => true) })).staleRecords (fun _ => true)
  { t with cmdRings := t.cmdRings.map (fun (r : CmdRing) => { r.refetch with taken := [], former := [] }) }

/-- The fault state as it is entered: the job's objects end, and a restart is owed. -/
def State.faultEntered (s : State) : State :=
  let t := s.endObjects
  { t with
    startUp := { t.startUp with report := none },
    faults := { t.faults with
      faultStates := t.faults.faultStates + 1, owed := t.job.state == 1 || t.job.state == 2 } }

theorem enterFault_eq (s : State) : s.enterFault =
    let t := (s.unsettle.ringsStopped.faultEntered.completeAll stJobRestarted s.unsettle.endedByFault).serveAll
    if (t.port 0).state == 2 then t.sendPeer 0 (.peer 0 (t.pairMessage 0x64)) else t := rfl

theorem sendPeer_besideTraffic (s : State) (p : Nat) (m : Sent) :
    (s.sendPeer p m).besideTraffic = s.besideTraffic := rfl

theorem ringsStopped_besideTraffic (s : State) : s.ringsStopped.besideTraffic = s.besideTraffic := rfl

theorem faultEntered_besideTraffic {s t : State} (h : t.besideTraffic = s.besideTraffic) :
    t.faultEntered.besideTraffic = s.faultEntered.besideTraffic :=
  (congrArg (fun v : State => v.faultEntered.besideTraffic) h :)

theorem enterFault_besideTraffic (s : State) : s.enterFault.besideTraffic = s.faultEntered.besideTraffic := by
  have hentered : s.unsettle.ringsStopped.faultEntered.besideTraffic = s.faultEntered.besideTraffic :=
    faultEntered_besideTraffic ((ringsStopped_besideTraffic _).trans (unsettle_besideTraffic s))
  rw [← hentered, enterFault_eq]
  dsimp only
  split
  · rw [sendPeer_besideTraffic, serveAll_besideTraffic, completeAll_besideTraffic]
  · rw [serveAll_besideTraffic, completeAll_besideTraffic]

/-- `s` without what a fault may change: what it leaves alone. -/
def State.besideFault (s : State) : State :=
  let r := State.reset
  { s.besideTraffic with
    startUp := { s.startUp with report := none },
    inbox := r.inbox, partitions := r.partitions, sheaf := r.sheaf, grammars := r.grammars, templates := r.templates,
    stores := r.stores, models := r.models, granary := r.granary, step := r.step, front := r.front,
    epochs := r.epochs, tiers := { s.tiers with pages := [], host := [], windows := [], leftWindows := [] },
    cores := r.cores, sync := r.sync, pairing := r.pairing,
    faults := { s.faults with sticky := 0, faultStates := 0, owed := false, due := [] } }

theorem besideFault_of_besideTraffic {s t : State} (h : t.besideTraffic = s.besideTraffic) :
    t.besideFault = s.besideFault :=
  (congrArg State.besideFault h :)

theorem faultEntered_besideFault (s : State) : s.faultEntered.besideFault = s.besideFault := rfl

theorem enterFault_besideFault (s : State) : s.enterFault.besideFault = s.besideFault :=
  (besideFault_of_besideTraffic (enterFault_besideTraffic s)).trans (faultEntered_besideFault s)

theorem pairFaulted_besideFault (s : State) : s.pairFaulted.besideFault = s.besideFault := by
  unfold State.pairFaulted
  split <;> rfl

theorem raiseFault_besideFault (s : State) (source : Nat) : (s.raiseFault source).besideFault = s.besideFault := by
  rcases raiseFault_cases s source with h | h <;> rw [h]
  · rfl
  · rw [pairFaulted_besideFault, enterFault_besideFault]
    rfl

/-! ### Fields beside a fault -/

section
variable {s t : State} (h : t.besideFault = s.besideFault)
include h

theorem part_of_besideFault : t.part = s.part :=
  (congrArg State.part h :)

theorem dict_of_besideFault : t.dict = s.dict :=
  (congrArg State.dict h :)

theorem power_of_besideFault : t.power = s.power :=
  (congrArg State.power h :)

theorem live_of_besideFault : t.faults.live = s.faults.live :=
  (congrArg (fun u : State => u.faults.live) h :)

theorem rail_of_besideFault : t.faults.rail = s.faults.rail :=
  (congrArg (fun u : State => u.faults.rail) h :)

end

/-! ### A source that is raised (R471, R475) -/

theorem faulted_of_sticky {s : State} {n : Nat} (h : s.faults.sticky.getLsbD n = true) : s.faulted = true := by
  rw [State.faulted, bne_iff_ne]
  intro hzero
  simp [hzero] at h

theorem withSticky_faulted (s : State) {n : Nat} (hn : n < 96) : (s.withSticky n).faulted = true :=
  faulted_of_sticky ((withSticky_raises s n).getLsbD_sticky hn)

theorem raiseFault_first {s : State} (h : s.faulted = false) {n : Nat} (hn : n < 96) :
    s.raiseFault n = (s.withSticky n).enterFault.pairFaulted :=
  if_neg (by
    have hset := withSticky_faulted s hn
    simp only [State.withSticky] at hset
    simp [h, hset])

theorem pairFaulted_faults (s : State) : s.pairFaulted.faults = s.faults := by
  unfold State.pairFaulted
  split <;> rfl

/-- The first sticky bit is counted, and makes a restart owed where a job is loaded. -/
theorem raiseFault_first_faults {s : State} (h : s.faulted = false) {n : Nat} (hn : n < 96) :
    (s.raiseFault n).faults.faultStates = s.faults.faultStates + 1 ∧
      (s.raiseFault n).faults.owed = (s.job.state == 1 || s.job.state == 2) := by
  have hframe := enterFault_besideTraffic (s.withSticky n)
  rw [raiseFault_first h hn, pairFaulted_faults, faultStates_of_besideTraffic hframe, owed_of_besideTraffic hframe]
  exact ⟨rfl, rfl⟩

theorem raiseFault_sticky (s : State) {n : Nat} (hn : n < 96) : (s.raiseFault n).faults.sticky.getLsbD n = true :=
  (raiseFault_raises s n).getLsbD_sticky hn

theorem raiseFault_faultStates (s : State) {n : Nat} (hn : n < 96) : (s.raiseFault n).faults.faultStates =
    if s.faulted then s.faults.faultStates else s.faults.faultStates + 1 := by
  by_cases h : s.faulted = true
  · rw [raiseFault_of_faulted h, if_pos h]
    rfl
  · rw [if_neg h]
    exact (raiseFault_first_faults (Bool.eq_false_iff.2 h) hn).1

/-- In the fault state a further source changes the collector alone. -/
theorem raiseFault_faulted_frame {s : State} (h : s.faulted = true) (n : Nat) :
    { s.raiseFault n with faults := s.faults } = s := by
  rw [raiseFault_of_faulted h]
  rfl

/-! ### FAULT_SOURCE_ASSERT (R366, R471, R472, R474) -/

theorem putBit_getLsbD {w : Nat} (x : BitVec w) (i : Nat) : putBit x i (x.getLsbD i) = x := by
  apply BitVec.eq_of_getLsbD_eq
  intro j hj
  by_cases hx : x.getLsbD i = true
  · rw [hx]
    refine Bool.eq_iff_iff.2 ((getLsbD_putBit_true x i hj).trans ⟨?_, .inl⟩)
    rintro (h | rfl)
    · exact h
    · exact hx
  · rw [Bool.not_eq_true] at hx
    rw [hx, putBit, if_neg Bool.false_ne_true, BitVec.getLsbD_and, BitVec.getLsbD_not, BitVec.getLsbD_shiftLeft]
    by_cases hij : i = j
    · subst hij
      simp [hx]
    · simp only [hj, decide_true, Bool.true_and, Bool.not_and, Bool.not_not, BitVec.getLsbD_one]
      by_cases hlt : j < i
      · simp [hlt]
      · simp [show ¬ j - i = 0 by omega]

theorem setLive_raise_bits (s : State) (source : Nat) (live rail : Bool) :
    FaultBits s ((s.setLive source live rail).raiseFault source) source true live rail := by
  have hframe := raiseFault_besideFault (s.setLive source live rail) source
  exact ⟨(raiseFault_raises (s.setLive source live rail) source).sticky, live_of_besideFault hframe,
    rail_of_besideFault hframe⟩

theorem setLive_quiet_bits (s : State) (source : Nat) : FaultBits s (s.setLive source false false) source false false
    false :=
  ⟨(putBit_getLsbD s.faults.sticky source).symm, rfl, rfl⟩

section
variable {s : State} {source : Nat}

theorem exec_faultSource_none (h : 94 ≤ source) (rail : Rail) : exec (.faultSourceAssert source rail) s = .next s :=
  congrArg Host.Outcome.next (if_pos h)

theorem exec_faultSource_asserted (h : source < 94) : exec (.faultSourceAssert source .asserted) s =
    .next ((s.setLive source true false).raiseFault source) :=
  congrArg Host.Outcome.next (if_neg (Nat.not_le.2 h))

theorem exec_faultSource_equal (h : source < 94) : exec (.faultSourceAssert source .equal) s =
    .next ((s.setLive source true true).raiseFault source) :=
  congrArg Host.Outcome.next (if_neg (Nat.not_le.2 h))

theorem exec_faultSource_quiet (h : source < 94) : exec (.faultSourceAssert source .quiet) s =
    .next (s.setLive source false false) :=
  congrArg Host.Outcome.next (if_neg (Nat.not_le.2 h))

/-- The controller of a trained channel asserts for a bad line. -/
theorem exec_faultSource_line {h : Nat} (ht : (s.channel h).trained = true) (mis : Bool) :
    exec (.faultSourceAssert (srcMem (h / 48)) (.line h mis)) s =
      .next ((s.setLive (srcMem (h / 48)) true false).badLine h mis) := by
  have hlt : ¬ 94 ≤ srcMem (h / 48) := by
    unfold srcMem
    omega
  refine congrArg Host.Outcome.next ((if_neg hlt).trans (if_pos ?_))
  rw [Bool.and_eq_true, beq_iff_eq]
  exact ⟨rfl, ht⟩

end

/-- What a bad line leaves beside the fault that it raises. -/
theorem badLine_besideFault (s : State) (h : Nat) (mis : Bool) :
    (s.badLine h mis).besideFault = ((s.modChannel h (·.countsBad mis)).setSuspect h).besideFault :=
  raiseFault_besideFault _ _

/-- A bad line leaves the collector's reading of the pair as it is. -/
theorem badLine_live (s : State) (h : Nat) (mis : Bool) : (s.badLine h mis).faults.live = s.faults.live :=
  (live_of_besideFault (badLine_besideFault s h mis)).trans rfl

theorem badLine_channelBit (s : State) (h : Nat) (mis : Bool) : (s.badLine h mis).channelBit 11 h = true := by
  have hbit := setSuspect_channelBit (s := s.modChannel h (·.countsBad mis)) (h := h)
  rw [State.channelBit, State.setting] at hbit ⊢
  rwa [dict_of_besideFault (badLine_besideFault s h mis)]

/-- Settles O50: each reading of a source's pair, and a memory controller's assertion for a line. -/
theorem faultCollector : Obligations.FaultCollector := by
  refine ⟨fun s source rail h => exec_faultSource_none h rail, fun s source h => ?_, fun s h mis hh ht => ?_⟩
  · have hlt : source < 96 := by omega
    refine ⟨⟨_, exec_faultSource_asserted h, setLive_raise_bits s source true false,
        faulted_of_sticky (raiseFault_sticky _ hlt), raiseFault_faultStates _ hlt, fun hf => ?_⟩,
      ⟨_, exec_faultSource_equal h, setLive_raise_bits s source true true,
        faulted_of_sticky (raiseFault_sticky _ hlt), fun hf => ?_⟩,
      ⟨_, exec_faultSource_quiet h, setLive_quiet_bits s source, rfl⟩⟩
    all_goals
      exact (congrArg (fun u : State => { u with faults := s.faults })
        (raiseFault_faulted_frame (s := s.setLive _ _ _) hf source) :)
  · refine ⟨_, exec_faultSource_line ht mis, badLine_sticky _ h mis, ?_, badLine_sys _ h mis,
      badLine_channelBit _ h mis, ?_, ?_⟩
    · rw [badLine_live]
      exact (getLsbD_putBit_true _ _ (srcMem_lt _)).2 (.inr rfl)
    · rw [badLine_channel hh]
      exact Channel.countsBad_uncorrected _ mis
    · rw [badLine_channel hh]
      exact Channel.countsBad_misdirected _ mis

end Sys2Proof.Machine
end

section
/-!
Sticky bits that are cleared and the job restart (17 R477, R478); presence, tamper and the test port (15 R442, R447,
R448; 20 R532).
-/

namespace Sys2Proof.Machine

/-! ### Clearing (R477) -/

/-- The sticky bits that a clear leaves: those not named, and those whose sources are not quiet. -/
def State.stickyLeft (s : State) (ones : BitVec 96) : BitVec 96 := s.faults.sticky &&& ~~~(ones &&& ~~~s.faults.live)

/-- `s` with its sticky bits at `left`. -/
def State.withStickyBits (s : State) (left : BitVec 96) : State := { s with faults := { s.faults with sticky := left } }

theorem getLsbD_stickyLeft (s : State) (ones : BitVec 96) {i : Nat} (hi : i < 96) :
    (s.stickyLeft ones).getLsbD i = true ↔
      s.faults.sticky.getLsbD i = true ∧ (ones.getLsbD i = false ∨ s.faults.live.getLsbD i = true) := by
  simp only [State.stickyLeft, BitVec.getLsbD_and, BitVec.getLsbD_not, hi, decide_true, Bool.true_and, Bool.and_eq_true,
    Bool.not_eq_true', Bool.and_eq_false_iff, Bool.not_eq_false']

/-- While a bit stays set, or where none was, a clear changes the bits alone. -/
theorem clearSticky_stays {s : State} {ones : BitVec 96} (h : s.stickyLeft ones ≠ 0 ∨ s.faulted = false) :
    s.clearSticky ones = s.withStickyBits (s.stickyLeft ones) := by
  have hcond : (s.faulted && !(s.withStickyBits (s.stickyLeft ones)).faulted) = false := by
    rcases h with h | h
    · have hset : (s.withStickyBits (s.stickyLeft ones)).faulted = true := bne_iff_ne.2 h
      rw [hset, Bool.not_true, Bool.and_false]
    · rw [h, Bool.false_and]
  exact if_neg (by rw [Bool.not_eq_true]; exact hcond)

/-- The clear of the last bit ends the fault state. -/
theorem clearSticky_last {s : State} {ones : BitVec 96} (hf : s.faulted = true) (h : s.stickyLeft ones = 0) :
    s.clearSticky ones =
      (if s.job.state == 3 then (s.withStickyBits 0).finishJob else s.withStickyBits 0).tryPair := by
  have hcond : (s.faulted && !(s.withStickyBits (s.stickyLeft ones)).faulted) = true := by
    rw [hf, h]
    rfl
  rw [← h]
  exact if_pos hcond

theorem tryPair_job (s : State) : s.tryPair.job = s.job := by
  unfold State.tryPair
  split <;> rfl

theorem tryPair_tenants (s : State) : s.tryPair.tenants = s.tenants := by
  unfold State.tryPair
  split <;> rfl

/-- A job that was not ending goes on as it was, with the restart that it is owed. -/
theorem clearSticky_last_kept {s : State} {ones : BitVec 96} (hf : s.faulted = true) (h : s.stickyLeft ones = 0)
    (hj : s.job.state ≠ 3) : (s.clearSticky ones).faulted = false ∧ (s.clearSticky ones).faults.owed = s.faults.owed ∧
      (s.clearSticky ones).job = s.job ∧ (s.clearSticky ones).tenants = s.tenants := by
  rw [clearSticky_last hf h, if_neg (by simpa using hj), State.faulted, tryPair_faults, tryPair_job, tryPair_tenants]
  exact ⟨rfl, rfl, rfl, rfl⟩

/-! ### JOB_RESTART (R478) -/

theorem exec_jobRestart_nothing {s : State} (h : s.faults.owed = false ∨ s.faulted = true ∨ s.linkUp = false) :
    exec .jobRestart s = .next s :=
  congrArg Host.Outcome.next (if_neg (by rcases h with h | h | h <;> simp [h]))

theorem exec_jobRestart {s : State} (howed : s.faults.owed = true) (hf : s.faulted = false) (hup : s.linkUp = true) :
    exec .jobRestart s = .next s.restartJob :=
  congrArg Host.Outcome.next (if_pos (by simp [howed, hf, hup]))

/-- Settles O51: a clear by whether a bit stays set, the fault state's debt of a restart, and the restart. -/
theorem clearingAndRestart : Obligations.ClearingAndRestart := by
  refine ⟨fun s ones h => ⟨clearSticky_stays h, fun i hi => ?_⟩, fun s ones hf h => ⟨clearSticky_last hf h,
    clearSticky_last_kept hf h⟩, fun s source hf hlt => (raiseFault_first_faults hf (by omega)).2,
    fun s => exec_jobRestart_nothing, fun s howed hf hup =>
      ⟨_, exec_jobRestart howed hf hup, rfl, rfl, rfl, rfl, rfl, rfl, rfl, rfl, rfl⟩⟩
  rw [clearSticky_stays h]
  exact getLsbD_stickyLeft s ones hi

/-! ### The tamper loop (R447) -/

theorem holdFault_live (s : State) {source : Nat} (hn : source < 96) :
    (s.holdFault source).faults.live.getLsbD source = true := by
  rw [State.holdFault, live_of_besideFault (raiseFault_besideFault _ source)]
  exact (getLsbD_putBit_true _ _ hn).2 (.inr rfl)

theorem holdFault_sticky (s : State) {source : Nat} (hn : source < 96) :
    (s.holdFault source).faults.sticky.getLsbD source = true :=
  raiseFault_sticky _ hn

theorem destroyKeys_keys (s : State) : ∀ x ∈ s.destroyKeys.tenants, x.key = none := by
  intro x hx
  obtain ⟨y, -, rfl⟩ := List.mem_map.1 hx
  rfl

/-! ### Presence (R442) -/

theorem presence_of_button {s : State} (h : s.part.button = true) : s.presence = true := by
  simp [State.presence, h]

theorem presenceS_of_press {s : State} (h : s.part.button = true) (hat : s.part.buttonAt = s.timestamp) :
    s.presenceS = 120 := by
  simp [State.presenceS, h, hat]

/-! ### The test port (R448, R532) -/

section
variable {s : State}

/-- While debug is locked every instruction behaves as BYPASS. -/
theorem exec_debug_locked (h : s.part.debug = false) (a : DebugAccess) :
    exec (.debugPortAccess a) s = exec (.bypass a.tdi) s :=
  congrArg Host.Outcome.next (if_pos (by simp [h]))

theorem exec_debug_halt (h : s.part.debug = true) (tdi : Bool) :
    exec (.debugPortAccess ⟨tdi, .halt⟩) s = .next (s.raiseFault srcDebugHalt) :=
  congrArg Host.Outcome.next (if_neg (by simp [h]))

theorem exec_debug_read (h : s.part.debug = true) (tdi : Bool) (p : DebugPlace) :
    exec (.debugPortAccess ⟨tdi, .read p⟩) s =
      .next ((s.drew 1).send (.jtag (BitVec.ofNat 64 (s.debugRead p)))) :=
  congrArg Host.Outcome.next (if_neg (by simp [h]))

theorem exec_debug_write (h : s.part.debug = true) (tdi : Bool) (p : DebugPlace) (v : U64) :
    exec (.debugPortAccess ⟨tdi, .write p v⟩) s = .next (s.debugWrite p v) :=
  congrArg Host.Outcome.next (if_neg (by simp [h]))

end

/-- A byte written to a loft reads back. -/
theorem debugWrite_loft (s : State) {q : Nat} (hq : q < 4) (a : Nat) (v : U64) :
    memGet (vGet (s.debugWrite (.loft q a) v).cores.lofts q []) a = v.setWidth 8 := by
  change memGet (vGet (vMod s.cores.lofts q fun m => memSet m a (v.setWidth 8)) q []) a = _
  rw [vGet_vMod, if_pos ⟨rfl, hq⟩, memGet_memSet, if_pos rfl]

theorem debugRead_loft_written (s : State) {q : Nat} (hq : q < 4) (a : Nat) (v : U64) :
    (s.debugWrite (.loft q a) v).debugRead (.loft q a) = v.toNat % 256 := by
  rw [State.debugRead, debugWrite_loft s hq, BitVec.toNat_setWidth]

/-- Settles O60: presence, the tamper loop and each access of the test port. -/
theorem presenceAndTest : Obligations.PresenceAndTest := by
  intro s
  refine ⟨⟨_, rfl, presence_of_button rfl, presenceS_of_press rfl rfl⟩, ⟨_, rfl, ?_⟩, fun fitted => ⟨_, rfl, rfl⟩,
    ⟨_, rfl, rfl, holdFault_sticky s (by decide), holdFault_live s (by decide), destroyKeys_keys _⟩, rfl,
    fun tdi => rfl, fun up => ⟨_, rfl, rfl, rfl⟩, exec_debug_locked, fun h tdi => ⟨exec_debug_halt h tdi,
    exec_debug_read h tdi, fun vc n => rfl, fun vc n => exec_debug_write h tdi (.reg vc n),
    fun vc a => exec_debug_write h tdi (.sram vc a), fun q a v hq => ?_, fun n a => exec_debug_write h tdi (.frame n a),
    fun n a => exec_debug_write h tdi (.host n a), fun n k => exec_debug_write h tdi (.object n k)⟩⟩
  · rw [State.presence, Bool.false_or]
  · exact ⟨_, exec_debug_write h tdi (.loft q a) v, debugWrite_loft s hq a v, debugRead_loft_written s hq a v⟩

end Sys2Proof.Machine
end

section
/-!
The ends of trust operations and the resets (15 R434 to R449, 18 R487 to R497, 19 R514). A reset is a bare state and
the causes of Hold that still last; those bear on power and on the causes of interrupts alone.
-/

namespace Sys2Proof.Machine

/-! ### What a reset leaves (R514) -/

/-- `s` without power and the causes of interrupts: what forcing Hold leaves alone. -/
def State.besidePower (s : State) : State :=
  { s with power := State.reset.power, causes := State.reset.causes }

theorem hold_besidePower (s : State) (cause : Nat) : (s.hold cause).besidePower = s.besidePower := by
  by_cases h : s.power.holdWhy.getLsbD cause = true
  · rw [State.hold, if_pos h]
  · rw [State.hold, if_neg h]
    rfl

/-- A reset before the causes of Hold that last force it again. -/
def State.bareReset (s : State) (kind : Nat) : State :=
  { State.reset with
    pending := s.pending,
    ident := s.ident,
    startUp := { StartUp.reset with
      lastReset := kind, resetLow := s.startUp.resetLow, powered := s.startUp.powered,
      mated := s.startUp.mated, termLow := s.startUp.termLow, terminated := s.startUp.terminated },
    dict := { Dict.reset with store := s.dict.store, commits := s.dict.commits },
    mgmt := { Mgmt.reset with link := s.mgmt.link },
    t2 := s.t2,
    sent := s.sent,
    part := s.part.kept (kind == 0),
    power := s.power.kept,
    pairing := { Pairing.reset with cabled := s.pairing.cabled },
    timestamp := if kind = 0 then 0 else s.timestamp,
    draws := s.draws }

theorem doReset_eq (s : State) (kind : Nat) : s.doReset kind = (s.bareReset kind).holdAgain.sampleTerm := rfl

theorem holdAgain_besidePower (s : State) : s.holdAgain.besidePower = s.besidePower := by
  have h (t : State) (c : Bool) (k : Nat) : (if c then t.hold k else t).besidePower = t.besidePower := by
    split
    · exact hold_besidePower t k
    · rfl
  exact (h _ _ 2).trans ((h _ _ 1).trans (h _ _ 0))

/-- `s` without power, the causes of interrupts and the sample of MGT_TERM_N: all of it that a reset's last steps leave
alone. -/
def State.besideSample (s : State) : State :=
  { s.besidePower with startUp := { s.startUp with terminated := false } }

theorem sampleTerm_besideSample (s : State) : s.sampleTerm.besideSample = s.besideSample := by
  unfold State.sampleTerm
  split <;> rfl

theorem besideSample_of_besidePower {s t : State} (h : t.besidePower = s.besidePower) :
    t.besideSample = s.besideSample :=
  congrArg (fun u : State => ({ u with startUp := { u.startUp with terminated := false } } : State)) h

theorem doReset_besideSample (s : State) (kind : Nat) :
    (s.doReset kind).besideSample = (s.bareReset kind).besideSample := by
  rw [doReset_eq, sampleTerm_besideSample]
  exact besideSample_of_besidePower (holdAgain_besidePower _)

section
variable {s t : State}

theorem afterReset_of_besideSample {kind : Nat} (h : t.besideSample = (s.bareReset kind).besideSample) :
    AfterReset s t kind :=
  ⟨(congrArg (fun u : State => u.startUp.stage) h :), (congrArg (fun u : State => u.startUp.lastReset) h :),
    (congrArg (fun u : State => u.tiers.mode) h :), (congrArg (fun u : State => u.job.state) h :),
    (congrArg (fun u : State => u.tenants) h :), (congrArg (fun u : State => u.pairing.state) h :),
    (congrArg (fun u : State => u.granary.mirror) h :), (congrArg (fun u : State => u.part.button) h :),
    (congrArg (fun u : State => u.part.debug) h :), (congrArg (fun u : State => u.dict.settings) h :),
    (congrArg (fun u : State => u.dict.queue) h :), (congrArg (fun u : State => u.dict.store) h :),
    (congrArg (fun u : State => u.t2) h :), (congrArg (fun u : State => u.part.opened) h :),
    (congrArg (fun u : State => u.part.rollback) h :), (congrArg (fun u : State => u.part.idPriv) h :),
    (congrArg (fun u : State => u.part.idGen) h :), (congrArg (fun u : State => u.part.staging) h :),
    (congrArg (fun u : State => u.part.staged) h :), (congrArg (fun u : State => u.part.mainSlots) h :),
    (congrArg (fun u : State => u.part.spSlots) h :), (congrArg (fun u : State => u.timestamp) h :)⟩

theorem held_of_besideSample (h : t.besideSample = s.besideSample) : t.held = s.held :=
  (congrArg (fun u : State => u.held) h :)

theorem mated_of_besideSample (h : t.besideSample = s.besideSample) : t.startUp.mated = s.startUp.mated :=
  (congrArg (fun u : State => u.startUp.mated) h :)

theorem powered_of_besideSample (h : t.besideSample = s.besideSample) : t.startUp.powered = s.startUp.powered :=
  (congrArg (fun u : State => u.startUp.powered) h :)

end

theorem doReset_afterReset (s : State) (kind : Nat) : AfterReset s (s.doReset kind) kind :=
  afterReset_of_besideSample (doReset_besideSample s kind)

/-- The pins hold the module over a reset as they did before. -/
theorem doReset_held (s : State) (kind : Nat) : (s.doReset kind).held = s.held :=
  (held_of_besideSample (doReset_besideSample s kind)).trans rfl

theorem doReset_mated (s : State) (kind : Nat) : (s.doReset kind).startUp.mated = s.startUp.mated :=
  (mated_of_besideSample (doReset_besideSample s kind)).trans rfl

theorem doReset_powered (s : State) (kind : Nat) : (s.doReset kind).startUp.powered = s.startUp.powered :=
  (powered_of_besideSample (doReset_besideSample s kind)).trans rfl

/-- What a reset leaves does not depend on the pins. -/
theorem afterReset_of_pins {s t : State} {u : StartUp} {kind : Nat}
    (h : AfterReset { s with startUp := u } t kind) : AfterReset s t kind := h

theorem exec_pmateN_same (s : State) : exec (.pmateN s.startUp.mated) s = .next s :=
  congrArg Host.Outcome.next (if_pos (beq_self_eq_true _))

theorem exec_pmateN_opens {s : State} (h : s.startUp.mated = true) : exec (.pmateN false) s =
    .next { s with startUp := { s.startUp with mated := false, powered := false } } :=
  congrArg Host.Outcome.next (if_neg (by rw [h]; decide))

theorem exec_pmateN_closes {s : State} (h : s.startUp.mated = false) : exec (.pmateN true) s =
    .next (({ s with startUp := { s.startUp with mated := true, powered := false } }).doReset 0) :=
  congrArg Host.Outcome.next (if_neg (by rw [h]; decide))

theorem takeInbox_nil {s : State} (h : s.inbox = []) : s.takeInbox = s := by
  rw [State.takeInbox, h, List.foldl_nil, ← h]

theorem powerOnReset_mated {s : State} (h : s.startUp.mated = true) : exec .powerOnReset s =
    .next (({ s with startUp := { s.startUp with powered := true } }).doReset 0) :=
  congrArg Host.Outcome.next (if_pos h)

theorem pinReset_release (s : State) : exec (.pinReset false) s = .next { s with startUp := { s.startUp with
    resetLow := false,
    terminated := if s.startUp.powered = true then s.startUp.termLow else s.startUp.terminated } } := by
  show Host.Outcome.next (State.sampleTerm { s with startUp := { s.startUp with resetLow := false } }) = _
  unfold State.sampleTerm
  cases hp : s.startUp.powered <;> simp [State.held, hp]

/-- Settles O57: the faults of the input and the clock, and every way to a reset. -/
theorem inputAndResets : Obligations.InputAndResets := by
  refine ⟨fun s => ⟨⟨_, rfl, holdFault_sticky s (by decide), holdFault_live s (by decide)⟩, rfl,
      ⟨rfl, fun h => congrArg Host.Outcome.next (takeInbox_nil h)⟩, ?_, exec_pmateN_opens, fun h =>
        ⟨_, exec_pmateN_closes h, afterReset_of_pins (doReset_afterReset _ 0), doReset_mated _ _, ?_⟩⟩,
    fun s h => congrArg Host.Outcome.next (if_neg (by rw [h]; decide)),
    fun s h => ⟨_, powerOnReset_mated h, afterReset_of_pins (doReset_afterReset _ 0), doReset_powered _ _⟩,
    fun s => ⟨_, rfl, afterReset_of_pins (doReset_afterReset _ 1), doReset_held _ _⟩, pinReset_release,
    fun s => ⟨_, rfl, afterReset_of_pins (doReset_afterReset _ 0), ?_⟩, fun s => doReset_afterReset s 2⟩
  · rintro closed rfl
    exact exec_pmateN_same s
  · rw [doReset_held]
    exact Bool.or_true _
  · rw [doReset_held]
    exact Bool.or_true _

/-! ### Quotes and trust operations end (R434, R435, R444) -/

theorem exec_quoteWritten {s : State} (h : s.part.qstate = 1) : exec .quoteWritten s = .next s.endQuote :=
  congrArg Host.Outcome.next (if_pos (beq_iff_eq.2 h))

theorem endQuote_written {s : State} (hsp : s.part.spState ≠ 1) (hup : s.linkUp = true)
    (hd : s.part.quoteDest % 64 = 0) (ht : s.t2Ok s.part.quoteDest 18944 = true) : s.endQuote =
      ({ s with part := { s.part with qstate := 2 } }).writeT2 s.part.quoteDest s.part.quote :=
  if_neg (by simp [hsp, hup, hd, ht])

theorem endQuote_fails {s : State} (h : s.part.spState = 1 ∨ s.linkUp = false ∨ s.part.quoteDest % 64 ≠ 0 ∨
    s.t2Ok s.part.quoteDest 18944 = false) : s.endQuote = { s with part := { s.part with qstate := 3 } } :=
  if_pos (by rcases h with h | h | h | h <;> simp [h])

/-- What TRUST_OPERATION_END does with the operation in progress. -/
theorem exec_trustOperationEnd {s : State} (h : s.part.result = 1) : exec .trustOperationEnd s =
    .next (match s.part.op with
      | 1 => if s.power.nvInhibit then s.abandonOp else s.endInstall 0
      | 2 => if s.power.nvInhibit then s.abandonOp else s.endInstall 1
      | 3 => if s.power.nvInhibit then s.abandonOp else s.endRotate
      | 4 => s.endOp 2
      | 5 => if s.power.nvInhibit then s.abandonOp else s.doFactoryReset
      | _ => s) := by
  refine congrArg Host.Outcome.next ((if_neg ?_).trans ?_)
  · rw [h]
    decide
  · rfl

theorem endRotate_opened {s : State} (h : s.part.opened = true) : s.endRotate = s.endOp 7 := if_pos h

theorem endRotate_part {s : State} (ho : s.part.opened = false) (ht : s.t2Ok s.part.opDest 17216 = true) :
    s.endRotate.part = { s.part with
      idPub := Config.slhPublic (Config.random s.draws), idPriv := Config.random s.draws, idGen := s.part.idGen + 1,
      result := 2, op := 0 } := by
  unfold State.endRotate
  rw [if_neg (by rw [ho]; decide), if_neg (by rw [ht]; decide)]
  simp only [State.endOp, writeT2_part, State.drew]

/-- An abandoned operation ends with result 6; of the settings in force and the slots that boot nothing changes. -/
theorem abandonOp_abandons {s : State} (hr : s.part.result = 1)
    (hop : s.part.op = 1 ∨ s.part.op = 2 ∨ s.part.op = 3 ∨ s.part.op = 5) :
    s.abandonOp.part.result = 6 ∧ s.abandonOp.part.idPriv = s.part.idPriv ∧ s.abandonOp.dict = s.dict ∧
      s.abandonOp.tenants = s.tenants ∧ s.abandonOp.startUp = s.startUp ∧
      s.abandonOp.part.bootSlot = s.part.bootSlot ∧ s.abandonOp.part.pendingSlot = s.part.pendingSlot := by
  unfold State.abandonOp State.putSlot
  rw [if_neg (by rw [hr]; decide)]
  rcases hop with h | h | h | h <;> rw [h] <;> exact ⟨rfl, rfl, rfl, rfl, rfl, rfl, rfl⟩

theorem exec_trustOperationEnd_inhibited {s : State} (hr : s.part.result = 1) (hn : s.power.nvInhibit = true)
    (hop : s.part.op = 1 ∨ s.part.op = 2 ∨ s.part.op = 3 ∨ s.part.op = 5) :
    exec .trustOperationEnd s = .next s.abandonOp := by
  rw [exec_trustOperationEnd hr]
  rcases hop with h | h | h | h <;> rw [h] <;> exact congrArg Host.Outcome.next (if_pos hn)

theorem leavesSleep_eq {s : State} (hp : s.power.pstate = 3) (hw : s.power.waking = true) : exec .sleepExit s =
    .next (s.modPower (fun p => { p with pstate := 0, waking := false })).resumeTraffic.takeInbox.closeDue :=
  congrArg Host.Outcome.next (if_pos (by rw [hp, hw]; rfl))

/-- A factory reset leaves the settings at their defaults, no tenant, and what every reset leaves. -/
theorem doFactoryReset_leaves (s : State) : let t := s.doFactoryReset
    t.startUp.lastReset = 3 ∧ t.dict.store = [] ∧
      t.tenants = [] ∧ t.part.opened = s.part.opened ∧ t.part.idGen = s.part.idGen ∧
      t.part.rollback = s.part.rollback ∧ t.part.idPriv = s.part.idPriv ∧ t.part.mainSlots = s.part.mainSlots ∧
      t.part.spSlots = s.part.spSlots := by
  obtain ⟨-, hl, -, -, ht, -, -, -, -, -, -, hs, -, ho, hr, hp, hg, -, -, hm, hq, -⟩ :=
    doReset_afterReset { s.destroyKeys with dict := { s.dict with store := [], queue := [] } } 3
  exact ⟨hl, hs, ht, ho, hg, hr, hp, hm, hq⟩

/-- Settles O49: quotes by whether the link takes them, trust operations by number and input, and the wake. -/
theorem operationsEnd : Obligations.OperationsEnd := by
  refine ⟨fun s h => congrArg Host.Outcome.next (if_neg (by simpa using h)),
    fun s h hsp hup hd ht => (exec_quoteWritten h).trans (congrArg Host.Outcome.next (endQuote_written hsp hup hd ht)),
    fun s h hf => (exec_quoteWritten h).trans (congrArg Host.Outcome.next (endQuote_fails hf)),
    fun s h => congrArg Host.Outcome.next (if_pos (by simpa using h)), fun s hr hn => ?_,
    fun s hr hn hop => ⟨_, exec_trustOperationEnd_inhibited hr hn hop, abandonOp_abandons hr hop⟩,
    fun s => ⟨fun h => congrArg Host.Outcome.next (if_neg (by rcases h with h | h <;> simp [h])), leavesSleep_eq⟩⟩
  have hgo {a b : State} : (if s.power.nvInhibit = true then a else b) = b := if_neg (by rw [hn]; decide)
  rw [exec_trustOperationEnd hr]
  refine ⟨fun h => ?_, fun h => ?_, fun h ho => ?_, fun h ho ht => ?_, fun h => ?_, fun h => ?_⟩ <;> rw [h]
  · exact congrArg Host.Outcome.next hgo
  · exact congrArg Host.Outcome.next hgo
  · exact congrArg Host.Outcome.next (hgo.trans (endRotate_opened ho))
  · refine ⟨_, congrArg Host.Outcome.next hgo, ?_⟩
    rw [endRotate_part ho ht]
    exact ⟨rfl, rfl, rfl⟩
  · rfl
  · exact ⟨_, congrArg Host.Outcome.next hgo, doFactoryReset_leaves s⟩

end Sys2Proof.Machine
end

section
/-!
Management frames and commits (16 R460 to R466): a frame is judged once the receive buffer has room, and a queued value
is committed as one record.
-/

namespace Sys2Proof.Machine

/-! ### Frames (R460 to R463) -/

/-- The state in which a frame that has room is judged: where others wait, a free value was drawn. -/
def State.bufferAsked (s : State) : State := if 4 ≤ s.mgmt.rxFrames.toNat then s.drew 1 else s

/-- An accepted frame is counted. -/
def State.frameCounted (s : State) : State :=
  { s with mgmt := { s.mgmt with rxFrames := s.mgmt.rxFrames + 1 } }

section
variable {s : State} {f : MgmtFrame}

theorem mgmtFrame_ignored (h : s.serves 1 = false ∨ s.takesFrame f = false) : s.mgmtFrame f = s :=
  if_neg (by rcases h with h | h <;> simp [h])

theorem mgmtFrame_taken (h1 : s.serves 1 = true) (h2 : s.takesFrame f = true) : s.mgmtFrame f =
    if s.bufferFull then { (s.drew 1) with mgmt := { s.mgmt with rxDrops := s.mgmt.rxDrops + 1 } }
    else s.bufferAsked.judgeFrame f :=
  if_pos (by rw [h1, h2]; rfl)

theorem mgmtFrame_room (h1 : s.serves 1 = true) (h2 : s.takesFrame f = true) (hroom : s.bufferFull = false) :
    s.mgmtFrame f = s.bufferAsked.judgeFrame f :=
  (mgmtFrame_taken h1 h2).trans (if_neg (by rw [hroom]; decide))

theorem bufferFull_of_waits (h4 : 4 ≤ s.mgmt.rxFrames.toNat) (hfree : s.free 0 % 2 = 1) : s.bufferFull = true := by
  rw [State.bufferFull, hfree, decide_eq_true h4]
  rfl

theorem judgeFrame_bad (h : frameOk f = false) :
    s.judgeFrame f = { s with mgmt := { s.mgmt with badFrames := s.mgmt.badFrames + 1 } } :=
  if_neg (by rw [h]; decide)

theorem judgeFrame_ok (h : frameOk f = true) : s.judgeFrame f = s.acceptFrame f := if_pos h

theorem acceptFrame_replay (hp : s.power.pstate ≠ 3) {k : KeptFrame}
    (hk : s.mgmt.kept.find? (fun (x : KeptFrame) => x.src == f.src &&
      x.xid == BitVec.ofNat 32 (bytesLe f.payload 4 4)) = some k) : s.acceptFrame f =
    ({ s.frameCounted with mgmt := { s.frameCounted.mgmt with replays := s.mgmt.replays + 1 } }).sendKept k := by
  have hawake : s.frameCounted.wake = s.frameCounted := wake_of_awake hp
  have hfind : s.frameCounted.mgmt.kept.find? (fun (x : KeptFrame) => x.src == f.src &&
      x.xid == BitVec.ofNat 32 (frameAt f 4 4)) = some k := hk
  unfold State.acceptFrame
  rw [show ({ s with mgmt := { s.mgmt with rxFrames := s.mgmt.rxFrames + 1 } } : State) = s.frameCounted from rfl,
    hawake]
  simp only [hfind]
  rfl

theorem acceptFrame_new (hp : s.power.pstate ≠ 3)
    (hk : ∀ k ∈ s.mgmt.kept, ¬ (k.src = f.src ∧ k.xid = BitVec.ofNat 32 (bytesLe f.payload 4 4))) :
    s.acceptFrame f =
      let r := s.frameCounted.runEntries f 0 (bytesLe f.payload 2 1)
      let w := r.1.sendKept { src := f.src, xid := BitVec.ofNat 32 (bytesLe f.payload 4 4),
                              etherType := BitVec.ofNat 16 (s.setting 0x1100 3), response := framePayload f r.2.1 }
      if r.2.2 then w.softReset else w := by
  have hawake : s.frameCounted.wake = s.frameCounted := wake_of_awake hp
  have hfind : s.frameCounted.mgmt.kept.find? (fun (x : KeptFrame) => x.src == f.src &&
      x.xid == BitVec.ofNat 32 (frameAt f 4 4)) = none :=
    List.find?_eq_none.2 (fun k hmem h => hk k hmem (by simpa [frameAt] using h))
  unfold State.acceptFrame
  rw [show ({ s with mgmt := { s.mgmt with rxFrames := s.mgmt.rxFrames + 1 } } : State) = s.frameCounted from rfl,
    hawake]
  simp only [hfind]
  rfl

end

theorem bufferAsked_mgmt (s : State) : s.bufferAsked.mgmt = s.mgmt := by
  unfold State.bufferAsked
  split <;> rfl

theorem bufferAsked_power (s : State) : s.bufferAsked.power = s.power := by
  unfold State.bufferAsked
  split <;> rfl

theorem bufferAsked_setting (s : State) (o i : Nat) : s.bufferAsked.setting o i = s.setting o i := by
  unfold State.bufferAsked
  split <;> rfl

theorem bufferAsked_sent (s : State) : s.bufferAsked.sent = s.sent := by
  unfold State.bufferAsked
  split <;> rfl

theorem bufferAsked_dict (s : State) : s.bufferAsked.dict = s.dict := by
  unfold State.bufferAsked
  split <;> rfl

/-! ### Commits (R465, R466) -/

theorem commit_none {s : State} {index sub : Nat} (h : ∀ e ∈ s.dict.queue, e.1 ≠ (index, sub)) :
    s.commit index sub = s := by
  have hfind : s.dict.queue.find? (fun e => e.1 == (index, sub)) = none :=
    List.find?_eq_none.2 (fun e he hk => h e he (beq_iff_eq.1 hk))
  simp only [State.commit, hfind]

theorem commit_inhibited {s : State} (h : s.power.nvInhibit = true) (index sub : Nat) : s.commit index sub = s := by
  unfold State.commit
  split
  · exact if_pos (by rw [h]; rfl)
  · rfl

theorem commit_queued {s : State} {index sub : Nat} {e : (Nat × Nat) × Nat} (hn : s.power.nvInhibit = false)
    (hheld : s.held = false) (he : s.dict.queue.find? (fun e => e.1 == (index, sub)) = some e) :
    s.commit index sub = { s with dict := { s.dict with
      store := insertKey s.dict.store (index, sub) e.2,
      queue := s.dict.queue.filter (fun x => x.1 != (index, sub)),
      commits := s.dict.commits + 1 } } := by
  have hfound : (e.1 == (index, sub)) = true :=
    List.find?_some (p := fun x : (Nat × Nat) × Nat => x.1 == (index, sub)) he
  have hkey : e.1 = (index, sub) := beq_iff_eq.1 hfound
  simp only [State.commit, he, hn, hheld, hkey]
  exact if_neg (by decide)

/-- Settles O48: frames by the room in the buffer, their form and the kept responses, and a commit by its queue. -/
theorem framesAndCommits : Obligations.FramesAndCommits := by
  refine ⟨fun s f h => congrArg Host.Outcome.next (mgmtFrame_ignored h), fun s f h1 h2 h4 => ⟨_, rfl, fun hfree =>
      (mgmtFrame_taken h1 h2).trans (if_pos (bufferFull_of_waits h4 hfree))⟩, fun s f h1 h2 hroom => ?_,
    fun s index sub h => congrArg Host.Outcome.next (h.elim commit_none (fun h => commit_inhibited h index sub)),
    fun s index sub e hn hheld he => ⟨_, congrArg Host.Outcome.next (commit_queued hn hheld he),
      lookupD_insertKey_same _ _ _ _, fun x hx => bne_iff_ne.1 (List.mem_filter.1 hx).2, rfl,
      fun k hk => lookupD_insertKey_other _ hk _ _, rfl⟩⟩
  have hjudge : exec (.dictionaryFrame f) s = .next (s.bufferAsked.judgeFrame f) :=
    congrArg Host.Outcome.next (mgmtFrame_room h1 h2 hroom)
  have hmgmt := bufferAsked_mgmt s
  have hset := bufferAsked_setting s 0x1100 3
  intro u
  have hu : u = s.bufferAsked := rfl
  clear_value u
  subst hu
  rw [hjudge]
  refine ⟨fun hbad => ?_, fun k hok hp hk => ?_, fun hok hp hk => ?_⟩
  · rw [judgeFrame_bad hbad, hmgmt]
  · rw [← bufferAsked_power] at hp
    rw [← hmgmt] at hk
    refine ⟨_, congrArg Host.Outcome.next ((judgeFrame_ok hok).trans (acceptFrame_replay hp hk)), ?_, ?_, ?_, ?_⟩
    · exact congrArg _ (bufferAsked_sent s)
    · exact congrArg (fun m : Mgmt => m.replays + 1) hmgmt
    · exact congrArg (fun m : Mgmt => m.rxFrames + 1) hmgmt
    · exact bufferAsked_dict s
  · rw [← bufferAsked_power] at hp
    rw [← hmgmt] at hk
    rw [judgeFrame_ok hok, acceptFrame_new hp hk, hset]
    rfl

end Sys2Proof.Machine
end

section
/-!
The pairing machine of peer port 0 (19 R516 to R520, 17 R480, 20 R531): one equation for each message that the port
takes, and what the twin's cable does.
-/

namespace Sys2Proof.Machine

/-! ### Pairing messages (R516 to R518) -/

section
variable {s : State} {m : Message} {row : Nat} {k : State → State}

/-- Other ports do not carry the channel of pairing messages. -/
theorem pairing_refused {p : Nat} (hp : p ≠ 0) (h : (s.port p).state = 2) :
    s.pairing_ p row m k = s.raiseFault srcPeer := by
  have hchannels : peerChannels p 2 = [0, 1, 2, 3] := by simp [peerChannels, hp]
  rw [State.pairing_, State.onChannel, h, if_pos (by decide), hchannels]
  rfl

theorem pairing_waits (h : (s.port 0).state = 2) (hpower : 2 ≤ s.power.pstate) :
    s.pairing_ 0 row m k = { s with inbox := s.inbox ++ [(0, .pair row m)] } :=
  onChannel_waits (x := .pair row m) h (show 4 ∈ peerChannels 0 2 by decide) (.inl hpower)

theorem pairing_taken (h : (s.port 0).state = 2) (ht : Takes s 0 4) (hlo : 0x60 ≤ field m 0 1)
    (hhi : field m 0 1 ≤ 0x64) : s.pairing_ 0 row m k = k s := by
  rw [State.pairing_, onChannel_takes (x := .pair row m) h (show 4 ∈ peerChannels 0 2 by decide) ht rfl,
    if_pos (by simp [hlo, hhi])]

theorem hello_idle (h : s.pairing.state ≠ 1) : s.hello m = s := if_pos (bne_iff_ne.2 h)

theorem hello_compatible (h : s.pairing.state = 1) (hm : s.helloFault m = 0) : s.hello m =
    ({ s with pairing := { s.pairing with fail := 0, readySent := true } }).putOnPort 0
      (.peer 0 (s.pairMessage 0x61)) := by
  unfold State.hello
  rw [if_neg (by rw [h]; decide)]
  simp only [hm, beq_self_eq_true, Bool.or_true, if_true]
  rfl

theorem hello_incompatible (h : s.pairing.state = 1) (hm : s.helloFault m ≠ 0) :
    s.hello m = { s with pairing := { s.pairing with fail := s.helloFault m } } := by
  have hwhy : (s.helloFault m == 0) = false := beq_eq_false_iff_ne.2 hm
  unfold State.hello
  rw [if_neg (by rw [h]; decide)]
  simp only [hwhy, Bool.or_false]
  exact if_neg (by decide)

end

theorem pairUp_pairs (s : State) (serial : U64) : (s.pairUp serial).pairing.state = 2 ∧
    (s.pairUp serial).pairing.twinSerial = serial ∧
    (s.pairUp serial).pairing.pairings = s.pairing.pairings + 1 ∧
    (s.pairUp serial).granary.mirror = (if serial = s.pairing.twinSerial then s.granary.mirror else []) := by
  unfold State.pairUp
  by_cases h : serial = s.pairing.twinSerial
  · rw [if_pos (beq_iff_eq.2 h), if_pos h]
    exact ⟨rfl, rfl, rfl, rfl⟩
  · rw [if_neg (by simpa using h), if_neg h]
    exact ⟨rfl, rfl, rfl, rfl⟩

/-- A partner fault message sets the twin cause; a pair goes back to PAIRING, and another state stays. -/
theorem partnerFault_effect (s : State) :
    let t := if (s.setSys sysTwin).pairing.state == 2 then (s.setSys sysTwin).leavePaired 1 else s.setSys sysTwin
    t.causes.sys.getLsbD sysTwin = true ∧ t.pairing.state = (if s.pairing.state = 2 then 1 else s.pairing.state) ∧
      t.faults = s.faults := by
  have hcause (u : State) : (u.setSys sysTwin).causes.sys.getLsbD sysTwin = true :=
    (getLsbD_putBit_true _ _ (by decide)).2 (.inr rfl)
  by_cases h : s.pairing.state = 2
  · rw [if_pos (beq_iff_eq.2 (show (s.setSys sysTwin).pairing.state = 2 from h)), if_pos h]
    exact ⟨hcause _, rfl, rfl⟩
  · rw [if_neg (by simpa [State.setSys] using h), if_neg h]
    exact ⟨hcause _, rfl, rfl⟩

theorem endPair_detached {s : State} (h : s.pairing.state = 3) : s.endPair.pairing.state = 0 ∧
    s.endPair.granary.mirror = [] ∧ s.endPair.pairing.twinSerial = 0 := by
  unfold State.endPair
  rw [h]
  exact ⟨rfl, rfl, rfl⟩

/-! ### The twin's cable (R531) -/

theorem movePort_pairing (s : State) (p : Nat) (f : PeerPort → PeerPort) :
    (s.movePort p f).pairing = s.pairing := by
  unfold State.movePort
  dsimp only
  split <;> rfl

theorem endPair_cabled (s : State) : s.endPair.pairing.cabled = s.pairing.cabled := by
  unfold State.endPair
  dsimp only
  repeat' split
  all_goals rfl

theorem endPair_alone (s : State) : s.endPair.pairing.state = 0 := by
  obtain ⟨hstate, -⟩ := endPair_effect s
  exact hstate

/-- Port 0 goes down: a cable stays as it is sensed, and a pair on a port that trained or was up ends. -/
theorem portDown_zero_pairing {s : State} (h4 : (s.port 0).state ≠ 4) :
    (s.portDown 0 0).pairing.cabled = s.pairing.cabled ∧
      ((s.port 0).state ≠ 0 → (s.portDown 0 0).pairing.state = 0) := by
  unfold State.portDown
  dsimp only
  rw [movesOn_zero, onRoute_zero]
  by_cases h0 : (s.port 0).state = 0
  · rw [if_pos (by rw [h0]; decide), movePort_pairing]
    exact ⟨rfl, fun h => absurd h0 h⟩
  · rw [if_neg (by simp [h0, h4])]
    refine ⟨(endPair_cabled _).trans ?_, fun _ => ?_⟩
    · exact congrArg Pairing.cabled (movePort_pairing s 0 _)
    · exact endPair_alone _

theorem twinSense_away (s : State) : ∃ t, exec (.twinSenseN false) s = .next t ∧ t.pairing.cabled = false ∧
    ((s.port 0).state ≠ 4 → (t.port 0).state = 0 ∧ (s.pairing.state ≠ 0 → (s.port 0).state ≠ 0 →
      t.pairing.state = 0)) := by
  have hexec : exec (.twinSenseN false) s =
    .next (if (s.port 0).state == 4 then { s with pairing := { s.pairing with cabled := false } }
      else ({ s with pairing := { s.pairing with cabled := false } }).portDown 0 0) := rfl
  by_cases h4 : (s.port 0).state = 4
  · rw [hexec, if_pos (beq_iff_eq.2 h4)]
    exact ⟨_, rfl, rfl, fun h => absurd h4 h⟩
  · rw [hexec, if_neg (by simpa using h4)]
    obtain ⟨hcabled, halone⟩ :=
      portDown_zero_pairing (s := { s with pairing := { s.pairing with cabled := false } }) h4
    exact ⟨_, rfl, hcabled, fun _ => ⟨portDown_state (by decide) (onRoute_zero _) 0, fun _ h0 => halone h0⟩⟩

theorem twinSense_near (s : State) : ∃ t, exec (.twinSenseN true) s = .next t ∧ t.pairing.cabled = true ∧
    ((s.port 0).state = 0 → s.linksRun = true → (t.port 0).state = 1) := by
  have hexec : exec (.twinSenseN true) s =
    .next (if (s.port 0).state == 0 && s.linksRun then
        ({ s with pairing := { s.pairing with cabled := true } }).movePort 0 (fun x => { x with state := 1 })
      else { s with pairing := { s.pairing with cabled := true } }) := rfl
  by_cases h : (s.port 0).state = 0 ∧ s.linksRun = true
  · rw [hexec, if_pos (by simp [h])]
    refine ⟨_, rfl, by rw [movePort_pairing], fun _ _ => ?_⟩
    rw [port_movePort_same (by decide)]
  · rw [hexec, if_neg (by simpa using h)]
    exact ⟨_, rfl, rfl, fun h0 hrun => absurd ⟨h0, hrun⟩ h⟩

/-! ### The machine -/

/-- What a pairing message that port 0 takes does, by the message and the state of the pair. -/
theorem pairing_messages {s : State} {m : Message} (h : (s.port 0).state = 2) (ht : Takes s 0 4)
    (hlo : 0x60 ≤ field m 0 1) (hhi : field m 0 1 ≤ 0x64) :
    exec (.hello 0 m) s = .next (s.hello m) ∧
    exec (.ready 0 m) s =
      .next (if s.pairing.state == 1 && s.pairing.readySent then s.pairUp (messageSerial m) else s) ∧
    exec (.detach 0 m) s = .next (if s.pairing.state == 2 then
      (s.leavePaired 3).putOnPort 0 (.peer 0 (s.pairMessage 0x63)) else s) ∧
    exec (.detached 0 m) s = .next (if s.pairing.state == 3 then s.endPair else s) ∧
    exec (.fault 0 m) s = .next (if (s.setSys sysTwin).pairing.state == 2 then (s.setSys sysTwin).leavePaired 1
      else s.setSys sysTwin) :=
  ⟨congrArg Host.Outcome.next (pairing_taken h ht hlo hhi), congrArg Host.Outcome.next (pairing_taken h ht hlo hhi),
    congrArg Host.Outcome.next (pairing_taken h ht hlo hhi), congrArg Host.Outcome.next (pairing_taken h ht hlo hhi),
    congrArg Host.Outcome.next (pairing_taken h ht hlo hhi)⟩

/-- Settles O54: each message by the port it comes on and the state of the pair, the timers and the cable. -/
theorem pairingMachine : Obligations.PairingMachine := by
  refine ⟨fun s p m hp h => ?_, fun s m h hpower x hx => ?_, fun s m h ht hlo hhi => ?_, fun s => ?_⟩
  · have hr {row : Nat} {k : State → State} := congrArg (Host.Outcome.next (φ := Fault) (ρ := Refusal))
      (pairing_refused (m := m) (row := row) (k := k) hp h)
    exact ⟨hr, hr, hr, hr, hr⟩
  · have hw {row : Nat} {k : State → State} := congrArg (Host.Outcome.next (φ := Fault) (ρ := Refusal))
      (pairing_waits (m := m) (row := row) (k := k) h hpower)
    simp only [List.mem_cons, List.not_mem_nil, or_false] at hx
    rcases hx with rfl | rfl | rfl | rfl | rfl <;> exact hw
  · obtain ⟨hhello, hready, hdetach, hdetached, hfault⟩ := pairing_messages h ht hlo hhi
    rw [hhello, hready, hdetach, hdetached, hfault]
    refine ⟨fun hp => congrArg _ (hello_idle hp), fun hp hm =>
        ⟨_, congrArg _ (hello_compatible hp hm), rfl, rfl, rfl⟩, fun hp hm => congrArg _ (hello_incompatible hp hm),
      fun hp hsent => ?_, fun hp => ?_, fun hp => ?_, fun hp => ?_, fun hp => ?_, fun hp => ?_,
      ⟨_, rfl, partnerFault_effect s⟩⟩
    · exact ⟨_, congrArg _ (if_pos (by rw [hp, hsent]; rfl)), pairUp_pairs s _⟩
    · exact congrArg _ (if_neg (by rcases hp with hp | hp <;> simp [hp]))
    · exact ⟨_, congrArg _ (if_pos (by rw [hp]; rfl)), rfl, rfl⟩
    · exact congrArg _ (if_neg (by simpa using hp))
    · exact ⟨_, congrArg _ (if_pos (by rw [hp]; rfl)), endPair_detached hp⟩
    · exact congrArg _ (if_neg (by simpa using hp))
  · refine ⟨fun hp hf => ⟨_, congrArg Host.Outcome.next (if_pos (by rw [hp, hf]; rfl)), rfl⟩,
      fun hp => congrArg Host.Outcome.next (if_neg (by rcases hp with hp | hp <;> simp [hp])), fun hp => ?_,
      fun hp => congrArg Host.Outcome.next (if_neg (by simpa using hp)), twinSense_near s, twinSense_away s⟩
    obtain ⟨halone, hmirror, -⟩ := endPair_detached hp
    exact ⟨_, congrArg Host.Outcome.next (if_pos (by rw [hp]; rfl)), halone, hmirror⟩

end Sys2Proof.Machine
end

section
/-!
Hold (18 R487, R495): what each cause does to power, when a cause ends, and the commands that Hold and Sleep stop.
-/

namespace Sys2Proof.Machine

/-! ### A cause is asserted -/

/-- `t` has the power of `s` with a cause of Hold asserted: reported beside the others, and counted when it is the
first. -/
def Forced (s t : State) (cause : Nat) : Prop :=
  t.power.holdWhy = putBit s.power.holdWhy cause true ∧
    (s.power.holdWhy.getLsbD cause = false → t.power.pstate = 2 ∧
      t.power.holds = (if s.power.holdWhy = 0 then s.power.holds + 1 else s.power.holds))

theorem hold_asserted {s : State} {cause : Nat} (h : s.power.holdWhy.getLsbD cause = true) : s.hold cause = s :=
  if_pos h

theorem hold_power {s : State} {cause : Nat} (h : s.power.holdWhy.getLsbD cause = false) :
    (s.hold cause).power = { s.power with
      holdWhy := putBit s.power.holdWhy cause true, pstate := 2,
      holds := if s.power.holdWhy == 0 then s.power.holds + 1 else s.power.holds,
      memHot := if cause == 4 then s.power.memHot + 1 else s.power.memHot } := by
  rw [State.hold, if_neg (by rw [h]; decide)]
  rfl

/-- Neither what the causes of Hold are nor how often they were first changes what else power holds. -/
theorem hold_beside (s : State) (cause : Nat) : { (s.hold cause).power with
    holdWhy := s.power.holdWhy, pstate := s.power.pstate, holds := s.power.holds, memHot := s.power.memHot } =
      s.power := by
  cases h : s.power.holdWhy.getLsbD cause with
  | true => rw [hold_asserted h]
  | false => rw [hold_power h]

theorem hold_forced (s : State) (cause : Nat) : Forced s (s.hold cause) cause := by
  cases h : s.power.holdWhy.getLsbD cause with
  | true =>
    have hbit := putBit_getLsbD s.power.holdWhy cause
    rw [h] at hbit
    rw [hold_asserted h]
    exact ⟨hbit.symm, fun hf => absurd (h.symm.trans hf) (by decide)⟩
  | false =>
    rw [Forced, hold_power h]
    refine ⟨rfl, fun _ => ⟨rfl, ?_⟩⟩
    simp only [beq_iff_eq]

section
variable {s u t : State} {cause : Nat}

/-- What stands before the cause does not change what causes there are, and what follows leaves power alone. -/
theorem forced_through (ht : t.power = (u.hold cause).power) (hwhy : u.power.holdWhy = s.power.holdWhy)
    (hholds : u.power.holds = s.power.holds) : Forced s t cause := by
  obtain ⟨hasserted, hfirst⟩ := hold_forced u cause
  rw [Forced, ht, ← hwhy, ← hholds]
  exact ⟨hasserted, hfirst⟩

end

/-! ### The thermal source does not bear on power (R500) -/

theorem holdFault_power (s : State) (source : Nat) : (s.holdFault source).power = s.power :=
  (power_of_besideFault (raiseFault_besideFault (s.setLive source true false) source) :)

theorem holdFault_dict (s : State) (source : Nat) : (s.holdFault source).dict = s.dict :=
  (dict_of_besideFault (raiseFault_besideFault (s.setLive source true false) source) :)

theorem senseThermal_power (s : State) : s.senseThermal.power = s.power := by
  unfold State.senseThermal
  split
  · exact holdFault_power s srcThermal
  · rfl

theorem senseThermal_dict (s : State) : s.senseThermal.dict = s.dict := by
  unfold State.senseThermal
  split
  · exact holdFault_dict s srcThermal
  · rfl

theorem abandonOp_power (s : State) : s.abandonOp.power = s.power := by
  unfold State.abandonOp
  repeat' split
  all_goals rfl

/-! ### A package's temperature (R369) -/

/-- The packages that are hot beside one. -/
def State.hotOthers (s : State) (package : Nat) : List Nat := s.power.hotPackages.filter (· != package)

/-- The state once a package's temperature is read. -/
def State.packageRead (s : State) (package : Nat) (temp rated : Int) : State :=
  s.modPower (fun p => { p with
    pkgTemps := vMod s.power.pkgTemps package (fun _ => temp),
    hotPackages := if temp + 5 ≤ rated then s.hotOthers package else package :: s.hotOthers package })

theorem hotOthers_ne_nil {s : State} {package : Nat} (h : ∃ q ∈ s.power.hotPackages, q ≠ package) :
    s.hotOthers package ≠ [] := by
  obtain ⟨q, hq, hne⟩ := h
  exact List.ne_nil_of_mem (List.mem_filter.2 ⟨hq, bne_iff_ne.2 hne⟩)

theorem hotOthers_eq_nil {s : State} {package : Nat} (h : ∀ q ∈ s.power.hotPackages, q = package) :
    s.hotOthers package = [] :=
  List.filter_eq_nil_iff.2 fun q hq => by simp [h q hq]

theorem packageRead_hot {s : State} {package : Nat} {temp rated : Int}
    (h : rated < temp + 5 ∨ ∃ q ∈ s.power.hotPackages, q ≠ package) :
    (s.packageRead package temp rated).power.hotPackages ≠ [] := by
  show (if temp + 5 ≤ rated then s.hotOthers package else package :: s.hotOthers package) ≠ []
  split
  · exact hotOthers_ne_nil (h.resolve_left (by omega))
  · exact List.cons_ne_nil _ _

theorem hold_hotPackages (s : State) (cause : Nat) : (s.hold cause).power.hotPackages = s.power.hotPackages :=
  (congrArg (fun p : Power => p.hotPackages) (hold_beside s cause) :)

/-- The package part of the thermal fault ends, and with it cause 4. -/
def State.packagesCool (s : State) : State :=
  ((s.modPower (fun p => { p with hotFault := [] })).senseThermal).unhold 4

/-- The state once the temperature read is compared with the rating. -/
def State.packageJudged (s : State) (package : Nat) (temp rated : Int) : State :=
  if rated < temp then (s.packageRead package temp rated).hold 4 else s.packageRead package temp rated

theorem readPackage_eq (s : State) (package : Nat) (temp rated : Int) : s.readPackage package temp rated =
    if (s.packageJudged package temp rated).power.hotPackages.isEmpty then
      (s.packageJudged package temp rated).packagesCool
    else s.packageJudged package temp rated := rfl

/-- Above its rating a package forces Hold. -/
theorem readPackage_above {s : State} {package : Nat} {temp rated : Int} (h : rated < temp) :
    s.readPackage package temp rated = (s.packageRead package temp rated).hold 4 := by
  have hhot : ((s.packageRead package temp rated).hold 4).power.hotPackages ≠ [] := by
    rw [hold_hotPackages]
    exact packageRead_hot (.inl (by omega))
  rw [readPackage_eq, State.packageJudged, if_pos h]
  exact if_neg (by simpa using hhot)

theorem readPackage_stays {s : State} {package : Nat} {temp rated : Int} (hle : temp ≤ rated)
    (h : rated < temp + 5 ∨ ∃ q ∈ s.power.hotPackages, q ≠ package) :
    s.readPackage package temp rated = s.packageRead package temp rated := by
  rw [readPackage_eq, State.packageJudged, if_neg (not_lt.2 hle)]
  exact if_neg (by simpa using packageRead_hot h)

/-- The last hot package is cool again: the package part of the thermal fault ends, and so does its cause of Hold. -/
theorem readPackage_cools {s : State} {package : Nat} {temp rated : Int} (h5 : temp + 5 ≤ rated)
    (h : ∀ q ∈ s.power.hotPackages, q = package) : s.readPackage package temp rated =
      ((s.modPower (fun r => { r with
        pkgTemps := vMod r.pkgTemps package (fun _ => temp), hotPackages := [], hotFault := [] })).senseThermal).unhold
          4 := by
  have hread : s.packageRead package temp rated = s.modPower (fun r => { r with
      pkgTemps := vMod r.pkgTemps package (fun _ => temp), hotPackages := [] }) := by
    rw [State.packageRead, hotOthers_eq_nil h, if_pos h5]
    rfl
  rw [readPackage_eq, State.packageJudged, if_neg (show ¬ rated < temp by omega), hread]
  exact if_pos rfl

/-! ### A cause ends -/

theorem unhold_released (s : State) (cause : Nat) : Released s cause (s.unhold cause) := by
  unfold Released State.unhold
  dsimp only
  refine ⟨fun h => if_pos (by rw [h]; rfl), fun h hne => ?_, fun h h0 => ?_⟩
  · rw [if_neg (by rw [h]; decide), if_pos (bne_iff_ne.2 hne), if_neg (by simpa using hne)]
  · rw [if_neg (by rw [h]; decide), h0]
    simp only [bne_self_eq_false, beq_self_eq_true, if_true, if_false, Bool.false_eq_true]

/-! ### The rows of causes -/

theorem exec_rackAlert_low {s : State} (h : s.setting 0x8010 3 = 1) : exec (.rackAlert true) s =
    .next ((s.modPower (fun p => { p with rackLow := true })).hold 0) :=
  congrArg Host.Outcome.next (if_pos (beq_iff_eq.2 h))

theorem exec_rackAlert_ignored {s : State} (h : s.setting 0x8010 3 ≠ 1) : exec (.rackAlert true) s =
    .next (s.modPower (fun p => { p with rackLow := true })) :=
  congrArg Host.Outcome.next (if_neg (fun hc => h (beq_iff_eq.1 hc)))

theorem exec_alertHoldExpiry_low {s : State} (h : s.power.rackLow = true) (hs : s.setting 0x8010 3 = 1) :
    exec (.alertHoldExpiry false) s = .next s := by
  have hstill : (s.power.rackLow && s.rackEnabled) = true := by simp [h, State.rackEnabled, hs]
  exact congrArg Host.Outcome.next ((if_neg (by decide)).trans (if_pos hstill))

theorem holdRows_forced {p tj : Nat} {temp rated : Int} {x : Instr × Nat × (State → Bool)}
    (hx : x ∈ holdRows p tj temp rated) {s : State} (h : x.2.2 s = true) :
    ∃ t, exec x.1 s = .next t ∧ Forced s t x.2.1 := by
  simp only [holdRows, List.mem_cons, List.not_mem_nil, or_false] at hx
  rcases hx with rfl | rfl | rfl | rfl | rfl | rfl | rfl
  · exact ⟨_, exec_rackAlert_low (beq_iff_eq.1 h), forced_through rfl rfl rfl⟩
  · exact ⟨_, rfl, forced_through rfl rfl rfl⟩
  · have hkept := abandonOp_power (s.modPower (fun p => { p with nvInhibit := true, sag := true }))
    exact ⟨_, rfl, forced_through rfl (congrArg Power.holdWhy hkept :) (congrArg Power.holds hkept :)⟩
  · exact ⟨_, rfl, forced_through (senseThermal_power _) rfl rfl⟩
  · exact ⟨_, rfl, forced_through rfl rfl rfl⟩
  · exact ⟨_, rfl, forced_through (senseThermal_power _) rfl rfl⟩
  · exact ⟨_, congrArg Host.Outcome.next (readPackage_above (of_decide_eq_true h)),
      forced_through rfl rfl rfl⟩

/-! ### What Hold and Sleep stop (Table 18-5) -/

section
variable {s : State} (hpower : 2 ≤ s.power.pstate)
include hpower

theorem unitsRun_of_held : s.unitsRun = false := decide_eq_false (not_lt.2 hpower)

theorem exec_stepOpen_stopped : exec .stepOpen s = .next s := by
  refine exec_stepOpen_nothing ?_
  rw [← Bool.not_eq_true, stepMayOpen_iff]
  rintro ⟨-, -, -, hp, -, -⟩
  omega

theorem exec_epochOpen_stopped : exec .epochOpen s = .next s := by
  have hrun := unitsRun_of_held hpower
  show execEpochOpen s = _
  unfold execEpochOpen
  cases s.step with
  | none => rfl
  | some o => exact congrArg Host.Outcome.next (if_pos (by rw [hrun]; simp))

theorem exec_stepEnd_stopped : exec .stepEnd s = .next s := by
  have hrun := unitsRun_of_held hpower
  show execStepEnd s = _
  unfold execStepEnd
  cases s.step with
  | none => rfl
  | some o => exact congrArg Host.Outcome.next (if_neg (by rw [hrun]; simp))

theorem exec_generationSwitch_stopped (slot tenant : Nat) : exec (.generationSwitch slot tenant) s = .next s :=
  congrArg Host.Outcome.next (if_neg (by rw [unitsRun_of_held hpower]; decide))

theorem exec_scrubRead_stopped (c l : Nat) (found : LineRead) : exec (.scrubRead c l found) s = .next s :=
  congrArg Host.Outcome.next (if_neg (by simp [not_lt.2 hpower]))

end

/-- Settles O55: the rows of causes, the ends of causes, a package's temperature, and what stands still. -/
theorem holdLaw : Obligations.HoldLaw := by
  refine ⟨fun p tj temp rated x hx s h => holdRows_forced hx h, fun s => ⟨_, rfl, unhold_released _ 2⟩, fun s =>
      ⟨fun h => congrArg Host.Outcome.next (if_pos h), fun h => ⟨_, rfl, ?_⟩,
        fun h hs => exec_alertHoldExpiry_low h hs,
        fun h => ⟨_, rfl, ?_⟩⟩,
    fun s => ⟨rfl, exec_rackAlert_ignored, rfl⟩, fun s p temp rated hp hle => ⟨fun h => ?_, fun h5 h => ?_⟩,
    fun s slot tenant hpower => ⟨exec_stepOpen_stopped hpower, exec_epochOpen_stopped hpower,
      exec_stepEnd_stopped hpower, exec_generationSwitch_stopped hpower slot tenant,
      fun x => exec_sealComplete_held x hpower, exec_scrubRead_stopped hpower⟩⟩
  · rw [if_pos rfl, if_neg (by rw [h]; decide)]
    exact unhold_released s 1
  · have hended : ¬ (s.power.rackLow && s.rackEnabled) = true := by
      rcases h with h | h
      · simp [h]
      · simp [State.rackEnabled, h]
    rw [if_neg (by decide), if_neg hended]
    exact unhold_released s 0
  · refine ⟨_, congrArg Host.Outcome.next (readPackage_stays hle h), rfl, ?_⟩
    exact (vGet_vMod ..).trans (if_pos ⟨rfl, hp⟩)
  · exact ⟨_, congrArg Host.Outcome.next (readPackage_cools h5 h), unhold_released _ 4⟩

end Sys2Proof.Machine
end

section
/-!
The throttle level, droop, Idle and energy (18 R490 to R505): an update senses the input and the junction, which leaves
the level as it was, and then moves it; an interval's energy is given by floors, and the rest is unassigned.
-/

namespace Sys2Proof.Machine

/-! ### Sums -/

section
variable {α : Type}

theorem sumOf_eq_sum (f : α → Nat) (l : List α) : sumOf f l = (l.map f).sum :=
  (List.sum_eq_foldl_nat).symm

theorem sumOf_add (f g : α → Nat) (l : List α) : sumOf (fun a => f a + g a) l = sumOf f l + sumOf g l := by
  simp only [sumOf_eq_sum, List.sum_map_add]

theorem sumOf_map {β : Type} (f : β → Nat) (g : α → β) (l : List α) : sumOf f (l.map g) =
    sumOf (fun a => f (g a)) l := by
  simp only [sumOf_eq_sum, List.map_map, Function.comp_def]

theorem sumOf_zero (l : List α) : sumOf (fun _ => 0) l = 0 := by
  rw [sumOf_eq_sum]
  simp

/-- Floors of shares give out no more than there is. -/
theorem sumOf_floor_mul_le (f : α → Nat) (e u : Nat) (l : List α) :
    sumOf (fun a => e * f a / u) l * u ≤ e * sumOf f l := by
  simp only [sumOf_eq_sum]
  induction l with
  | nil => exact Nat.le_of_eq (Nat.zero_mul u)
  | cons a l ih =>
    simp only [List.map_cons, List.sum_cons, Nat.add_mul, Nat.mul_add]
    exact Nat.add_le_add (Nat.div_mul_le_self _ _) ih

end

/-! ### Energy (R504, R505) -/

/-- What a tenant is given of an interval's energy. -/
def State.energyShare (s : State) (e : Nat) (x : Tenant) : Nat :=
  if sumOf (·.recentUnits) s.tenants = 0 then 0 else e * x.recentUnits / sumOf (·.recentUnits) s.tenants

theorem energyShares_le (s : State) (e : Nat) : sumOf (s.energyShare e) s.tenants ≤ e := by
  unfold State.energyShare
  by_cases h : sumOf (·.recentUnits) s.tenants = 0
  · simp only [if_pos h, sumOf_zero, Nat.zero_le]
  · simp only [if_neg h]
    exact Nat.le_of_mul_le_mul_right (sumOf_floor_mul_le _ e _ _) (Nat.pos_of_ne_zero h)

/-- A tenant once an interval's energy is shared out. -/
def State.energyGiven (s : State) (e : Nat) (x : Tenant) : Tenant :=
  { x with
    recentUnits := 0,
    counts := { x.counts with energyNj := x.counts.energyNj + s.energyShare e x } }

theorem exec_energyInterval_job {s : State} (h : s.job.state ≠ 0) (e : Nat) : exec (.energyInterval e) s =
    .next ({ s with tenants := s.tenants.map (s.energyGiven e) }.modPower (fun p => { p with
      moduleNj := p.moduleNj + e, jobNj := p.jobNj + e,
      unassignedNj := p.unassignedNj + (e - sumOf (s.energyShare e) s.tenants) })) :=
  congrArg Host.Outcome.next (if_neg (by simpa using h))

theorem exec_energyInterval_none {s : State} (h : s.job.state = 0) (e : Nat) : exec (.energyInterval e) s =
    .next (s.modPower (fun p => { p with moduleNj := p.moduleNj + e })) :=
  congrArg Host.Outcome.next (if_pos (beq_iff_eq.2 h))

/-- What is given and what is unassigned is the interval's energy. -/
theorem energy_conserved (s : State) (e : Nat) :
    s.power.unassignedNj + (e - sumOf (s.energyShare e) s.tenants) +
      sumOf (·.counts.energyNj) (s.tenants.map (s.energyGiven e)) =
        s.power.unassignedNj + sumOf (·.counts.energyNj) s.tenants + e := by
  have hgiven : sumOf (·.counts.energyNj) (s.tenants.map (s.energyGiven e)) =
      sumOf (·.counts.energyNj) s.tenants + sumOf (s.energyShare e) s.tenants :=
    (sumOf_map _ _ _).trans (sumOf_add _ _ _)
  have hle := energyShares_le s e
  rw [hgiven]
  omega

/-! ### Droop (R490, R491) -/

theorem getLsbD_putBit_other {w : Nat} (x : BitVec w) {i j : Nat} (h : j ≠ i) (b : Bool) :
    (putBit x i b).getLsbD j = x.getLsbD j := by
  have hone : (1#w <<< i).getLsbD j = false := by
    rw [BitVec.getLsbD_shiftLeft, BitVec.getLsbD_one]
    by_cases hlt : j < i
    · simp [hlt]
    · have : j - i ≠ 0 := by omega
      simp [this]
  unfold putBit
  split
  · rw [BitVec.getLsbD_or, hone, Bool.or_false]
  · rw [BitVec.getLsbD_and, BitVec.getLsbD_not, hone]
    by_cases hj : j < w
    · simp [hj]
    · simp [BitVec.getLsbD_of_ge _ _ (not_lt.1 hj)]

theorem getLsbD_putBit_false {w : Nat} (x : BitVec w) (i : Nat) : (putBit x i false).getLsbD i = false := by
  unfold putBit
  rw [if_neg (by decide), BitVec.getLsbD_and, BitVec.getLsbD_not]
  by_cases hi : i < w
  · simp [hi]
  · simp [BitVec.getLsbD_of_ge _ _ (not_lt.1 hi)]

theorem levelInForce_droops {s : State} {q : Nat} (h : s.power.droop.getLsbD q = true) :
    s.levelInForce q = max 8 s.power.throttle := if_pos h

theorem levelInForce_quiet {s : State} {q : Nat} (h : s.power.droop.getLsbD q = false) :
    s.levelInForce q = s.power.throttle := if_neg (by rw [h]; decide)

theorem levelInForce_congr {s t : State} {q : Nat} (hd : t.power.droop.getLsbD q = s.power.droop.getLsbD q)
    (ht : t.power.throttle = s.power.throttle) : t.levelInForce q = s.levelInForce q := by
  rw [State.levelInForce, State.levelInForce, hd, ht]

/-! ### The throttle level (R499, R500) -/

theorem tripC_of_dict {s t : State} (h : t.dict = s.dict) : t.tripC = s.tripC := by
  rw [State.tripC, State.setting, h]
  rfl

theorem hold_dict (s : State) (cause : Nat) : (s.hold cause).dict = s.dict :=
  (congrArg (fun u : State => u.dict) (hold_besidePower s cause) :)

/-- The state once the junction's temperature is sensed: at `trip_c` or above it forces Hold. -/
def State.junctionSensed (s : State) (tj : Nat) : State :=
  if s.tripC ≤ tj then (s.modPower (fun p => { p with tjMax := tj })).hold 3
  else s.modPower (fun p => { p with tjMax := tj })

theorem senseTj_eq (s : State) (tj : Nat) : s.senseTj tj = (s.junctionSensed tj).senseThermal.endTrip := rfl

theorem junctionSensed_tripC (s : State) (tj : Nat) : (s.junctionSensed tj).tripC = s.tripC := by
  refine tripC_of_dict ?_
  unfold State.junctionSensed
  split
  · exact hold_dict _ 3
  · rfl

/-- But for the causes of Hold, sensing the junction keeps its temperature and nothing else. -/
theorem junctionSensed_beside (s : State) (tj : Nat) : { (s.junctionSensed tj).power with
    holdWhy := s.power.holdWhy, pstate := s.power.pstate, holds := s.power.holds, memHot := s.power.memHot } =
      { s.power with tjMax := tj } := by
  unfold State.junctionSensed
  split
  · exact hold_beside (s.modPower (fun p => { p with tjMax := tj })) 3
  · rfl

/-- A trip that was not asserted does not end where the junction is sensed: below `trip_c` it is not asserted, and from
`trip_c` on the junction is too hot. -/
theorem senseTj_power {s : State} (h : s.power.holdWhy.getLsbD 3 = false) (tj : Nat) :
    (s.senseTj tj).power = (s.junctionSensed tj).power := by
  have hpower := senseThermal_power (s.junctionSensed tj)
  have htrip : (s.junctionSensed tj).senseThermal.tripC = s.tripC :=
    (tripC_of_dict (senseThermal_dict _)).trans (junctionSensed_tripC s tj)
  have htj : (s.junctionSensed tj).power.tjMax = tj := (congrArg Power.tjMax (junctionSensed_beside s tj) :)
  rw [senseTj_eq, ← hpower, State.endTrip, hpower, htrip, htj]
  by_cases hhot : s.tripC ≤ tj
  · have hwarm : decide (tj + 5 < s.tripC) = false := decide_eq_false (by omega)
    rw [hwarm, Bool.and_false, if_neg Bool.false_ne_true]
    exact hpower
  · have hout : (s.junctionSensed tj).senseThermal.power.holdWhy.getLsbD 3 = false := by
      rw [hpower, State.junctionSensed, if_neg hhot]
      exact h
    have hstays : (s.junctionSensed tj).senseThermal.unhold 3 = (s.junctionSensed tj).senseThermal :=
      if_pos (by rw [hout]; rfl)
    rw [hstays, ite_self]
    exact hpower

/-- The samples of an update. -/
def State.inputSensed (s : State) (vin w : Nat) : State :=
  let u := s.modPower (fun p => { p with
    vinMv := vin, pInW := w, samples := ((w, w * 1000000 / vin) :: p.samples).take 1000 })
  if 64000 ≤ vin ∧ vin ≤ 80000 then u.setLive srcVin false false else u

theorem inputSensed_power (s : State) (vin w : Nat) : (s.inputSensed vin w).power = { s.power with
    vinMv := vin, pInW := w, samples := ((w, w * 1000000 / vin) :: s.power.samples).take 1000 } := by
  unfold State.inputSensed
  split <;> rfl

theorem sensed_eq (s : State) (vin w tj : Nat) : Sensed s vin w tj = (s.inputSensed vin w).senseTj tj := rfl

/-- While no trip lasts, sensing leaves the level, and keeps what was sensed. -/
theorem sensed_power {s : State} (h : s.power.holdWhy.getLsbD 3 = false) (vin w tj : Nat) :
    (Sensed s vin w tj).power.throttle = s.power.throttle ∧ (Sensed s vin w tj).power.vinMv = vin ∧
      (Sensed s vin w tj).power.pInW = w ∧ (Sensed s vin w tj).power.tjMax = tj := by
  have hinput := inputSensed_power s vin w
  have hout : (s.inputSensed vin w).power.holdWhy.getLsbD 3 = false := by
    rw [hinput]
    exact h
  have hkept := junctionSensed_beside (s.inputSensed vin w) tj
  rw [← senseTj_power hout, ← sensed_eq] at hkept
  refine ⟨(congrArg Power.throttle hkept :).trans ?_, (congrArg Power.vinMv hkept :).trans ?_,
    (congrArg Power.pInW hkept :).trans ?_, (congrArg Power.tjMax hkept :)⟩
  all_goals rw [hinput]

/-- An update moves the level of the state that has been sensed. -/
theorem throttleUpdate_eq (s : State) (vin w tj : Nat) (exceeds : Bool) : s.throttleUpdate vin w tj exceeds =
    (let u := Sensed s vin w tj
     let n := u.nextThrottle (exceeds || u.overLimits)
     ((u.modPower (fun p => { p with
       throttle := n, capping := n != 0,
       cappedUs := if n == 0 then u.power.cappedUs else u.power.cappedUs + 10 })).drew 1).refreshSys) := by
  unfold State.throttleUpdate
  simp only [decide_eq_true_eq]
  rfl

section
variable {s : State} {asked : Bool}

theorem nextThrottle_rises (h : asked = true ∨ s.throttleC + 1 < s.power.tjMax) :
    s.nextThrottle asked = min 30 (s.power.throttle + 1 + s.free 0 % 4) :=
  if_pos (by simpa using h)

theorem nextThrottle_stays (ha : asked = false) (h : s.power.tjMax ≤ s.throttleC + 1)
    (hle : s.throttleC ≤ s.power.tjMax) : s.nextThrottle asked = s.power.throttle := by
  rw [State.nextThrottle, if_neg (by simp [ha, h]), if_pos hle]

theorem nextThrottle_falls (ha : asked = false) (h : s.power.tjMax < s.throttleC) :
    s.nextThrottle asked = s.power.throttle - s.free 0 % 5 := by
  have hcool : ¬ s.throttleC + 1 < s.power.tjMax := by omega
  rw [State.nextThrottle, if_neg (by simp [ha, hcool]), if_neg (not_le.2 h)]

/-- The level after an update, from a level within its range. -/
theorem nextThrottle_bounds (h30 : s.power.throttle ≤ 30) :
    s.nextThrottle asked ≤ 30 ∧ s.nextThrottle asked ≤ s.power.throttle + 4 ∧
      s.power.throttle ≤ s.nextThrottle asked + 4 ∧
      (s.power.throttle < s.nextThrottle asked → asked = true ∨ s.throttleC + 1 < s.power.tjMax) ∧
      (asked = true ∨ s.throttleC + 1 < s.power.tjMax →
        s.power.throttle < s.nextThrottle asked ∨ s.nextThrottle asked = 30) ∧
      (s.throttleC ≤ s.power.tjMax → s.power.throttle ≤ s.nextThrottle asked) := by
  by_cases hup : asked = true ∨ s.throttleC + 1 < s.power.tjMax
  · rw [nextThrottle_rises hup]
    exact ⟨by omega, by omega, by omega, fun _ => hup, fun _ => by omega, fun _ => by omega⟩
  · obtain ⟨ha, htj⟩ := not_or.1 hup
    have ha : asked = false := by simpa using ha
    rcases Nat.lt_or_ge s.power.tjMax s.throttleC with hlt | hge
    · rw [nextThrottle_falls ha hlt]
      exact ⟨by omega, by omega, by omega, fun _ => by omega, fun h => absurd h hup, fun _ => by omega⟩
    · rw [nextThrottle_stays ha (by omega) hge]
      exact ⟨h30, by omega, by omega, fun h => absurd h (lt_irrefl _), fun h => absurd h hup, fun _ => le_rfl⟩

end

/-- Settles O56: the level by what the sensed state asks for, droop by its quadrant, Idle, and an interval's energy. -/
theorem throttleAndEnergy : Obligations.ThrottleAndEnergy := by
  refine ⟨fun s vin w tj exceeds h30 h3 => ?_, fun s q hq => ?_, fun s => ⟨fun hp hq => ?_, fun h => ?_⟩,
    fun s e h => exec_energyInterval_none h e,
    fun s e h => ⟨_, exec_energyInterval_job h e, rfl, rfl, rfl, energy_conserved s e⟩⟩
  · obtain ⟨hlevel, hvin, hw, htj⟩ := sensed_power h3 vin w tj
    obtain ⟨hmax, hup, hdown, hrises, hasked, hkeeps⟩ := nextThrottle_bounds (s := Sensed s vin w tj)
      (asked := exceeds || (Sensed s vin w tj).overLimits) (by rw [hlevel]; exact h30)
    simp only [hlevel, htj, Bool.or_eq_true, or_assoc] at hup hdown hrises hasked hkeeps
    exact ⟨_, congrArg Host.Outcome.next (throttleUpdate_eq s vin w tj exceeds), hmax, hup, hdown,
      ⟨hrises, hasked, hkeeps⟩, hvin, hw, htj⟩
  · have hbit : (putBit s.power.droop q true).getLsbD q = true := (getLsbD_putBit_true _ _ hq).2 (.inr rfl)
    refine ⟨_, _, rfl, ?_, rfl, rfl, ?_, fun r hr => ?_⟩
    · exact (Nat.le_max_left _ _).trans (Nat.le_of_eq (levelInForce_droops hbit).symm)
    · exact levelInForce_quiet (getLsbD_putBit_false _ _)
    · exact levelInForce_congr ((getLsbD_putBit_other _ hr _).trans (getLsbD_putBit_other _ hr _)) rfl
  · exact congrArg Host.Outcome.next (if_pos (by rw [hp, hq]; rfl))
  · exact congrArg Host.Outcome.next (if_neg (by rcases h with h | h <;> simp [h]))

end Sys2Proof.Machine
end

section
/-!
Start-up, stages 0 to 4 (19 R429, R360, R370, R372; Table 19-1): the slots that boot, the links that begin to train, the
channels that are trained and those that stay in service after their pattern test.
-/

namespace Sys2Proof.Machine

/-! ### Stage 0: the boot chain (R428 to R430) -/

section
variable {s t : State} {target : Nat}

/-- A slot is valid by the partition's signer and fuses alone. -/
theorem slotValid_congr (hd : t.part.signerDigest = s.part.signerDigest) (hr : t.part.rollback = s.part.rollback)
    (fw : Firmware) : t.slotValid target fw = s.slotValid target fw := by
  cases fw with
  | empty => rfl
  | shipped => simp only [State.slotValid, hr]
  | image bs => simp only [State.slotValid, State.judgeImage, hd, hr]

theorem bootedSlot_congr (ha : activeSlot t.part target = activeSlot s.part target)
    (hf : ∀ n, t.firmware target n = s.firmware target n) (hd : t.part.signerDigest = s.part.signerDigest)
    (hr : t.part.rollback = s.part.rollback) (damaged : Nat) :
    t.bootedSlot target damaged = s.bootedSlot target damaged := by
  simp only [State.bootedSlot, ha, hf, slotValid_congr hd hr]

theorem firmware_of_part (h : t.part = s.part) (n : Nat) : t.firmware target n = s.firmware target n := by
  rw [State.firmware, State.firmware, h]

theorem bootedSlot_of_part (h : t.part = s.part) (damaged : Nat) :
    t.bootedSlot target damaged = s.bootedSlot target damaged :=
  bootedSlot_congr (by rw [h]) (firmware_of_part h) (by rw [h]) (by rw [h]) damaged

/-- The slot that boots is one of the two, and holds a valid image. -/
theorem bootedSlot_valid {damaged n : Nat} (h : s.bootedSlot target damaged = some n) :
    n < 2 ∧ s.slotValid target (s.firmware target n) = true := by
  obtain ⟨i, hi, rfl⟩ := Option.map_eq_some_iff.1 h
  have hfound := List.find?_some hi
  rw [Bool.and_eq_true] at hfound
  obtain ⟨-, hvalid⟩ := hfound
  exact ⟨Nat.mod_lt _ (by decide), hvalid⟩

/-- A valid image's counter is not below `rollback`. -/
theorem rollback_le_of_valid {bs : List Byte} (h : s.slotValid target (.image bs) = true) :
    s.part.rollback ≤ imageCounter bs := by
  by_contra hlt
  simp only [State.slotValid, State.judgeImage, if_pos (not_le.1 hlt)] at h
  repeat' split at h
  all_goals exact absurd h (by decide)

end

theorem restore_part (s : State) : s.restore.part = s.part := by
  unfold State.restore
  dsimp only
  split <;> rfl

theorem bootCause_part (s : State) (target slot : Nat) : (s.bootCause target slot).part = s.part := by
  unfold State.bootCause
  split <;> rfl

/-- The partition as its firmware has booted. -/
def State.spBooted (s : State) (f : Found) (sp : Nat) : State := (s.restore.bootCause 1 sp).bootSp f sp

theorem spBooted_part (s : State) (f : Found) (sp : Nat) : (s.spBooted f sp).part = { s.part with
    bootSlot := putBit s.part.bootSlot 1 (sp == 1), pendingSlot := putBit s.part.pendingSlot 1 (sp == 1),
    mSp := (s.firmware 1 sp).measure 1, ek := Config.mlkemKey (BitVec.ofNat 256 f.seed),
    ekSecret := BitVec.ofNat 256 f.seed } := by
  have hpart : (s.restore.bootCause 1 sp).part = s.part := (bootCause_part _ 1 sp).trans (restore_part s)
  unfold State.spBooted State.bootSp
  dsimp only
  rw [hpart, firmware_of_part hpart]

theorem spBooted_firmware (s : State) (f : Found) (sp n : Nat) :
    (s.spBooted f sp).firmware 0 n = s.firmware 0 n := by
  rw [State.firmware, State.firmware, spBooted_part]

/-- What the partition's boot changes does not bear on the main image. -/
theorem spBooted_bootedSlot (s : State) (f : Found) (sp damaged : Nat) :
    (s.spBooted f sp).bootedSlot 0 damaged = s.bootedSlot 0 damaged := by
  have hbit : (putBit s.part.pendingSlot 1 (sp == 1)).getLsbD 0 = s.part.pendingSlot.getLsbD 0 :=
    getLsbD_putBit_other _ (by decide) _
  refine bootedSlot_congr ?_ (spBooted_firmware s f sp) ?_ ?_ damaged
  · rw [activeSlot, activeSlot, spBooted_part, hbit]
  · rw [spBooted_part]
  · rw [spBooted_part]

section
variable {s : State} {f : Found} (hrom : f.romOk = true)
include hrom

theorem bootChain_noPartition (hsp : s.bootedSlot 1 f.spBoot = none) : s.bootChain f = s.restore.recovery true := by
  have h := (bootedSlot_of_part (target := 1) (restore_part s) f.spBoot).trans hsp
  rw [State.bootChain, if_neg (by rw [hrom]; decide)]
  simp only [h]

theorem bootChain_sp {sp : Nat} (hsp : s.bootedSlot 1 f.spBoot = some sp) :
    s.bootChain f = s.restore.bootMain f sp := by
  have h := (bootedSlot_of_part (target := 1) (restore_part s) f.spBoot).trans hsp
  rw [State.bootChain, if_neg (by rw [hrom]; decide)]
  simp only [h]

theorem bootChain_noMain {sp : Nat} (hsp : s.bootedSlot 1 f.spBoot = some sp)
    (hmain : s.bootedSlot 0 f.mainBoot = none) : s.bootChain f = (s.spBooted f sp).recovery false := by
  have h : ((s.restore.bootCause 1 sp).bootSp f sp).bootedSlot 0 f.mainBoot = none :=
    (spBooted_bootedSlot s f sp f.mainBoot).trans hmain
  rw [bootChain_sp hrom hsp, State.bootMain]
  simp only [h]
  rfl

theorem bootChain_boots {sp n : Nat} (hsp : s.bootedSlot 1 f.spBoot = some sp)
    (hmain : s.bootedSlot 0 f.mainBoot = some n) :
    s.bootChain f = ((s.spBooted f sp).bootCause 0 n).bootImage n := by
  have h : ((s.restore.bootCause 1 sp).bootSp f sp).bootedSlot 0 f.mainBoot = some n :=
    (spBooted_bootedSlot s f sp f.mainBoot).trans hmain
  rw [bootChain_sp hrom hsp, State.bootMain]
  simp only [h]
  rfl

/-- Without one of the two, recovery follows. -/
theorem bootChain_recovers (h : s.bootedSlot 1 f.spBoot = none ∨ s.bootedSlot 0 f.mainBoot = none) :
    (s.bootChain f).startUp.stage = 0xFF ∧ (s.bootChain f).part.spState = 1 := by
  cases hsp : s.bootedSlot 1 f.spBoot with
  | none =>
    rw [bootChain_noPartition hrom hsp]
    exact ⟨rfl, rfl⟩
  | some sp =>
    rw [bootChain_noMain hrom hsp (h.resolve_left (by rw [hsp]; exact nofun))]
    exact ⟨rfl, rfl⟩

theorem bootChain_measures {sp n : Nat} (hsp : s.bootedSlot 1 f.spBoot = some sp)
    (hmain : s.bootedSlot 0 f.mainBoot = some n) : (s.bootChain f).startUp.stage = 1 ∧
    (s.bootChain f).part.bootSlot = putBit (putBit s.part.bootSlot 1 (sp == 1)) 0 (n == 1) ∧
    (s.bootChain f).part.mSp = (s.firmware 1 sp).measure 1 ∧
    (s.bootChain f).part.mMain = (s.firmware 0 n).measure 0 := by
  have hpart := (bootCause_part (s.spBooted f sp) 0 n).trans (spBooted_part s f sp)
  have hfirmware := firmware_of_part (target := 0) (bootCause_part (s.spBooted f sp) 0 n) n
  rw [spBooted_firmware] at hfirmware
  rw [bootChain_boots hrom hsp hmain]
  unfold State.bootImage
  dsimp only
  rw [hfirmware, hpart]
  exact ⟨rfl, rfl, rfl, rfl⟩

end

/-! ### Stage 1: links and ports begin to train -/

theorem movePort_startUp (s : State) (p : Nat) (f : PeerPort → PeerPort) : (s.movePort p f).startUp = s.startUp := by
  unfold State.movePort
  dsimp only
  split <;> rfl

theorem movePort_link (s : State) (p : Nat) (f : PeerPort → PeerPort) : (s.movePort p f).link = s.link := by
  unfold State.movePort
  dsimp only
  split <;> rfl

theorem foldl_movePort (c : State → Nat → Bool) (f : PeerPort → PeerPort) (l : List Nat) (s : State) :
    (l.foldl (fun s p => if c s p then s.movePort p f else s) s).startUp = s.startUp ∧
      (l.foldl (fun s p => if c s p then s.movePort p f else s) s).link = s.link := by
  refine foldl_keeps (P := fun t => t.startUp = s.startUp ∧ t.link = s.link) ⟨rfl, rfl⟩ (fun t p ht => ?_)
  obtain ⟨hstart, hlink⟩ := ht
  split
  · exact ⟨(movePort_startUp t p f).trans hstart, (movePort_link t p f).trans hlink⟩
  · exact ⟨hstart, hlink⟩

theorem beginTraining_begins (s : State) : s.beginTraining.startUp.stage = 2 ∧
    (s.link.state = 0 → s.beginTraining.link.state = 1) := by
  have hkept := foldl_movePort (fun s p => s.portTrains p && (s.port p).state == 0) (fun x => { x with state := 1 })
    (List.range 8) (({ s with startUp := { s.startUp with stage := 2 } }).modLink
      (fun l => { l with state := if l.state == 0 then 1 else l.state }))
  unfold State.beginTraining
  dsimp only at hkept ⊢
  obtain ⟨hstart, hlink⟩ := hkept
  rw [hstart, hlink]
  refine ⟨rfl, fun h0 => ?_⟩
  show (if s.link.state == 0 then 1 else s.link.state) = 1
  rw [h0]
  rfl

/-! ### Stage 2: channels are trained (R360, R370, R372) -/

theorem vGet_mapFinIdx {α β : Type} {n : Nat} (v : Vector α n) (g : (i : Nat) → α → i < n → β) {i : Nat}
    (hi : i < n) (d : β) : vGet (v.mapFinIdx g) i d = g i v[i] hi := by
  simp [vGet, hi]

theorem endTraining_waits {s : State} (h : s.linkUp = false) (f : Found) : s.endTraining f = s :=
  if_pos (by rw [h]; rfl)

theorem endTraining_trains {s : State} (h : s.linkUp = true) (f : Found) : (s.endTraining f).startUp.stage = 3 ∧
    ∀ c, c < 192 → (((s.endTraining f).channel c).trained = true ↔
      s.retiring c = false ∧ c ∉ f.failed ∧ c / 8 ∉ f.mismatch) := by
  have hup : ¬ (!s.linkUp) = true := by rw [h]; decide
  rw [State.endTraining, if_neg hup]
  refine ⟨rfl, fun c hc => ?_⟩
  rw [State.channel, vGet_mapFinIdx _ _ hc]
  simp [and_assoc]

/-! ### Stage 3: suspect channels are tested (R366, R370) -/

/-- A bit that is set and taken off leaves the others as they were. -/
theorem testBit_sub_two_pow {x i j : Nat} (hi : x.testBit i = true) (hj : j ≠ i) :
    (x - 2 ^ i).testBit j = x.testBit j := by
  have hbit : x / 2 ^ i % 2 = 1 := by rwa [Nat.testBit_eq_decide_div_mod_eq, decide_eq_true_eq] at hi
  have hlow : x % 2 ^ (i + 1) = 2 ^ i + x % 2 ^ i := by
    rw [Nat.mod_pow_succ, hbit, Nat.mul_one, Nat.add_comm]
  have hlt : x % 2 ^ i < 2 ^ i := Nat.mod_lt _ (Nat.two_pow_pos i)
  have hsplit : 2 ^ (i + 1) * (x / 2 ^ (i + 1)) + (2 ^ i + x % 2 ^ i) = x := by
    rw [← hlow, Nat.div_add_mod]
  have hsub : x - 2 ^ i = 2 ^ (i + 1) * (x / 2 ^ (i + 1)) + x % 2 ^ i := by omega
  have hpow : 2 ^ (i + 1) = 2 ^ i + 2 ^ i := by rw [pow_succ]; omega
  conv_rhs => rw [← hsplit]
  rw [hsub, Nat.testBit_two_pow_mul_add _ (by omega), Nat.testBit_two_pow_mul_add _ (by omega)]
  split
  · rw [Nat.testBit_two_pow_add_gt (by omega)]
  · rfl

theorem setting_putPersistent_same (s : State) (i x v : Nat) : (s.putPersistent i x v).setting i x = v :=
  setting_putSetting_same s i x v

theorem setting_putPersistent_other (s : State) {i x y : Nat} (h : y ≠ x) (v : Nat) :
    (s.putPersistent i x v).setting i y = s.setting i y :=
  lookupD_insertKey_other _ (fun e => h (congrArg Prod.snd e)) _ _

/-- A channel that the start-up takes out of service. -/
def State.takenOut (s : State) (f : Found) (h : Nat) : Bool := s.channelBit 11 h && s.patternFails f h

/-- `u` is `s` once the channels below `n` were tested. -/
structure Tested (f : Found) (s u : State) (n : Nat) : Prop where
  tested (h : Nat) : h < n →
    ((u.channel h).trained = true ↔ (s.channel h).trained = true ∧ s.takenOut f h = false)
  untested (h : Nat) : n ≤ h → u.channel h = s.channel h
  bits (h : Nat) : n ≤ h → u.channelBit 11 h = s.channelBit 11 h
  limit : u.setting 0x2400 6 = s.setting 0x2400 6

section
variable {f : Found} {s u : State} {n : Nat}

/-- What may change when a channel is tested: its own `trained`, and its own bit. -/
theorem testSuspect_effect (hn : n < 192) :
    ((State.testSuspect f u n).channel n).trained = ((u.channel n).trained && !u.takenOut f n) ∧
      (∀ h, h ≠ n → (State.testSuspect f u n).channel h = u.channel h) ∧
      (∀ h, h ≠ n → (State.testSuspect f u n).channelBit 11 h = u.channelBit 11 h) ∧
      (State.testSuspect f u n).setting 0x2400 6 = u.setting 0x2400 6 := by
  by_cases hsuspect : (u.channel n).trained = true ∧ u.channelBit 11 n = true
  · obtain ⟨htrained, hbit⟩ := hsuspect
    cases hfails : u.patternFails f n with
    | true =>
      have hout : State.testSuspect f u n = u.modChannel n (fun c => { c with trained := false }) := by
        rw [State.testSuspect, if_neg (by simp [htrained, hbit]), if_pos hfails]
      rw [hout, channel_modChannel_same hn]
      refine ⟨?_, fun h hh => channel_modChannel_other hh _, fun h _ => rfl, rfl⟩
      simp [State.takenOut, hbit, hfails]
    | false =>
      have hclear : State.testSuspect f u n = u.putPersistent 0x2400 (11 + channelQuadrant n)
          (u.setting 0x2400 (11 + channelQuadrant n) - 2 ^ (n % 48)) := by
        rw [State.testSuspect, if_neg (by simp [htrained, hbit]), if_neg (by rw [hfails]; decide)]
      rw [hclear]
      refine ⟨?_, fun h _ => rfl, fun h hh => ?_, setting_putPersistent_other _ (by omega) _⟩
      · show (u.channel n).trained = _
        simp [State.takenOut, hfails]
      · unfold State.channelBit
        by_cases hq : channelQuadrant h = channelQuadrant n
        · rw [hq, setting_putPersistent_same]
          refine testBit_sub_two_pow hbit ?_
          unfold channelQuadrant at hq
          omega
        · rw [setting_putPersistent_other _ (by omega)]
  · have hstays : State.testSuspect f u n = u := by
      refine if_pos ?_
      rw [Bool.not_eq_true', ← Bool.not_eq_true, Bool.and_eq_true]
      exact hsuspect
    rw [hstays]
    refine ⟨?_, fun h _ => rfl, fun h _ => rfl, rfl⟩
    cases htrained : (u.channel n).trained with
    | false => rfl
    | true =>
      have hquiet : u.channelBit 11 n = false := by simpa [htrained] using hsuspect
      simp [State.takenOut, hquiet]

theorem takenOut_congr (hbit : u.channelBit 11 n = s.channelBit 11 n)
    (hlimit : u.setting 0x2400 6 = s.setting 0x2400 6) : u.takenOut f n = s.takenOut f n := by
  rw [State.takenOut, State.takenOut, State.patternFails, State.patternFails, hbit, hlimit]

theorem Tested.next (h : Tested f s u n) (hn : n < 192) : Tested f s (State.testSuspect f u n) (n + 1) := by
  obtain ⟨htested, huntested, hbits, hlimit⟩ := h
  obtain ⟨hown, hother, hbit, hset⟩ := testSuspect_effect (f := f) (u := u) hn
  refine ⟨fun g hg => ?_, fun g hg => (hother g (by omega)).trans (huntested g (by omega)),
    fun g hg => (hbit g (by omega)).trans (hbits g (by omega)), hset.trans hlimit⟩
  by_cases hgn : g = n
  · subst hgn
    rw [hown, huntested g le_rfl, takenOut_congr (hbits g le_rfl) hlimit]
    simp
  · rw [hother g hgn]
    exact htested g (by omega)

theorem tested_foldl (f : Found) (s : State) : ∀ n, n ≤ 192 →
    Tested f s ((List.range n).foldl (State.testSuspect f) s) n
  | 0, _ => ⟨fun h hh => absurd hh (Nat.not_lt_zero h), fun _ _ => rfl, fun _ _ => rfl, rfl⟩
  | n + 1, hn => by
    rw [List.range_succ, List.foldl_append]
    exact (tested_foldl f s n (by omega)).next (by omega)

end

theorem testSuspects_tests (s : State) (f : Found) : (s.testSuspects f).startUp.stage = 4 ∧
    ∀ h, h < 192 → (((s.testSuspects f).channel h).trained = true ↔
      (s.channel h).trained = true ∧ ¬ (s.channelBit 11 h = true ∧ s.patternFails f h = true)) := by
  have htested := tested_foldl f s 192 le_rfl
  unfold State.testSuspects
  generalize (List.range 192).foldl (State.testSuspect f) s = u at htested ⊢
  refine ⟨rfl, fun h hh => (htested.tested h hh).trans ?_⟩
  rw [State.takenOut, ← Bool.not_eq_true, Bool.and_eq_true]

/-! ### Stage 4: the capability record, and fuses (R29, R430) -/

theorem commitFuses_effect (s : State) (fw : Firmware) : (s.commitFuses fw).cap = s.cap ∧
    (s.commitFuses fw).startUp = s.startUp ∧ s.part.rollback ≤ (s.commitFuses fw).part.rollback := by
  unfold State.commitFuses
  split
  · split
    · next hcommit =>
      split
      · exact ⟨rfl, rfl, le_rfl⟩
      · rw [Bool.and_eq_true, decide_eq_true_eq] at hcommit
        obtain ⟨-, hlt⟩ := hcommit
        exact ⟨rfl, rfl, hlt.le⟩
    · exact ⟨rfl, rfl, le_rfl⟩
  · exact ⟨rfl, rfl, le_rfl⟩

theorem fixCapability_fixes (s : State) (f : Found) : (s.fixCapability f).startUp.stage = 5 ∧
    (s.fixCapability f).cap = s.findCapability f ∧ s.part.rollback ≤ (s.fixCapability f).part.rollback := by
  unfold State.fixCapability
  dsimp only
  split
  · obtain ⟨hcap, hstart, hfuse⟩ := commitFuses_effect (State.commitFuses _ _) _
    obtain ⟨hcap', hstart', hfuse'⟩ := commitFuses_effect _ _
    rw [hstart, hcap, hstart', hcap']
    exact ⟨rfl, rfl, hfuse'.trans hfuse⟩
  · exact ⟨rfl, rfl, le_rfl⟩

end Sys2Proof.Machine
end

section
/-!
Start-up, stages 5 to 7 (19 R509 to R513, Table 19-1): the report and the lines that stage 5 waits for, the default job
and the beginning of service; and the stages in order.
-/

namespace Sys2Proof.Machine

/-! ### Stage 5: the report (R513) -/

section
variable {s : State} {f : Found}

theorem placeReport_none (h : s.setting 0x11C0 4 = 0) : s.placeReport f = s := if_pos h

theorem placeReport_unfit (h0 : s.setting 0x11C0 4 ≠ 0) (h : s.reportFits (s.setting 0x11C0 4) = false) :
    s.placeReport f = { s with startUp := { s.startUp with suWritten := 2 } } := by
  unfold State.placeReport
  dsimp only
  rw [if_neg h0, if_neg (by rw [h]; decide)]

theorem placeReport_fits (h0 : s.setting 0x11C0 4 ≠ 0) (h : s.reportFits (s.setting 0x11C0 4) = true) :
    (s.placeReport f).startUp = { s.startUp with report := some (newWrites s (s.placeReport f)) } ∧
      (s.placeReport f).t2 = (s.writeT2 (s.setting 0x11C0 4) (s.startReport f)).t2 := by
  obtain ⟨t, ht⟩ : ∃ t, t = s.writeT2 (s.setting 0x11C0 4) (s.startReport f) := ⟨_, rfl⟩
  have hplace : ∃ tiers, s.placeReport f =
      { t with startUp := { s.startUp with report := some (newWrites s t) }, tiers := tiers } := by
    unfold State.placeReport
    dsimp only
    rw [if_neg h0, if_pos h, ← ht]
    exact ⟨_, rfl⟩
  obtain ⟨tiers, hplace⟩ := hplace
  have hwrites : newWrites s (s.placeReport f) = newWrites s t := by rw [newWrites, newWrites, hplace]
  rw [hwrites, hplace, ← ht]
  exact ⟨rfl, rfl⟩

/-- The end of stage 5: stage 6 where the base set is there, and stage 0xFE else. -/
theorem endReport_effect (s : State) (f : Found) :
    (s.endReport f).startUp.stage = (if s.cap.base then 6 else 0xFE) ∧ (s.endReport f).t2 = s.t2 ∧
      (s.endReport f).startUp.suWritten = s.startUp.suWritten ∧
      (s.endReport f).startUp.report = s.startUp.report := by
  unfold State.endReport
  split
  · exact ⟨rfl, rfl, rfl, rfl⟩
  · exact ⟨rfl, rfl, rfl, rfl⟩

theorem writeReport_unwritten (h : s.startUp.report = none) (hr : (s.placeReport f).startUp.report = none) :
    s.writeReport f = (s.placeReport f).endReport f := by
  unfold State.writeReport
  simp only [h, hr]
  exact if_neg (by decide)

theorem writeReport_written (h : s.startUp.report = none) {ws : List U16}
    (hr : (s.placeReport f).startUp.report = some ws) : s.writeReport f = s.placeReport f := by
  unfold State.writeReport
  simp only [h, hr]
  exact if_pos rfl

/-- No report is written where none is asked for, or where none fits. -/
theorem writeReport_skips (h : s.startUp.report = none)
    (ha : s.setting 0x11C0 4 = 0 ∨ s.reportFits (s.setting 0x11C0 4) = false) :
    (s.writeReport f).startUp.stage = (if s.cap.base then 6 else 0xFE) ∧ (s.writeReport f).t2 = s.t2 ∧
      (s.writeReport f).startUp.suWritten = (if s.setting 0x11C0 4 = 0 then s.startUp.suWritten else 2) := by
  obtain ⟨hstage, ht2, hwritten, -⟩ := endReport_effect (s.placeReport f) f
  by_cases h0 : s.setting 0x11C0 4 = 0
  · have hplace := placeReport_none (f := f) h0
    rw [writeReport_unwritten h (by rw [hplace]; exact h), hstage, ht2, hwritten, if_pos h0, hplace]
    exact ⟨rfl, rfl, rfl⟩
  · have hplace := placeReport_unfit (f := f) h0 (ha.resolve_left h0)
    rw [writeReport_unwritten h (by rw [hplace]; exact h), hstage, ht2, hwritten, if_neg h0, hplace]
    exact ⟨rfl, rfl, rfl⟩

theorem writeReport_places (h : s.startUp.report = none) (h0 : s.setting 0x11C0 4 ≠ 0)
    (hfits : s.reportFits (s.setting 0x11C0 4) = true) :
    (s.writeReport f).startUp.stage = s.startUp.stage ∧
      (s.writeReport f).startUp.report = some (newWrites s (s.writeReport f)) ∧
      (s.writeReport f).t2 = (s.writeT2 (s.setting 0x11C0 4) (s.startReport f)).t2 := by
  obtain ⟨hstart, ht2⟩ := placeReport_fits (f := f) h0 hfits
  rw [writeReport_written h (congrArg StartUp.report hstart)]
  exact ⟨(congrArg StartUp.stage hstart :), (congrArg StartUp.report hstart :), ht2⟩

theorem writeReport_awaits {ws : List U16} (h : s.startUp.report = some ws) (hw : ∃ w ∈ ws, w ∈ s.link.writes) :
    s.writeReport f = s := by
  unfold State.writeReport
  simp only [h]
  exact if_pos (by simpa using hw)

theorem writeReport_acknowledged {ws : List U16} (h : s.startUp.report = some ws)
    (hw : ∀ w ∈ ws, w ∉ s.link.writes) : s.writeReport f =
      ({ s with startUp := { s.startUp with report := none, suWritten := 1 } }).endReport f := by
  unfold State.writeReport
  simp only [h]
  exact if_neg (by simpa using hw)

end

/-! ### Stages 6 and 7: service begins (R249, R339) -/

/-- The stage, the memory mode and the job's state. -/
def State.serviceView (s : State) : Nat × Nat × Nat := (s.startUp.stage, s.tiers.mode, s.job.state)

theorem serviceView_of_besideLink {s t : State} (h : t.besideLink = s.besideLink) : t.serviceView = s.serviceView :=
  (congrArg State.serviceView h :)

theorem enableCmd_serviceView (s : State) (n : Nat) : (s.enableCmd n).serviceView = s.serviceView :=
  (serviceView_of_besideLink (enableCmd_besideLink s n)).trans rfl

theorem enableCq_serviceView (s : State) (n : Nat) : (s.enableCq n).serviceView = s.serviceView :=
  (serviceView_of_besideLink (enableCq_besideLink s n)).trans rfl

theorem tryPair_serviceView (s : State) : s.tryPair.serviceView = s.serviceView := by
  unfold State.tryPair
  split <;> rfl

theorem judgePort_job (s : State) (p : Nat) : (s.judgePort p).job = s.job := by
  have hdrop (t : State) : (if t.nbrInJob p then t
      else t.modPort p (fun x => { x with balance := 0, report := none })).job = t.job := by
    split <;> rfl
  obtain ⟨hjob, -, -⟩ := movePort_beside s p (fun x => { x with state := if s.portForeign p then 3 else 2 })
  unfold State.judgePort
  dsimp only
  by_cases h : ((s.port p).state == 2 || (s.port p).state == 3) = true
  · rw [if_pos h, hdrop, hjob]
  · rw [if_neg h]

theorem advertise_job (s : State) (p : Nat) : (s.advertise p).job = s.job := by
  unfold State.advertise
  split <;> rfl

theorem reportJob_job (s : State) : s.reportJob.job = s.job :=
  foldl_keeps (P := fun t => t.job = s.job) rfl (fun t p h => (advertise_job _ p).trans ((judgePort_job t p).trans h))

theorem installJob_state (s : State) (state : Nat) (m : Manifest) : (s.installJob state m).job.state = state := by
  unfold State.installJob
  dsimp only
  rw [reportJob_job]
  rfl

theorem modSlot_job (s : State) (i : Nat) (g : IndexSlot → IndexSlot) : (s.modSlot i g).job = s.job := rfl

theorem loadDefaultJob_state (s : State) : s.loadDefaultJob.job.state = 1 := by
  unfold State.loadDefaultJob
  dsimp only
  rw [modSlot_job, installJob_state]

theorem beginService_serviceView (s : State) (f : Found) : (s.beginService f).serviceView = (7, 0, 1) := by
  have hcmd (t : State) (c : Bool) : (if c then t.enableCmd 0 else t).serviceView = t.serviceView := by
    split
    · exact enableCmd_serviceView t 0
    · rfl
  have hcq (t : State) (c : Bool) : (if c then t.enableCq 0 else t).serviceView = t.serviceView := by
    split
    · exact enableCq_serviceView t 0
    · rfl
  have hjob := loadDefaultJob_state s
  unfold State.beginService
  generalize s.loadDefaultJob = t at hjob ⊢
  dsimp only
  rw [tryPair_serviceView, hcq, hcmd, State.serviceView, hjob]

/-! ### The stages in order -/

section
variable {s : State} {f : Found}

theorem startUpStage_stays (h : s.faulted = true ∨ s.held = true ∨ s.startUp.halted = true) :
    s.startUpStage f = s :=
  if_pos (by rcases h with h | h | h <;> simp [h])

/-- The work of a stage. -/
def State.stageWork (s : State) (f : Found) (stage : Nat) : State :=
  match stage with
  | 0 => s.bootChain f
  | 1 => s.beginTraining
  | 2 => s.endTraining f
  | 3 => s.testSuspects f
  | 4 => s.fixCapability f
  | 5 => s.writeReport f
  | 6 => s.beginService f
  | _ => s

/-- What START_UP_STAGE does where nothing holds start-up. -/
theorem exec_startUpStage (hf : s.faulted = false) (hheld : s.held = false) (hhalted : s.startUp.halted = false)
    {stage : Nat} (h : s.startUp.stage = stage) : exec (.startUpStage f) s = .next (s.stageWork f stage) := by
  subst h
  refine congrArg Host.Outcome.next ((if_neg (by simp [hf, hheld, hhalted])).trans ?_)
  rcases s.startUp.stage with _ | _ | _ | _ | _ | _ | _ | _ <;> rfl

theorem stageWork_service {stage : Nat} (h : 7 ≤ stage) : s.stageWork f stage = s := by
  obtain ⟨k, rfl⟩ := Nat.exists_eq_add_of_le' h
  rfl

/-- Stage 0 runs the boot chain, which ends at stage 1 or at recovery. -/
theorem bootChain_effect (hrom : f.romOk = true) :
    (s.bootChain f).startUp.stage =
        (if s.bootedSlot 1 f.spBoot = none ∨ s.bootedSlot 0 f.mainBoot = none then 0xFF else 1) ∧
      (s.bootedSlot 1 f.spBoot = none ∨ s.bootedSlot 0 f.mainBoot = none → (s.bootChain f).part.spState = 1) ∧
      (∀ m p, s.bootedSlot 1 f.spBoot = some p → s.bootedSlot 0 f.mainBoot = some m →
        (s.bootChain f).part.bootSlot = putBit (putBit s.part.bootSlot 1 (p == 1)) 0 (m == 1) ∧
        (s.bootChain f).part.mSp = (s.firmware 1 p).measure 1 ∧
        (s.bootChain f).part.mMain = (s.firmware 0 m).measure 0) := by
  refine ⟨?_, fun hrec => ?_, fun m p hp hm => ?_⟩
  · by_cases hrec : s.bootedSlot 1 f.spBoot = none ∨ s.bootedSlot 0 f.mainBoot = none
    · obtain ⟨hstage, -⟩ := bootChain_recovers hrom hrec
      rw [if_pos hrec, hstage]
    · obtain ⟨hsp, hmain⟩ := not_or.1 hrec
      obtain ⟨p, hp⟩ := Option.ne_none_iff_exists'.1 hsp
      obtain ⟨m, hm⟩ := Option.ne_none_iff_exists'.1 hmain
      obtain ⟨hstage, -⟩ := bootChain_measures hrom hp hm
      rw [if_neg hrec, hstage]
  · obtain ⟨-, hsp⟩ := bootChain_recovers hrom hrec
    exact hsp
  · obtain ⟨-, hboots⟩ := bootChain_measures hrom hp hm
    exact hboots

theorem bootChain_halts (hrom : f.romOk = false) :
    s.bootChain f = { s with startUp := { s.startUp with halted := true } } :=
  if_pos (by rw [hrom]; rfl)

/-- The lines of the report are acknowledged: it is written, and stage 5 ends. -/
theorem writeReport_ends {ws : List U16} (h : s.startUp.report = some ws) (hw : ∀ w ∈ ws, w ∉ s.link.writes) :
    (s.writeReport f).startUp.suWritten = 1 ∧ (s.writeReport f).startUp.report = none ∧
      (s.writeReport f).startUp.stage = (if s.cap.base then 6 else 0xFE) := by
  obtain ⟨hstage, -, hwritten, hreport⟩ :=
    endReport_effect { s with startUp := { s.startUp with report := none, suWritten := 1 } } f
  rw [writeReport_acknowledged h hw]
  exact ⟨hwritten, hreport, hstage⟩

theorem beginService_begins (s : State) (f : Found) : (s.beginService f).startUp.stage = 7 ∧
    (s.beginService f).tiers.mode = 0 ∧ (s.beginService f).job.state = 1 := by
  have hview := beginService_serviceView s f
  rw [State.serviceView, Prod.mk.injEq, Prod.mk.injEq] at hview
  exact hview

end

/-- Settles O58: what holds start-up, and the work of each stage. -/
theorem startUpOrder : Obligations.StartUpOrder := by
  refine ⟨fun s f h => congrArg Host.Outcome.next (startUpStage_stays h), fun s f hf hheld hhalted => ?_⟩
  have hrun {stage : Nat} (h : s.startUp.stage = stage) :
      exec (.startUpStage f) s = .next (s.stageWork f stage) := exec_startUpStage hf hheld hhalted h
  refine ⟨fun h hrom => ?_, fun h hrom => ?_, fun target damaged n h => ?_, fun h => ?_, fun h hup => ?_,
    fun h hup => ?_, fun h => ?_, fun h => ?_, fun h hr => ?_, fun ws h hr => ?_, fun h => ?_, fun h => ?_⟩
  · rw [hrun h, State.stageWork, bootChain_halts hrom]
  · rw [hrun h, State.stageWork]
    exact ⟨_, rfl, bootChain_effect hrom⟩
  · obtain ⟨hlt, hvalid⟩ := bootedSlot_valid h
    exact ⟨hlt, fun bs hbs => rollback_le_of_valid (hbs ▸ hvalid)⟩
  · rw [hrun h, State.stageWork]
    exact ⟨_, rfl, beginTraining_begins s⟩
  · rw [hrun h, State.stageWork, endTraining_waits hup]
  · rw [hrun h, State.stageWork]
    exact ⟨_, rfl, endTraining_trains hup f⟩
  · rw [hrun h, State.stageWork]
    exact ⟨_, rfl, testSuspects_tests s f⟩
  · rw [hrun h, State.stageWork]
    exact ⟨_, rfl, fixCapability_fixes s f⟩
  · rw [hrun h, State.stageWork]
    refine ⟨fun ha => ⟨_, rfl, writeReport_skips hr ha⟩, fun h0 hfits => ?_⟩
    obtain ⟨hstage, hplaced⟩ := writeReport_places (f := f) hr h0 hfits
    exact ⟨_, rfl, hstage.trans h, hplaced⟩
  · rw [hrun h, State.stageWork]
    exact ⟨fun hw => congrArg Host.Outcome.next (writeReport_awaits hr hw),
      fun hw => ⟨_, rfl, writeReport_ends hr hw⟩⟩
  · rw [hrun h, State.stageWork]
    exact ⟨_, rfl, beginService_begins s f⟩
  · rw [hrun rfl, stageWork_service h]

end Sys2Proof.Machine
end
